-- ==== Sys2Proof/Word.lean ====
section
/-! DEFINITION. The word types of the Brixzar 9 model and their plainest arithmetic (spec/00_scope.md R3, R4). -/

namespace Sys2Proof

/-- A byte of any memory space. -/
abbrev Byte := BitVec 8

/-- The 32-bit content of one vector or uniform register (R27, R29). -/
abbrev Word := BitVec 32

/-- The content of a register pair, and the width of an address (R27, R85). -/
abbrev DWord := BitVec 64

/-- The widest value one lane moves: the four registers of a `.b128` access (R244). -/
abbrev QWord := BitVec 128

/-- The low word of a pair. -/
def loWord (x : DWord) : Word := x.extractLsb' 0 32

/-- The high word of a pair. -/
def hiWord (x : DWord) : Word := x.extractLsb' 32 32

/-- `vN` holds bits [31:0] of the pair and `vN+1` bits [63:32] (R27). -/
def pairOf (lo hi : Word) : DWord := hi ++ lo

end Sys2Proof
end

