-- ==== Sys2Proof/Machine/Bits.lean ====
section
/-! DEFINITION. Bit fields, extensions and byte order (spec/00_scope.md R3, R4, R10). -/

namespace Sys2Proof

/-- Bits [hi:lo] of `x` as a natural number (R3, R10 `Bits`). -/
def bits (x hi lo : Nat) : Nat := x / 2 ^ lo % 2 ^ (hi + 1 - lo)

/-- Bit `n` of `x` (R3). -/
def bitAt (x n : Nat) : Bool := x / 2 ^ n % 2 == 1

/-- The integer whose `n`-bit two's-complement form is the low `n` bits of `x` (R10 `SignExt`). -/
def sext (x n : Nat) : Int :=
  let r := x % 2 ^ n
  if r < 2 ^ (n - 1) then (r : Int) else (r : Int) - (2 ^ n : Nat)

/-- The low `n` bits of the two's-complement form of `i` (R10 `ZeroExt`). -/
def zext (i : Int) (n : Nat) : Nat := (i % ((2 ^ n : Nat) : Int)).toNat

/-- Number of ones among the low `n` bits of `x`. -/
def countOnes (x : Nat) : Nat → Nat
  | 0 => 0
  | n + 1 => countOnes x n + (if bitAt x n then 1 else 0)

/-- Even parity bit of a 32-bit word: 1 exactly when it holds an odd number of ones (R151). -/
def oddParity (x : Nat) (n : Nat) : Bool := countOnes x n % 2 == 1

/-- The little-endian number that a list of bytes holds (R4). -/
def ofBytesLE : List Byte → Nat
  | [] => 0
  | b :: bs => b.toNat + 256 * ofBytesLE bs

/-- The `n` little-endian bytes of a number (R4). -/
def toBytesLE (x : Nat) : Nat → List Byte
  | 0 => []
  | n + 1 => BitVec.ofNat 8 x :: toBytesLE (x / 256) n

/-- The smallest multiple of `m` that is at least `x`. -/
def alignUp (x m : Nat) : Nat := (x + m - 1) / m * m

/-- Whether the closed-open ranges [a, a+n) and [b, b+m) share an address. -/
def overlap (a n b m : Nat) : Bool := a < b + m && b < a + n && 0 < n && 0 < m

/-- 64 KiB chunks of a transfer (spec/05 R149). -/
def chunkCount (n : Nat) : Nat := (n + 65535) / 65536

end Sys2Proof
end

