-- ==== Sys2Proof/Syntax/Operands.lean ====
section
/-! DEFINITION. The operands and modifiers that instructions are built from
(spec/06_encoding.md R156 to R169, spec/07, spec/08, spec/09), and the parameters of the events of
spec/opcode_table.json. -/

namespace Sys2Proof

/-- A source field (R160): a vector register or predicate number, a uniform register, a latch, or an 8-bit immediate.
An unused source is `.v 0`, the all-zero field (R165). -/
inductive Src where
  | v (n : Nat)
  | g (n : Nat)
  | l (n : Nat)
  | imm (b : Nat)
  deriving DecidableEq, Repr, Inhabited

/-- The destination class and number (R158). `.none` is the `_` destination or no destination. -/
inductive Dst where
  | v (n : Nat)
  | p (n : Nat)
  | g (n : Nat)
  | none
  deriving DecidableEq, Repr, Inhabited

/-- The guard of an operation (R157): it executes when the predicate is 1, or 0 when negated. -/
structure Guard where
  neg : Bool := false
  p : Nat := 0
  deriving DecidableEq, Repr, Inhabited

/-- The type codes of R173; untyped instructions carry code 0. -/
inductive Ty where
  | b32 | s32 | n32 | f32 | bf16x2 | f16x2 | s16x2 | n16x2 | s64 | n64 | b64 | s8x4 | n8x4 | b1
  deriving DecidableEq, Repr, Inhabited

/-- The common fields of a full-format operation (R156) beside its opcode, modifiers and extension. -/
structure Op where
  guard : Guard := default
  dst : Dst := .none
  wide : Bool := false
  d2 : Nat := 0
  ty : Ty := .b32
  a : Src := .v 0
  b : Src := .v 0
  c : Src := .v 0
  deriving DecidableEq, Repr, Inhabited

/-- The fields of a compact half (R168); `sat` is `CMOD`[0]. -/
structure COp where
  guard : Guard := default
  dst : Nat := 0
  ty : Ty := .b32
  a : Src := .v 0
  b : Src := .v 0
  sat : Bool := false
  deriving DecidableEq, Repr, Inhabited

/-- A control-flow target (R167): a signed displacement in fetch lines and a slot. -/
structure Target where
  disp : BitVec 27
  slot : Nat
  deriving DecidableEq, Repr, Inhabited

/-- `.sat`, `.cw` and `.cr` of `add` and `sub` (R197). -/
structure AddMods where
  sat : Bool := false
  cw : Bool := false
  cr : Bool := false
  deriving DecidableEq, Repr, Inhabited

/-- Combiner of a compare with a third predicate (R206, R231). -/
inductive Comb where
  | none | and | or | xor
  deriving DecidableEq, Repr, Inhabited

/-- Conditions of `cmp` (R206). -/
inductive Cond where
  | eq | ne | lt | le | gt | ge
  deriving DecidableEq, Repr, Inhabited

/-- Conditions of `fcmp` (R231). -/
inductive FCond where
  | eq | ne | lt | le | gt | ge | num | equ | neu | ltu | leu | gtu | geu | nan
  deriving DecidableEq, Repr, Inhabited

/-- Rounding modes (R224). -/
inductive Rnd where
  | rn | rz | ru | rd | ro
  deriving DecidableEq, Repr, Inhabited

/-- Format codes of `cvt` (R236). -/
inductive CvtFmt where
  | f32 | bf16 | f16 | fp8e4 | fp8e5 | fp6e2 | fp6e3 | fp4 | s8 | n8 | s16 | n16 | s32 | n32 | s64 | n64
  deriving DecidableEq, Repr, Inhabited

/-- The `MOD` fields of `cvt` (R235). -/
structure CvtMods where
  rint : Bool := false
  sel : Nat := 0
  pk : Bool := false
  sat : Bool := false
  src : CvtFmt := .f32
  dst : CvtFmt := .f32
  rnd : Rnd := .rn
  deriving DecidableEq, Repr, Inhabited

/-- Operators of `xred` and `xscan` (R217). -/
inductive XOp where
  | add | min | max | and | or | xor | fadd | fmax | fmin
  deriving DecidableEq, Repr, Inhabited

/-- Width codes of loads and stores (R244). -/
inductive Width where
  | s8 | n8 | s16 | n16 | b32 | b64 | b128
  deriving DecidableEq, Repr, Inhabited

/-- Object spaces of `EXT` (R166). -/
inductive Space where
  | loc | nbr | glb | ver | host
  deriving DecidableEq, Repr, Inhabited

/-- Orders of `EXT` (R166). -/
inductive Order where
  | rlx | acq | rel | acqRel
  deriving DecidableEq, Repr, Inhabited

/-- Scopes of `EXT` (R166), narrow to wide. -/
inductive Scope where
  | t | gang | wg | cl | pkg | pod | sys
  deriving DecidableEq, Repr, Inhabited

/-- Operators of the single-location atomics (R251). -/
inductive AtOp where
  | add | sub | min | max | and | or | xor | xchg | cas
  deriving DecidableEq, Repr, Inhabited

/-- `MOD` and `EXT` of a single-location atomic (R250). -/
structure AtMods where
  op : AtOp := .add
  nr : Bool := false
  b128 : Bool := false
  order : Order := .rlx
  scope : Scope := .t
  deriving DecidableEq, Repr, Inhabited

/-- How a request that left the package ended (R414, R416): answered, or completed with an error (Unsupported Request, Completer Abort, poison, no
path). -/
inductive Answer where
  | ok | error
  deriving DecidableEq, Repr, Inhabited

/-- The part of a lane in a request that left the package (R414, R416): the request, and the lane of its issue. -/
structure ReqLane where
  id : Nat
  lane : Nat
  deriving DecidableEq, Repr, Inhabited

/-- A line of a remote data cache (03 R97, 13 R346): the partition whose bytes it holds, and its number. -/
structure PartLine where
  part : Nat
  line : Nat
  deriving DecidableEq, Repr, Inhabited

/-- The end of a K group (10 R294, 15 R395): its `mma`, and which checker of the lathe mismatched, 0 where none did. -/
structure GroupEnd where
  op : Nat
  mism : Nat
  deriving DecidableEq, Repr, Inhabited

/-- The failure of a link (05 R149, 16 R418): the device at its end, and whether another path to it is left. -/
structure LinkLoss where
  dev : Nat
  path : Bool
  deriving DecidableEq, Repr, Inhabited

/-- A request from a peer device over UALink (R416): a read of `len` bytes, or a write of `bytes` when it is not empty,
at physical address `pa` of partition `part`. -/
structure FabricReq where
  dev : Nat
  part : Nat
  pa : Nat
  len : Nat
  bytes : List (BitVec 8)
  deriving DecidableEq, Repr, Inhabited

/-- An atomic that arrives from a peer (R417), with its operands. -/
structure PeerAtomicReq where
  dev : Nat
  part : Nat
  pa : Nat
  op : AtOp
  ty : Ty
  b : BitVec 64
  c : BitVec 64
  deriving DecidableEq, Repr, Inhabited

/-- The parameters of a quorum reduction that every device binds alike (R145). -/
structure RedParams where
  e : Nat
  n : Nat
  q : Nat
  t : Nat
  k : Nat
  d : Nat
  first : BitVec 32
  deriving DecidableEq, Repr, Inhabited

/-- A binding notice as it reaches the root (R145): from a peer device `some d`, or from this one. -/
structure Notice where
  part : Nat
  redid : BitVec 32
  dev : Option Nat
  params : RedParams
  deriving DecidableEq, Repr, Inhabited

/-- A contribution notice as it reaches the root (R146), with the contributed FP32 words. -/
structure Arrival where
  part : Nat
  redid : BitVec 32
  dev : Option Nat
  slot : Nat
  step : BitVec 32
  words : List (BitVec 32)
  deriving DecidableEq, Repr, Inhabited

/-- A result as it reaches a receiving device (R148): the array and the status record. -/
structure ResultMsg where
  part : Nat
  redid : BitVec 32
  step : BitVec 32
  words : List (BitVec 32)
  status : BitVec 128
  deriving DecidableEq, Repr, Inhabited

/-- Who waits in the headstock's queue for the aging rule of R366: the undispatched clusters of a node, or one cluster. -/
inductive Queued where
  | node (uid : Nat)
  | cluster (uid : Nat)
  deriving DecidableEq, Repr, Inhabited

/-- A register write from outside (R341 to R343, R351, R355, R420): from the physical function or from virtual function `vf`.
`off` is the byte offset within the function's BAR named by `bar`, and `size` the bytes of the request. -/
structure RegWrite where
  vf : Option Nat
  bar : Nat
  off : Nat
  size : Nat
  value : BitVec 128
  deriving DecidableEq, Repr, Inhabited

end Sys2Proof
end

