-- ==== Sys2Proof/Syntax.lean ====
section
/-! DEFINITION. The instructions and events of spec/opcode_table.json, one constructor per row, in the table's order (the
ends of seal jobs stand with the seal instructions).
Full-format operations carry the fields of R156 (`Op`) and their typed modifiers; compact halves the fields of R168 (`COp`);
events the agent or message they concern. -/

namespace Sys2Proof

/-- One constructor per row of spec/opcode_table.json. -/
inductive Instr where
  -- control (spec/07 R185 to R194)
  | nop
  | br (g : Guard) (t : Target)
  | brpAny (g : Guard) (p : Nat) (mask : Src) (t : Target)
  | brpAll (g : Guard) (p : Nat) (mask : Src) (t : Target)
  | call (g : Guard) (t : Target)
  | ret (g : Guard)
  | exit (g : Guard)
  | meet (g : Guard) (t : Target)
  | meetClr (g : Guard)
  | yield (g : Guard)
  | trap (g : Guard) (code : Nat)
  -- predicates (R195, R196)
  | pand (o : Op)
  | por (o : Op)
  | pxor (o : Op)
  | pandn (o : Op)
  | pnot (o : Op)
  | pmov (o : Op)
  | ppack (o : Op)
  | punpack (o : Op)
  | pcnt (o : Op)
  -- integer arithmetic (R197 to R199)
  | add (o : Op) (m : AddMods)
  | sub (o : Op) (m : AddMods)
  | mul (o : Op)
  | mulh (o : Op)
  | mad (o : Op) (sat : Bool)
  | madh (o : Op)
  | min (o : Op)
  | max (o : Op)
  | abs (o : Op) (sat : Bool)
  | neg (o : Op) (sat : Bool)
  -- logic, shifts and fields (R200 to R205)
  | and (o : Op)
  | or (o : Op)
  | xor (o : Op)
  | andn (o : Op)
  | not (o : Op)
  | shl (o : Op)
  | shr (o : Op)
  | rol (o : Op)
  | ror (o : Op)
  | fshR (o : Op) (wrap : Bool)
  | fshL (o : Op) (wrap : Bool)
  | popc (o : Op)
  | clz (o : Op)
  | brev (o : Op)
  | fxt (o : Op)
  | fins (o : Op)
  | bsel (o : Op) (fill : Bool)
  -- compare, select, move (R206 to R211)
  | cmp (o : Op) (cond : Cond) (comb : Comb)
  | sel (o : Op)
  | mov (o : Op)
  | lea (o : Op) (k : Nat)
  | sreg (o : Op)
  | gmov (o : Op)
  | gld (o : Op) (sp : Space)
  -- floating point (spec/08 R227 to R234) and conversion (R235 to R241)
  | fadd (o : Op) (r : Rnd)
  | fsub (o : Op) (r : Rnd)
  | fmul (o : Op) (r : Rnd)
  | ffma (o : Op) (r : Rnd)
  | fmin (o : Op)
  | fmax (o : Op)
  | fminnum (o : Op)
  | fmaxnum (o : Op)
  | fabs (o : Op)
  | fneg (o : Op)
  | fcmp (o : Op) (cond : FCond) (comb : Comb)
  | fclassV (o : Op)
  | fclassP (o : Op)
  | rcp (o : Op) (r : Rnd)
  | sqrt (o : Op) (r : Rnd)
  | rsq (o : Op)
  | exp2 (o : Op)
  | log2 (o : Op)
  | sin (o : Op)
  | cos (o : Op)
  | cvt (o : Op) (m : CvtMods)
  -- cross-lane and random numbers (spec/07 R212 to R222)
  | xperm (o : Op)
  | xbc (o : Op)
  | xbcFirst (o : Op)
  | xred (o : Op) (x : XOp)
  | xscan (o : Op) (x : XOp) (excl : Bool)
  | xvoteAny (o : Op)
  | xvoteAll (o : Op)
  | xvoteBallot (o : Op)
  | xmatch (o : Op)
  | rngNext (o : Op)
  | rngJump (o : Op)
  -- memory and atomics (spec/09 R243 to R260)
  | ldg (o : Op) (w : Width)
  | stg (o : Op) (w : Width)
  | atg (o : Op) (m : AtMods)
  | ldl (o : Op) (w : Width)
  | stl (o : Op) (w : Width)
  | atl (o : Op) (m : AtMods)
  | ldn (o : Op) (w : Width)
  | stn (o : Op) (w : Width)
  | atn (o : Op) (m : AtMods)
  | ldh (o : Op) (w : Width)
  | sth (o : Op) (w : Width)
  | ath (o : Op) (m : AtMods)
  | ldv (o : Op) (w : Width)
  | mcas (o : Op) (order : Order)
  -- synchronisation (R261 to R272)
  | fence (g : Guard) (order : Order) (scope : Scope)
  | phi (o : Op) (sp : Space)
  | arv (o : Op) (sp : Space)
  | arvb (o : Op) (sp : Space)
  | wph (o : Op) (sp : Space)
  | wphTry (o : Op) (sp : Space)
  | cbget (o : Op)
  | cbput (o : Op)
  | vpub (o : Op)
  | publish (o : Op)
  | publishWriteout (part win : Nat)
  -- engines (spec/10)
  | gcp (o : Op)
  | gst (o : Op)
  | gpl (o : Op)
  | ofence (g : Guard)
  | mma (o : Op)
  | mhint (o : Op)
  | drain (o : Op)
  | cxBind (o : Op)
  | cxSend (o : Op)
  | cxArm (o : Op)
  | cxCtrGet (o : Op)
  | cxCtrSet (o : Op)
  | cxCtrLink (o : Op)
  | cxCtrUnlink (o : Op)
  | cxRed (o : Op)
  | stepAdv (o : Op) (sp : Space)
  | stepGet (o : Op)
  | stepGetLim (o : Op)
  | fork (o : Op)
  -- hold-up declarations (spec/17 R424 to R426)
  | keepDeclMust (o : Op)
  | keepDeclBest (o : Op)
  | keepDeclDrop (o : Op)
  | keepQryUse (o : Op)
  | keepQryRec (o : Op)
  | keepQryLd (o : Op)
  -- system (spec/13 R352, spec/15 R384 R385, spec/16 R404, spec/17 R434 R435)
  | csrr (o : Op) (csr : Nat)
  | csrw (o : Op) (csr : Nat)
  | csrwSet (o : Op) (csr : Nat)
  | csrwClr (o : Op) (csr : Nat)
  | iret (g : Guard)
  | iretKill (g : Guard)
  | rqRd (o : Op)
  | rqWr (o : Op)
  | tlbsdAll (g : Guard)
  | tlbsdVa (o : Op)
  | shootdownComplete (id : Nat)
  | sealMeas (o : Op)
  | sealImg (o : Op)
  | sealRst (o : Op)
  | sealEngineDone (job : Nat)
  | sealTmoExpiry (job : Nat)
  | hmRd (o : Op)
  -- compact halves (spec/06 R169)
  | nopCompact
  | addCompact (o : COp)
  | subCompact (o : COp)
  | minCompact (o : COp)
  | maxCompact (o : COp)
  | absCompact (o : COp)
  | negCompact (o : COp)
  | mulCompact (o : COp)
  | madCompact (o : COp)
  | andCompact (o : COp)
  | orCompact (o : COp)
  | xorCompact (o : COp)
  | andnCompact (o : COp)
  | notCompact (o : COp)
  | shlCompact (o : COp)
  | shrCompact (o : COp)
  | movCompact (o : COp)
  | faddCompact (o : COp)
  | fsubCompact (o : COp)
  | fmulCompact (o : COp)
  | ffmaCompact (o : COp)
  | fminCompact (o : COp)
  | fmaxCompact (o : COp)
  | fminnumCompact (o : COp)
  | fmaxnumCompact (o : COp)
  | fabsCompact (o : COp)
  | fnegCompact (o : COp)
  -- events of a gang (spec/06 R152, spec/15 R380 R382, spec/09 R246)
  | lineEntry (wg gang lane : Nat)
  | breakpoint (wg gang lane : Nat)
  | trapEntry (wg gang : Nat)
  | loadReturn (req : ReqLane) (answer : Answer)
  -- memory system (spec/03 R97, spec/04 R125, spec/16 R416 R417)
  | storeBufferApply (wg idx : Nat)
  | rdcLineEvict (die : Nat) (line : PartLine) (ok : Bool)
  | fabricRequest (req : FabricReq)
  | peerAtomic (req : PeerAtomicReq)
  -- headstock (spec/01 R38 R47, spec/14)
  | yieldThreshold (wg : Nat)
  | clusterSwitchOut (cluster : Nat)
  | clusterPlace (part : Nat)
  | agingPromotion (q : Queued)
  | workgroupRetire (wg : Nat)
  | deterministicEarlyFree (cluster : Nat)
  -- engines at work (spec/03 R109, spec/10)
  | cbufProducerClaim (op : Nat)
  | gougeRowDone (op : Nat)
  | gstRowDone (op : Nat)
  | gplPlaneDone (op : Nat)
  | engineStop (op : Nat)
  | latheRampUpEnd (core lathe : Nat)
  | latheGroupDone (group : GroupEnd)
  | latheRampDownEnd (core lathe : Nat)
  | latheHintExpiry (core lathe : Nat)
  | drainTileEvent (op : Nat)
  -- spindle and progress (spec/05, spec/10)
  | bindingNoticeArrival (n : Notice)
  | contributionAdmission (id : Nat)
  | contributionArrival (a : Arrival)
  | reductionTimerExpiry (part : Nat) (redid : BitVec 32)
  | resultDelivery (r : ResultMsg)
  | chunkAck (id : Nat)
  | linkFailure (link : LinkLoss)
  | sendLanding (part ctr : Nat) (pieces : List (Nat × List (BitVec 8)))
  | sendAck (id : Nat) (path : Bool)
  | announcementReceived (part rank : Nat) (step : BitVec 32)
  | quietExpiry (part rank : Nat)
  -- operator and partition software (spec/13, spec/14, spec/16)
  | pcmdCreate (part : Nat)
  | pcmdStart (part : Nat)
  | pcmdStop (part : Nat)
  | stopComplete (part : Nat)
  | pcmdReset (part : Nat)
  | resetComplete (part : Nat)
  | pcmdResize (part : Nat)
  | gmapWrite (granule value : Nat)
  | granuleScrubDone (granule : Nat)
  | registerWrite (w : RegWrite)
  | tgCsrWrite (vf csr : Nat) (value : BitVec 32)
  | hostWindowOpen (vf win : Nat)
  | hostWindowClose (vf win : Nat)
  | kick (vf : Nat) (value : BitVec 64)
  | gload (vf : Nat) (value : BitVec 64)
  | gloadUnload (vf : Nat) (value : BitVec 64)
  | vacate (vf : Nat) (value : BitVec 32)
  | apertureWrite (vf off : Nat) (bytes : List (BitVec 8))
  | apertureRead (vf off len : Nat)
  -- hold-up, health, seal, bring-up (spec/17)
  | supplyUndervoltage
  | thermalTrip
  | reserveFault
  | reserveCharged
  | quiesceComplete
  | guaranteedSaveComplete
  | bestEffortEnd
  | restartRecordsComplete
  | hmTempSample (temp : Nat)
  | hmDecay
  | hmEvent (kind : Nat)
  | sealPeerRequest (dev : Nat) (lin : BitVec 128) (c : BitVec 64)
  | sealAckReceived (job dev : Nat) (counter : BitVec 64) (ack : Bool)
  | sealAttestationReceived (lin : BitVec 128) (c : BitVec 64)
  | powerUp
  | unitReady
  | pcieCompletionTimeout (req : ReqLane)
  deriving DecidableEq, Repr, Inhabited

end Sys2Proof
end

