-- ==== Sys2Proof/WellFormed.lean ====
section
/-! DEFINITION. Which instructions are legal encodings (spec/06_encoding.md R157 to R176 and the tables of the
instruction chapters). Bits that must be zero are checked in Decode by re-encoding. -/

namespace Sys2Proof

/-- What decoding depends on beside the bits: the declared vector register count (R27) and the width of a member
mask, which is the gang width, halved in shadow mode (R213, R396). -/
structure Ctx where
  vregs : Nat
  w : Nat
  deriving DecidableEq, Repr

/-- Whether values of the type are 64 bits wide (R173). -/
def Ty.is64 : Ty → Bool
  | .s64 | .n64 | .b64 => true
  | _ => false

/-- Width of a value of the type (R173). -/
def Ty.bits : Ty → Nat
  | .s64 | .n64 | .b64 => 64
  | .b1 => 1
  | _ => 32

/-- Width of one element of the type (R183). -/
def Ty.elemBits : Ty → Nat
  | .s64 | .n64 | .b64 => 64
  | .s16x2 | .n16x2 | .bf16x2 | .f16x2 => 16
  | .s8x4 | .n8x4 => 8
  | .b1 => 1
  | _ => 32

/-- Whether the elements are signed (R183). -/
def Ty.signed : Ty → Bool
  | .s32 | .s64 | .s16x2 | .s8x4 => true
  | _ => false

/-- Type codes of R173. -/
def Ty.code : Ty → Nat
  | .b32 => 0 | .s32 => 1 | .n32 => 2 | .f32 => 3 | .bf16x2 => 4 | .f16x2 => 5 | .s16x2 => 6 | .n16x2 => 7
  | .s64 => 8 | .n64 => 9 | .b64 => 10 | .s8x4 => 12 | .n8x4 => 13 | .b1 => 14

namespace WF

/-- R157: a guard index is at most 95. -/
def guard (g : Guard) : Bool := g.p ≤ 95

/-- R165: an unused source field is zero. -/
def unused (x : Src) : Bool := x == .v 0

/-- R160, R161, R27: a source of a 32-bit operand, or of a 64-bit operand, which names a pair. -/
def src (c : Ctx) (wide : Bool) : Src → Bool
  | .v n => if wide then n % 2 == 0 && n + 1 < c.vregs else n < c.vregs
  | .g n => if wide then n % 2 == 0 && n + 1 ≤ 95 else n ≤ 95
  | .l n => n ≤ 3
  | .imm b => b < 256

/-- R164: a predicate position holds `pN` or the literal 0 or 1. -/
def psrc : Src → Bool
  | .v n => n ≤ 95
  | .imm b => b ≤ 1
  | _ => false

/-- R244, R253: a 16-byte operand is a vector register whose number is a multiple of 4. -/
def src128 (c : Ctx) : Src → Bool
  | .v n => n % 4 == 0 && n + 3 < c.vregs
  | _ => false

/-- R158: destination class v with `WIDE` as the result width demands, or `_`. -/
def dstV (c : Ctx) (wide : Bool) (o : Op) : Bool :=
  o.wide == wide &&
  match o.dst with
  | .v n => if wide then n % 2 == 0 && n + 1 < c.vregs else n < c.vregs
  | .none => true
  | _ => false

/-- R158, R196: destination class v alone. -/
def dstVec (c : Ctx) (o : Op) : Bool := dstV c false o && o.dst != .none

/-- R158, R244: a 128-bit result in four registers, or `_`. -/
def dst128 (c : Ctx) (o : Op) : Bool :=
  o.wide &&
  match o.dst with
  | .v n => n % 4 == 0 && n + 3 < c.vregs
  | .none => true
  | _ => false

/-- R158: destination class p. -/
def dstP (o : Op) : Bool :=
  !o.wide && match o.dst with | .p n => n ≤ 95 | _ => false

/-- R158, R210: destination class g. -/
def dstG (wide : Bool) (o : Op) : Bool :=
  o.wide == wide &&
  match o.dst with
  | .g n => if wide then n % 2 == 0 && n ≤ 95 else n ≤ 95
  | _ => false

/-- R158: no destination. -/
def dstNone (o : Op) : Bool := !o.wide && o.dst == .none

/-- R159: a second destination that is a predicate. -/
def d2P (o : Op) : Bool := o.d2 ≤ 95

/-- R159: no second destination. -/
def d2None (o : Op) : Bool := o.d2 == 0

/-- The operation uses no source field beyond the first `n`. -/
def uses (n : Nat) (o : Op) : Bool :=
  (1 ≤ n || unused o.a) && (2 ≤ n || unused o.b) && (3 ≤ n || unused o.c)

/-- R213: a member mask: a pair, latch or immediate when the gang is 64 wide, else a 32-bit source. -/
def mask (c : Ctx) (x : Src) : Bool := src c (c.w == 64) x

/-- R167: a control-flow target names slot 0 to 4. -/
def target (t : Target) : Bool := t.slot ≤ 4

/-- R195: predicate logic over `n` predicate positions. -/
def plogic (n : Nat) (o : Op) : Bool :=
  guard o.guard && dstP o && d2None o && o.ty == .b32 && psrc o.a && (n == 1 || psrc o.b) && uses n o

/-- An instruction with a vector destination of its type's width and `n` sources of that type. -/
def arith (c : Ctx) (tys : List Ty) (n : Nat) (o : Op) : Bool :=
  guard o.guard && dstV c o.ty.is64 o && d2None o && tys.contains o.ty && src c o.ty.is64 o.a &&
  (n < 2 || src c o.ty.is64 o.b) && (n < 3 || src c o.ty.is64 o.c) && uses n o

/-- R201: a shift or rotate, whose count is an n32 value. -/
def shift (c : Ctx) (tys : List Ty) (o : Op) : Bool :=
  guard o.guard && dstV c o.ty.is64 o && d2None o && tys.contains o.ty && src c o.ty.is64 o.a && src c false o.b && uses 2 o

/-- Types of `add`, `sub`, `min` and `max` (R197). -/
def addTys : List Ty := [.s32, .n32, .s64, .n64, .s16x2, .n16x2, .s8x4, .n8x4]

/-- Types of `mul` and `mad` (R197). -/
def mulTys : List Ty := [.s32, .n32, .s64, .n64, .s16x2, .n16x2]

/-- Types of `mulh` and `madh`, and the integer types of the cross-lane operators (R197, R217). -/
def intTys : List Ty := [.s32, .n32, .s64, .n64]

/-- Types of `abs` and `neg` (R197). -/
def absTys : List Ty := [.s32, .s64, .s16x2, .s8x4]

/-- Bit types (R200). -/
def bitTys : List Ty := [.b32, .b64]

/-- Types of `shl` and `shr` (R201). -/
def shiftTys : List Ty := [.b32, .n32, .s32, .b64, .n64, .s64]

/-- Floating-point register types (R223). -/
def fTys : List Ty := [.f32, .bf16x2, .f16x2]

/-- R197, R199: `add` and `sub`. -/
def addSub (c : Ctx) (o : Op) (m : AddMods) : Bool :=
  guard o.guard && dstV c o.ty.is64 o && addTys.contains o.ty && src c o.ty.is64 o.a && src c o.ty.is64 o.b &&
  (if m.cr then psrc o.c else unused o.c) && (if m.cw then d2P o else d2None o) &&
  (!(m.cr || m.cw) || ((o.ty == .n32 || o.ty == .n64) && !m.sat))

/-- R206: `cmp`. -/
def cmp (c : Ctx) (o : Op) (cond : Cond) (comb : Comb) : Bool :=
  guard o.guard && dstP o && d2P o && src c o.ty.is64 o.a && src c o.ty.is64 o.b &&
  (intTys.contains o.ty || (bitTys.contains o.ty && (cond == .eq || cond == .ne))) &&
  (if comb == .none then unused o.c else psrc o.c)

/-- An untyped operation with the given destination check and `n` used sources, each 32-bit unless named wide. -/
def plain (c : Ctx) (dst d2 : Op → Bool) (n : Nat) (wa wb wc : Bool) (o : Op) : Bool :=
  guard o.guard && dst o && d2 o && o.ty == .b32 && (n < 1 || src c wa o.a) && (n < 2 || src c wb o.b) &&
  (n < 3 || src c wc o.c) && uses n o

/-- R217: the types an `xred` or `xscan` operator accepts. -/
def xopTys : XOp → List Ty
  | .add | .min | .max => intTys
  | .and | .or | .xor => bitTys
  | .fadd | .fmax | .fmin => [.f32]

/-- R212: a cross-lane value instruction whose `S2` is checked apart. -/
def cross (c : Ctx) (tys : List Ty) (o : Op) : Bool :=
  guard o.guard && dstV c o.ty.is64 o && d2P o && tys.contains o.ty && src c o.ty.is64 o.a && mask c o.b

/-- R212, R216: `xvote`, whose source is a predicate. -/
def vote (c : Ctx) (dst : Op → Bool) (o : Op) : Bool :=
  guard o.guard && dst o && d2P o && o.ty == .b32 && psrc o.a && mask c o.b && unused o.c

/-- The number of bytes of a width code (R244). -/
def widthBytes : Width → Nat
  | .s8 | .n8 => 1
  | .s16 | .n16 => 2
  | .b32 => 4
  | .b64 => 8
  | .b128 => 16

/-- R244: the destination of a load. -/
def loadDst (c : Ctx) (w : Width) (o : Op) : Bool :=
  match w with
  | .b128 => dst128 c o
  | .b64 => dstV c true o
  | _ => dstV c false o

/-- R243: a load; `wide` says that its base is a pair. -/
def load (c : Ctx) (wide : Bool) (w : Width) (o : Op) : Bool :=
  guard o.guard && loadDst c w o && d2None o && o.ty == .b32 && src c wide o.a && src c false o.b && unused o.c

/-- R243, R244: a store. -/
def store (c : Ctx) (wide : Bool) (w : Width) (o : Op) : Bool :=
  guard o.guard && dstNone o && d2None o && o.ty == .b32 && src c wide o.a && src c false o.b &&
  match w with
  | .s8 | .s16 => false
  | .b128 => src128 c o.c
  | .b64 => src c true o.c
  | _ => src c false o.c

/-- R251: the types an atomic operator accepts. -/
def atTys : AtOp → List Ty
  | .add => [.s32, .n32, .s64, .n64, .f32, .bf16x2]
  | .sub => intTys
  | .min | .max => [.s32, .n32, .s64, .n64, .f32]
  | .and | .or | .xor | .xchg | .cas => bitTys

/-- R250 to R253: a single-location atomic; `host` allows `.b128`. -/
def atomic (c : Ctx) (wide host : Bool) (m : AtMods) (o : Op) : Bool :=
  guard o.guard && (atTys m.op).contains o.ty && src c wide o.a &&
  (if m.b128 then host && m.op == .cas && o.ty == .b64 && src128 c o.b && src128 c o.c && dst128 c o
   else dstV c o.ty.is64 o && src c o.ty.is64 o.b && (if m.op == .cas then src c o.ty.is64 o.c else unused o.c)) &&
  (if m.nr then o.dst == .none && !(m.order == .acq || m.order == .acqRel) else true) &&
  (if m.op == .cas then d2P o else d2None o)

/-- R263: the spaces of a phase object and the width of its address. -/
def objSpace : Space → Option Bool
  | .loc | .nbr => some false
  | .glb | .ver => some true
  | .host => none

/-- R263: a phase instruction with `n` further sources. -/
def phase (c : Ctx) (sp : Space) (dst d2 : Op → Bool) (n : Nat) (o : Op) : Bool :=
  match objSpace sp with
  | none => false
  | some wide => plain c dst d2 (n + 1) wide false false o

/-- An operation that is a guard alone. -/
def bare (g : Guard) : Bool := guard g

/-- R348, R381, R402, R431: the assigned CSR numbers; `rw` asks for one with a writable field. -/
def csrAssigned (n : Nat) : Bool :=
  (0x000 ≤ n && n ≤ 0x00A) || (0x00C ≤ n && n ≤ 0x00F) || (0x010 ≤ n && n ≤ 0x015) || (0x100 ≤ n && n ≤ 0x108) ||
  (0x110 ≤ n && n ≤ 0x113) || (0x118 ≤ n && n ≤ 0x11B) || (0x120 ≤ n && n ≤ 0x122) || (0x200 ≤ n && n ≤ 0x207) ||
  (0x210 ≤ n && n ≤ 0x227) || (0x280 ≤ n && n ≤ 0x28B) || (0x290 ≤ n && n ≤ 0x2A0) || (0x2C0 ≤ n && n ≤ 0x2C5)

/-- R352: the CSRs with an RW or W1C field. -/
def csrWritable (n : Nat) : Bool :=
  n == 0x002 || n == 0x008 || n == 0x009 || (0x00C ≤ n && n ≤ 0x015) || n == 0x110 || n == 0x112 || n == 0x113 ||
  (0x118 ≤ n && n ≤ 0x122) && csrAssigned n || (0x200 ≤ n && n ≤ 0x207) || (0x282 ≤ n && n ≤ 0x289) ||
  (0x2C1 ≤ n && n ≤ 0x2C5)

/-- R352: a CSR access with `n` sources. -/
def csrOp (c : Ctx) (csr n : Nat) (o : Op) : Bool :=
  plain c (dstV c false) d2None n false false false o && csrAssigned csr && (n == 0 || csrWritable csr)

/-- R237: the legality of a `cvt` by kind, with the source rules of R236 and R239. -/
def isFloatFmt : CvtFmt → Bool
  | .f32 | .bf16 | .f16 | .fp8e4 | .fp8e5 | .fp6e2 | .fp6e3 | .fp4 => true
  | _ => false

/-- The width of a `cvt` format (R236). -/
def fmtBits : CvtFmt → Nat
  | .f32 | .s32 | .n32 => 32
  | .bf16 | .f16 | .s16 | .n16 => 16
  | .fp8e4 | .fp8e5 | .s8 | .n8 => 8
  | .fp6e2 | .fp6e3 => 6
  | .fp4 => 4
  | .s64 | .n64 => 64

/-- R239: the elements that `SEL` may name for a source format. -/
def selOk (f : CvtFmt) (sel : Nat) : Bool :=
  match fmtBits f with
  | 16 => sel ≤ 1
  | 8 => sel ≤ 3
  | _ => sel == 0

/-- R237. -/
def cvt (c : Ctx) (o : Op) (m : CvtMods) : Bool :=
  guard o.guard && o.ty == .b32 && d2P o && dstV c (fmtBits m.dst == 64) o && src c (fmtBits m.src == 64) o.a && unused o.c &&
  (if m.pk then
     m.src == .f32 && (m.dst == .bf16 || m.dst == .f16) && !m.sat && m.sel == 0 && !m.rint && src c false o.b
   else
     unused o.b && selOk m.src m.sel &&
     (if m.rint then m.src == .f32 && m.dst == .f32 && !m.sat
      else m.src != m.dst &&
        (if isFloatFmt m.src || isFloatFmt m.dst then !m.sat else m.rnd == .rn)))

/-- The multiply class of R169. -/
def compactTys (t : List Ty) (sat : Bool) (o : COp) : Bool := t.contains o.ty && (sat || !o.sat)

/-- R168, R169: a compact half with `n` sources. -/
def half (c : Ctx) (t : List Ty) (sat : Bool) (n : Nat) (o : COp) : Bool :=
  guard o.guard && o.dst < c.vregs && compactTys t sat o && src c false o.a && (if n < 2 then unused o.b else src c false o.b)

/-- Types of the compact integer halves (R169). -/
def cIntTys : List Ty := [.s32, .n32, .s16x2, .n16x2]

end WF

/-- Legality of an instruction in a context (R155 to R176). Events have no encoding and are not well-formed instructions. -/
def Instr.wf (c : Ctx) : Instr → Bool
  | .nop => true
  | .br g t | .call g t | .meet g t => WF.guard g && WF.target t
  | .brpAny g p m t | .brpAll g p m t => WF.guard g && WF.target t && p ≤ 95 && WF.mask c m
  | .ret g | .exit g | .meetClr g | .yield g => WF.guard g
  | .trap g code => WF.guard g && code < 256
  | .pand o | .por o | .pxor o | .pandn o => WF.plogic 2 o
  | .pnot o | .pmov o => WF.plogic 1 o
  | .ppack o => WF.guard o.guard && WF.dstVec c o && WF.d2None o && o.ty == .b32 && WF.uses 1 o &&
      (match o.a with | .v n => n ≤ 64 | _ => false)
  | .punpack o => WF.guard o.guard && WF.dstP o && (match o.dst with | .p n => n ≤ 64 | _ => false) && WF.d2None o &&
      o.ty == .b32 && WF.src c false o.a && WF.uses 1 o
  | .pcnt o => WF.guard o.guard && WF.dstVec c o && WF.d2None o && o.ty == .b32 && WF.uses 2 o &&
      (match o.a, o.b with | .v n, .imm k => n ≤ 95 && 1 ≤ k && k ≤ 32 && n + k ≤ 96 | _, _ => false)
  | .add o m | .sub o m => WF.addSub c o m
  | .mul o => WF.arith c WF.mulTys 2 o
  | .mulh o => WF.arith c WF.intTys 2 o
  | .mad o _ => WF.arith c WF.mulTys 3 o
  | .madh o => WF.arith c WF.intTys 3 o
  | .min o | .max o => WF.arith c WF.addTys 2 o
  | .abs o _ | .neg o _ => WF.arith c WF.absTys 1 o
  | .and o | .or o | .xor o | .andn o => WF.arith c WF.bitTys 2 o
  | .not o | .popc o | .clz o | .brev o => WF.arith c WF.bitTys 1 o
  | .shl o | .shr o => WF.shift c WF.shiftTys o
  | .rol o | .ror o => WF.shift c WF.bitTys o
  | .fshR o _ | .fshL o _ | .bsel o _ => WF.arith c [.b32] 3 o
  | .fxt o => WF.shift c WF.intTys o
  | .fins o => WF.guard o.guard && WF.dstV c o.ty.is64 o && WF.d2None o && WF.bitTys.contains o.ty &&
      WF.src c o.ty.is64 o.a && WF.src c o.ty.is64 o.b && WF.src c false o.c
  | .cmp o cond comb => WF.cmp c o cond comb
  | .sel o => WF.guard o.guard && WF.dstV c o.ty.is64 o && WF.d2None o && WF.bitTys.contains o.ty &&
      WF.src c o.ty.is64 o.a && WF.src c o.ty.is64 o.b && WF.psrc o.c
  | .mov o => WF.arith c WF.bitTys 1 o
  | .lea o k => WF.guard o.guard && WF.dstV c true o && WF.d2None o && (o.ty == .s32 || o.ty == .n32) &&
      WF.src c true o.a && WF.src c false o.b && WF.src c false o.c && k ≤ 7
  | .sreg o => WF.guard o.guard && WF.d2None o && o.ty == .b32 && WF.uses 1 o &&
      (match o.a with | .imm n => n ≤ 26 && WF.dstV c (n == 23) o | _ => false)
  | .gmov o => WF.guard o.guard && WF.dstG o.ty.is64 o && WF.d2None o && WF.bitTys.contains o.ty &&
      WF.src c o.ty.is64 o.a && WF.uses 1 o
  | .gld o sp => WF.guard o.guard && WF.dstG o.ty.is64 o && WF.d2None o && WF.bitTys.contains o.ty &&
      (sp == .loc || sp == .glb) && WF.src c (sp == .glb) o.a && WF.uses 1 o
  | .fadd o _ | .fsub o _ | .fmul o _ => WF.arith c WF.fTys 2 o
  | .ffma o _ => WF.arith c WF.fTys 3 o
  | .fmin o | .fmax o | .fminnum o | .fmaxnum o => WF.arith c WF.fTys 2 o
  | .fabs o | .fneg o | .fclassV o => WF.arith c WF.fTys 1 o
  | .fcmp o _ comb => WF.guard o.guard && WF.dstP o && WF.d2P o && o.ty == .f32 && WF.src c false o.a && WF.src c false o.b &&
      (if comb == .none then WF.unused o.c else WF.psrc o.c)
  | .fclassP o => WF.guard o.guard && WF.dstP o && WF.d2P o && o.ty == .f32 && WF.src c false o.a && WF.src c false o.b &&
      WF.unused o.c
  | .rcp o _ | .sqrt o _ => WF.arith c [.f32] 1 o
  | .rsq o | .exp2 o | .log2 o | .sin o | .cos o => WF.arith c [.f32] 1 o
  | .cvt o m => WF.cvt c o m
  | .xperm o => WF.cross c WF.bitTys o && WF.src c false o.c
  | .xbc o => WF.cross c WF.bitTys o && (match o.c with | .g n => n ≤ 95 | .imm b => b < 256 | _ => false)
  | .xbcFirst o => WF.cross c WF.bitTys o && WF.unused o.c
  | .xred o x => WF.cross c (WF.xopTys x) o && WF.unused o.c
  | .xscan o x _ => WF.cross c (WF.xopTys x) o && WF.unused o.c
  | .xvoteAny o | .xvoteAll o => WF.vote c WF.dstP o
  | .xvoteBallot o => WF.vote c (WF.dstV c (c.w == 64)) o
  | .xmatch o => WF.guard o.guard && WF.dstV c (c.w == 64) o && WF.d2P o && WF.bitTys.contains o.ty &&
      WF.src c o.ty.is64 o.a && WF.mask c o.b && WF.unused o.c
  | .rngNext o => WF.guard o.guard && WF.dstV c false o && WF.d2None o && o.ty == .n32 && WF.uses 0 o
  | .rngJump o => WF.guard o.guard && WF.dstNone o && WF.d2None o && o.ty == .n64 && WF.src c true o.a && WF.uses 1 o
  | .ldg o w | .ldh o w => WF.load c true w o
  | .ldl o w | .ldn o w => WF.load c false w o
  | .ldv o w => WF.guard o.guard && WF.loadDst c w o && WF.d2P o && o.ty == .b32 && WF.src c true o.a && WF.src c false o.b &&
      WF.src c false o.c
  | .stg o w | .sth o w => WF.store c true w o
  | .stl o w | .stn o w => WF.store c false w o
  | .atg o m => WF.atomic c true false m o
  | .atl o m | .atn o m => WF.atomic c false false m o
  | .ath o m => WF.atomic c true true m o
  | .mcas o _ => WF.plain c (WF.dstV c false) WF.d2P 1 false false false o
  | .fence g order _ => WF.guard g && order != .rlx
  | .phi o sp => WF.phase c sp WF.dstNone WF.d2None 2 o
  | .arv o sp => WF.phase c sp (WF.dstV c false) WF.d2None 1 o
  | .arvb o sp => WF.phase c sp (WF.dstV c false) WF.d2None 2 o
  | .wph o sp => WF.phase c sp WF.dstNone WF.d2None 1 o
  | .wphTry o sp => WF.phase c sp WF.dstNone WF.d2P 1 o
  | .cbget o => WF.plain c (WF.dstV c true) (fun _ => true) 1 false false false o && o.d2 < c.vregs &&
      (match o.dst with | .v n => o.d2 == 0 || (o.d2 != n && o.d2 != n + 1) | _ => true)
  | .cbput o => WF.plain c WF.dstNone WF.d2None 2 false false false o
  | .vpub o => WF.plain c (WF.dstV c false) WF.d2None 1 true false false o
  | .publish o => WF.plain c WF.dstNone WF.d2None 1 false false false o
  | .gcp o | .gst o | .gpl o | .mma o | .drain o | .cxBind o | .cxSend o | .cxRed o =>
      WF.plain c WF.dstNone WF.d2None 1 false false false o
  | .ofence g => WF.guard g
  | .mhint o => WF.plain c WF.dstNone WF.d2None 2 false false false o
  | .cxArm o => WF.plain c WF.dstNone WF.d2None 3 false false false o
  | .cxCtrGet o => WF.plain c (WF.dstV c false) WF.d2None 1 false false false o
  | .cxCtrSet o => WF.plain c WF.dstNone WF.d2None 2 false false false o
  | .cxCtrLink o => WF.plain c WF.dstNone WF.d2None 2 false true false o
  | .cxCtrUnlink o => WF.plain c WF.dstNone WF.d2None 1 false false false o
  | .stepAdv o sp => (sp == .loc || sp == .glb) && WF.plain c (WF.dstV c false) WF.d2None 1 (sp == .glb) false false o
  | .stepGet o => WF.plain c (WF.dstV c true) WF.d2None 1 false false false o
  | .stepGetLim o => WF.plain c (WF.dstV c true) WF.d2None 0 false false false o
  | .fork o => WF.plain c WF.dstNone WF.d2P 1 false false false o
  | .keepDeclMust o | .keepDeclBest o => WF.plain c (WF.dstV c false) WF.d2P 2 true false false o
  | .keepDeclDrop o => WF.plain c WF.dstNone WF.d2P 1 false false false o
  | .keepQryUse o => WF.plain c (WF.dstV c false) WF.d2None 0 false false false o
  | .keepQryRec o => WF.plain c (WF.dstV c false) WF.d2None 2 false false false o
  | .keepQryLd o => WF.plain c WF.dstNone WF.d2P 2 false true false o
  | .csrr o n => WF.csrOp c n 0 o
  | .csrw o n | .csrwSet o n | .csrwClr o n => WF.csrOp c n 1 o
  | .iret g | .iretKill g | .tlbsdAll g => WF.guard g
  | .rqRd o => WF.plain c (WF.dstV c false) WF.d2None 2 false false false o
  | .rqWr o => WF.plain c WF.dstNone WF.d2None 3 false false false o
  | .tlbsdVa o => WF.plain c WF.dstNone WF.d2None 2 true false false o
  | .sealMeas o | .sealImg o | .sealRst o => WF.plain c WF.dstNone WF.d2P 1 false false false o
  | .hmRd o => WF.plain c (WF.dstV c false) WF.d2None 1 false false false o
  | .nopCompact => true
  | .addCompact o | .subCompact o => WF.half c WF.cIntTys true 2 o
  | .minCompact o | .maxCompact o | .mulCompact o | .madCompact o => WF.half c WF.cIntTys false 2 o
  | .absCompact o | .negCompact o => WF.half c [.s32, .s16x2] false 1 o
  | .andCompact o | .orCompact o | .xorCompact o | .andnCompact o => WF.half c [.b32] false 2 o
  | .notCompact o | .movCompact o => WF.half c [.b32] false 1 o
  | .shlCompact o | .shrCompact o => WF.half c [.b32, .s32, .n32] false 2 o
  | .faddCompact o | .fsubCompact o | .fmulCompact o | .ffmaCompact o | .fminCompact o | .fmaxCompact o
  | .fminnumCompact o | .fmaxnumCompact o => WF.half c WF.fTys false 2 o
  | .fabsCompact o | .fnegCompact o => WF.half c WF.fTys false 1 o
  | .publishWriteout .. | .shootdownComplete .. | .lineEntry .. | .breakpoint .. | .trapEntry .. | .loadReturn ..
  | .storeBufferApply .. | .rdcLineEvict .. | .fabricRequest .. | .peerAtomic .. | .yieldThreshold .. | .clusterSwitchOut ..
  | .clusterPlace .. | .agingPromotion .. | .workgroupRetire .. | .deterministicEarlyFree .. | .cbufProducerClaim ..
  | .gougeRowDone .. | .gstRowDone .. | .gplPlaneDone .. | .engineStop .. | .latheRampUpEnd .. | .latheGroupDone ..
  | .latheRampDownEnd .. | .latheHintExpiry .. | .drainTileEvent .. | .bindingNoticeArrival .. | .contributionAdmission ..
  | .contributionArrival .. | .reductionTimerExpiry .. | .resultDelivery .. | .chunkAck .. | .linkFailure .. | .sendLanding ..
  | .sendAck .. | .announcementReceived .. | .quietExpiry .. | .pcmdCreate .. | .pcmdStart .. | .pcmdStop .. | .stopComplete ..
  | .pcmdReset .. | .resetComplete .. | .pcmdResize .. | .gmapWrite .. | .granuleScrubDone .. | .registerWrite .. | .tgCsrWrite ..
  | .hostWindowOpen .. | .hostWindowClose .. | .kick .. | .gload .. | .gloadUnload .. | .vacate .. | .apertureWrite ..
  | .apertureRead .. | .supplyUndervoltage | .thermalTrip | .reserveFault | .reserveCharged | .quiesceComplete
  | .guaranteedSaveComplete | .bestEffortEnd | .restartRecordsComplete | .hmEvent .. | .hmDecay | .hmTempSample ..
  | .sealPeerRequest .. | .sealAckReceived .. | .sealTmoExpiry .. | .sealAttestationReceived .. | .powerUp | .unitReady
  | .pcieCompletionTimeout .. | .sealEngineDone .. => false

end Sys2Proof
end

