-- ==== Sys2Proof/Decode.lean ====
section
/-! DEFINITION. Decoding and encoding of instruction slots (spec/06_encoding.md R150 to R176, and the `MOD` layouts of
the instruction chapters). A slot's bits are first split into fields, the fields are read as an instruction, and the
instruction is legal only if encoding it again gives the same bits (R165: every unused and reserved bit is zero) and
its operands are legal (`Instr.wf`). The encoder follows in the same file. -/

namespace Sys2Proof

/-- Why a bit pattern is not an instruction (R176). All of them raise trap 0x01. -/
inductive DecodeError where
  /-- `OP` or `COP` not assigned, or a type, condition, operator, space or modifier code that is not listed. -/
  | unassigned
  /-- A bit that must be zero is set (R165). -/
  | notZero
  /-- An operand, destination or combination the instruction does not accept (R157 to R167). -/
  | illegal
  /-- A broken pairing rule (R171). -/
  | pairing
  deriving DecidableEq, Repr, Inhabited

/-- The fields of a full-format slot (R156), as numbers. -/
structure Raw where
  op : Nat := 0
  guard : Nat := 0
  gneg : Nat := 0
  dst : Nat := 0
  dclass : Nat := 0
  wide : Nat := 0
  s0 : Nat := 0
  s1 : Nat := 0
  s2 : Nat := 0
  ty : Nat := 0
  mod : Nat := 0
  d2 : Nat := 0
  ext : Nat := 0
  deriving DecidableEq, Repr, Inhabited

/-- The 96 bits of the fields (R156). Bit 29 is zero. -/
def Raw.pack (r : Raw) : Nat :=
  r.op + 2 ^ 10 * (r.guard + 2 ^ 7 * (r.gneg + 2 * (r.dst + 2 ^ 8 * (r.dclass + 2 ^ 2 * (r.wide + 2 ^ 2 *
    (r.s0 + 2 ^ 10 * (r.s1 + 2 ^ 10 * (r.s2 + 2 ^ 10 * (r.ty + 2 ^ 4 * (r.mod + 2 ^ 16 * (r.d2 + 2 ^ 8 * r.ext)))))))))))

/-- The fields of 96 bits (R156). -/
def Raw.unpack (w : Nat) : Raw where
  op := bits w 9 0
  guard := bits w 16 10
  gneg := bits w 17 17
  dst := bits w 25 18
  dclass := bits w 27 26
  wide := bits w 28 28
  s0 := bits w 39 30
  s1 := bits w 49 40
  s2 := bits w 59 50
  ty := bits w 63 60
  mod := bits w 79 64
  d2 := bits w 87 80
  ext := bits w 95 88

/-- The fields of a compact half (R168), as numbers. -/
structure CRaw where
  cop : Nat := 0
  guard : Nat := 0
  gneg : Nat := 0
  dst : Nat := 0
  s0 : Nat := 0
  s1 : Nat := 0
  cty : Nat := 0
  cmod : Nat := 0
  deriving DecidableEq, Repr, Inhabited

/-- The 48 bits of the fields (R168). -/
def CRaw.pack (r : CRaw) : Nat :=
  r.cop + 2 ^ 6 * (r.guard + 2 ^ 7 * (r.gneg + 2 * (r.dst + 2 ^ 8 * (r.s0 + 2 ^ 10 * (r.s1 + 2 ^ 10 *
    (r.cty + 2 ^ 3 * r.cmod))))))

/-- The fields of 48 bits (R168). -/
def CRaw.unpack (w : Nat) : CRaw where
  cop := bits w 5 0
  guard := bits w 12 6
  gneg := bits w 13 13
  dst := bits w 21 14
  s0 := bits w 31 22
  s1 := bits w 41 32
  cty := bits w 44 42
  cmod := bits w 47 45

/-! ### Codes of the fields -/

/-- R160. -/
def Src.code : Src → Nat
  | .v n => n
  | .g n => 256 + n
  | .l n => 512 + n
  | .imm b => 768 + b

/-- R160. -/
def Src.ofCode (k : Nat) : Src :=
  if k < 256 then .v k else if k < 512 then .g (k - 256) else if k < 768 then .l (k - 512) else .imm (k - 768)

/-- R173. -/
def Ty.ofCode : Nat → Option Ty
  | 0 => some .b32 | 1 => some .s32 | 2 => some .n32 | 3 => some .f32 | 4 => some .bf16x2 | 5 => some .f16x2
  | 6 => some .s16x2 | 7 => some .n16x2 | 8 => some .s64 | 9 => some .n64 | 10 => some .b64 | 12 => some .s8x4
  | 13 => some .n8x4 | 14 => some .b1 | _ => none

/-- `DCLASS` (R156, R158). -/
def Dst.cls : Dst → Nat
  | .v _ => 0 | .p _ => 1 | .g _ => 2 | .none => 3

/-- `DST` (R156, R158). -/
def Dst.num : Dst → Nat
  | .v n | .p n | .g n => n
  | .none => 0

/-- R158. -/
def Dst.ofCode (cls n : Nat) : Dst :=
  if cls = 0 then .v n else if cls = 1 then .p n else if cls = 2 then .g n else .none

/-- R166. -/
def Space.code : Space → Nat
  | .loc => 0 | .nbr => 1 | .glb => 2 | .ver => 3 | .host => 4

/-- R166. -/
def Space.ofCode : Nat → Option Space
  | 0 => some .loc | 1 => some .nbr | 2 => some .glb | 3 => some .ver | 4 => some .host | _ => none

/-- R166. -/
def Order.code : Order → Nat
  | .rlx => 0 | .acq => 1 | .rel => 2 | .acqRel => 3

/-- R166. -/
def Order.ofCode : Nat → Option Order
  | 0 => some .rlx | 1 => some .acq | 2 => some .rel | 3 => some .acqRel | _ => none

/-- R166. -/
def Scope.code : Scope → Nat
  | .t => 0 | .gang => 1 | .wg => 2 | .cl => 3 | .pkg => 4 | .pod => 5 | .sys => 6

/-- R166. -/
def Scope.ofCode : Nat → Option Scope
  | 0 => some .t | 1 => some .gang | 2 => some .wg | 3 => some .cl | 4 => some .pkg | 5 => some .pod | 6 => some .sys
  | _ => none

/-- R206, R231. -/
def Comb.code : Comb → Nat
  | .none => 0 | .and => 1 | .or => 2 | .xor => 3

/-- R206, R231. -/
def Comb.ofCode : Nat → Option Comb
  | 0 => some .none | 1 => some .and | 2 => some .or | 3 => some .xor | _ => none

/-- R206. -/
def Cond.code : Cond → Nat
  | .eq => 0 | .ne => 1 | .lt => 2 | .le => 3 | .gt => 4 | .ge => 5

/-- R206. -/
def Cond.ofCode : Nat → Option Cond
  | 0 => some .eq | 1 => some .ne | 2 => some .lt | 3 => some .le | 4 => some .gt | 5 => some .ge | _ => none

/-- R231. -/
def FCond.code : FCond → Nat
  | .eq => 0 | .ne => 1 | .lt => 2 | .le => 3 | .gt => 4 | .ge => 5 | .num => 6
  | .equ => 8 | .neu => 9 | .ltu => 10 | .leu => 11 | .gtu => 12 | .geu => 13 | .nan => 14

/-- R231. -/
def FCond.ofCode : Nat → Option FCond
  | 0 => some .eq | 1 => some .ne | 2 => some .lt | 3 => some .le | 4 => some .gt | 5 => some .ge | 6 => some .num
  | 8 => some .equ | 9 => some .neu | 10 => some .ltu | 11 => some .leu | 12 => some .gtu | 13 => some .geu
  | 14 => some .nan | _ => none

/-- R224. -/
def Rnd.code : Rnd → Nat
  | .rn => 0 | .rz => 1 | .ru => 2 | .rd => 3 | .ro => 4

/-- R224. -/
def Rnd.ofCode : Nat → Option Rnd
  | 0 => some .rn | 1 => some .rz | 2 => some .ru | 3 => some .rd | 4 => some .ro | _ => none

/-- R236. -/
def CvtFmt.code : CvtFmt → Nat
  | .f32 => 0 | .bf16 => 1 | .f16 => 2 | .fp8e4 => 3 | .fp8e5 => 4 | .fp6e2 => 5 | .fp6e3 => 6 | .fp4 => 7
  | .s8 => 8 | .n8 => 9 | .s16 => 10 | .n16 => 11 | .s32 => 12 | .n32 => 13 | .s64 => 14 | .n64 => 15

/-- R236. -/
def CvtFmt.ofCode : Nat → CvtFmt
  | 0 => .f32 | 1 => .bf16 | 2 => .f16 | 3 => .fp8e4 | 4 => .fp8e5 | 5 => .fp6e2 | 6 => .fp6e3 | 7 => .fp4
  | 8 => .s8 | 9 => .n8 | 10 => .s16 | 11 => .n16 | 12 => .s32 | 13 => .n32 | 14 => .s64 | _ => .n64

/-- R235. -/
def CvtMods.code (m : CvtMods) : Nat :=
  m.rnd.code + 2 ^ 3 * (m.dst.code + 2 ^ 4 * (m.src.code + 2 ^ 4 *
    (m.sat.toNat + 2 * (m.pk.toNat + 2 * (m.sel + 2 ^ 2 * m.rint.toNat)))))

/-- R235. -/
def CvtMods.ofCode (k : Nat) : Option CvtMods :=
  (Rnd.ofCode (bits k 2 0)).map fun rnd =>
    { rint := bitAt k 15, sel := bits k 14 13, pk := bitAt k 12, sat := bitAt k 11, src := .ofCode (bits k 10 7),
      dst := .ofCode (bits k 6 3), rnd }

/-- R217. -/
def XOp.code : XOp → Nat
  | .add => 0 | .min => 1 | .max => 2 | .and => 3 | .or => 4 | .xor => 5 | .fadd => 8 | .fmax => 9 | .fmin => 10

/-- R217. -/
def XOp.ofCode : Nat → Option XOp
  | 0 => some .add | 1 => some .min | 2 => some .max | 3 => some .and | 4 => some .or | 5 => some .xor
  | 8 => some .fadd | 9 => some .fmax | 10 => some .fmin | _ => none

/-- R244. -/
def Width.code : Width → Nat
  | .s8 => 0 | .n8 => 1 | .s16 => 2 | .n16 => 3 | .b32 => 4 | .b64 => 5 | .b128 => 6

/-- R244. -/
def Width.ofCode : Nat → Option Width
  | 0 => some .s8 | 1 => some .n8 | 2 => some .s16 | 3 => some .n16 | 4 => some .b32 | 5 => some .b64 | 6 => some .b128
  | _ => none

/-- R251. -/
def AtOp.code : AtOp → Nat
  | .add => 0 | .sub => 1 | .min => 2 | .max => 3 | .and => 4 | .or => 5 | .xor => 6 | .xchg => 7 | .cas => 8

/-- R251. -/
def AtOp.ofCode : Nat → Option AtOp
  | 0 => some .add | 1 => some .sub | 2 => some .min | 3 => some .max | 4 => some .and | 5 => some .or | 6 => some .xor
  | 7 => some .xchg | 8 => some .cas | _ => none

/-- R250: `MOD` of an atomic. -/
def AtMods.modCode (m : AtMods) : Nat := m.op.code + 2 ^ 4 * (m.nr.toNat + 2 * m.b128.toNat)

/-- R166: `EXT` of an atomic or fence. -/
def ordScope (o : Order) (s : Scope) : Nat := s.code + 2 ^ 3 * o.code

/-- R250. -/
def AtMods.ofCode (md ext : Nat) : Option AtMods :=
  match AtOp.ofCode (bits md 3 0), Order.ofCode (bits ext 4 3), Scope.ofCode (bits ext 2 0) with
  | some op, some order, some scope => some { op, nr := bitAt md 4, b128 := bitAt md 5, order, scope }
  | _, _, _ => none

/-- R167: the 30-bit target field. -/
def Target.code (t : Target) : Nat := t.slot + 2 ^ 3 * t.disp.toNat

/-- R167. -/
def Target.ofCode (k : Nat) : Target where
  disp := BitVec.ofNat 27 (k / 2 ^ 3)
  slot := k % 2 ^ 3

/-! ### Fields to instruction -/

/-- R157. -/
def Raw.toGuard (r : Raw) : Guard where
  neg := r.gneg == 1
  p := r.guard

/-- The common fields (R156). -/
def Raw.toOp (r : Raw) (t : Ty) : Op where
  guard := r.toGuard
  dst := .ofCode r.dclass r.dst
  wide := r.wide == 1
  d2 := r.d2
  ty := t
  a := .ofCode r.s0
  b := .ofCode r.s1
  c := .ofCode r.s2

/-- The 30 bits [59:30] (R167). -/
def Raw.target (r : Raw) : Target := .ofCode (r.s0 + 2 ^ 10 * (r.s1 + 2 ^ 10 * r.s2))

/-- Control and predicate opcodes (R174, R185, R195, R196). -/
def Raw.control (r : Raw) (o : Op) : Option Instr :=
  match r.op with
  | 0x000 => some .nop
  | 0x001 => some (.br r.toGuard r.target)
  | 0x002 =>
    if bits r.mod 10 10 = 0 then some (.brpAny r.toGuard r.d2 (.ofCode (bits r.mod 9 0)) r.target)
    else some (.brpAll r.toGuard r.d2 (.ofCode (bits r.mod 9 0)) r.target)
  | 0x003 => some (.call r.toGuard r.target)
  | 0x004 => some (.ret r.toGuard)
  | 0x005 => some (.exit r.toGuard)
  | 0x006 => some (.meet r.toGuard r.target)
  | 0x007 => some (.meetClr r.toGuard)
  | 0x008 => some (.yield r.toGuard)
  | 0x010 => some (.pand o)
  | 0x011 => some (.por o)
  | 0x012 => some (.pxor o)
  | 0x013 => some (.pandn o)
  | 0x014 => some (.pnot o)
  | 0x015 => some (.pmov o)
  | 0x016 => some (.ppack o)
  | 0x017 => some (.punpack o)
  | 0x018 => some (.pcnt o)
  | _ => none

/-- R197: the modifiers of `add` and `sub`. -/
def AddMods.ofCode (k : Nat) : AddMods where
  sat := bitAt k 0
  cw := bitAt k 1
  cr := bitAt k 2

/-- R197. -/
def AddMods.code (m : AddMods) : Nat := m.sat.toNat + 2 * (m.cw.toNat + 2 * m.cr.toNat)

/-- Integer, logic and address opcodes (R174, R197 to R211). -/
def Raw.integer (r : Raw) (o : Op) : Option Instr :=
  match r.op with
  | 0x080 => some (.add o (.ofCode r.mod))
  | 0x081 => some (.sub o (.ofCode r.mod))
  | 0x082 => some (.mul o)
  | 0x083 => some (.mulh o)
  | 0x084 => some (.mad o (bitAt r.mod 0))
  | 0x085 => some (.madh o)
  | 0x086 => some (.min o)
  | 0x087 => some (.max o)
  | 0x088 => some (.abs o (bitAt r.mod 0))
  | 0x089 => some (.neg o (bitAt r.mod 0))
  | 0x08A => some (.and o)
  | 0x08B => some (.or o)
  | 0x08C => some (.xor o)
  | 0x08D => some (.andn o)
  | 0x08E => some (.not o)
  | 0x08F => some (.shl o)
  | 0x090 => some (.shr o)
  | 0x091 => some (.rol o)
  | 0x092 => some (.ror o)
  | 0x093 => if bitAt r.mod 0 then some (.fshL o (bitAt r.mod 1)) else some (.fshR o (bitAt r.mod 1))
  | 0x094 => some (.popc o)
  | 0x095 => some (.clz o)
  | 0x096 => some (.brev o)
  | 0x097 => some (.fxt o)
  | 0x098 => some (.fins o)
  | 0x099 => some (.bsel o (bitAt r.mod 0))
  | 0x09A => match Cond.ofCode (bits r.mod 2 0), Comb.ofCode (bits r.mod 4 3) with
    | some k, some m => some (.cmp o k m)
    | _, _ => none
  | 0x09B => some (.sel o)
  | 0x09C => some (.mov o)
  | 0x09D => some (.lea o (bits r.mod 2 0))
  | 0x09E => some (.sreg o)
  | 0x09F => some (.gmov o)
  | 0x0A0 => (Space.ofCode (bits r.ext 7 5)).map (.gld o)
  | _ => none

/-- Floating-point, conversion, cross-lane and random-number opcodes (R174, R223, R235, R216, R221, R222). -/
def Raw.floating (r : Raw) (o : Op) : Option Instr :=
  match r.op with
  | 0x100 => (Rnd.ofCode (bits r.mod 2 0)).map (.fadd o)
  | 0x101 => (Rnd.ofCode (bits r.mod 2 0)).map (.fsub o)
  | 0x102 => (Rnd.ofCode (bits r.mod 2 0)).map (.fmul o)
  | 0x103 => (Rnd.ofCode (bits r.mod 2 0)).map (.ffma o)
  | 0x104 => some (.fmin o)
  | 0x105 => some (.fmax o)
  | 0x106 => some (.fminnum o)
  | 0x107 => some (.fmaxnum o)
  | 0x108 => some (.fabs o)
  | 0x109 => some (.fneg o)
  | 0x10A => match FCond.ofCode (bits r.mod 3 0), Comb.ofCode (bits r.mod 5 4) with
    | some k, some m => some (.fcmp o k m)
    | _, _ => none
  | 0x10B => if r.dclass = 1 then some (.fclassP o) else some (.fclassV o)
  | 0x110 => (Rnd.ofCode (bits r.mod 2 0)).map (.rcp o)
  | 0x111 => some (.rsq o)
  | 0x112 => (Rnd.ofCode (bits r.mod 2 0)).map (.sqrt o)
  | 0x113 => some (.exp2 o)
  | 0x114 => some (.log2 o)
  | 0x115 => some (.sin o)
  | 0x116 => some (.cos o)
  | 0x120 => (CvtMods.ofCode r.mod).map (.cvt o)
  | 0x180 => some (.xperm o)
  | 0x181 => if bitAt r.mod 0 then some (.xbcFirst o) else some (.xbc o)
  | 0x182 => (XOp.ofCode (bits r.mod 3 0)).map (.xred o)
  | 0x183 => (XOp.ofCode (bits r.mod 3 0)).map fun x => .xscan o x (bitAt r.mod 4)
  | 0x184 => match bits r.mod 1 0 with
    | 0 => some (.xvoteAny o)
    | 1 => some (.xvoteAll o)
    | 2 => some (.xvoteBallot o)
    | _ => none
  | 0x185 => some (.xmatch o)
  | 0x1A0 => some (.rngJump o)
  | 0x1A1 => some (.rngNext o)
  | _ => none

/-- Memory, atomic and synchronisation opcodes (R174, R243 to R272). -/
def Raw.memory (r : Raw) (o : Op) : Option Instr :=
  match r.op with
  | 0x1C0 => (Width.ofCode (bits r.mod 2 0)).map (.ldg o)
  | 0x1C1 => (Width.ofCode (bits r.mod 2 0)).map (.stg o)
  | 0x1C2 => (AtMods.ofCode r.mod r.ext).map (.atg o)
  | 0x1C8 => (Width.ofCode (bits r.mod 2 0)).map (.ldl o)
  | 0x1C9 => (Width.ofCode (bits r.mod 2 0)).map (.stl o)
  | 0x1CA => (AtMods.ofCode r.mod r.ext).map (.atl o)
  | 0x1D0 => (Width.ofCode (bits r.mod 2 0)).map (.ldn o)
  | 0x1D1 => (Width.ofCode (bits r.mod 2 0)).map (.stn o)
  | 0x1D2 => (AtMods.ofCode r.mod r.ext).map (.atn o)
  | 0x1D8 => (Width.ofCode (bits r.mod 2 0)).map (.ldh o)
  | 0x1D9 => (Width.ofCode (bits r.mod 2 0)).map (.sth o)
  | 0x1DA => (AtMods.ofCode r.mod r.ext).map (.ath o)
  | 0x1E0 => (Width.ofCode (bits r.mod 2 0)).map (.ldv o)
  | 0x1F0 => (Order.ofCode (bits r.ext 4 3)).map (.mcas o)
  | 0x240 => match Order.ofCode (bits r.ext 4 3), Scope.ofCode (bits r.ext 2 0) with
    | some od, some sc => some (.fence r.toGuard od sc)
    | _, _ => none
  | 0x248 => (Space.ofCode (bits r.ext 7 5)).map (.phi o)
  | 0x249 => (Space.ofCode (bits r.ext 7 5)).map (.arv o)
  | 0x24A => (Space.ofCode (bits r.ext 7 5)).map (.arvb o)
  | 0x24B => (Space.ofCode (bits r.ext 7 5)).map fun s => if bitAt r.mod 0 then .wphTry o s else .wph o s
  | 0x250 => some (.cbget o)
  | 0x251 => some (.cbput o)
  | 0x258 => some (.vpub o)
  | 0x259 => some (.publish o)
  | _ => none

/-- Engine and system opcodes (R174; spec/10, spec/13 R352, spec/15 R384, R385, spec/16 R404, spec/17). -/
def Raw.system (r : Raw) (o : Op) : Option Instr :=
  match r.op with
  | 0x280 => some (.gcp o)
  | 0x281 => some (.gst o)
  | 0x282 => some (.gpl o)
  | 0x2C0 => some (.ofence r.toGuard)
  | 0x2C1 => some (.mma o)
  | 0x2C2 => some (.mhint o)
  | 0x2C3 => some (.drain o)
  | 0x300 => some (.cxBind o)
  | 0x301 => some (.cxSend o)
  | 0x302 => some (.cxArm o)
  | 0x303 => match bits r.mod 1 0 with
    | 0 => some (.cxCtrGet o)
    | 1 => some (.cxCtrSet o)
    | 2 => some (.cxCtrLink o)
    | _ => some (.cxCtrUnlink o)
  | 0x304 => some (.cxRed o)
  | 0x310 => (Space.ofCode (bits r.ext 7 5)).map (.stepAdv o)
  | 0x311 => if bitAt r.mod 0 then some (.stepGetLim o) else some (.stepGet o)
  | 0x340 => some (.fork o)
  | 0x341 => match bits r.mod 1 0 with
    | 0 => some (.keepDeclMust o)
    | 1 => some (.keepDeclBest o)
    | 2 => some (.keepDeclDrop o)
    | _ => none
  | 0x342 => match bits r.mod 1 0 with
    | 0 => some (.keepQryUse o)
    | 1 => some (.keepQryRec o)
    | 2 => some (.keepQryLd o)
    | _ => none
  | 0x343 => some (.trap r.toGuard (bits r.s0 7 0))
  | 0x360 => some (.csrr o (bits r.mod 11 0))
  | 0x361 => match bits r.mod 13 12 with
    | 0 => some (.csrw o (bits r.mod 11 0))
    | 1 => some (.csrwSet o (bits r.mod 11 0))
    | 2 => some (.csrwClr o (bits r.mod 11 0))
    | _ => none
  | 0x362 => if bitAt r.mod 0 then some (.iretKill r.toGuard) else some (.iret r.toGuard)
  | 0x363 => some (.rqRd o)
  | 0x364 => some (.rqWr o)
  | 0x365 => if bitAt r.mod 0 then some (.tlbsdVa o) else some (.tlbsdAll r.toGuard)
  | 0x366 => match bits r.mod 1 0 with
    | 0 => some (.sealMeas o)
    | 1 => some (.sealImg o)
    | 2 => some (.sealRst o)
    | _ => none
  | 0x367 => some (.hmRd o)
  | _ => none

/-- The instruction that the fields name, before the checks of R165 and `Instr.wf`. -/
def Raw.toInstr (r : Raw) : Option Instr :=
  match Ty.ofCode r.ty with
  | none => none
  | some t =>
    if r.op < 0x080 then r.control (r.toOp t)
    else if r.op < 0x100 then r.integer (r.toOp t)
    else if r.op < 0x1C0 then r.floating (r.toOp t)
    else if r.op < 0x280 then r.memory (r.toOp t)
    else r.system (r.toOp t)

/-- The fields of a compact half (R168). -/
def CRaw.toCOp (r : CRaw) (t : Ty) : COp where
  guard := { neg := r.gneg == 1, p := r.guard }
  dst := r.dst
  ty := t
  a := .ofCode r.s0
  b := .ofCode r.s1
  sat := r.cmod % 2 == 1

/-- The compact half that the fields name (R169), before the checks. -/
def CRaw.toInstr (r : CRaw) : Option Instr :=
  match Ty.ofCode r.cty with
  | none => none
  | some t =>
    match r.cop with
    | 0x00 => some .nopCompact
    | 0x01 => some (.addCompact (r.toCOp t))
    | 0x02 => some (.subCompact (r.toCOp t))
    | 0x03 => some (.minCompact (r.toCOp t))
    | 0x04 => some (.maxCompact (r.toCOp t))
    | 0x05 => some (.absCompact (r.toCOp t))
    | 0x06 => some (.negCompact (r.toCOp t))
    | 0x07 => some (.mulCompact (r.toCOp t))
    | 0x08 => some (.madCompact (r.toCOp t))
    | 0x09 => some (.andCompact (r.toCOp t))
    | 0x0A => some (.orCompact (r.toCOp t))
    | 0x0B => some (.xorCompact (r.toCOp t))
    | 0x0C => some (.andnCompact (r.toCOp t))
    | 0x0D => some (.notCompact (r.toCOp t))
    | 0x0E => some (.shlCompact (r.toCOp t))
    | 0x0F => some (.shrCompact (r.toCOp t))
    | 0x10 => some (.movCompact (r.toCOp t))
    | 0x11 => some (.faddCompact (r.toCOp t))
    | 0x12 => some (.fsubCompact (r.toCOp t))
    | 0x13 => some (.fmulCompact (r.toCOp t))
    | 0x14 => some (.ffmaCompact (r.toCOp t))
    | 0x15 => some (.fminCompact (r.toCOp t))
    | 0x16 => some (.fmaxCompact (r.toCOp t))
    | 0x17 => some (.fminnumCompact (r.toCOp t))
    | 0x18 => some (.fmaxnumCompact (r.toCOp t))
    | 0x19 => some (.fabsCompact (r.toCOp t))
    | 0x1A => some (.fnegCompact (r.toCOp t))
    | _ => none

/-! ### Instruction to fields: the encoder -/

/-- The fields of an operation with opcode `op`, modifiers `md` and extension `ext` (R156). -/
def opRaw (op md ext : Nat) (o : Op) : Raw where
  op := op
  guard := o.guard.p
  gneg := o.guard.neg.toNat
  dst := o.dst.num
  dclass := o.dst.cls
  wide := o.wide.toNat
  s0 := o.a.code
  s1 := o.b.code
  s2 := o.c.code
  ty := o.ty.code
  mod := md
  d2 := o.d2
  ext := ext

/-- The fields of an operation that has a guard alone (R185). -/
def guardRaw (op md ext : Nat) (g : Guard) : Raw where
  op := op
  guard := g.p
  gneg := g.neg.toNat
  dclass := 3
  mod := md
  ext := ext

/-- The fields of a control transfer (R167, R185). -/
def targetRaw (op md d2 : Nat) (g : Guard) (t : Target) : Raw where
  op := op
  guard := g.p
  gneg := g.neg.toNat
  dclass := 3
  s0 := t.code % 2 ^ 10
  s1 := t.code / 2 ^ 10 % 2 ^ 10
  s2 := t.code / 2 ^ 20
  mod := md
  d2 := d2

/-- The fields of a full-format instruction; `none` for compact halves and events. -/
def Instr.toRaw : Instr → Option Raw
  | .nop => some {}
  | .br g t => some (targetRaw 0x001 0 0 g t)
  | .brpAny g p m t => some (targetRaw 0x002 m.code p g t)
  | .brpAll g p m t => some (targetRaw 0x002 (m.code + 2 ^ 10) p g t)
  | .call g t => some (targetRaw 0x003 0 0 g t)
  | .ret g => some (guardRaw 0x004 0 0 g)
  | .exit g => some (guardRaw 0x005 0 0 g)
  | .meet g t => some (targetRaw 0x006 0 0 g t)
  | .meetClr g => some (guardRaw 0x007 0 0 g)
  | .yield g => some (guardRaw 0x008 0 0 g)
  | .trap g k => some { guardRaw 0x343 0 0 g with s0 := 768 + k }
  | .pand o => some (opRaw 0x010 0 0 o)
  | .por o => some (opRaw 0x011 0 0 o)
  | .pxor o => some (opRaw 0x012 0 0 o)
  | .pandn o => some (opRaw 0x013 0 0 o)
  | .pnot o => some (opRaw 0x014 0 0 o)
  | .pmov o => some (opRaw 0x015 0 0 o)
  | .ppack o => some (opRaw 0x016 0 0 o)
  | .punpack o => some (opRaw 0x017 0 0 o)
  | .pcnt o => some (opRaw 0x018 0 0 o)
  | .add o m => some (opRaw 0x080 m.code 0 o)
  | .sub o m => some (opRaw 0x081 m.code 0 o)
  | .mul o => some (opRaw 0x082 0 0 o)
  | .mulh o => some (opRaw 0x083 0 0 o)
  | .mad o s => some (opRaw 0x084 s.toNat 0 o)
  | .madh o => some (opRaw 0x085 0 0 o)
  | .min o => some (opRaw 0x086 0 0 o)
  | .max o => some (opRaw 0x087 0 0 o)
  | .abs o s => some (opRaw 0x088 s.toNat 0 o)
  | .neg o s => some (opRaw 0x089 s.toNat 0 o)
  | .and o => some (opRaw 0x08A 0 0 o)
  | .or o => some (opRaw 0x08B 0 0 o)
  | .xor o => some (opRaw 0x08C 0 0 o)
  | .andn o => some (opRaw 0x08D 0 0 o)
  | .not o => some (opRaw 0x08E 0 0 o)
  | .shl o => some (opRaw 0x08F 0 0 o)
  | .shr o => some (opRaw 0x090 0 0 o)
  | .rol o => some (opRaw 0x091 0 0 o)
  | .ror o => some (opRaw 0x092 0 0 o)
  | .fshR o w => some (opRaw 0x093 (2 * w.toNat) 0 o)
  | .fshL o w => some (opRaw 0x093 (1 + 2 * w.toNat) 0 o)
  | .popc o => some (opRaw 0x094 0 0 o)
  | .clz o => some (opRaw 0x095 0 0 o)
  | .brev o => some (opRaw 0x096 0 0 o)
  | .fxt o => some (opRaw 0x097 0 0 o)
  | .fins o => some (opRaw 0x098 0 0 o)
  | .bsel o f => some (opRaw 0x099 f.toNat 0 o)
  | .cmp o k m => some (opRaw 0x09A (k.code + 2 ^ 3 * m.code) 0 o)
  | .sel o => some (opRaw 0x09B 0 0 o)
  | .mov o => some (opRaw 0x09C 0 0 o)
  | .lea o k => some (opRaw 0x09D k 0 o)
  | .sreg o => some (opRaw 0x09E 0 0 o)
  | .gmov o => some (opRaw 0x09F 0 0 o)
  | .gld o s => some (opRaw 0x0A0 0 (2 ^ 5 * s.code) o)
  | .fadd o r => some (opRaw 0x100 r.code 0 o)
  | .fsub o r => some (opRaw 0x101 r.code 0 o)
  | .fmul o r => some (opRaw 0x102 r.code 0 o)
  | .ffma o r => some (opRaw 0x103 r.code 0 o)
  | .fmin o => some (opRaw 0x104 0 0 o)
  | .fmax o => some (opRaw 0x105 0 0 o)
  | .fminnum o => some (opRaw 0x106 0 0 o)
  | .fmaxnum o => some (opRaw 0x107 0 0 o)
  | .fabs o => some (opRaw 0x108 0 0 o)
  | .fneg o => some (opRaw 0x109 0 0 o)
  | .fcmp o k m => some (opRaw 0x10A (k.code + 2 ^ 4 * m.code) 0 o)
  | .fclassV o => some (opRaw 0x10B 0 0 o)
  | .fclassP o => some (opRaw 0x10B 0 0 o)
  | .rcp o r => some (opRaw 0x110 r.code 0 o)
  | .sqrt o r => some (opRaw 0x112 r.code 0 o)
  | .rsq o => some (opRaw 0x111 0 0 o)
  | .exp2 o => some (opRaw 0x113 0 0 o)
  | .log2 o => some (opRaw 0x114 0 0 o)
  | .sin o => some (opRaw 0x115 0 0 o)
  | .cos o => some (opRaw 0x116 0 0 o)
  | .cvt o m => some (opRaw 0x120 m.code 0 o)
  | .xperm o => some (opRaw 0x180 0 0 o)
  | .xbc o => some (opRaw 0x181 0 0 o)
  | .xbcFirst o => some (opRaw 0x181 1 0 o)
  | .xred o x => some (opRaw 0x182 x.code 0 o)
  | .xscan o x e => some (opRaw 0x183 (x.code + 2 ^ 4 * e.toNat) 0 o)
  | .xvoteAny o => some (opRaw 0x184 0 0 o)
  | .xvoteAll o => some (opRaw 0x184 1 0 o)
  | .xvoteBallot o => some (opRaw 0x184 2 0 o)
  | .xmatch o => some (opRaw 0x185 0 0 o)
  | .rngNext o => some (opRaw 0x1A1 0 0 o)
  | .rngJump o => some (opRaw 0x1A0 0 0 o)
  | .ldg o w => some (opRaw 0x1C0 w.code 0 o)
  | .stg o w => some (opRaw 0x1C1 w.code 0 o)
  | .atg o m => some (opRaw 0x1C2 m.modCode (ordScope m.order m.scope) o)
  | .ldl o w => some (opRaw 0x1C8 w.code 0 o)
  | .stl o w => some (opRaw 0x1C9 w.code 0 o)
  | .atl o m => some (opRaw 0x1CA m.modCode (ordScope m.order m.scope) o)
  | .ldn o w => some (opRaw 0x1D0 w.code 0 o)
  | .stn o w => some (opRaw 0x1D1 w.code 0 o)
  | .atn o m => some (opRaw 0x1D2 m.modCode (ordScope m.order m.scope) o)
  | .ldh o w => some (opRaw 0x1D8 w.code 0 o)
  | .sth o w => some (opRaw 0x1D9 w.code 0 o)
  | .ath o m => some (opRaw 0x1DA m.modCode (ordScope m.order m.scope) o)
  | .ldv o w => some (opRaw 0x1E0 w.code 0 o)
  | .mcas o od => some (opRaw 0x1F0 0 (ordScope od .pkg) o)
  | .fence g od sc => some (guardRaw 0x240 0 (ordScope od sc) g)
  | .phi o s => some (opRaw 0x248 0 (2 ^ 5 * s.code) o)
  | .arv o s => some (opRaw 0x249 0 (2 ^ 5 * s.code) o)
  | .arvb o s => some (opRaw 0x24A 0 (2 ^ 5 * s.code) o)
  | .wph o s => some (opRaw 0x24B 0 (2 ^ 5 * s.code) o)
  | .wphTry o s => some (opRaw 0x24B 1 (2 ^ 5 * s.code) o)
  | .cbget o => some (opRaw 0x250 0 0 o)
  | .cbput o => some (opRaw 0x251 0 0 o)
  | .vpub o => some (opRaw 0x258 0 0 o)
  | .publish o => some (opRaw 0x259 0 0 o)
  | .gcp o => some (opRaw 0x280 0 0 o)
  | .gst o => some (opRaw 0x281 0 0 o)
  | .gpl o => some (opRaw 0x282 0 0 o)
  | .ofence g => some (guardRaw 0x2C0 0 0 g)
  | .mma o => some (opRaw 0x2C1 0 0 o)
  | .mhint o => some (opRaw 0x2C2 0 0 o)
  | .drain o => some (opRaw 0x2C3 0 0 o)
  | .cxBind o => some (opRaw 0x300 0 0 o)
  | .cxSend o => some (opRaw 0x301 0 0 o)
  | .cxArm o => some (opRaw 0x302 0 0 o)
  | .cxCtrGet o => some (opRaw 0x303 0 0 o)
  | .cxCtrSet o => some (opRaw 0x303 1 0 o)
  | .cxCtrLink o => some (opRaw 0x303 2 0 o)
  | .cxCtrUnlink o => some (opRaw 0x303 3 0 o)
  | .cxRed o => some (opRaw 0x304 0 0 o)
  | .stepAdv o s => some (opRaw 0x310 0 (2 ^ 5 * s.code) o)
  | .stepGet o => some (opRaw 0x311 0 0 o)
  | .stepGetLim o => some (opRaw 0x311 1 0 o)
  | .fork o => some (opRaw 0x340 0 0 o)
  | .keepDeclMust o => some (opRaw 0x341 0 0 o)
  | .keepDeclBest o => some (opRaw 0x341 1 0 o)
  | .keepDeclDrop o => some (opRaw 0x341 2 0 o)
  | .keepQryUse o => some (opRaw 0x342 0 0 o)
  | .keepQryRec o => some (opRaw 0x342 1 0 o)
  | .keepQryLd o => some (opRaw 0x342 2 0 o)
  | .csrr o n => some (opRaw 0x360 n 0 o)
  | .csrw o n => some (opRaw 0x361 n 0 o)
  | .csrwSet o n => some (opRaw 0x361 (n + 2 ^ 12) 0 o)
  | .csrwClr o n => some (opRaw 0x361 (n + 2 * 2 ^ 12) 0 o)
  | .iret g => some (guardRaw 0x362 0 0 g)
  | .iretKill g => some (guardRaw 0x362 1 0 g)
  | .rqRd o => some (opRaw 0x363 0 0 o)
  | .rqWr o => some (opRaw 0x364 0 0 o)
  | .tlbsdAll g => some (guardRaw 0x365 0 0 g)
  | .tlbsdVa o => some (opRaw 0x365 1 0 o)
  | .sealMeas o => some (opRaw 0x366 0 0 o)
  | .sealImg o => some (opRaw 0x366 1 0 o)
  | .sealRst o => some (opRaw 0x366 2 0 o)
  | .hmRd o => some (opRaw 0x367 0 0 o)
  | _ => none

/-- The fields of a compact half with opcode `cop` (R168). -/
def halfRaw (cop : Nat) (o : COp) : CRaw where
  cop := cop
  guard := o.guard.p
  gneg := o.guard.neg.toNat
  dst := o.dst
  s0 := o.a.code
  s1 := o.b.code
  cty := o.ty.code
  cmod := o.sat.toNat

/-- The fields of a compact half (R169); `none` for every other instruction. -/
def Instr.toCRaw : Instr → Option CRaw
  | .nopCompact => some {}
  | .addCompact o => some (halfRaw 0x01 o)
  | .subCompact o => some (halfRaw 0x02 o)
  | .minCompact o => some (halfRaw 0x03 o)
  | .maxCompact o => some (halfRaw 0x04 o)
  | .absCompact o => some (halfRaw 0x05 o)
  | .negCompact o => some (halfRaw 0x06 o)
  | .mulCompact o => some (halfRaw 0x07 o)
  | .madCompact o => some (halfRaw 0x08 o)
  | .andCompact o => some (halfRaw 0x09 o)
  | .orCompact o => some (halfRaw 0x0A o)
  | .xorCompact o => some (halfRaw 0x0B o)
  | .andnCompact o => some (halfRaw 0x0C o)
  | .notCompact o => some (halfRaw 0x0D o)
  | .shlCompact o => some (halfRaw 0x0E o)
  | .shrCompact o => some (halfRaw 0x0F o)
  | .movCompact o => some (halfRaw 0x10 o)
  | .faddCompact o => some (halfRaw 0x11 o)
  | .fsubCompact o => some (halfRaw 0x12 o)
  | .fmulCompact o => some (halfRaw 0x13 o)
  | .ffmaCompact o => some (halfRaw 0x14 o)
  | .fminCompact o => some (halfRaw 0x15 o)
  | .fmaxCompact o => some (halfRaw 0x16 o)
  | .fminnumCompact o => some (halfRaw 0x17 o)
  | .fmaxnumCompact o => some (halfRaw 0x18 o)
  | .fabsCompact o => some (halfRaw 0x19 o)
  | .fnegCompact o => some (halfRaw 0x1A o)
  | _ => none

/-- The bits of an instruction: 96 for a full-format operation, 48 for a compact half; `none` for an event, which has
no encoding. -/
def encode (i : Instr) : Option Nat :=
  match i.toRaw with
  | some r => some r.pack
  | none => i.toCRaw.map CRaw.pack

/-! ### Decoding -/

/-- R155, R176: a full-format slot of 96 bits. -/
def decodeFull (c : Ctx) (w : Nat) : Except DecodeError Instr :=
  match (Raw.unpack w).toInstr with
  | none => .error .unassigned
  | some i =>
    if i.toRaw.map Raw.pack ≠ some w then .error .notZero
    else if i.wf c then .ok i else .error .illegal

/-- R168, R169: a compact half of 48 bits. -/
def decodeHalf (c : Ctx) (w : Nat) : Except DecodeError Instr :=
  match (CRaw.unpack w).toInstr with
  | none => .error .unassigned
  | some i =>
    if i.toCRaw.map CRaw.pack ≠ some w then .error .notZero
    else if i.wf c then .ok i else .error .illegal

/-- What the pairing rules look at in a half (R171): destination, vector registers read, multiply class, and whether it
names `l0`. -/
structure HalfUse where
  dst : Nat
  reads : List Nat
  mulClass : Bool
  l0 : Bool
  deriving DecidableEq, Repr

/-- The vector register a source reads. -/
def Src.vreads : Src → List Nat
  | .v n => [n]
  | _ => []

/-- The use of a half with `n` sources; `addend` says that it also reads its destination. -/
def halfUse (n : Nat) (addend mulClass : Bool) (o : COp) : HalfUse where
  dst := o.dst
  reads := o.a.vreads ++ (if n < 2 then [] else o.b.vreads) ++ (if addend then [o.dst] else [])
  mulClass := mulClass
  l0 := o.a == .l 0 || (2 ≤ n && o.b == .l 0)

/-- R169: the use of each compact half; a compact `nop` uses nothing. -/
def Instr.halfUse? : Instr → Option HalfUse
  | .addCompact o | .subCompact o | .minCompact o | .maxCompact o | .andCompact o | .orCompact o | .xorCompact o
  | .andnCompact o | .shlCompact o | .shrCompact o | .faddCompact o | .fsubCompact o | .fminCompact o | .fmaxCompact o
  | .fminnumCompact o | .fmaxnumCompact o => some (halfUse 2 false false o)
  | .mulCompact o | .fmulCompact o => some (halfUse 2 false true o)
  | .madCompact o | .ffmaCompact o => some (halfUse 2 true true o)
  | .absCompact o | .negCompact o | .notCompact o | .movCompact o | .fabsCompact o | .fnegCompact o =>
    some (halfUse 1 false false o)
  | _ => none

/-- R171: whether two halves may share a slot. -/
def pairOk (lo hi : Instr) : Bool :=
  match lo.halfUse?, hi.halfUse? with
  | some a, some b =>
    a.dst % 4 != b.dst % 4 && !b.reads.contains a.dst && !a.reads.contains b.dst &&
    (List.range 4).all (fun k => ((a.reads ++ b.reads).filter (fun n => n % 4 == k)).length ≤ 2) &&
    !(a.mulClass && b.mulClass) && !b.l0
  | none, some b => !b.l0 && (List.range 4).all (fun k => (b.reads.filter (fun n => n % 4 == k)).length ≤ 2)
  | some a, none => (List.range 4).all (fun k => (a.reads.filter (fun n => n % 4 == k)).length ≤ 2)
  | none, none => true

/-- What a slot holds once decoded. -/
inductive Slot where
  | full (i : Instr)
  | pair (lo hi : Instr)
  deriving DecidableEq, Repr, Inhabited

/-- R155, R168, R171: the slot of 96 bits `w`; `paired` is its `PAIR` bit. Both halves are checked before either
issues. -/
def decodeSlot (c : Ctx) (paired : Bool) (w : Nat) : Except DecodeError Slot :=
  if paired then
    match decodeHalf c (w % 2 ^ 48), decodeHalf c (w / 2 ^ 48) with
    | .ok lo, .ok hi => if pairOk lo hi then .ok (.pair lo hi) else .error .pairing
    | .error e, _ => .error e
    | .ok _, .error e => .error e
  else (decodeFull c w).map .full

/-- The context in which every register number is declared and member masks are 32 bits wide or less. -/
def Ctx.table : Ctx := { vregs := 256, w := 32 }

/-- The instruction that the decoder reads from the `nbits` low bits `w` of spec/opcode_table.json's numbering (higher
bits zero): 48 bits are a compact half in the low half of a slot whose other half is the compact `nop`; any other count
is a full-format slot. -/
def decodeTableWord (nbits w : Nat) : Option Instr :=
  if nbits ≤ 48 then
    match decodeSlot .table true w with
    | .ok (.pair lo _) => some lo
    | _ => none
  else
    match decodeSlot .table false w with
    | .ok (.full i) => some i
    | _ => none

/-- R175: the opcodes that only a gang at handler level may decode. -/
def Instr.privileged : Instr → Bool
  | .csrr .. | .csrw .. | .csrwSet .. | .csrwClr .. | .iret .. | .iretKill .. | .rqRd .. | .rqWr .. | .tlbsdAll ..
  | .tlbsdVa .. | .sealMeas .. | .sealImg .. | .sealRst .. | .hmRd .. => true
  | _ => false

end Sys2Proof
end

