-- ==== Sys2Proof/Machine/Float.lean ====
section
/-! DEFINITION. Number formats and arithmetic (spec/02_numbers.md R49 to R84; spec/08 R223 to R241). A finite value is
`m * 2^e` with a sign, exactly; rounding goes onto the extended grid of R66 and then through the overflow rule of the
format (R67, R68). Special functions are computed in wide fixed point with a sticky bit (R233, R234). -/

namespace Sys2Proof

/-- What the largest codes of a format mean (R49, R68): infinity and NaNs, one NaN, or finite values only. -/
inductive FKind where
  | ieee | nanOnly | finite
  deriving DecidableEq, Repr, Inhabited

/-- A floating-point storage format (R49, R60). -/
structure Fmt where
  e : Nat
  f : Nat
  bias : Nat
  kind : FKind
  deriving DecidableEq, Repr, Inhabited

/-- fp32 (R49). -/
def Fmt.f32 : Fmt := { e := 8, f := 23, bias := 127, kind := .ieee }
/-- bf16 (R49). -/
def Fmt.bf16 : Fmt := { e := 8, f := 7, bias := 127, kind := .ieee }
/-- fp16 (R49). -/
def Fmt.f16 : Fmt := { e := 5, f := 10, bias := 15, kind := .ieee }
/-- fp8e5 (R49). -/
def Fmt.fp8e5 : Fmt := { e := 5, f := 2, bias := 15, kind := .ieee }
/-- fp8e4 (R49). -/
def Fmt.fp8e4 : Fmt := { e := 4, f := 3, bias := 7, kind := .nanOnly }
/-- fp6e3 (R49). -/
def Fmt.fp6e3 : Fmt := { e := 3, f := 2, bias := 3, kind := .finite }
/-- fp6e2 (R49). -/
def Fmt.fp6e2 : Fmt := { e := 2, f := 3, bias := 1, kind := .finite }
/-- fp4 (R49). -/
def Fmt.fp4 : Fmt := { e := 2, f := 1, bias := 1, kind := .finite }
/-- k12 (R60). -/
def Fmt.k12 : Fmt := { e := 6, f := 5, bias := 31, kind := .ieee }

/-- Bits of an encoding. -/
def Fmt.width (F : Fmt) : Nat := 1 + F.e + F.f

/-- The magnitude code of infinity in a format that has one. -/
def Fmt.infCode (F : Fmt) : Nat := (2 ^ F.e - 1) * 2 ^ F.f

/-- The magnitude code of the largest finite value (R49). -/
def Fmt.maxCode (F : Fmt) : Nat :=
  match F.kind with
  | .ieee => F.infCode - 1
  | .nanOnly => 2 ^ (F.e + F.f) - 2
  | .finite => 2 ^ (F.e + F.f) - 1

/-- The canonical NaN (R70); formats without NaN use +0, as a NaN converts to it (R68). -/
def Fmt.nan (F : Fmt) : Nat :=
  match F.kind with
  | .ieee => F.infCode + 2 ^ (F.f - 1)
  | .nanOnly => 2 ^ (F.e + F.f) - 1
  | .finite => 0

/-- The exponent of the smallest subnormal: the weight of the least significant bit at `E` = 0 and 1. -/
def Fmt.qmin (F : Fmt) : Int := 1 - (F.bias : Int) - F.f

/-- The value of an encoding (R49): `fin neg m e` is (−1)^neg × m × 2^e. -/
inductive Val where
  | nan
  | inf (neg : Bool)
  | fin (neg : Bool) (m : Nat) (e : Int)
  deriving DecidableEq, Repr, Inhabited

/-- R49, R50. -/
def Fmt.decode (F : Fmt) (x : Nat) : Val :=
  let neg := bitAt x (F.e + F.f)
  let code := x % 2 ^ (F.e + F.f)
  let E := code / 2 ^ F.f
  let fr := code % 2 ^ F.f
  if F.kind == .ieee && F.infCode < code then .nan
  else if F.kind == .ieee && code == F.infCode then .inf neg
  else if F.kind == .nanOnly && F.maxCode < code then .nan
  else if E == 0 then .fin neg fr F.qmin
  else .fin neg (2 ^ F.f + fr) (F.qmin + (E - 1))

/-- Whether a magnitude with `n` complete units and a remainder goes to `n + 1` (R66). `rem` of `2^sh` (`0 < sh`) units
is left, with `sticky` for anything beyond it. -/
def roundUp (r : Rnd) (neg : Bool) (n rem sh : Nat) (sticky : Bool) : Bool :=
  let inexact := rem != 0 || sticky
  match r with
  | .rn => 2 ^ (sh - 1) < rem || (rem == 2 ^ (sh - 1) && (sticky || n % 2 == 1))
  | .rz => false
  | .ru => inexact && !neg
  | .rd => inexact && neg
  | .ro => inexact && n % 2 == 0

/-- `m * 2^e` (and a little more when `sticky`) in units of 2^q, rounded in the mode (R66). -/
def roundUnits (r : Rnd) (neg : Bool) (m : Nat) (e q : Int) (sticky : Bool) : Nat :=
  if q ≤ e then m * 2 ^ (e - q).toNat
  else
    let sh := (q - e).toNat
    let n := m / 2 ^ sh
    n + (roundUp r neg n (m % 2 ^ sh) sh sticky).toNat

/-- The result of a rounding into a format, and whether R68 clamped it. -/
structure Rounded where
  bits : Nat
  clamped : Bool := false
  deriving DecidableEq, Repr, Inhabited

/-- The sign bit of a format. -/
def Fmt.signBit (F : Fmt) (neg : Bool) : Nat := neg.toNat * 2 ^ (F.e + F.f)

/-- R67: overflow in a format with infinity. -/
def Fmt.overflow (F : Fmt) (r : Rnd) (neg : Bool) : Nat :=
  let toInf := match r with
    | .rn => true
    | .rz | .ro => false
    | .ru => !neg
    | .rd => neg
  F.signBit neg + (if toInf then F.infCode else F.maxCode)

/-- R66 to R69: the rounded encoding of (−1)^neg × (m × 2^e), plus a little when `sticky`. A sticky magnitude must have
`m` of at least `F.f + 2` bits, or `e` two below `F.qmin`. -/
def Fmt.round (F : Fmt) (r : Rnd) (neg : Bool) (m : Nat) (e : Int) (sticky : Bool := false) : Rounded :=
  let q := max (e + (Nat.log2 m : Int) - F.f) F.qmin
  let n := roundUnits r neg m e q sticky
  let code := if n == 0 then 0 else (q - F.qmin).toNat * 2 ^ F.f + n
  if code ≤ F.maxCode then { bits := F.signBit neg + code }
  else match F.kind with
    | .ieee => { bits := F.overflow r neg }
    | _ => { bits := F.signBit neg + F.maxCode, clamped := true }

/-- R66 on the integers (R72, R240). -/
def roundInt (r : Rnd) (neg : Bool) (m : Nat) (e : Int) : Int :=
  let n := roundUnits r neg m e 0 false
  if neg then -(n : Int) else n

/-- The signed integer of a finite value in units of 2^q, for q at most its exponent. -/
def units (neg : Bool) (m : Nat) (e q : Int) : Int :=
  let n : Int := ((m * 2 ^ (e - q).toNat : Nat) : Int)
  if neg then -n else n

/-- An encoding of an exact sum `s * 2^q`, where `zneg` is the sign of a zero sum. -/
def Fmt.ofSum (F : Fmt) (r : Rnd) (s : Int) (q : Int) (zneg : Bool) : Nat :=
  if s == 0 then F.signBit zneg else (F.round r (s < 0) s.natAbs q).bits

/-- R69: the sign of a zero sum. -/
def zeroSumNeg (r : Rnd) (n1 n2 : Bool) : Bool := if n1 == n2 then n1 else r == .rd

/-- The exact sum of two values rounded once (R227, R69, R70). -/
def Fmt.addVal (F : Fmt) (r : Rnd) : Val → Val → Nat
  | .nan, _ => F.nan
  | _, .nan => F.nan
  | .inf a, .inf b => if a == b then F.signBit a + F.infCode else F.nan
  | .inf a, .fin .. => F.signBit a + F.infCode
  | .fin .., .inf b => F.signBit b + F.infCode
  | .fin n1 m1 e1, .fin n2 m2 e2 =>
    let q := min e1 e2
    F.ofSum r (units n1 m1 e1 q + units n2 m2 e2 q) q (zeroSumNeg r n1 n2)

/-- The exact product, with its sign even when zero or infinite (R227, R228). -/
def Val.mul : Val → Val → Val
  | .nan, _ => .nan
  | _, .nan => .nan
  | .inf a, .inf b => .inf (a != b)
  | .inf a, .fin b m _ => if m == 0 then .nan else .inf (a != b)
  | .fin a m _, .inf b => if m == 0 then .nan else .inf (a != b)
  | .fin a m e, .fin b m' e' => .fin (a != b) (m * m') (e + e')

/-- Negation of a value; a NaN stays. -/
def Val.neg : Val → Val
  | .nan => .nan
  | .inf a => .inf (!a)
  | .fin a m e => .fin (!a) m e

/-- A value rounded into a format (R66 to R70), special values kept where the format has them (R68, R238). -/
def Fmt.ofVal (F : Fmt) (r : Rnd) : Val → Rounded
  | .nan => { bits := F.nan }
  | .inf neg =>
    match F.kind with
    | .ieee => { bits := F.signBit neg + F.infCode }
    | .nanOnly => { bits := F.nan }
    | .finite => { bits := F.signBit neg + F.maxCode }
  | .fin neg m e => if m == 0 then { bits := F.signBit neg } else F.round r neg m e

/-- R227: `fadd`. -/
def Fmt.add (F : Fmt) (r : Rnd) (x y : Nat) : Nat := F.addVal r (F.decode x) (F.decode y)

/-- R227: `fsub`. -/
def Fmt.sub (F : Fmt) (r : Rnd) (x y : Nat) : Nat := F.addVal r (F.decode x) (F.decode y).neg

/-- R227: `fmul`. -/
def Fmt.mul (F : Fmt) (r : Rnd) (x y : Nat) : Nat := (F.ofVal r ((F.decode x).mul (F.decode y))).bits

/-- R228: `ffma`. -/
def Fmt.fma (F : Fmt) (r : Rnd) (x y z : Nat) : Nat := F.addVal r ((F.decode x).mul (F.decode y)) (F.decode z)

/-! ### Order, minimum and maximum (R83, R229, R231) -/

/-- The place of a non-NaN encoding in the order −∞ < … < −0 < +0 < … < +∞. -/
def Fmt.key (F : Fmt) (x : Nat) : Int :=
  let c := x % 2 ^ (F.e + F.f)
  if bitAt x (F.e + F.f) then -(c : Int) - 1 else c

/-- Whether an encoding is a NaN. -/
def Fmt.isNan (F : Fmt) (x : Nat) : Bool := F.decode x == .nan

/-- IEEE 754-2019 minimum, or maximum when `big` (R83, R229). -/
def Fmt.extremum (F : Fmt) (big : Bool) (x y : Nat) : Nat :=
  if F.isNan x || F.isNan y then F.nan
  else if big == decide (F.key x < F.key y) then y else x

/-- minimumNumber, or maximumNumber when `big` (R229). -/
def Fmt.extremumNum (F : Fmt) (big : Bool) (x y : Nat) : Nat :=
  if F.isNan x then (if F.isNan y then F.nan else y)
  else if F.isNan y then x
  else F.extremum big x y

/-- R230. -/
def Fmt.abs (F : Fmt) (x : Nat) : Nat := if F.isNan x then F.nan else x % 2 ^ (F.e + F.f)

/-- R230. -/
def Fmt.negate (F : Fmt) (x : Nat) : Nat :=
  if F.isNan x then F.nan else x % 2 ^ (F.e + F.f) + F.signBit (!bitAt x (F.e + F.f))

/-- The order of two numbers, in which the zeros are equal (R231). -/
def Fmt.numKey (F : Fmt) (x : Nat) : Int :=
  let c := x % 2 ^ (F.e + F.f)
  if bitAt x (F.e + F.f) then -(c : Int) else c

/-- R231: the relation of a condition on two numbers. -/
def fcondRel (k : FCond) (x y : Int) : Bool :=
  match k with
  | .eq | .equ => x == y
  | .ne | .neu => x != y
  | .lt | .ltu => x < y
  | .le | .leu => x ≤ y
  | .gt | .gtu => y < x
  | .ge | .geu => y ≤ x
  | .num => true
  | .nan => false

/-- R231: whether a condition holds when an operand is NaN. -/
def fcondNan : FCond → Bool
  | .equ | .neu | .ltu | .leu | .gtu | .geu | .nan => true
  | _ => false

/-- R231. -/
def Fmt.compare (F : Fmt) (k : FCond) (x y : Nat) : Bool :=
  if F.isNan x || F.isNan y then fcondNan k else fcondRel k (F.numKey x) (F.numKey y)

/-- R232: the one-hot class word. -/
def Fmt.classify (F : Fmt) (x : Nat) : Nat :=
  match F.decode x with
  | .nan => 1
  | .inf neg => if neg then 2 else 256
  | .fin neg m e =>
    if m == 0 then (if neg then 16 else 32)
    else if e == F.qmin && m < 2 ^ F.f then (if neg then 8 else 64)
    else (if neg then 4 else 128)

/-! ### Fixed point (R233, R234) -/

/-- Floor of the square root of `n`, for `n < 4^k`, building on the bits already found. -/
def isqrtGo (n : Nat) : Nat → Nat → Nat
  | 0, r => r
  | k + 1, r => isqrtGo n k (if (r + 2 ^ k) * (r + 2 ^ k) ≤ n then r + 2 ^ k else r)

/-- Floor of the square root of `n < 4^k`. -/
def isqrt (n k : Nat) : Nat := isqrtGo n k 0

/-- R233: `rcp`. -/
def frcp (r : Rnd) (x : Nat) : Nat :=
  match Fmt.f32.decode x with
  | .nan => Fmt.f32.nan
  | .inf neg => Fmt.f32.signBit neg
  | .fin neg m e =>
    if m == 0 then Fmt.f32.signBit neg + Fmt.f32.infCode
    else (Fmt.f32.round r neg (2 ^ 64 / m) (-64 - e) (2 ^ 64 % m != 0)).bits

/-- R233: `sqrt`. -/
def fsqrt (r : Rnd) (x : Nat) : Nat :=
  match Fmt.f32.decode x with
  | .nan => Fmt.f32.nan
  | .inf neg => if neg then Fmt.f32.nan else Fmt.f32.infCode
  | .fin neg m e =>
    if m == 0 then Fmt.f32.signBit neg
    else if neg then Fmt.f32.nan
    else
      let odd := e % 2 == 1
      let m' := (if odd then 2 * m else m) * 2 ^ 64
      let e' := (if odd then e - 1 else e) - 64
      let s := isqrt m' 48
      (Fmt.f32.round r false s (e' / 2) (s * s != m')).bits

/-- R234: `rsq`, RNE on this part. -/
def frsq (x : Nat) : Nat :=
  match Fmt.f32.decode x with
  | .nan => Fmt.f32.nan
  | .inf neg => if neg then Fmt.f32.nan else 0
  | .fin neg m e =>
    if m == 0 then Fmt.f32.signBit neg + Fmt.f32.infCode
    else if neg then Fmt.f32.nan
    else
      let odd := e % 2 == 1
      let m' := if odd then 2 * m else m
      let e' := if odd then e - 1 else e
      let s := isqrt (2 ^ 128 / m') 65
      (Fmt.f32.round .rn false s (-64 - e' / 2) (s * s * m' != 2 ^ 128)).bits

/-- Bits after the binary point of the fixed-point functions. -/
def fixP : Nat := 640

/-- Sum of `t_k / (2k+1)` with `t_{k+1} = t_k / d` and alternating signs when `alt`: the series of arctangent and
inverse hyperbolic tangent. -/
def atanSeries (d : Nat) (alt : Bool) : Nat → Nat → Nat → Int → Int
  | 0, _, _, acc => acc
  | n + 1, k, t, acc =>
    atanSeries d alt n (k + 1) (t / d)
      (acc + (if alt && k % 2 == 1 then -((t / (2 * k + 1) : Nat) : Int) else ((t / (2 * k + 1) : Nat) : Int)))

/-- π in fixed point: 16 atan(1/5) − 4 atan(1/239). -/
def piFix : Nat :=
  (16 * atanSeries 25 true 150 0 (2 ^ fixP / 5) 0 - 4 * atanSeries 57121 true 50 0 (2 ^ fixP / 239) 0).toNat

/-- ln 2 in fixed point: 2 atanh(1/3). -/
def ln2Fix : Nat := (2 * atanSeries 9 false 210 0 (2 ^ fixP / 3) 0).toNat

/-- Sum of x^k / k! from the current term on, for a fixed-point x. -/
def expSeries (x : Nat) : Nat → Nat → Nat → Nat → Nat
  | 0, _, _, acc => acc
  | n + 1, k, t, acc => expSeries x n (k + 1) (t * x / 2 ^ fixP / (k + 1)) (acc + t)

/-- A value as a fixed-point integer rounded toward −∞. -/
def toFix (neg : Bool) (m : Nat) (e : Int) : Int :=
  let s := e + fixP
  let n : Int := if 0 ≤ s then ((m * 2 ^ s.toNat : Nat) : Int) else ((m / 2 ^ (-s).toNat : Nat) : Int)
  if neg then -n else n

/-- R234: `exp2`. -/
def fexp2 (x : Nat) : Nat :=
  match Fmt.f32.decode x with
  | .nan => Fmt.f32.nan
  | .inf neg => if neg then 0 else Fmt.f32.infCode
  | .fin neg m e =>
    let big := 9 ≤ e + (Nat.log2 m : Int) && m != 0
    if big then (if neg then 0 else Fmt.f32.infCode)
    else
      let fx := toFix neg m e
      let ip := fx / ((2 ^ fixP : Nat) : Int)
      let fr := (fx % ((2 ^ fixP : Nat) : Int)).toNat
      if 128 ≤ ip then Fmt.f32.infCode
      else if fr == 0 then (Fmt.f32.round .rn false 1 ip).bits
      else
        let y := expSeries (fr * ln2Fix / 2 ^ fixP) 140 0 (2 ^ fixP) 0
        (Fmt.f32.round .rn false y (ip - fixP) true).bits

/-- R234: `log2`. -/
def flog2 (x : Nat) : Nat :=
  match Fmt.f32.decode x with
  | .nan => Fmt.f32.nan
  | .inf neg => if neg then Fmt.f32.nan else Fmt.f32.infCode
  | .fin neg m e =>
    if m == 0 then Fmt.f32.signBit true + Fmt.f32.infCode
    else if neg then Fmt.f32.nan
    else
      let k : Int := e + (Nat.log2 m : Int)
      let d := 2 ^ Nat.log2 m
      if m == d then
        (if k == 0 then 0 else (Fmt.f32.round .rn (k < 0) k.natAbs 0).bits)
      else
        let z := (m - d) * 2 ^ fixP / (m + d)
        let ln := 2 * atanhFix z
        let y : Int := k * ((2 ^ fixP : Nat) : Int) + ((ln * 2 ^ fixP / ln2Fix : Nat) : Int)
        if 0 ≤ y then (Fmt.f32.round .rn false y.toNat (-(fixP : Int)) true).bits
        else (Fmt.f32.round .rn true (y.natAbs - 1) (-(fixP : Int)) true).bits
where
  /-- Inverse hyperbolic tangent of a fixed-point argument of at most 1/3. -/
  atanhFix (z : Nat) : Nat := atanhGo (z * z / 2 ^ fixP) 210 0 z 0
  /-- The series z + z³/3 + …, with `t` the current power. -/
  atanhGo (z2 : Nat) : Nat → Nat → Nat → Nat → Nat
    | 0, _, _, acc => acc
    | n + 1, k, t, acc => atanhGo z2 n (k + 1) (t * z2 / 2 ^ fixP) (acc + t / (2 * k + 1))

/-- The alternating series of sine (`k` from 1, first term x) and cosine (`k` from 0, first term 1):
each term is the one before times −x²/((k+1)(k+2)). -/
def trigSeries (x2 : Nat) : Nat → Nat → Nat → Bool → Int → Int
  | 0, _, _, _, acc => acc
  | n + 1, k, t, neg, acc =>
    trigSeries x2 n (k + 2) (t * x2 / 2 ^ fixP / ((k + 1) * (k + 2))) (!neg) (acc + (if neg then -(t : Int) else t))

/-- sin (or cos) of a finite nonzero operand, in fixed point (R234: exact argument reduction). -/
def trigFix (cosine : Bool) (neg : Bool) (m : Nat) (e : Int) : Int :=
  let ax := (toFix false m e).toNat
  let half := piFix / 2
  let n := (2 * ax / half + 1) / 2
  let r : Int := (ax : Int) - ((n * piFix : Nat) : Int) / 2
  let x2 := r.natAbs * r.natAbs / 2 ^ fixP
  let c := trigSeries x2 130 0 (2 ^ fixP) false 0
  let s0 := trigSeries x2 130 1 r.natAbs false 0
  let s := if r < 0 then -s0 else s0
  let y := match (n + (if cosine then 1 else 0)) % 4 with
    | 0 => s
    | 1 => c
    | 2 => -s
    | _ => -c
  if neg && !cosine then -y else y

/-- R234: a fixed-point inexact result rounded to fp32. -/
def ofFix (y : Int) : Nat :=
  if 0 ≤ y then (Fmt.f32.round .rn false y.toNat (-(fixP : Int)) true).bits
  else (Fmt.f32.round .rn true (y.natAbs - 1) (-(fixP : Int)) true).bits

/-- R234: `sin`. -/
def fsin (x : Nat) : Nat :=
  match Fmt.f32.decode x with
  | .nan | .inf _ => Fmt.f32.nan
  | .fin neg m e => if m == 0 then Fmt.f32.signBit neg else ofFix (trigFix false neg m e)

/-- R234: `cos`. -/
def fcos (x : Nat) : Nat :=
  match Fmt.f32.decode x with
  | .nan | .inf _ => Fmt.f32.nan
  | .fin _ m e => if m == 0 then 0x3F800000 else ofFix (trigFix true false m e)

/-! ### Conversion (R72, R235 to R241) -/

/-- The floating-point format of a `cvt` code, for codes 0 to 7. -/
def CvtFmt.fmt : CvtFmt → Option Fmt
  | .f32 => some .f32 | .bf16 => some .bf16 | .f16 => some .f16 | .fp8e4 => some .fp8e4 | .fp8e5 => some .fp8e5
  | .fp6e2 => some .fp6e2 | .fp6e3 => some .fp6e3 | .fp4 => some .fp4 | _ => none

/-- Width of an integer `cvt` code (R236). -/
def CvtFmt.intBits : CvtFmt → Nat
  | .s8 | .n8 => 8 | .s16 | .n16 => 16 | .s64 | .n64 => 64 | _ => 32

/-- Whether an integer `cvt` code is signed (R236). -/
def CvtFmt.isSigned : CvtFmt → Bool
  | .s8 | .s16 | .s32 | .s64 => true
  | _ => false

/-- R56: the exact integer clamped to `n` bits. -/
def clampInt (signed : Bool) (n : Nat) (x : Int) : Int :=
  let lo : Int := if signed then -((2 ^ (n - 1) : Nat) : Int) else 0
  let hi : Int := if signed then ((2 ^ (n - 1) : Nat) : Int) - 1 else ((2 ^ n : Nat) : Int) - 1
  if x < lo then lo else if hi < x then hi else x

/-- A converted value: its register image (R236), and the invalid indication (R241). -/
structure Cvt where
  d : Nat
  invalid : Bool := false
  deriving DecidableEq, Repr, Inhabited

/-- R236: an integer placed in its register: 64-bit formats fill the pair, others the 32-bit register. -/
def CvtFmt.place (G : CvtFmt) (x : Int) : Nat := zext (if G.isSigned then sext (zext x G.intBits) G.intBits else zext x G.intBits)
  (if G.intBits = 64 then 64 else 32)

/-- R238, R241: into a floating-point format. -/
def cvtToFloat (G : Fmt) (r : Rnd) (v : Val) : Cvt :=
  let k := G.ofVal r v
  { d := k.bits
    invalid := k.clamped || (match v with
      | .nan => G.kind == .finite
      | .inf _ => G.kind != .ieee
      | _ => false) }

/-- R72, R238, R241: into an integer format. -/
def cvtToInt (G : CvtFmt) (r : Rnd) (v : Val) : Cvt :=
  match v with
  | .nan => { d := 0, invalid := true }
  | .inf neg => { d := G.place (clampInt G.isSigned G.intBits (if neg then -((2 ^ 64 : Nat) : Int) else ((2 ^ 64 : Nat) : Int)))
                  invalid := true }
  | .fin neg m e =>
    -- magnitudes beyond every integer format saturate before the shift is formed
    let x := if 65 ≤ e + (Nat.log2 m : Int) && m != 0 then (if neg then -((2 ^ 65 : Nat) : Int) else ((2 ^ 65 : Nat) : Int))
      else roundInt r neg m e
    let y := clampInt G.isSigned G.intBits x
    { d := G.place y, invalid := y != x }

/-- An integer as an exact value. -/
def Val.ofInt (x : Int) : Val := .fin (x < 0) x.natAbs 0

/-- R238: one lane's conversion of the raw source bits `x` (already selected by R239). -/
def cvtOne (m : CvtMods) (x : Nat) : Cvt :=
  let srcInt : Int := if m.src.isSigned then sext x m.src.intBits else ((x % 2 ^ m.src.intBits : Nat) : Int)
  let v := match m.src.fmt with
    | some S => S.decode (x % 2 ^ S.width)
    | none => Val.ofInt srcInt
  if m.rint then
    match v with
    | .nan => { d := Fmt.f32.nan }
    | .inf neg => { d := Fmt.f32.signBit neg + Fmt.f32.infCode }
    | .fin neg mm e =>
      if 0 ≤ e then { d := x % 2 ^ 32 }
      else
        let k := (roundInt m.rnd neg mm e).natAbs
        { d := if k == 0 then Fmt.f32.signBit neg else (Fmt.f32.round .rn neg k 0).bits }
  else match m.dst.fmt, m.src.fmt with
    | some G, _ => cvtToFloat G m.rnd v
    | none, some _ => cvtToInt m.dst m.rnd v
    | none, none =>
      if m.sat then
        let y := clampInt m.dst.isSigned m.dst.intBits srcInt
        { d := m.dst.place y, invalid := y != srcInt }
      else { d := m.dst.place srcInt }

/-- R239: the source element that `SEL` picks. -/
def cvtSelect (m : CvtMods) (x : Nat) : Nat :=
  match m.src with
  | .bf16 | .f16 | .s16 | .n16 => x / 2 ^ (16 * m.sel)
  | .fp8e4 | .fp8e5 | .s8 | .n8 => x / 2 ^ (8 * m.sel)
  | _ => x

/-- R238 to R241: the whole `cvt`, with `PK` packing two elements. -/
def cvtAll (m : CvtMods) (a b : Nat) : Cvt :=
  if m.pk then
    let lo := cvtOne { m with pk := false } a
    let hi := cvtOne { m with pk := false } b
    { d := lo.d + 2 ^ 16 * hi.d, invalid := lo.invalid || hi.invalid }
  else cvtOne m (cvtSelect m a)

end Sys2Proof
end

