-- ==== Sys2Proof/Machine/Arith.lean ====
section
/-! DEFINITION. The integer, logic, shift and bit-field functions (spec/07 R183, R197 to R208, R217 to R222), as functions
of the operands' bits. -/

namespace Sys2Proof

/-- Elements in a value of the type (R183). -/
def Ty.elems (t : Ty) : Nat := t.bits / t.elemBits

/-- The value of an `n`-bit element by signedness (R183). -/
def elemVal (signed : Bool) (n x : Nat) : Int := if signed then sext x n else ((x % 2 ^ n : Nat) : Int)

/-- A function of the elements' bits applied to each of `k` elements of `n` bits (R183). -/
def mapElems (n : Nat) (f : Nat → Nat → Nat → Nat) : Nat → Nat → Nat → Nat → Nat
  | 0, _, _, _ => 0
  | k + 1, a, b, c => f a b c % 2 ^ n + 2 ^ n * mapElems n f k (a / 2 ^ n) (b / 2 ^ n) (c / 2 ^ n)

/-- R198: an exact integer result per element, wrapped, or clamped with `.sat`. -/
def intOp (t : Ty) (sat : Bool) (f : Int → Int → Int → Int) (a b c : Nat) : Nat :=
  let n := t.elemBits
  mapElems n (fun x y z =>
    let r := f (elemVal t.signed n x) (elemVal t.signed n y) (elemVal t.signed n z)
    zext (if sat then clampInt t.signed n r else r) n) t.elems a b c

/-- R197: `mulh`, floor(a × b / 2^n). -/
def mulHigh (n : Nat) (a b : Int) : Int := a * b / ((2 ^ n : Nat) : Int)

/-- R200: bit-by-bit functions of the type's width. -/
def notBits (t : Ty) (a : Nat) : Nat := (2 ^ t.bits - 1) - a % 2 ^ t.bits

/-- R200: a and not b. -/
def andNot (t : Ty) (a b : Nat) : Nat := a &&& notBits t b

/-- R201: `shl`. -/
def shiftLeft (t : Ty) (a k : Nat) : Nat := if k < t.bits then a * 2 ^ k % 2 ^ t.bits else 0

/-- R201: `shr`. -/
def shiftRight (t : Ty) (a k : Nat) : Nat :=
  zext (elemVal t.signed t.bits a / ((2 ^ min k t.bits : Nat) : Int)) t.bits

/-- R201: `rol`. -/
def rotl (t : Ty) (a k : Nat) : Nat :=
  let w := t.bits
  let s := k % w
  (a * 2 ^ s + a / 2 ^ (w - s)) % 2 ^ w

/-- R201: `ror`. -/
def rotr (t : Ty) (a k : Nat) : Nat := rotl t a (t.bits - k % t.bits)

/-- R202: `fsh.r`. -/
def funnelRight (wrap : Bool) (lo hi k : Nat) : Nat :=
  let y := hi % 2 ^ 32 * 2 ^ 32 + lo % 2 ^ 32
  if wrap then
    let s := k % 64
    (y / 2 ^ s + y % 2 ^ s * 2 ^ (64 - s)) % 2 ^ 32
  else y / 2 ^ min k 64 % 2 ^ 32

/-- R202: `fsh.l`. -/
def funnelLeft (wrap : Bool) (lo hi k : Nat) : Nat :=
  let y := hi % 2 ^ 32 * 2 ^ 32 + lo % 2 ^ 32
  if wrap then
    let s := k % 64
    bits (y * 2 ^ s + y / 2 ^ (64 - s)) 63 32
  else bits (y * 2 ^ min k 64) 63 32

/-- R203: `popc`. -/
def popCount (t : Ty) (a : Nat) : Nat := countOnes a t.bits

/-- R203: `clz`. -/
def leadZeros (t : Ty) (a : Nat) : Nat :=
  let x := a % 2 ^ t.bits
  if x == 0 then t.bits else t.bits - 1 - Nat.log2 x

/-- The low `n` bits of `x` in reverse order. -/
def revBits (x : Nat) : Nat → Nat
  | 0 => 0
  | n + 1 => (bitAt x 0).toNat * 2 ^ n + revBits (x / 2) n

/-- R203: `brev`. -/
def bitReverse (t : Ty) (a : Nat) : Nat := revBits a t.bits

/-- R204: length of the field a control word names. -/
def fieldLen (t : Ty) (ctl : Nat) : Nat := min (bits ctl 7 0) t.bits

/-- R204: `fxt`. -/
def fieldExtract (t : Ty) (a ctl : Nat) : Nat :=
  let l := fieldLen t ctl
  if l == 0 then 0
  else
    let wide := elemVal t.signed t.bits a / ((2 ^ bits ctl 15 8 : Nat) : Int)
    let f := zext wide l
    if t.signed then zext (sext f l) t.bits else f

/-- R204: `fins`. -/
def fieldInsert (t : Ty) (base ins ctl : Nat) : Nat :=
  let l := fieldLen t ctl
  let p := bits ctl 15 8
  let b := base % 2 ^ t.bits
  if t.bits ≤ p then b
  else
    let m := min l (t.bits - p)
    b % 2 ^ p + 2 ^ p * (ins % 2 ^ m) + 2 ^ (p + m) * (b / 2 ^ (p + m))

/-- R205: byte `k` of the result of `bsel`. -/
def selByte (fill : Bool) (a b sel k : Nat) : Nat :=
  let f := bits sel (4 * k + 3) (4 * k)
  if f < 8 then bits (a % 2 ^ 32 + 2 ^ 32 * b) (8 * f + 7) (8 * f) else if fill then 0xFF else 0

/-- R205: `bsel`. -/
def byteSelect (fill : Bool) (a b sel : Nat) : Nat :=
  selByte fill a b sel 0 + 2 ^ 8 * selByte fill a b sel 1 + 2 ^ 16 * selByte fill a b sel 2 + 2 ^ 24 * selByte fill a b sel 3

/-- R208: `lea`. -/
def leaAddr (signed : Bool) (k base idx off : Nat) : Nat :=
  zext (((base % 2 ^ 64 : Nat) : Int) + elemVal signed 32 idx * ((2 ^ k : Nat) : Int) + sext off 32) 64

/-- The element format of a floating-point register type (R223). -/
def Ty.fmt : Ty → Fmt
  | .bf16x2 => .bf16
  | .f16x2 => .f16
  | _ => .f32

/-- R225: a function of element encodings applied to each element. -/
def floatOp (t : Ty) (f : Fmt → Nat → Nat → Nat → Nat) (a b c : Nat) : Nat :=
  let F := t.fmt
  mapElems F.width (fun x y z => f F (x % 2 ^ F.width) (y % 2 ^ F.width) (z % 2 ^ F.width)) (32 / F.width) a b c

/-! ### Cross-lane operators (R217 to R219) -/

/-- The combination of two values of an `xred` or `xscan` (R217). -/
def xcombine (x : XOp) (t : Ty) (a b : Nat) : Nat :=
  match x with
  | .add => intOp t false (fun p q _ => p + q) a b 0
  | .min => intOp t false (fun p q _ => min p q) a b 0
  | .max => intOp t false (fun p q _ => max p q) a b 0
  | .and => a &&& b
  | .or => a ||| b
  | .xor => a ^^^ b
  | .fadd => Fmt.f32.add .rn a b
  | .fmax => Fmt.f32.extremum true a b
  | .fmin => Fmt.f32.extremum false a b

/-- R217: the identity of an operator. -/
def xidentity (x : XOp) (t : Ty) : Nat :=
  match x with
  | .add | .or | .xor => 0
  | .min => if t.signed then 2 ^ (t.bits - 1) - 1 else 2 ^ t.bits - 1
  | .max => if t.signed then 2 ^ (t.bits - 1) else 0
  | .and => 2 ^ t.bits - 1
  | .fadd => 0x80000000
  | .fmax => 0xFF800000
  | .fmin => 0x7F800000

/-- `Comb` over possibly empty nodes (R218). -/
def xcombOpt (x : XOp) (t : Ty) : Option Nat → Option Nat → Option Nat
  | none, y => y
  | x, none => x
  | some a, some b => some (xcombine x t a b)

/-- One level of the tree of R218. -/
def xlevel (x : XOp) (t : Ty) : List (Option Nat) → List (Option Nat)
  | a :: b :: rest => xcombOpt x t a b :: xlevel x t rest
  | l => l

/-- `n` levels of the tree of R218. -/
def xtree (x : XOp) (t : Ty) : Nat → List (Option Nat) → List (Option Nat)
  | 0, l => l
  | n + 1, l => xtree x t n (xlevel x t l)

/-- R218: the tree combination over the lanes, empty ones `none`; six levels cover every gang width. -/
def xreduce (x : XOp) (t : Ty) (lanes : List (Option Nat)) : Nat :=
  match xtree x t 6 lanes with
  | some d :: _ => d
  | _ => 0

/-- R219: the combination of the lanes' values in order, from the identity. -/
def xfold (x : XOp) (t : Ty) (vals : List Nat) : Nat := vals.foldl (xcombine x t) (xidentity x t)

/-! ### Random numbers (R220 to R222) -/

/-- The multiplier of the generator (R221). -/
def rngMul : DWord := 0x9E3779B97F4A7C15

/-- R221: the next generator state. -/
def rngStep (x : DWord) : DWord := rngMul * x + 1

/-- R222: the loop of `Jump`, on a count of at most `n` bits. -/
def rngJumpGo : Nat → Nat → DWord → DWord → DWord → DWord → DWord × DWord
  | 0, _, A, C, _, _ => (A, C)
  | n + 1, cnt, A, C, m, k =>
    let (A', C') := if bitAt cnt 0 then (A * m, C * m + k) else (A, C)
    rngJumpGo n (cnt / 2) A' C' (m * m) (m * k + k)

/-- R222: the state after `cnt` draws. -/
def rngJump (x cnt : DWord) : DWord :=
  let (A, C) := rngJumpGo 64 cnt.toNat 1 0 rngMul 1
  A * x + C

end Sys2Proof
end

