-- ==== Sys2Proof/Machine/Flags.lean ====
section
/-! DEFINITION. Everything this machine has of flags: the predicates that `add`, `sub`, `cmp` and `fcmp` compute (spec/07 R199,
R206; spec/08 R231). There is no flags register (spec/02 R71). -/

namespace Sys2Proof

/-- R199: the carry or borrow of an exact result: it lies outside [0, 2^n − 1]. -/
def carryOut (n : Nat) (x : Int) : Bool := x < 0 || ((2 ^ n : Nat) : Int) ≤ x

/-- R206: the relation of a condition. -/
def condRel (k : Cond) (a b : Int) : Bool :=
  match k with
  | .eq => a == b
  | .ne => a != b
  | .lt => a < b
  | .le => a ≤ b
  | .gt => b < a
  | .ge => b ≤ a

/-- R206, R231: the relation combined with the third predicate. -/
def combine (m : Comb) (r c : Bool) : Bool :=
  match m with
  | .none => r
  | .and => r && c
  | .or => r || c
  | .xor => r != c

/-- R206: `cmp` on the operands' bits. -/
def cmpBits (t : Ty) (k : Cond) (m : Comb) (a b : Nat) (c : Bool) : Bool :=
  combine m (condRel k (elemVal t.signed t.bits a) (elemVal t.signed t.bits b)) c

/-- R231: `fcmp` on the operands' bits. -/
def fcmpBits (k : FCond) (m : Comb) (a b : Nat) (c : Bool) : Bool := combine m (Fmt.f32.compare k a b) c

end Sys2Proof
end

