-- ==== Sys2Proof/Config.lean ====
section
/-! DEFINITION. The constants of the BZ9-4E and the free values of the model (spec/00_scope.md). A free value is a value
that the spec leaves open: an opaque function without a body, applied to the number of the step that reads it and to the
place of use, so nothing can be proved of it (notes/assumptions/2.md). -/

namespace Sys2Proof.Config

/-- A free value: `free tick site` (notes/assumptions/2.md). -/
opaque free : Nat → List Nat → BitVec 64

/-- 08 R226: where both destinations of an operation name one predicate, whether the second result stays: it depends on the operation and on its
operands alone (notes/assumptions/2.md). -/
opaque secondStays : Nat → List Nat → Bool

/-- SHAKE256-keyed secrets and keys are readable by no principal (17 R428, R438): the keystream of AES-256-GCM under the
content key that the measurement, lineage and counter select, for the given nonce: the byte at an index
(notes/assumptions/30.md). -/
opaque keystream : List Nat → Nat → BitVec 8

/-- The AES-256-GCM tag of a ciphertext with its associated data, under the content key (17 R438). -/
opaque gcmTag : List Nat → List Nat → BitVec 128

/-- The bytes of an XMSS signature over 256 bytes by the key of a device, with a signature index (17 R438). -/
opaque xmssByte : Nat → Nat → List Nat → Nat → BitVec 8

/-- The bytes of a device's identity certificate (17 R438). -/
opaque certByte : Nat → Nat → BitVec 8

/-- Cores of the package (01 R2, 13 R338). -/
def cores : Nat := 64

/-- Slices of a core (01 R33). -/
def slices : Nat := 32

/-- Bytes of package memory (03 R95). -/
def memBytes : Nat := 768 * 2 ^ 30

/-- Bytes of the store buffer of a workgroup (04 R125). -/
def sbBytes : Nat := 65536

/-- The failed retries after which a CAS loop to host memory gives up (00 R11, 16 R415). -/
def casRetries : Nat := 64

/-- Gouge, `mma` and `drain` operations of a workgroup in flight (10 R276). -/
def maxEngineOps : Nat := 32

/-- Save units in all (13 R339). -/
def saveUnits : Nat := 12288

end Sys2Proof.Config
end

