-- ==== Sys2Proof/Machine/State.lean ====
section
/-! DEFINITION. The state of the machine as plain data, and the state after reset. INVENTORY.md lists every piece with the
rule that names it. Records are kept in flat lists and named by fresh numbers (`uid`); the fields `agenda`, `tick`, `cur`
and `uid` are the model's own (notes/assumptions/1.md, 2.md). -/

namespace Sys2Proof.Machine

/-- Why the machine stops. No meaning of this model raises a fault: every stop of the spec is a trap, a kill, a kernel error or a
refused request, and each of these is a next state. -/
inductive Fault where
  /-- Raised by nothing; it keeps the type inhabited. Safe. -/
  | none
  deriving DecidableEq, Repr, Inhabited

/-- Why an instruction is turned away. -/
inductive Refusal where
  /-- Raised by an arm of `exec` whose instruction has no meaning yet. Safe. -/
  | notModelled (mnemonic : String)
  deriving DecidableEq, Repr, Inhabited

/-! ### Threads -/

/-- Thread states, in the order that numbers them in record 17 (01 R16, 15 R383). -/
inductive TState where
  | unlaunched | ready | held | sync | waiting | exited
  deriving DecidableEq, Repr, Inhabited

/-- A fetch line as a slice read it (06 R150, R152): its address, and its 512 bits. -/
structure Line where
  addr : DWord
  raw : Nat
  deriving DecidableEq, Repr, Inhabited

/-- Where a phase object lies (03 R104, R102): the local store of a workgroup, physical memory, or a version record. -/
inductive PhaseRef where
  | loc (wg off : Nat)
  | glb (pa : Nat)
  | ver (die idx : Nat)
  deriving DecidableEq, Repr, Inhabited

/-- A thread waiting at a cross-lane instruction (01 R26, 07 R214): the instruction, where it stands and what follows it, its member
mask, whether its guard is true, the values of its first and third sources, and its word. -/
structure SyncRec where
  instr : Instr
  at_ : DWord
  next : DWord
  past : Bool
  mask : Nat
  on : Bool
  a : Nat
  c : Nat
  word : Nat := 0
  deriving DecidableEq, Repr, Inhabited

/-- A thread waiting in `wph` (09 R266): its object and `n`, where the `wph` stands, and where the thread goes on. -/
structure WaitRec where
  obj : PhaseRef
  n : Word
  at_ : DWord
  next : DWord
  past : Bool
  deriving DecidableEq, Repr, Inhabited

/-- What keeps a Ready thread at its instruction without being Waiting: an `iret` meeting (15 R385), a shootdown (16 R405),
or a request that left the package (09 R246, R253). -/
inductive Block where
  | none
  | iret (kill : Bool)
  | shoot (id : Nat)
  | io (id : Nat)
  deriving DecidableEq, Repr, Inhabited

/-- A thread (01 R14 to R17, R27, R28; 07 R187, R220). `gang` is the index of its gang context in the workgroup, in
ascending (stage, gang) order. `past` says that it fell through slot 4 of the last line, or returned beyond it (06 R153). -/
structure Thread where
  wg : Nat
  gang : Nat
  lane : Nat
  pc : DWord
  past : Bool := false
  mt : Option DWord := none
  st : TState := .unlaunched
  v : List Word := []
  p : BitVec 96 := 0
  ret : List (DWord × Bool) := []
  rng : DWord := 0
  line : Option Line := none
  skipBkpt : Bool := false
  sync : Option SyncRec := none
  wait : Option WaitRec := none
  block : Block := .none
  deriving DecidableEq, Repr, Inhabited

/-! ### Gangs, traps and the replay queue -/

/-- The captured sources of one lane (15 R383). -/
structure Cap where
  lane : Nat
  a : Nat
  b : Nat
  c : Nat
  deriving DecidableEq, Repr, Inhabited

/-- What a replay-queue entry puts back (15 R383 `KIND`): an instruction, the engine command of an operation (the number that it was first issued
under, the bytes of its block, and whether that was written before the command is issued again, 10 R277), or a store-buffer entry. -/
inductive EntryKind where
  | instr
  | command (op born size : Nat) (spoiled : Bool)
  | store (sb : Nat)
  deriving DecidableEq, Repr, Inhabited

/-- A replay-queue entry (15 R383). `half` says that the word is a compact half. -/
structure Entry where
  kind : EntryKind := .instr
  action : Nat := 0
  faulted : Bool := false
  code : Nat := 0
  pc : DWord := 0
  mask : List Nat := []
  word : Nat := 0
  half : Bool := false
  caps : List Cap := []
  deriving DecidableEq, Repr, Inhabited

/-- The entry save of one lane: `v0` to `v3` and `p1` to `p3` (15 R380, R383). -/
structure SaveRow where
  lane : Nat
  v : List Word
  p : BitVec 3
  deriving DecidableEq, Repr, Inhabited

/-- The saved thread state of one lane (15 R380, R383), with what a Synchronising or Waiting thread was waiting for. `mt` has its
valid bit in bit 63. -/
structure ResumeRow where
  lane : Nat
  pc : DWord
  past : Bool
  mt : DWord
  st : TState
  sync : Option SyncRec
  wait : Option WaitRec
  deriving DecidableEq, Repr, Inhabited

/-- The frame of a trap (15 R380, R381, R383); of a decode trap, `word` is the instruction word (06 R176). -/
structure Frame where
  exited : Bool := false
  async : Bool := false
  info : Nat := 0
  cause : Nat := 0
  tpc : DWord := 0
  tmask : List Nat := []
  taddr : DWord := 0
  stage : Nat := 0
  tnum : Nat := 0
  twg : Nat := 0
  queue : List Entry := []
  save : List SaveRow := []
  resume : List ResumeRow := []
  gone : List Nat := []
  word : Option Nat := none
  deriving DecidableEq, Repr, Inhabited

/-- A trap that is waiting for the gang's next issue (15 R379). -/
structure Pending where
  exited : Bool := false
  cause : Nat
  pc : DWord
  mask : List Nat
  addr : DWord
  tnum : Nat
  entry : Entry
  deriving DecidableEq, Repr, Inhabited

/-- One entry of a parameter block of `mcas` (09 R257). -/
structure McasEntry where
  addr : Nat
  expect : Nat
  new : Nat
  deriving DecidableEq, Repr, Inhabited

/-- A parameter block of `mcas` (09 R256, R257). -/
structure McasBlock where
  count : Nat
  width : Nat
  ok : Bool
  entries : List McasEntry
  deriving DecidableEq, Repr, Inhabited

/-- A lane of an `mcas` whose checks have passed; `spoiled` says that its block has been written since (09 R260). -/
structure McasLane where
  lane : Nat
  off : Nat
  blk : McasBlock
  keys : List Nat
  spoiled : Bool := false
  deriving DecidableEq, Repr, Inhabited

/-- An `mcas` that has issued and waits at its instruction for a held store (04 R124, 09 R260): where it stands, whether an `iret` puts it back, and its lanes. -/
structure McasWait where
  pc : DWord
  replay : Bool := false
  lanes : List McasLane
  deriving DecidableEq, Repr, Inhabited

/-- A gang context (01 R24, R33; 13 R336; 15). `slice` and `col` are the slice and the first group of eight lane columns that it takes there. `reinject` holds the entries that an `iret` is putting back, `later` those that a full queue had no
place for, and `returning` says that the last step of the `iret` is still to come (15 R385). `ages` counts, for each address at which Ready threads of
the gang stand, the gang's issues since the last one there (01 R19); `mcas` are the `mcas` that wait. -/
structure Gang where
  wg : Nat
  idx : Nat
  stage : Nat
  num : Nat
  slice : Nat := 0
  col : Nat := 0
  handler : Bool := false
  fresh : Bool := false
  frame : Frame := {}
  pend : List Pending := []
  reinject : List Entry := []
  later : List Entry := []
  returning : Bool := false
  ages : List (DWord × Nat) := []
  mcas : List McasWait := []
  deriving DecidableEq, Repr, Inhabited

/-! ### Workgroups, clusters, nodes and kicks -/

/-- Workgroup states (01 R37). -/
inductive WState where
  | queued | resident | switchedOut | draining | retired | killed | ended
  deriving DecidableEq, Repr, Inhabited

/-- Where a buffered store goes (04 R125): an address of some memory (see `Phys`), or a byte of a host window's shadow. -/
inductive Dest where
  | mem (pa : Nat)
  | win (w off : Nat)
  deriving DecidableEq, Repr, Inhabited

/-- Who makes an access (04 R118): a thread with its cluster, workgroup and gang, for which an engine operation that it issued stands too; a unit of
the package (the headstock, a spindle, the monitor); a peer package; or the host. -/
inductive Agent where
  | thread (cluster wg gang lane : Nat)
  | unit
  | peer
  | host
  deriving DecidableEq, Repr, Inhabited

/-- A release (04 R119): who makes it, the rank of its scope (`scopeRank`), and the accesses that happen-before it. -/
structure Release where
  by_ : Agent
  rank : Nat
  pubs : List Nat
  deriving DecidableEq, Repr, Inhabited

/-- A store-buffer entry (04 R125, 15 R387). `leaf` is the span of the leaf that its address was
translated by (16 R405), `vers` the version index of its page (03 R101), `pubs` the releases that its write makes (04 R119), `item` the number of its
access (see `HbItem`), and `sees` the accesses that happen-before it. -/
structure SbEntry where
  uid : Nat
  dest : Dest
  va : DWord
  bytes : List Byte
  gang : Nat
  lane : Nat
  tnum : Nat
  pc : DWord
  word : Nat
  held : Bool := false
  leaf : Nat × Nat := (0, 0)
  vers : Option Nat := none
  pubs : List Release := []
  item : Nat := 0
  sees : List Nat := []
  deriving DecidableEq, Repr, Inhabited

/-- Where bytes stand that a synchronisation may go through (04 R120). -/
inductive SyncAt where
  | loc (wg off : Nat)
  | mem (key : Nat)
  | host (addr : Nat)
  deriving DecidableEq, Repr, Inhabited

/-- The engine commands that 10 R276 counts. -/
inductive EKind where
  | gcp | gst | gpl | mma | drain
  deriving DecidableEq, Repr, Inhabited

/-- What a thread must synchronise with before another access is ordered after it: a write of a uniform register with the value before it (01 R29); an
event on a phase object (03 R107); a store, the write of an atomic, or a write of the host or a peer, which `Hb.fresh` places (03 R107, 04 R128); and an engine
operation, under its own number, with the bytes that it writes or, of
an `mma`, that no thread may touch (04 R127), and the accumulator tiles that it writes. -/
inductive HbWhat where
  | reg (n : Nat) (old : Word)
  | event (obj : PhaseRef)
  | store
  | rmw
  | outer
  | op (kind : EKind) (bytes : List (SyncAt × Nat)) (tiles : List (Nat × Nat))
  deriving DecidableEq, Repr, Inhabited

/-- One such access: the threads that made it (of one issue), and the agents that have synchronised with it since. -/
structure HbItem where
  uid : Nat
  what : HbWhat
  wg : Nat
  gang : Nat := 0
  lanes : List Nat := []
  seen : List Agent := []
  deriving DecidableEq, Repr, Inhabited

/-- A releasing write that bytes still hold (04 R119 to R121): the bytes that hold it, or a read-modify-write of its chain, the bytes that a read
must cover, and the release. -/
structure SyncTag where
  at_ : SyncAt
  len : Nat
  first : SyncAt
  cover : Nat
  rel : Release
  deriving DecidableEq, Repr, Inhabited

/-- The releases into a phase object (03 R106, 04 R120): those of the phase in progress, and those of the phases completed. -/
structure SyncPhase where
  obj : PhaseRef
  opened : List Release
  done : List Release
  deriving DecidableEq, Repr, Inhabited

/-- What a thread has synchronised through fences (04 R119, R123, R128): the releases that its writes make by its last release fences, the releases
that its reads have observed (each with the least rank of a fence that acquires it), and the accesses that happen-before its last `ofence`. -/
structure SyncView where
  by_ : Agent
  rel : List Release := []
  obs : List (Nat × Release) := []
  ofence : List Nat := []
  deriving DecidableEq, Repr, Inhabited

/-- Bytes as they were before a write (04 R116, R128, 06 R177): where they stand, the access (`HbItem`) that wrote over them, if it is recorded, and the
number (`uid`) that came next. -/
structure OldBytes where
  at_ : SyncAt
  bytes : List Byte
  item : Option Nat
  when_ : Nat
  deriving DecidableEq, Repr, Inhabited

/-- The happens-before that uniform registers, phase objects and engine operations need (01 R29, 03 R107, 04 R119 to R128). `fences` are the
`.acq_rel` fences so far, as releases (04 R123); `fresh` gives bytes the store or operation that wrote them last, and `olds` what bytes held before
their writes, the newest first. -/
structure Hb where
  pend : List HbItem := []
  tags : List SyncTag := []
  phases : List SyncPhase := []
  views : List SyncView := []
  fences : List Release := []
  fresh : List (SyncAt × Nat × Nat) := []
  olds : List OldBytes := []
  deriving DecidableEq, Repr, Inhabited

/-- An accumulator tile (03 R93), row by row. -/
structure Tile where
  lathe : Nat
  tile : Nat
  elems : List Word
  deriving DecidableEq, Repr, Inhabited

/-- A workgroup (01 R36 to R38). `ls` is its local store: the cells that are not zero, in rising order; `undef` the ranges of it whose contents are
undefined (01 R15, 00 R7). `idle` is the slice clock since
which 01 R47 holds of it, `qualifies` the one in which it came to qualify for a switch-out. -/
structure Wg where
  uid : Nat
  cluster : Nat
  rank : Nat
  x : Nat
  y : Nat
  z : Nat
  num : Nat
  st : WState := .queued
  core : Nat := 0
  lsBase : Nat := 0
  committed : Bool := false
  g : List Word := []
  ls : List Host.Cell := []
  undef : List (Nat × Nat) := []
  poison : List Nat := []
  tiles : List Tile := []
  sb : List SbEntry := []
  residentSince : Nat := 0
  idle : Option Nat := none
  qualifies : Option Nat := none
  saveAt : Option Nat := none
  deriving DecidableEq, Repr, Inhabited

/-- Cluster states: in the queue, placed, out, draining, or finished (01 R37, 14 R366). -/
inductive CState where
  | queued | resident | switchedOut | freed | retired | ended
  deriving DecidableEq, Repr, Inhabited

/-- A cluster (01 R39, 14 R366). `front` orders the switched-out and relaunched clusters of a level; `waitFrom` is the headstock clock
of its entry into the queue, or of its last promotion; `gave` is what it made room for when it yielded (14 R370), of a node the number of the cluster, and `away` says that
it returns only to cores that are not held (14 R374, R376). -/
structure Cluster where
  uid : Nat
  node : Nat
  clid : Nat
  cx : Nat
  cy : Nat
  cz : Nat
  level : Nat
  st : CState := .queued
  relaunches : Nat := 0
  quad : Nat := 0
  front : Nat := 0
  waitFrom : Nat := 0
  gave : Option (Queued × Nat) := none
  away : Bool := false
  deriving DecidableEq, Repr, Inhabited

/-- One stage of a launch record (14 R360). -/
structure Stage where
  nx : Nat
  ny : Nat
  nz : Nat
  eline : Nat
  eslot : Nat
  deriving DecidableEq, Repr, Inhabited

/-- A launch record (14 R360). -/
structure Launch where
  text : Nat := 0
  ctab : Nat := 0
  init : Nat := 0
  seed : DWord := 0
  stages : List Stage := []
  nwx : Nat := 1
  nwy : Nat := 1
  nwz : Nat := 1
  cwx : Nat := 1
  cwy : Nat := 1
  cwz : Nat := 1
  gw : Nat := 8
  vregs : Nat := 8
  nconst : Nat := 0
  det : Bool := false
  shadow : Bool := false
  idem : Bool := false
  tgb : Bool := false
  accmask : Nat := 0
  lskib : Nat := 0
  rank : Nat := 0
  deriving DecidableEq, Repr, Inhabited

/-- A region declaration of a node (14 R359): kind, first byte, length. -/
structure Region where
  kind : Nat
  base : Nat
  len : Nat
  deriving DecidableEq, Repr, Inhabited

/-- A node of a kick, or a forked child (14 R359 to R364, 10 R311). `next` counts the clusters dispatched and `done` those
retired or ended; `turn` is the round-robin stamp of 14 R366, `pubs` the accesses that happen-before its start (04 R119, 14 R364), and `gave` those that its workgroups that are gone have
made or come after. -/
structure Node where
  uid : Nat
  part : Nat
  kick : Option Nat := none
  idx : Nat := 0
  launch : Launch
  image : List Word := []
  regions : List Region := []
  join : Option Nat := none
  prio : Nat := 0
  level : Nat := 0
  eligible : Bool := false
  pendingChild : Bool := false
  next : Nat := 0
  done : Nat := 0
  failed : Bool := false
  waitFrom : Nat := 0
  turn : Nat := 0
  pubs : List Nat := []
  gave : List Nat := []
  deriving DecidableEq, Repr, Inhabited

/-- A kick (14 R362, R363). -/
structure Kick where
  uid : Nat
  part : Nat
  slot : Nat
  prio : Nat
  running : Bool := false
  deriving DecidableEq, Repr, Inhabited

/-- A node of a loaded graph (14 R359). -/
structure GNode where
  launch : Launch
  regions : List Region
  deriving DecidableEq, Repr, Inhabited

/-- A graph slot (14 R357, R365); `loading` says that a load of it is under way (R376). -/
structure GSlot where
  loaded : Bool := false
  loading : Bool := false
  nodes : List GNode := []
  patches : List (Nat × Nat) := []
  errv : Bool := false
  err : Nat := 0
  errnode : Nat := 0
  kdone : Word := 0
  deriving DecidableEq, Repr, Inhabited

/-! ### Engines -/

/-- An engine operation in flight (10 R276, R277, 15 R389): the copy of its block, and what it has done. Operations arrive at their
engine in the order of `uid`. `undef` says that what it writes is undefined, `spoiled` that its block has been written since it was issued (10 R277);
`dest` are the bytes that it writes, `span` those whose writing while it runs has the first effect (04 R127), `pubs` the accesses that happen-before it,
and `sees` those whose writes an `mma` is sure to read (04 R128). `born` is the number that the command was first issued under (01 R45), `again` says that an `iret` issued it again (10 R279), and of an `mma` that it is on the lathe that it stopped on (10 R296), `retried` that a checker has made the lathe
compute its next group again (15 R395). -/
structure EOp where
  uid : Nat
  kind : EKind
  wg : Nat
  gang : Nat
  lane : Nat
  tnum : Nat
  pc : DWord
  word : Nat
  blk : Nat
  block : Nat
  progress : Nat := 0
  status : Nat := 0
  seq : Nat := 0
  lathe : Nat := 0
  due : Option Nat := none
  undef : Bool := false
  spoiled : Bool := false
  born : Nat := 0
  again : Bool := false
  retried : Bool := false
  dest : List (SyncAt × Nat) := []
  span : List (SyncAt × Nat) := []
  pubs : List Nat := []
  sees : List Nat := []
  deriving DecidableEq, Repr, Inhabited

/-- What a lathe is doing (10 R297). -/
inductive LPhase where
  | idle | rampUp | ready | rampDown
  deriving DecidableEq, Repr, Inhabited

/-- A lathe (10 R297): its phase, when the phase ends, and its ready-until clock H. -/
structure Lathe where
  core : Nat
  idx : Nat
  phase : LPhase := .idle
  due : Nat := 0
  h : Option Nat := none
  deriving DecidableEq, Repr, Inhabited

/-- A latch: the values of the lanes that its producer's issue computed (01 R30); each with whether it is 64 bits wide. -/
structure LatchVal where
  lane : Nat
  wide : Bool
  x : Nat
  deriving DecidableEq, Repr, Inhabited

/-- The run of 01 R31: a set of threads going through a line, the results that its issues have pushed, the last first, and whether it waits at an instruction. -/
structure Run where
  wg : Nat
  gang : Nat
  lanes : List Nat
  line : DWord
  pushed : List (List LatchVal) := []
  waits : Bool := false
  deriving DecidableEq, Repr, Inhabited

/-- A slice that has issued (01 R30, R31): the last gang, the latches, the runs of that gang that have not ended, and whether it has yielded (07 R192). -/
structure Slice where
  core : Nat
  idx : Nat
  wg : Nat
  gang : Nat
  latches : List (List LatchVal) := []
  runs : List Run := []
  yielded : Bool := false
  deriving DecidableEq, Repr, Inhabited

/-! ### Spindle, progress, reductions -/

/-- What a spindle handle is bound to (10 R301, R302). -/
inductive Binding where
  | p2p (peer rctr : Nat)
  | reduce (redid : Word) (dest resobj statrec slotBase slotLog : Nat) (first : Word) (e n : Nat)
  deriving DecidableEq, Repr, Inhabited

/-- A bound handle; of a reduction, the last step that has been delivered (05 R138). `pubs` are the accesses that happen-before its binding, `subs` those that
happen-before each contribution that another root has admitted, with its step (04 R127); `verdict` says, once a contribution has reached another root, whether its
parameters match (10 R302). -/
structure Handle where
  idx : Nat
  bind : Binding
  last : Option Word := none
  pubs : List Nat := []
  subs : List (Word × List Nat) := []
  verdict : Option Bool := none
  deriving DecidableEq, Repr, Inhabited

/-- A send block as the spindle copied it (10 R303). -/
structure SendBlk where
  blk : Nat
  src : Nat
  dst : Nat
  len : Nat
  handle : Nat
  glb : Bool
  rden : Bool
  rdone : Nat
  deriving DecidableEq, Repr, Inhabited

/-- Who issued a spindle command (10 R279, R306); `die` is the die of the workgroup once it has gone. -/
structure Issuer where
  wg : Nat
  gang : Nat
  lane : Nat
  tnum : Nat
  pc : DWord
  word : Nat
  die : Nat := 0
  deriving DecidableEq, Repr, Inhabited

/-- The object that a receive counter is linked to (10 R305), and the accesses that happen-before the link. -/
structure Link where
  ctr : Nat
  obj : Nat
  pubs : List Nat := []
  deriving DecidableEq, Repr, Inhabited

/-- An armed send (10 R306); `pubs` are the accesses that happen-before its arming; `spoiled` says that its block has been written since it was copied, and `undef` that it was armed again after that (10 R277). -/
structure Armed where
  uid : Nat
  by_ : Issuer
  send : SendBlk
  ctr : Nat
  thr : Word
  spoiled : Bool := false
  undef : Bool := false
  pubs : List Nat := []
  deriving DecidableEq, Repr, Inhabited

/-- A send under way (10 R304): waiting to read its source, or read and moving; `armed` holds the counter and the threshold of an armed send
that fired it, `span` its source, and `pubs` what happens-before it. `undef` says that the source has been written before it was read (10 R304), and
`spoiled` that the block has been (10 R277). `leaves` are the leaves that its destination was translated by (16 R405). -/
structure Send where
  uid : Nat
  part : Nat
  by_ : Issuer
  send : SendBlk
  armed : Option (Nat × Word) := none
  read : Bool := false
  bytes : List Byte := []
  acked : Nat := 0
  undef : Bool := false
  spoiled : Bool := false
  span : List (SyncAt × Nat) := []
  leaves : List (Nat × Nat) := []
  pubs : List Nat := []
  deriving DecidableEq, Repr, Inhabited

/-- A contribution of this device (05 R146): waiting for admission, or its notice under way; `undef`, `spoiled`, `span` and `pubs` as for a send (10 R307). -/
structure Contrib where
  uid : Nat
  by_ : Issuer
  part : Nat
  redid : Word
  handle : Nat
  slot : Nat
  step : Word
  buf : Nat
  glb : Bool
  rden : Bool
  rdone : Nat
  blk : Nat
  sent : Bool := false
  words : List Word := []
  acked : Nat := 0
  undef : Bool := false
  spoiled : Bool := false
  span : List (SyncAt × Nat) := []
  pubs : List Nat := []
  deriving DecidableEq, Repr, Inhabited

/-- An applied arrival of a step (05 R146, R147): its slot, its source step and its words, and the accesses that happen-before a contribution of this device. -/
structure Leaf where
  slot : Nat
  src : Word
  dev : Option Nat
  words : List Word
  pubs : List Nat := []
  deriving DecidableEq, Repr, Inhabited

/-- A step of a reduction that has not closed (05 R146): on-time arrivals, folded late ones, the clock in which its timer tests, whether that test has
closed it by the timer, and whether a transfer to it has re-formed around a failed link (05 R149). -/
structure RStep where
  step : Word
  ontime : List Leaf := []
  folded : List Leaf := []
  timer : Option Nat := none
  expired : Bool := false
  restart : Bool := false
  deriving DecidableEq, Repr, Inhabited

/-- A reduction that this device roots (05 R145 to R149): the receiving and the refused devices (`none` is this one), and the devices that
no path reaches. -/
structure Reduction where
  part : Nat
  redid : Word
  params : RedParams
  low : Word
  steps : List RStep := []
  dropped : Nat := 0
  receivers : List (Option Nat) := []
  refused : List (Option Nat) := []
  gone : List Nat := []
  deriving DecidableEq, Repr, Inhabited

/-- A result of a closed step that this device, its root, has not delivered to itself yet, the devices whose contributions it includes (05 R148, R149), and the accesses that happen-before those of this device. -/
structure Closed where
  msg : ResultMsg
  devs : List Nat
  pubs : List Nat := []
  deriving DecidableEq, Repr, Inhabited

/-- A result whose bytes are landing (05 R138): how many pieces of its destination are done, and, once the next has begun, its key and the version record of
its page, and the leaf that its address was translated by (16 R405); where it has written (keys and lengths), and the numbers of those writes. -/
structure Landing where
  msg : ResultMsg
  done : Nat := 0
  begun : Option (Nat × Option Nat) := none
  leaf : Nat × Nat := (0, 0)
  wrote : List (Nat × Nat) := []
  items : List Nat := []
  deriving DecidableEq, Repr, Inhabited

/-- One entry of the progress table (05 R140): step, state and quiet clocks. -/
structure ProgEntry where
  step : Word := 0
  state : Nat := 0
  quiet : Nat := 0
  deriving DecidableEq, Repr, Inhabited

/-- A gate (05 R143, 10 R308): the rank, its object, the thread that recorded it, and the accesses that happen-before its recording. -/
structure Gate where
  rank : Nat
  obj : PhaseRef
  by_ : Agent := .unit
  pubs : List Nat := []
  deriving DecidableEq, Repr, Inhabited

/-! ### Hold-up, seal -/

/-- A declared region (17 R425): number, class, address, length and physical ranges (address, bytes). -/
structure Keep where
  r : Nat
  must : Bool
  va : Nat
  len : Nat
  ranges : List (Nat × Nat)
  deriving DecidableEq, Repr, Inhabited

/-- A region in the hold-up store (17 R428, R430, R432). The context tag, the epoch and the number name the key that its body is sealed under. -/
structure Saved where
  tag : List Word
  epoch : Nat := 0
  r : Nat
  best : Bool
  va : Nat
  len : Nat
  body : List Byte
  whole : Bool
  deriving DecidableEq, Repr, Inhabited

/-- Hold-up controller states (17 R423). -/
inductive HState where
  | off | charging | armed | quiescing | saving | bestEffort | recording
  deriving DecidableEq, Repr, Inhabited

/-- A lineage entry (17 R439). -/
structure Lineage where
  lin : BitVec 128
  counter : DWord
  hash : BitVec 256
  deriving DecidableEq, Repr, Inhabited

/-- A job of the seal engine (17 R435 to R440): its block copy, who issued it, its stage and its acknowledgements; `spoiled` says that its block has been
written since (10 R277), and `pubs` are the accesses that happen-before its command. -/
structure SealJob where
  uid : Nat
  op : Nat
  by_ : Issuer
  part : Nat
  blk : Nat
  block : Nat
  waiting : Bool := false
  c : DWord := 0
  peers : List Nat := []
  acks : List Nat := []
  due : Nat := 0
  spoiled : Bool := false
  pubs : List Nat := []
  deriving DecidableEq, Repr, Inhabited

/-! ### Partitions and the package -/

/-- Partition states (13 R339). -/
inductive PState where
  | unconfigured | stopped | running | stopping | resetting
  deriving DecidableEq, Repr, Inhabited

/-- An open host window (16 R411, R412): its table entry and its counter. Which bytes of the shadow are marked stands in the device memory behind it. -/
structure Window where
  idx : Nat
  haddr : Nat
  noao : Bool
  vf : Nat
  size : Nat
  shadow : Nat
  ctr : Nat
  count : DWord := 0
  deriving DecidableEq, Repr, Inhabited

/-- A partition (13 R338 to R354). `csr` holds the stored CSR words that differ from their reset values, `hmPubs` the accesses that happen-before the naming of its
risk object (17 R433). -/
structure Part where
  idx : Nat
  st : PState := .unconfigured
  qmask : Nat := 0
  saveuReq : Nat := 0
  qact : Nat := 0
  saveu : Nat := 0
  keygen : Word := 0
  csr : List (Nat × Word) := []
  bound : Bool := false
  meas : List Byte := []
  kused : Nat := 0
  slots : List GSlot := []
  vdone : Bool := true
  vlevel : Nat := 0
  ncore : Nat := 0
  heldCores : List Nat := []
  resizeTo : Option Nat := none
  windows : List Window := []
  publishes : List (Nat × Release) := []
  handles : List Handle := []
  ctrs : List (Nat × Word) := []
  links : List Link := []
  armed : List Armed := []
  prog : List ProgEntry := []
  gates : List Gate := []
  sealedC : Word := 0
  keeps : List Keep := []
  withheld : List (Nat × Nat) := []
  hmPubs : List Nat := []
  deriving DecidableEq, Repr, Inhabited

/-- A VFMAP entry (13 R343). -/
structure Vf where
  idx : Nat
  valid : Bool
  admin : Bool
  part : Nat
  deriving DecidableEq, Repr, Inhabited

/-- A translation-cache entry (16 R403): unit, partition, virtual page and span, the leaf's physical base (see `Phys`), rights, and
version index. -/
structure Tlb where
  unit : Nat
  part : Nat
  va : Nat
  span : Nat
  base : Nat
  dev : Option (Nat × Nat)
  x : Bool
  w : Bool
  vers : Option Nat
  deriving DecidableEq, Repr, Inhabited

/-- A line of an RDC that holds a peer-homed line (03 R96, R97, R101): the partition that it is cached for (13 R346), its bytes, whether a fill has made them all
valid (else only those written here are), the offsets written here, the step tag of its fill, the
buffered stores (with their workgroups) whose bytes it has not written back, for a write-back that fails (09 R247, 15 R387), and the releasing writes that its
bytes hold (04 R120). -/
structure RdcLine where
  die : Nat
  part : Nat
  line : Nat
  bytes : List Byte
  full : Bool := true
  dirty : List Nat := []
  tag : Word := 0
  writers : List (Nat × SbEntry) := []
  tags : List SyncTag := []
  deriving DecidableEq, Repr, Inhabited

/-- A shootdown under way (16 R405): what it removes. -/
structure Shootdown where
  id : Nat
  wg : Nat
  gang : Nat
  lane : Nat
  part : Nat
  lo : Nat
  hi : Nat
  deriving DecidableEq, Repr, Inhabited

/-- What left the package (05 R142, R145, R148; 10 R304; 13 R343, R351; 14 R355; 16 R413, R417; 17 R439, R440); an answer without a value is an Unsupported
Request. -/
inductive Msg where
  | announce (part rank : Nat) (step : Word) (devs : List (Nat × Bool))
  | notice (n : Notice)
  | contribution (a : Arrival)
  | result (dev : Nat) (r : ResultMsg)
  | send (id part peer rctr : Nat) (pieces : List (Nat × List Byte))
  | sendAck (dev part ctr : Nat)
  | sealRequest (dev : Nat) (lin : BitVec 128) (c : DWord) (meas : List Byte)
  | sealAck (dev : Nat) (lin : BitVec 128) (c : DWord) (ack : Bool)
  | attestation (dev : Nat) (lin : BitVec 128) (c : DWord) (meas : List Byte) (sig : List Byte)
  | fabricAnswer (dev : Nat) (ok : Bool) (bytes : List Byte)
  | atomicAnswer (dev : Nat) (ok : Bool) (old : DWord)
  | apertureAnswer (vf : Nat) (bytes : Option (List Byte))
  | registerAnswer (vf : Option Nat) (bar off : Nat) (value : Option Nat)
  | msix (vf : Nat)
  deriving DecidableEq, Repr, Inhabited

/-- The issue that `exec` is acting for (notes/assumptions/1.md): the gang, the lanes, where the word stands, and for a re-injected
entry its captured sources and its kind. `mism` counts checker mismatches of this issue (15 R395). `young` holds the younger operations that have
issued when the instruction is checked, and `resume` the address after the youngest (15 R378, R383). `probe` says that the issue is only tried, for the cause
that `found` gives (15 R379). -/
structure Issue where
  wg : Nat := 0
  gang : Nat := 0
  lanes : List Nat := []
  pc : DWord := 0
  next : DWord := 0
  past : Bool := false
  word : Nat := 0
  half : Bool := false
  replay : Bool := false
  caps : List Cap := []
  kind : EntryKind := .instr
  mism : Nat := 0
  young : List Entry := []
  resume : DWord := 0
  resumePast : Bool := false
  probe : Bool := false
  found : Option Nat := none
  deriving DecidableEq, Repr, Inhabited

/-- One thing that happens next (notes/assumptions/1.md): an issue of a gang by some of its lanes; an event of the opcode table; the passing of
time by clock domain, and in one unit alone; an eviction from a translation cache; a spindle's reading of a send's source; the beginning of a graph load; the host's read of a register; and changes made from outside: host memory and peer memory
written by their owners, words of memory becoming uncorrectable, lost 1 KiB blocks, sensor figures, the device number the pod gives, and the granules of peers whose checks
refuse this package (16 R416). -/
inductive Action where
  | issue (wg gang : Nat) (lanes : List Nat) (mism ahead : Nat)
  | event (i : Instr)
  | elapse (slice spindle head sealer mon us : Nat)
  | drift (unit n : Nat)
  | evict (unit va : Nat)
  | hostWrite (addr : Nat) (bytes : List Byte)
  | peerWrite (pa : Nat) (bytes : List Byte)
  | poisonLocal (wg word : Nat)
  | poisonGlobal (pa : Nat)
  | sticky (core block : Nat)
  | setStep (die idx : Nat) (step : Word)
  | newVersion (die idx : Nat) (step : Word)
  | power (on : Bool) (energy watts : Nat)
  | device (num : Nat)
  | source (id : Nat)
  | loading (vf : Nat) (value : BitVec 64)
  | registerRead (vf : Option Nat) (bar off size : Nat)
  | shut (granules : List Nat)
  | epmap (d : Nat) (x : BitVec 128)
  deriving DecidableEq, Repr, Inhabited

/-- Where an access of a lane goes once its address has been checked (03 R85): a workgroup's local store, a memory key with the version
index of its page, or an offset of a host window with the host address at which the window begins. -/
inductive Place where
  | loc (wg off : Nat)
  | mem (key : Nat) (vers : Option Nat)
  | win (i off host : Nat)
  deriving DecidableEq, Repr, Inhabited

/-- What an issue asked outside the package, for which its gang waits (09 R246, 16 R414 to R416): the instruction, its issue, and the captured sources of
its executing lanes. Each lane's request is answered by itself: `waits` are the lanes without an answer and where they go, `got` what the others have (nothing
for a refused `ldv`), `bad` the lanes whose request failed with the code, and `tries` the loops of 16 R415: the lane, the bytes that the host
last returned, and the failed retries. `spans` are the leaves that the addresses were translated by (16 R405). -/
structure IoReq where
  id : Nat
  instr : Instr
  issue : Issue
  caps : List Cap
  waits : List (Nat × Place)
  got : List (Nat × Option Nat) := []
  bad : List (Nat × Nat) := []
  tries : List (Nat × Nat × Nat) := []
  spans : List (Nat × Nat) := []
  deriving DecidableEq, Repr, Inhabited

/-- Bytes of a partition's memory that hold a switched-out workgroup (15 R389), and whether anything has written them meanwhile. -/
structure SavedAt where
  wg : Nat
  key : Nat
  len : Nat
  bad : Bool := false
  deriving DecidableEq, Repr, Inhabited

/-- A graph load that has begun (14 R357): the function that wrote `GLOAD`, the value, and the partition that it was written for. -/
structure Loading where
  vf : Nat
  value : Nat
  part : Nat
  deriving DecidableEq, Repr, Inhabited

/-- The whole machine. -/
structure State where
  -- the model's own
  agenda : List Action
  turns : List Action
  since : Nat
  owed : Bool
  tick : Nat
  uid : Nat
  cur : Issue
  -- clocks (00 R8): what every unit of a domain has counted at least, the origin of the slice counters (01 R35), and what single units are ahead
  sliceClk : Nat
  spindleClk : Nat
  headClk : Nat
  sealClk : Nat
  monClk : Nat
  sampleClk : Nat
  clkZero : List (Nat × Nat)
  drift : List (Nat × Nat)
  -- package
  supply : Bool
  ready : List Nat
  pcmdBusy : Bool
  pcmdResult : Nat
  pcmdPart : Nat
  pcmdCmd : Nat
  pcmdLost : Bool
  vfmap : List Vf
  epmap : List (Nat × BitVec 128)
  gmap : List (Nat × Nat)
  scrub : List (Nat × Nat)
  grants : List Nat
  devNum : Nat
  linksDown : List Nat
  shut : List Nat
  parts : List Part
  -- memory
  mem : List Host.Cell
  poison : List Nat
  wild : List (Nat × Nat)
  saves : List SavedAt
  hostMem : List Host.Cell
  hot : List Nat
  rdc : List RdcLine
  vtab : List (Nat × Nat × Word)
  tlb : List Tlb
  hb : Hb
  -- work
  gloads : List Loading
  kicks : List Kick
  nodes : List Node
  clusters : List Cluster
  wgs : List Wg
  gangs : List Gang
  threads : List Thread
  slices : List Slice
  lathes : List Lathe
  eops : List EOp
  io : List IoReq
  shoots : List Shootdown
  sticky : List (Nat × Nat)
  -- collectives
  sends : List Send
  contribs : List Contrib
  reds : List Reduction
  heldNotices : List Notice
  results : List Closed
  landing : List Landing
  outbox : List Msg
  -- hold-up, health, seal
  holdup : HState
  energy : Nat
  epoch : Nat
  reported : Nat
  usTrigger : Nat
  byteStart : Nat
  store : List Saved
  storing : List Saved
  records : List (Nat × List Word)
  seals : List SealJob
  lineage : List Lineage
  xidx : Nat
  risk : Nat
  corrected : Word
  droops : Word
  retrains : Word
  mismatches : Word
  hottest : Nat
  powerW : Nat
  deriving DecidableEq, Repr, Inhabited

/-- R140 and 14 R365: an unconfigured partition's graph slots and tables before any `CREATE`. -/
def Part.blank (n : Nat) : Part := { idx := n, slots := List.replicate 16 {} }

/-- The machine when power has just been applied (17 R442, R443): nothing is ready, every partition is Unconfigured (17 R422), and
the nonvolatile parts hold what the log names (notes/assumptions/4.md). -/
def State.reset : State where
  agenda := []
  turns := []
  since := 0
  owed := false
  tick := 0
  uid := 0
  cur := {}
  sliceClk := 0
  spindleClk := 0
  headClk := 0
  sealClk := 0
  monClk := 0
  sampleClk := 0
  clkZero := []
  drift := []
  supply := true
  ready := []
  pcmdBusy := false
  pcmdResult := 0
  pcmdPart := 0
  pcmdCmd := 0
  pcmdLost := false
  vfmap := []
  epmap := []
  gmap := []
  scrub := []
  grants := []
  devNum := 0
  linksDown := []
  shut := []
  parts := (List.range 12).map Part.blank
  mem := []
  poison := []
  wild := []
  saves := []
  hostMem := []
  hot := []
  rdc := []
  vtab := []
  tlb := []
  hb := {}
  gloads := []
  kicks := []
  nodes := []
  clusters := []
  wgs := []
  gangs := []
  threads := []
  slices := []
  lathes := []
  eops := []
  io := []
  shoots := []
  sticky := []
  sends := []
  contribs := []
  reds := []
  heldNotices := []
  results := []
  landing := []
  outbox := []
  holdup := .off
  energy := 0
  epoch := 0
  reported := 0
  usTrigger := 0
  byteStart := 0
  store := []
  storing := []
  records := []
  seals := []
  lineage := []
  xidx := 0
  risk := 0
  corrected := 0
  droops := 0
  retrains := 0
  mismatches := 0
  hottest := 0
  powerW := 0

/-- Updates the elements that satisfy a test. -/
def updWhere {α : Type} (p : α → Bool) (f : α → α) (l : List α) : List α := l.map fun x => if p x then f x else x

end Sys2Proof.Machine
end

