-- ==== Sys2Proof/Machine/Mem.lean ====
section
/-! DEFINITION. Bytes by address. A memory is a list of cells in one canonical form: addresses strictly rising, and no cell that
holds what an unlisted address reads as, zero (13 R344 for package memory; notes/assumptions/5.md for the local stores, peers and
the host). Every wider access is built here from single bytes, so byte order is decided once (00 R4). -/

namespace Sys2Proof.Machine

open Host (Cell)

/-- What an unlisted address reads as. -/
def emptyByte : Byte := 0

/-- The byte at an address. -/
def getByte : List Cell → Nat → Byte
  | [], _ => emptyByte
  | (a, b) :: m, x => if a = x then b else getByte m x

/-- A memory with one byte written; writing the empty byte removes the cell. -/
def setByte : List Cell → Nat → Byte → List Cell
  | [], x, y => if y = emptyByte then [] else [(x, y)]
  | (a, b) :: m, x, y =>
    if x < a then (if y = emptyByte then (a, b) :: m else (x, y) :: (a, b) :: m)
    else if x = a then (if y = emptyByte then m else (x, y) :: m)
    else (a, b) :: setByte m x y

/-- The canonical form from an address on: strictly rising, none below `lo`, no empty byte. -/
def Memory.wfFrom : Nat → List Cell → Bool
  | _, [] => true
  | lo, (a, b) :: m => decide (lo ≤ a) && decide (b ≠ emptyByte) && Memory.wfFrom (a + 1) m

/-- The canonical form of a memory. -/
def Memory.wf (m : List Cell) : Bool := Memory.wfFrom 0 m

/-- `n` bytes from an address. -/
def getBytes (m : List Cell) (x : Nat) : Nat → List Byte
  | 0 => []
  | n + 1 => getByte m x :: getBytes m (x + 1) n

/-- Bytes written from an address on. -/
def setBytes (m : List Cell) (x : Nat) : List Byte → List Cell
  | [] => m
  | b :: bs => setBytes (setByte m x b) (x + 1) bs

/-- The little-endian number of `n` bytes (00 R4). -/
def getNum (m : List Cell) (x n : Nat) : Nat := ofBytesLE (getBytes m x n)

/-- The `n` little-endian bytes of a number written (00 R4). -/
def setNum (m : List Cell) (x n v : Nat) : List Cell := setBytes m x (toBytesLE v n)

/-! ### Ranges

Ranges of addresses (first, length), for contents that the spec leaves undefined (00 R7). -/

/-- Whether a number lies in some range. -/
def inRanges (l : List (Nat × Nat)) (x : Nat) : Bool := l.any fun r => r.1 ≤ x && x < r.1 + r.2

/-- Ranges without the `n` numbers from `a` on. -/
def cutRange (l : List (Nat × Nat)) (a n : Nat) : List (Nat × Nat) :=
  if n == 0 then l
  else l.flatMap fun r => [(r.1, min (a - r.1) r.2), (max r.1 (a + n), r.1 + r.2 - max r.1 (a + n))].filter fun q => q.2 != 0

/-- Ranges with the `n` numbers from `a` on. -/
def addRange (l : List (Nat × Nat)) (a n : Nat) : List (Nat × Nat) := if n == 0 then l else (a, n) :: l

/-! ### Physical keys

One list holds this package's memory at its physical addresses (03 R95), and what its requests find in the memory of peer device
`d` at `peerBase d` plus the peer's physical address (16 R416). -/

/-- Physical addresses have 40 bits (16 R399). -/
def physSpan : Nat := 2 ^ 40

/-- The first key of peer device `d`. -/
def peerBase (d : Nat) : Nat := (d + 1) * physSpan

/-- Whether a key is a peer's. -/
def isPeer (k : Nat) : Bool := physSpan ≤ k

/-- The home of a key for version records: die 0 to 3 of this package, or of a peer (03 R95, R100). -/
def homeOf (k : Nat) : Nat := 4 * (k / physSpan) + k % physSpan / (192 * 2 ^ 30)

/-- The 128-byte line of a key (03 R96). -/
def lineOf (k : Nat) : Nat := k / 128

/-! ### Lookups by number -/

/-- The value stored under a number, or a default. -/
def lookupD {α : Type} (l : List (Nat × α)) (n : Nat) (d : α) : α :=
  match l with
  | [] => d
  | (k, x) :: r => if k = n then x else lookupD r n d

/-- A value stored under a number, replacing the old one. -/
def store {α : Type} (l : List (Nat × α)) (n : Nat) (x : α) : List (Nat × α) :=
  (n, x) :: l.filter fun e => e.1 != n

/-- A partition of the machine. -/
def State.part (s : State) (n : Nat) : Part := (s.parts[n]?).getD default

/-- One partition updated. -/
def State.updPart (s : State) (n : Nat) (f : Part → Part) : State :=
  { s with parts := updWhere (fun p => p.idx == n) f s.parts }

/-- The `GMAP` value of a granule (13 R344). -/
def State.gmapOf (s : State) (g : Nat) : Nat := lookupD s.gmap g 0xF

/-- Whether a partition owns a granule (13 R344): scrubbing granules show 0xD. -/
def State.owns (s : State) (p g : Nat) : Bool := g < 768 && s.gmapOf g == p

/-- Whether every byte of a physical range lies in granules that the partition owns. -/
def State.ownsRange (s : State) (p a n : Nat) : Bool :=
  n == 0 || (List.range ((a + n - 1) / 2 ^ 30 + 1 - a / 2 ^ 30)).all fun i => s.owns p (a / 2 ^ 30 + i)

/-- Whether a byte of a physical range lies in a word that reads uncorrectable (16 R400, 10 R278). Words are 8 bytes. -/
def State.bad (s : State) (a n : Nat) : Bool := s.poison.any fun w => overlap (8 * w) 8 a n

/-- 16 R417: the ingress atomic unit gives back every held word of the lines of a range. -/
def State.recall (s : State) (a n : Nat) : State :=
  { s with hot := s.hot.filter fun w => !(lineOf a ≤ lineOf (8 * w) && lineOf (8 * w) ≤ lineOf (a + n - 1)) }

/-- 15 R389: parts of save areas that a write meets. -/
def spoilSaves (l : List SavedAt) (a n : Nat) : List SavedAt := updWhere (fun x => overlap x.key x.len a n) (fun x => { x with bad := true }) l

/-- 04 R116, 06 R177: what bytes were before a write, kept while a node lives that may still read them. -/
def State.noteOld (s : State) (a : SyncAt) (old : List Byte) (item : Option Nat) : State :=
  if s.nodes.isEmpty then s
  else { s with hb := { s.hb with olds := { at_ := a, bytes := old, item := item, when_ := s.uid } :: s.hb.olds } }

/-- Bytes written at their home (03 R96), by a recorded access or another; a word written whole is no longer uncorrectable, and the bytes are defined. -/
def State.writeMem (s : State) (a : Nat) (bs : List Byte) (item : Option Nat := none) : State :=
  { s.noteOld (.mem a) (getBytes s.mem a bs.length) item with
    mem := setBytes s.mem a bs
    saves := spoilSaves s.saves a bs.length
    poison := s.poison.filter fun w => !(a ≤ 8 * w && 8 * w + 8 ≤ a + bs.length)
    wild := cutRange s.wild a bs.length }

/-- Bytes of memory become undefined (00 R7). -/
def State.wildMem (s : State) (a n : Nat) : State := { s with wild := addRange s.wild a n }

/-- A byte at its home; a byte of undefined contents (00 R7), or of a word that reads uncorrectable, is free, since the spec gives such a read of
global memory no value and no cause (notes/assumptions/7.md). -/
def State.homeByte (s : State) (k : Nat) : Byte :=
  if s.poison.contains (k / 8) || inRanges s.wild k then (Config.free s.tick [5, k]).truncate 8 else getByte s.mem k

/-- Bytes at their homes. -/
def State.homeBytes (s : State) (k n : Nat) : List Byte :=
  if s.poison.isEmpty && s.wild.isEmpty then getBytes s.mem k n else (List.range n).map fun i => s.homeByte (k + i)

/-! ### Links -/

/-- 17 R427: whether the package takes what comes in over its links: not from the trigger of a hold-up sequence on. -/
def State.linksOpen (s : State) : Bool :=
  match s.holdup with
  | .off | .charging | .armed => true
  | _ => false

/-- 17 R427: what comes in over a link acts while the links are open; else it completes with an error. -/
def State.incoming (s : State) (k : State → State) : State := if s.linksOpen then k s else s

/-! ### Local stores (03 R87) -/

/-- A workgroup by its number; a default one when there is none. -/
def State.wg (s : State) (u : Nat) : Wg := (s.wgs.find? fun w => w.uid == u).getD default

/-- A byte of a local store; one that nothing has written since the workgroup was created is undefined (01 R15), and so free. -/
def State.lsByte (s : State) (w off : Nat) : Byte :=
  let x := s.wg w
  if inRanges x.undef off then (Config.free s.tick [23, w, off]).truncate 8 else getByte x.ls off

/-- Bytes of a local store at its port. -/
def State.lsRead (s : State) (w off n : Nat) : List Byte :=
  if (s.wg w).undef.isEmpty then getBytes (s.wg w).ls off n else (List.range n).map fun i => s.lsByte w (off + i)

/-- A number in a local store (00 R4). -/
def State.lsNum (s : State) (w off n : Nat) : Nat := ofBytesLE (s.lsRead w off n)

/-- Bytes of a local store become undefined (00 R7). -/
def Wg.wildLs (x : Wg) (off n : Nat) : Wg := { x with undef := addRange x.undef off n }

/-! ### Places of synchronisation (04 R120) -/

/-- The space of a place, and its first byte there. -/
def SyncAt.space : SyncAt → (Nat × Nat) × Nat
  | .loc w off => ((0, w), off)
  | .mem k => ((1, 0), k)
  | .host a => ((2, 0), a)

/-- A place moved within its space. -/
def SyncAt.to : SyncAt → Nat → SyncAt
  | .loc w _, x => .loc w x
  | .mem _, x => .mem x
  | .host _, x => .host x

/-- Whether two byte ranges have a byte in common. -/
def SyncAt.meets (a : SyncAt) (n : Nat) (b : SyncAt) (m : Nat) : Bool := a.space.1 == b.space.1 && overlap a.space.2 n b.space.2 m

/-- Whether the first byte range covers the second. -/
def SyncAt.covers (a : SyncAt) (n : Nat) (b : SyncAt) (m : Nat) : Bool :=
  a.space.1 == b.space.1 && a.space.2 ≤ b.space.2 && b.space.2 + m ≤ a.space.2 + n

/-- The bytes of a tag that a range does not cover. -/
def SyncTag.without (t : SyncTag) (a : SyncAt) (n : Nat) : List SyncTag :=
  if !t.at_.meets t.len a n then [t]
  else (cutRange [(t.at_.space.2, t.len)] a.space.2 n).map fun r => { t with at_ := t.at_.to r.1, len := r.2 }

/-- The bytes of a tag that a range covers, as an atomic read-modify-write of the range leaves them: its release chain goes on (04 R120), and
a read must cover what it wrote (R121). -/
def SyncTag.within (t : SyncTag) (a : SyncAt) (n : Nat) : List SyncTag :=
  if !t.at_.meets t.len a n then []
  else
    let lo := max t.at_.space.2 a.space.2
    [{ t with at_ := a.to lo, len := min (t.at_.space.2 + t.len) (a.space.2 + n) - lo, first := a, cover := n }]

/-- The tag of a write that makes a release; a release that publishes nothing needs none. -/
def newTag (a : SyncAt) (n : Nat) (r : Release) : List SyncTag :=
  if r.pubs.isEmpty then [] else [{ at_ := a, len := n, first := a, cover := n, rel := r }]

/-- Tags but for the bytes of a range. -/
def cutTags (l : List SyncTag) (a : SyncAt) (n : Nat) : List SyncTag := l.flatMap fun t => t.without a n

/-- Tags on the bytes of a range alone. -/
def keepTags (l : List SyncTag) (a : SyncAt) (n : Nat) : List SyncTag :=
  l.flatMap fun t =>
    if !t.at_.meets t.len a n then []
    else
      let lo := max t.at_.space.2 a.space.2
      [{ t with at_ := a.to lo, len := min (t.at_.space.2 + t.len) (a.space.2 + n) - lo }]

/-- Tags with those of the bytes of a range taken from others. -/
def moveTags (l m : List SyncTag) (a : SyncAt) (n : Nat) : List SyncTag := keepTags m a n ++ cutTags l a n

/-! ### The remote-data caches (03 R96, R97, R101) -/

/-- Whether a line is the one of a die's RDC for a partition: no line cached for one partition is returned to another (13 R346). -/
def RdcLine.at_ (l : RdcLine) (die part line : Nat) : Bool := l.die == die && l.part == part && l.line == line

/-- The line of a die's RDC. -/
def State.rdcLine? (s : State) (die part line : Nat) : Option RdcLine := s.rdc.find? fun l => l.at_ die part line

/-- The step of a page's version record (03 R102). -/
def State.stepOf (s : State) (die idx : Nat) : Word :=
  match s.vtab.find? fun e => e.1 == die && e.2.1 == idx with
  | some e => e.2.2
  | none => 0

/-- A version record set to a step (03 R103: a step never decreases is the caller's). -/
def State.setStep (s : State) (die idx : Nat) (x : Word) : State :=
  { s with vtab := (die, idx, x) :: s.vtab.filter fun e => !(e.1 == die && e.2.1 == idx) }

/-- Whether the bytes of a line are valid at an offset: all of a filled line's, and those written here. -/
def RdcLine.has (l : RdcLine) (i : Nat) : Bool := l.full || l.dirty.contains i

/-- The bytes of a line as a fill finds them at home, but for those written here. -/
def State.filled (s : State) (l : RdcLine) : List Byte :=
  (List.range 128).map fun i => if l.dirty.contains i then (l.bytes[i]?).getD 0 else s.homeByte (128 * l.line + i)

/-- 04 R120: the releasing writes that the bytes of a line hold once a fill has made them all valid: those of its home, but for the bytes written here. -/
def State.filledTags (s : State) (l : RdcLine) : List SyncTag :=
  l.dirty.foldl (fun t i => moveTags t l.tags (.mem (128 * l.line + i)) 1) (keepTags s.hb.tags (.mem (128 * l.line)) 128)

/-- A line filled: its clean bytes are those of its home, with a step tag. -/
def State.fill (s : State) (l : RdcLine) (tag : Word) : RdcLine := { l with bytes := s.filled l, full := true, tag := tag, tags := s.filledTags l }

/-- A peer's line filled over UALink into a die's RDC, with its step tag. -/
def State.rdcFill (s : State) (die part line : Nat) (tag : Word) : State :=
  match s.rdcLine? die part line with
  | some l => if l.full then s else { s with rdc := updWhere (fun x => x.at_ die part line) (fun x => s.fill x tag) s.rdc }
  | none => { s with rdc := s.fill { die, part, line, bytes := List.replicate 128 0 } tag :: s.rdc }

/-- Bytes `off` on of a line replaced. -/
def patchBytes (old : List Byte) (off : Nat) (bs : List Byte) : List Byte :=
  old.take off ++ bs ++ old.drop (off + bs.length)

/-- Byte offsets of a line marked written, in rising order. -/
def markDirty (old : List Nat) (off n : Nat) : List Nat :=
  (List.range 128).filter fun i => old.contains i || (decide (off ≤ i) && decide (i < off + n))

/-- A store into a peer-homed RDC line, marking the bytes (03 R96), which hold the releases of its write (04 R120). A line that the die does not hold is not filled
for it. -/
def State.rdcStore (s : State) (die part key : Nat) (bs : List Byte) (rels : List Release := []) : State :=
  let line := lineOf key
  let s := if (s.rdcLine? die part line).isSome then s
    else { s with rdc := { die, part, line, bytes := List.replicate 128 0, full := false } :: s.rdc }
  let off := key % 128
  { s with rdc := s.rdc |> updWhere (fun l => l.at_ die part line) (fun l => { l with
    bytes := patchBytes l.bytes off bs, dirty := markDirty l.dirty off bs.length
    tags := rels.flatMap (newTag (.mem key) bs.length) ++ cutTags l.tags (.mem key) bs.length }) }

/-- The dirty bytes of one line written to a memory (03 R97). -/
def writeBack (m : List Cell) (l : RdcLine) : List Cell :=
  l.dirty.foldl (fun m i => setByte m (128 * l.line + i) ((l.bytes[i]?).getD 0)) m

/-- Bytes that an atomic has found or left at a peer's home, replaced in every copy of a die, so that a reader there does not see older ones (04 R115), with the
releasing writes that the home holds (04 R120). -/
def State.rdcPatch (s : State) (die key : Nat) (bs : List Byte) : State :=
  { s with rdc := s.rdc |> updWhere (fun l => l.die == die && l.line == lineOf key) (fun l => { l with
      bytes := patchBytes l.bytes (key % 128) bs, tags := moveTags l.tags s.hb.tags (.mem key) bs.length }) }

/-- 16 R416, R418: whether a request for a key completes with an error: no UALink path reaches the device (notes/assumptions/16.md says how a
failed link is numbered), or the checks of the device refuse the granule. -/
def State.unreachable (s : State) (k : Nat) : Bool :=
  isPeer k && (s.linksDown.contains (k / physSpan - 1) || s.shut.contains (k / 2 ^ 30))

/-- The bytes of a buffered store that a range does not cover, as stores of their own. -/
def SbEntry.outside (e : SbEntry) (a n : Nat) : List SbEntry :=
  match e.dest with
  | .win .. => [e]
  | .mem k =>
    if !overlap k e.bytes.length a n then [e]
    else (cutRange [(k, e.bytes.length)] a n).map fun r =>
      { e with dest := .mem r.1, va := e.va + BitVec.ofNat 64 (r.1 - k), bytes := (e.bytes.drop (r.1 - k)).take r.2 }

/-- Whether a key lies in a range, or in any where there is none. -/
def keyIn (r : Option (Nat × Nat)) (k : Nat) : Bool := r.all fun x => x.1 ≤ k && k < x.1 + x.2

/-- A line whose dirty bytes in a range, or all, have been written back; of one that no fill has made whole they are valid no more. -/
def RdcLine.cleaned (l : RdcLine) (r : Option (Nat × Nat)) : RdcLine :=
  { l with
    dirty := l.dirty.filter fun i => !keyIn r (128 * l.line + i)
    writers := match r with
      | none => []
      | some x => l.writers.flatMap fun w => (w.2.outside x.1 x.2).map fun e => (w.1, e) }

/-- The dirty bytes in a range, or all, of the lines that satisfy a test written back (03 R96, R97, 04 R124, 09 R262), with the releasing writes that they hold (04 R120);
those of a peer that no path reaches stay, for `RDC_LINE_EVICT` to report. A line that no fill has made whole goes with its last byte. -/
def State.rdcBack (s : State) (p : RdcLine → Bool) (r : Option (Nat × Nat)) : State :=
  let q (l : RdcLine) : Bool := p l && !s.unreachable (128 * l.line)
  let part (l : RdcLine) : RdcLine := { l with dirty := l.dirty.filter fun i => keyIn r (128 * l.line + i) }
  let out := ((s.rdc.filter q).map part).filter fun l => !l.dirty.isEmpty
  let home (t : List SyncTag) (l : RdcLine) : List SyncTag := l.dirty.foldl (fun t i => moveTags t l.tags (.mem (128 * l.line + i)) 1) t
  { s with
    mem := out.foldl writeBack s.mem
    wild := out.foldl (fun w l => l.dirty.foldl (fun w i => cutRange w (128 * l.line + i) 1) w) s.wild
    rdc := (s.rdc.map fun l => if q l then l.cleaned r else l).filter fun l => !q l || l.full || !l.dirty.isEmpty
    hb := if out.isEmpty then s.hb else { s.hb with tags := out.foldl home s.hb.tags } }

/-- The dirty bytes of the lines that satisfy a test written back. -/
def State.rdcWriteBack (s : State) (p : RdcLine → Bool) : State := s.rdcBack p none

/-- 09 R262: an acquire at `.pod` or `.sys` drops the clean lines of a die; a line with dirty bytes keeps those alone (notes/assumptions/14.md). -/
def State.rdcAcquire (s : State) (die : Nat) : State :=
  let kept := s.rdc.filter fun l => !(l.die == die && l.dirty.isEmpty)
  { s with rdc := updWhere (fun l => l.die == die) (fun l => { l with full := false }) kept }

/-- The bytes that a partition's threads on a core of a die read at a key: the RDC line of a peer-homed line where there is one, else memory. -/
def State.readKey (s : State) (die part key n : Nat) : List Byte :=
  (List.range n).map fun i =>
    let k := key + i
    if isPeer k then
      match s.rdcLine? die part (lineOf k) with
      | some l => if l.has (k % 128) then (l.bytes[k % 128]?).getD 0 else s.homeByte k
      | none => s.homeByte k
    else s.homeByte k

/-- 04 R120: the releasing writes that the bytes of a line at a key hold where a partition's threads on a core of a die read them: those of the RDC line of a peer-homed
line, for its valid bytes, else those of the home. -/
def State.tagsAt (s : State) (die part key : Nat) : List SyncTag :=
  match (if isPeer key then s.rdcLine? die part (lineOf key) else none) with
  | some l => if l.full then l.tags else l.dirty.foldl (fun t i => moveTags t l.tags (.mem (128 * l.line + i)) 1) s.hb.tags
  | none => s.hb.tags

end Sys2Proof.Machine
end

