-- ==== Sys2Proof/Machine/Csr.lean ====
section
/-! DEFINITION. The partition CSRs: their fields, what each reads as, and what a write does (13 R348 to R353, 15 R381, 16 R402, R412,
17 R431). -/

namespace Sys2Proof.Machine

/-- The bits of a CSR that a write may set (13 R348, 15 R381, 16 R402, 17 R431). -/
def rwMask (n : Nat) : Nat :=
  if n == 0x010 then 0x1FFF
  else if n == 0x011 then 0xFF
  else if n == 0x012 then 0x3FFFFFFF
  else if n == 0x013 || n == 0x122 || n == 0x2C1 then 0xFFFF
  else if n == 0x120 then 0xFFFF0000
  else if n == 0x200 then 0xFFFE0001
  else if n == 0x201 || n == 0x205 then 0xFF
  else if n == 0x204 then 0xFFFFF800
  else if n == 0x207 then 0x3FF
  else if n == 0x002 || n == 0x110 || n == 0x206 || n == 0x2C5 then 0
  else if WF.csrWritable n then 0xFFFFFFFF
  else 0

/-- The bits that a written one clears (13 R353). -/
def w1cMask (n : Nat) : Nat :=
  if n == 0x002 then 0xC else if n == 0x110 then 0x80000000 else if n == 0x206 then 0x7 else if n == 0x2C5 then 0x2 else 0

/-- The stored word of a CSR after `CREATE` (the "Reset" columns). -/
def csrReset (n : Nat) : Word :=
  if n == 0x012 then BitVec.ofNat 32 (2 ^ 26)
  else if n == 0x207 then 0x3FF
  else if n == 0x2C1 then 0xFFFF
  else if n == 0x2C2 then 0x10084001
  else if n == 0x2C5 then 1
  else 0

/-- The stored word of a CSR. -/
def Part.csrWord (p : Part) (n : Nat) : Word := lookupD p.csr n (csrReset n)

/-- A stored word replaced. -/
def Part.setCsr (p : Part) (n : Nat) (x : Word) : Part := { p with csr := store p.csr n x }

/-- 13 R342: the code of a partition's state. -/
def PState.code : PState → Nat
  | .unconfigured => 0 | .stopped => 1 | .running => 2 | .stopping | .resetting => 3

/-- The context tag of a partition (17 R431). -/
def Part.hutag (p : Part) : List Word := (List.range 8).map fun i => p.csrWord (0x282 + i)

/-- A 64-bit pair of CSRs. -/
def Part.csrPair (p : Part) (lo hi : Nat) : Nat := (p.csrWord lo).toNat + 2 ^ 32 * (p.csrWord hi).toNat

/-- 13 R348, 15 R381, 16 R402, 17 R431: what a partition CSR reads as. -/
def State.csrRead (s : State) (p : Nat) (n : Nat) : Word :=
  let q := s.part p
  if n == 0x000 then BitVec.ofNat 32 q.idx
  else if n == 0x001 then BitVec.ofNat 32 q.qact
  else if n == 0x002 then BitVec.ofNat 32 (q.csrWord n).toNat ||| BitVec.ofNat 32 q.st.code
  else if 0x003 ≤ n && n ≤ 0x006 then
    BitVec.ofNat 32 ((List.range 192).filter fun i => s.owns p (192 * (n - 3) + i)).length
  else if n == 0x007 then BitVec.ofNat 32 q.saveu
  else if n == 0x00A then q.keygen
  else if n == 0x010 then q.csrWord n ||| (if q.bound then 0x80000000 else 0)
  else if 0x210 ≤ n && n ≤ 0x227 then
    BitVec.ofNat 32 ((List.range 32).foldl (fun a b => a + (if s.owns p (32 * (n - 0x210) + b) then 2 ^ b else 0)) 0)
  else if n == 0x280 then BitVec.ofNat 32 q.kused
  else if n == 0x281 then BitVec.ofNat 32 q.keeps.length
  else if n == 0x28A then BitVec.ofNat 32 s.reported
  else if n == 0x28B then (if s.store.any (fun r => r.tag == q.hutag) then 1 else 0)
  else if 0x290 ≤ n && n ≤ 0x29F then BitVec.ofNat 32 (ofBytesLE ((q.meas.drop (4 * (n - 0x290))).take 4))
  else if n == 0x2A0 then BitVec.ofNat 32 s.xidx
  else if n == 0x2C0 then BitVec.ofNat 32 s.risk
  else if WF.csrAssigned n && !(0x100 ≤ n && n ≤ 0x108) then q.csrWord n
  else 0

/-- The three forms of a CSR write (13 R352). -/
inductive CsrOp where
  | write | set | clr
  deriving DecidableEq, Repr, Inhabited

/-- 13 R353: the new stored word. -/
def csrNew (op : CsrOp) (n : Nat) (old a : Word) : Word :=
  let v := match op with
    | .write => a
    | .set => old ||| a
    | .clr => old &&& ~~~a
  let rw := BitVec.ofNat 32 (rwMask n)
  let w1c := BitVec.ofNat 32 (w1cMask n)
  let cleared := match op with
    | .set => old
    | _ => old &&& ~~~a
  (old &&& ~~~(rw ||| w1c)) ||| (v &&& rw) ||| (cleared &&& w1c)

/-- 05 R140: a fresh progress table. -/
def freshProg : List ProgEntry := List.replicate 4096 {}

/-- 13 R350: whether a training-group write is refused. -/
def tgRefused (p : Part) (n : Nat) (new : Word) : Bool :=
  p.bound || (n == 0x010 && 4096 < new.toNat % 2 ^ 13) || (n == 0x012 && new.toNat % 2 ^ 30 == 0)

/-- The physical address of the window table of a partition (16 R411). -/
def Part.windowTable (q : Part) : Nat := (q.csrWord 0x204).toNat / 2 ^ 11 * 2 ^ 11 + 2 ^ 32 * ((q.csrWord 0x205).toNat % 2 ^ 8)

/-- 16 R411, R412: the entry of a host window, at the physical address of the window table, and whether the window can open. DESIGN CHOICE: an entry in a word that reads
uncorrectable, or a table outside the partition's granules, which the checks of R412 do not name, keeps it closed with `HWERR` as a failed check does
(notes/assumptions/57.md). -/
def State.windowEntry (s : State) (p i : Nat) : Window × Bool :=
  let q := s.part p
  let base := q.windowTable
  let e := ofBytesLE (s.homeBytes (base + 32 * i) 32)
  let w : Window :=
    { idx := i, haddr := bits e 63 0, noao := bitAt e 64, vf := bits e 73 65, size := bits e 127 80
      shadow := bits e 191 128, ctr := bits e 255 192 }
  let okVf := match s.vfmap.find? fun v => v.idx == w.vf with
    | some v => v.valid && v.part == p
    | none => false
  (w, s.ownsRange p (base + 32 * i) 32 && !s.bad (base + 32 * i) 32 && bits e 79 74 == 0 && w.haddr % 4096 == 0 &&
    w.ctr % 8 == 0 && w.shadow % 65536 == 0 && 4096 ≤ w.size && w.size % 4096 == 0 && okVf &&
    s.ownsRange p w.shadow (w.size + w.size / 8))

/-- 03 R98, 16 R411: the dirty-byte map of a window: its first byte and its length. -/
def Window.map (w : Window) : Nat × Nat := (w.shadow + w.size, w.size / 8)

/-- 03 R98, 16 R411: whether a byte of a window's shadow is marked. -/
def State.marked (s : State) (w : Window) (off : Nat) : Bool := bitAt (s.homeByte (w.shadow + w.size + off / 8)).toNat (off % 8)

/-- 03 R98: the marked bytes of a window's shadow, in rising order. -/
def State.marks (s : State) (w : Window) : List Nat :=
  (s.mem.filter fun c => w.map.1 ≤ c.1 && c.1 < w.map.1 + w.map.2).flatMap fun c =>
    (List.range 8).filterMap fun j => if bitAt c.2.toNat j then some (8 * (c.1 - w.map.1) + j) else none

/-- 03 R98, 16 R412: a window's dirty-byte map cleared. -/
def State.clearMarks (s : State) (w : Window) : State :=
  { s with
    mem := s.mem.filter fun c => !(w.map.1 ≤ c.1 && c.1 < w.map.1 + w.map.2)
    saves := spoilSaves s.saves w.map.1 w.map.2
    poison := s.poison.filter fun x => !(w.map.1 ≤ 8 * x && 8 * x + 8 ≤ w.map.1 + w.map.2)
    wild := cutRange s.wild w.map.1 w.map.2 }

/-- 03 R98: bytes of a window's shadow marked. -/
def State.setMarks (s : State) (w : Window) (off n : Nat) : State :=
  (List.range n).foldl (fun s i =>
    let a := w.map.1 + (off + i) / 8
    s.writeMem a [s.homeByte a ||| BitVec.ofNat 8 (2 ^ ((off + i) % 8))]) s

/-- 13 R337, R344: whether a partition owns the granules of a window's shadow and map. One of which a granule has been taken holds nothing of the
partition's any more (notes/assumptions/57.md). -/
def State.windowOwned (s : State) (p : Nat) (w : Window) : Bool := s.ownsRange p w.shadow (w.size + w.size / 8)

/-- 16 R417: the held words of the lines of some bytes of a window's shadow and of their marks, given back. -/
def State.recallWindow (s : State) (w : Window) (off n : Nat) : State :=
  (s.recall (w.shadow + off) n).recall (w.map.1 + off / 8) ((off + n - 1) / 8 - off / 8 + 1)

/-- 03 R98: what a write-out takes: the marked bytes of a window, in rising order. -/
def State.staging (s : State) (p : Nat) (w : Window) : List Nat := if s.windowOwned p w then s.marks w else []

/-- 03 R98: what a write-out leaves: a cleared map. -/
def State.unstaged (s : State) (p : Nat) (w : Window) : State :=
  if s.windowOwned p w then (s.recallWindow w 0 w.size).clearMarks w else s

/-- 16 R412, R417: an `OPEN` bit goes from 0 to 1. The entry and the map are read at home. -/
def State.openWindow (s0 : State) (p i : Nat) : State :=
  let (w, ok) := s0.windowEntry p i
  let s1 := s0.recall ((s0.part p).windowTable + 32 * i) 32
  let s := if ok then s1.recall w.map.1 w.map.2 else s1
  let n := if i < 32 then 0x202 else 0x203
  let b : Word := BitVec.ofNat 32 (2 ^ (i % 32))
  if ok then
    { (s.clearMarks w).updPart p (fun q => { q.setCsr n (q.csrWord n ||| b) with windows := w :: q.windows.filter fun x => x.idx != i })
      with hostMem := setNum s.hostMem w.ctr 8 0 }
  else s.updPart p fun q => (q.setCsr n (q.csrWord n &&& ~~~b)).setCsr 0x206 (q.csrWord 0x206 ||| 1)

/-- 16 R412: an `OPEN` bit goes from 1 to 0. -/
def State.closeWindow (s : State) (p i : Nat) : State :=
  let n := if i < 32 then 0x202 else 0x203
  let b : Word := BitVec.ofNat 32 (2 ^ (i % 32))
  s.updPart p fun q =>
    { q.setCsr n (q.csrWord n &&& ~~~b) with windows := (q.windows.filter fun x => x.idx != i),
                                             publishes := (q.publishes.filter fun x => x.1 != i) }

/-- 16 R412: the changed `OPEN` bits acted on one by one. -/
def State.changeOpen (s : State) (p base : Nat) (old new : Word) : State :=
  (List.range 32).foldl (fun s b =>
    if old.getLsbD b == new.getLsbD b then s
    else if new.getLsbD b then s.openWindow p (base + b) else s.closeWindow p (base + b)) s

/-- 13 R350 to R353: one write of a partition CSR. -/
def State.csrWrite (s : State) (p n : Nat) (op : CsrOp) (a : Word) : State :=
  let q := s.part p
  let old := q.csrWord n
  let new := csrNew op n old a
  if 0x010 ≤ n && n ≤ 0x015 then
    if tgRefused q n (match op with | .write => a | .set => old ||| a | .clr => old &&& ~~~a) then
      s.updPart p fun q => q.setCsr 0x002 (q.csrWord 0x002 ||| 8)
    else s.updPart p fun q => { q.setCsr n new with prog := freshProg }
  else if n == 0x202 then s.changeOpen p 0 old new
  else if n == 0x203 then s.changeOpen p 32 old new
  else if rwMask n == 0 && w1cMask n == 0 then s
  else s.updPart p fun q => q.setCsr n new

end Sys2Proof.Machine
end

