-- ==== Sys2Proof/Machine/Xlate.lean ====
section
/-! DEFINITION. Address translation (16 R398 to R406) and the reading of fetch lines (06 R150 to R152). -/

namespace Sys2Proof.Machine

/-- What an access asks of a page (16 R400). -/
inductive Acc where
  | read | write | fetch
  deriving DecidableEq, Repr, Inhabited

/-- The translation cache of the slices of a core (16 R403). -/
def unitCore (core : Nat) : Nat := core
/-- The translation cache of a lathe's load pipe. -/
def unitLathe (core l : Nat) : Nat := 64 + 4 * core + l
/-- The translation cache of a core's gouge. -/
def unitGouge (core : Nat) : Nat := 320 + core
/-- The translation cache of a spindle. -/
def unitSpindle (k : Nat) : Nat := 384 + k
/-- The translation cache of the headstock. -/
def unitHead : Nat := 388

/-! Clocks that count by themselves (00 R8, 01 R35), in the numbering of `State.drift`. -/

/-- The clock of a slice. -/
def clockSlice (core i : Nat) : Nat := 32 * core + i
/-- The clock of a lathe. -/
def clockLathe (core l : Nat) : Nat := 2048 + 4 * core + l
/-- The clock of a spindle. -/
def clockSpindle (k : Nat) : Nat := 2304 + k

/-- What a unit's clock has counted: what every unit of its domain has counted at least, and what it is ahead. -/
def State.clockOf (s : State) (base unit : Nat) : Nat := base + lookupD s.drift unit 0

/-- 16 R398: the levels: number, lowest index bit, index bits, alignment of the table that an entry may point to. -/
def levels : List (Nat × Nat × Nat × Nat) :=
  [(0, 39, 13, 8192), (1, 30, 9, 8192), (2, 21, 9, 512), (3, 16, 5, 1)]

/-- 16 R399: whether a valid entry is malformed at a level whose span is 2^lo. -/
def pteMalformed (level lo talign e : Nat) : Bool :=
  let leaf := bitAt e 1
  let fab := bitAt e 4
  let vers := bitAt e 5
  let addr := bits e 39 8 * 256
  let attrs := bitAt e 2 || bitAt e 3 || fab || vers || bits e 127 108 != 0 || bits e 105 96 != 0
  bits e 107 106 != 0 || bits e 95 40 != 0 || bits e 7 6 != 0 || (leaf && level == 0) || (!leaf && level == 3) ||
  (if leaf then addr % 2 ^ lo != 0 else addr % talign != 0) || (!leaf && attrs) || (leaf && vers && level != 3) ||
  (leaf && bitAt e 3 && fab) || (leaf && !vers && bits e 127 112 != 0) ||
  (leaf && !fab && (bits e 111 108 != 0 || bits e 105 96 != 0))

/-- The leaf that an entry makes, with unit 0. -/
def leafOf (p lo va e : Nat) : Tlb :=
  let addr := bits e 39 8 * 256
  { unit := 0, part := p, va := va / 2 ^ lo * 2 ^ lo, span := 2 ^ lo
    base := if bitAt e 4 then peerBase (bits e 105 96) + addr else addr
    dev := if bitAt e 4 then some (bits e 105 96, bits e 111 108) else none
    x := bitAt e 3, w := bitAt e 2, vers := if bitAt e 5 then some (bits e 127 112) else none }

/-- 16 R398, R400: the walk from a table on; a fault is its code. -/
def State.walkFrom (s : State) (p va : Nat) : List (Nat × Nat × Nat × Nat) → Nat → Except Nat Tlb
  | [], _ => .error 0x12
  | (level, lo, n, talign) :: rest, table =>
    let at_ := table + 16 * (va / 2 ^ lo % 2 ^ n)
    if !s.ownsRange p table (16 * 2 ^ n) then .error 0x13
    else if s.bad at_ 16 then .error 0x16
    else
      let e := ofBytesLE (s.homeBytes at_ 16)
      if !bitAt e 0 then .error 0x10
      else if pteMalformed level lo talign e then .error 0x12
      else if bitAt e 1 then
        let l := leafOf p lo va e
        if l.dev.isNone && !s.ownsRange p l.base l.span then .error 0x13 else .ok l
      else s.walkFrom p va rest (bits e 39 8 * 256)

/-- The table of level 0 of a partition (16 R402). -/
def Part.tableBase (q : Part) : Nat := (q.csrWord 0x200).toNat / 2 ^ 17 * 2 ^ 17 + 2 ^ 32 * ((q.csrWord 0x201).toNat % 2 ^ 8)

/-- 16 R398, R400, R401: a walk from the partition's level-0 table. -/
def State.walk (s : State) (p va : Nat) : Except Nat Tlb :=
  let q := s.part p
  if !(q.csrWord 0x200).getLsbD 0 then .error 0x10
  else s.walkFrom p va levels q.tableBase

/-- 16 R403: the cached leaf of a unit that maps an address. -/
def State.cached (s : State) (unit p va : Nat) : Option Tlb :=
  s.tlb.find? fun e => e.unit == unit && e.part == p && e.va ≤ va && va < e.va + e.span

/-- The leaf for an address: cached, or walked for. A cached page that has been taken from the partition is not its own any more (13 R344). -/
def State.leaf (s : State) (unit p va : Nat) : Except Nat Tlb :=
  if 2 ^ 52 ≤ va then .error 0x17
  else match s.cached unit p va with
    | some e => if e.dev.isNone && !s.ownsRange p e.base e.span then .error 0x13 else .ok e
    | none => s.walk p va

/-- 16 R400: the translation of one address for an access. -/
def State.xlate (s : State) (unit p va : Nat) (a : Acc) : Except Nat Tlb :=
  match s.leaf unit p va with
  | .error c => .error c
  | .ok e =>
    if a == .fetch && !e.x then .error 0x14
    else if a == .write && !e.w then .error 0x11
    else .ok e

/-- The key (see Mem) of an address under its leaf. -/
def Tlb.key (e : Tlb) (va : Nat) : Nat := e.base + (va - e.va)

/-- The entries that a walk reads, level by level: none of a table that the partition does not own (16 R400). -/
def State.walkAts (s : State) (p va : Nat) : List (Nat × Nat × Nat × Nat) → Nat → List Nat
  | [], _ => []
  | (_, lo, n, _) :: rest, table =>
    let at_ := table + 16 * (va / 2 ^ lo % 2 ^ n)
    let e := ofBytesLE (s.homeBytes at_ 16)
    if !s.ownsRange p table (16 * 2 ^ n) then []
    else at_ :: (if bitAt e 0 && !bitAt e 1 then s.walkAts p va rest (bits e 39 8 * 256) else [])

/-- Whether the translation of an address walks the tables: the unit has none cached, and translation is enabled (16 R400, R403). -/
def State.walks (s : State) (unit p va : Nat) : Bool :=
  va < 2 ^ 52 && (s.cached unit p va).isNone && ((s.part p).csrWord 0x200).getLsbD 0

/-- 16 R417: a walk, be it to a fault, recalls the held words of the lines that it reads. -/
def State.walkRecall (s : State) (unit p va : Nat) : State :=
  if s.hot.isEmpty || !s.walks unit p va then s
  else (s.walkAts p va levels (s.part p).tableBase).foldl (fun s a => s.recall a 16) s

/-- 16 R403, R417: the translation of an address kept in a unit's cache, after the walk to it. -/
def State.cache (s : State) (unit p va : Nat) : State :=
  match s.cached unit p va, s.leaf unit p va with
  | none, .ok e => { s.walkRecall unit p va with tlb := { e with unit := unit } :: s.tlb }
  | _, _ => s.walkRecall unit p va

/-- The 64 KiB-aligned pieces of a range: address and bytes. -/
def pagesGo : Nat → Nat → Nat → List (Nat × Nat)
  | 0, _, _ => []
  | k + 1, a, n => if n = 0 then [] else
      let m := min n (65536 - a % 65536)
      (a, m) :: pagesGo k (a + m) (n - m)

/-- The pieces of a range, one per 64 KiB page. -/
def pages (a n : Nat) : List (Nat × Nat) := pagesGo (n / 65536 + 2) a n

/-- Every piece of a virtual range translated: keys and lengths, or the first fault with its address. -/
def State.xlateList (s : State) (unit p : Nat) (acc : Acc) : List (Nat × Nat) → Except (Nat × Nat) (List (Nat × Nat))
  | [] => .ok []
  | (a, n) :: r =>
    match s.xlate unit p a acc with
    | .error c => .error (c, a)
    | .ok e =>
      match s.xlateList unit p acc r with
      | .error c => .error c
      | .ok l => .ok ((e.key a, n) :: l)

/-- A virtual range translated. -/
def State.xlateRange (s : State) (unit p : Nat) (acc : Acc) (a n : Nat) : Except (Nat × Nat) (List (Nat × Nat)) :=
  s.xlateList unit p acc (pages a n)

/-- Pieces of a range kept in a unit's cache, up to the first that has no translation. -/
def State.cachePages (s : State) (unit p : Nat) : List (Nat × Nat) → State
  | [] => s
  | x :: r => match s.leaf unit p x.1 with
    | .ok _ => (s.cache unit p x.1).cachePages unit p r
    | .error _ => s.cache unit p x.1

/-- A range kept in a unit's cache page by page. -/
def State.cacheRange (s : State) (unit p a n : Nat) : State := s.cachePages unit p (pages a n)

/-- Bytes at a virtual address, read at their homes: a fault is its code and address. -/
def State.readVirt (s : State) (unit p a n : Nat) : Except (Nat × Nat) (List Byte) :=
  match s.xlateRange unit p .read a n with
  | .error c => .error c
  | .ok l =>
    if l.any fun k => s.bad k.1 k.2 then .error (0x16, a)
    else .ok (l.flatMap fun k => s.homeBytes k.1 k.2)

/-! ### Fetch lines -/

/-- The line that holds an address. -/
def lineAddr (pc : DWord) : DWord := pc &&& ~~~(63 : DWord)

/-- 06 R150: slot word `k` of a line. -/
def Line.word (l : Line) (k : Nat) : Nat := l.raw / 2 ^ (16 * k) / 2 ^ (16 * k) % 2 ^ 32

/-- 06 R151: the line word. -/
def Line.lineWord (l : Line) : Nat := l.word 15

/-- 06 R151: `LAST`. -/
def Line.last (l : Line) : Bool := bitAt l.lineWord 10

/-- 06 R151: `TGT` of a slot. -/
def Line.tgt (l : Line) (slot : Nat) : Bool := slot ≤ 4 && bitAt l.lineWord (5 + slot)

/-- 06 R151: `PAIR` of a slot. -/
def Line.pair (l : Line) (slot : Nat) : Bool := slot ≤ 4 && bitAt l.lineWord slot

/-- The 96 bits of a slot (06 R150). -/
def Line.slot (l : Line) (i : Nat) : Nat := l.raw / 2 ^ (48 * i) / 2 ^ (48 * i) % 2 ^ 96

/-- 06 R151, R152: the parity of the line's words against `SPAR` and `LPAR`. -/
def Line.parityOk (l : Line) : Bool :=
  ((List.range 15).all fun k => bitAt l.lineWord (16 + k) == oddParity (l.word k) 32) &&
  bitAt l.lineWord 31 == oddParity (l.lineWord % 2 ^ 31) 31

/-- 06 R152: the zero field of the line word. -/
def Line.zeroOk (l : Line) : Bool := bits l.lineWord 15 11 == 0

/-- 06 R152, 16 R400: the line at an address as a unit fetches it; a fault is its code. -/
def State.fetchLine (s : State) (unit p : Nat) (addr : DWord) : Except Nat Line :=
  match s.xlate unit p addr.toNat .fetch with
  | .error c => .error c
  | .ok e =>
    let k := e.key addr.toNat
    .ok { addr := addr, raw := ofBytesLE (s.homeBytes k 64) }

/-- 06 R153: the operation after one of some bytes, in a line; whether that is the last line's end. -/
def nextAddr (pc : DWord) (n : Nat) (last : Bool) : DWord × Bool :=
  if pc.toNat % 64 + n < 60 then (pc + BitVec.ofNat 64 n, false) else (lineAddr pc + 64, last)

/-- The slot that an address names, when it is the low half of one (01 R14). -/
def slotOf (pc : DWord) : Option Nat :=
  let off := pc.toNat % 64
  if off % 12 == 0 && off / 12 ≤ 4 then some (off / 12) else none

end Sys2Proof.Machine
end

