-- ==== Sys2Proof/Machine/Hb.lean ====
section
/-! DEFINITION. The happens-before that uniform registers, phase objects and engine operations need (spec/01 R29; spec/03 R107; spec/04 R119 to R128):
which accesses a releasing write publishes, which bytes still hold it, and which threads have acquired it. Nothing else of the machine reads it. -/

namespace Sys2Proof.Machine

/-! ### Bytes -/

/-- Bytes written by an ordinary write: they hold no earlier release. -/
def Hb.cut (h : Hb) (a : SyncAt) (n : Nat) : Hb := { h with tags := cutTags h.tags a n }

/-- Ranges of bytes without those of a range. -/
def cutPlaces (l : List (SyncAt × Nat)) (a : SyncAt) (n : Nat) : List (SyncAt × Nat) :=
  l.flatMap fun r => if !r.1.meets r.2 a n then [r] else (cutRange [(r.1.space.2, r.2)] a.space.2 n).map fun q => (r.1.to q.1, q.2)

/-- Bytes whose last writer is none of those recorded. -/
def Hb.settled (h : Hb) (a : SyncAt) (n : Nat) : Hb :=
  { h with fresh := h.fresh.flatMap fun f =>
      if !f.1.meets f.2.1 a n then [f] else (cutRange [(f.1.space.2, f.2.1)] a.space.2 n).map fun r => (f.1.to r.1, r.2, f.2.2) }

/-- Bytes whose last writer is a recorded access. -/
def Hb.wrote (h : Hb) (a : SyncAt) (n uid : Nat) : Hb := { h.settled a n with fresh := (a, n, uid) :: (h.settled a n).fresh }

/-- Whether bytes hold a recorded write that is not among some accesses. -/
def Hb.unseen (h : Hb) (known : List Nat) (a : SyncAt) (n : Nat) : Bool :=
  h.fresh.any fun f => f.1.meets f.2.1 a n && !known.contains f.2.2 && h.pend.any fun u => u.uid == f.2.2

/-- Whether an access is an ordinary store: of a thread, or of the host or a peer. -/
def HbItem.stores (u : HbItem) : Bool := u.what == .outer || (u.what == .store && !u.lanes.isEmpty)

/-- Whether bytes hold an ordinary store that is not among some accesses. -/
def Hb.storedBy (h : Hb) (known : List Nat) (a : SyncAt) (n : Nat) : Bool :=
  h.fresh.any fun f => f.1.meets f.2.1 a n && !known.contains f.2.2 && h.pend.any fun u => u.uid == f.2.2 && u.stores

/-- Whether an access is recorded and not among some accesses. -/
def Hb.open_ (h : Hb) (known : List Nat) (item : Option Nat) : Bool :=
  match item with
  | some u => !known.contains u && h.pend.any fun x => x.uid == u
  | none => false

/-- A byte of what bytes were before a write, where it lies there. -/
def OldBytes.byte (o : OldBytes) (a : SyncAt) : Option Byte :=
  if o.at_.meets o.bytes.length a 1 then o.bytes[a.space.2 - o.at_.space.2]? else none

/-- 04 R116, R128: the values that a byte had before the writes, the newest first, that are not among some accesses; a write of which nothing is recorded
is. -/
def Hb.before (h : Hb) (known : List Nat) (a : SyncAt) : List Byte :=
  ((h.olds.filter fun o => o.at_.meets o.bytes.length a 1).takeWhile fun o => h.open_ known o.item).filterMap fun o => o.byte a

/-- 06 R177: the contents of a line of text after a write is taken back. -/
def OldBytes.before (o : OldBytes) (key raw : Nat) : Nat :=
  ofBytesLE ((toBytesLE raw 64).zipIdx.map fun (b, i) => (o.byte (.mem (key + i))).getD b)

/-- 06 R177: what a line of text has held since a moment, the oldest first, its present contents last. -/
def Hb.texts (h : Hb) (since key raw : Nat) : List Nat :=
  (h.olds.filter fun o => since < o.when_ && o.at_.meets o.bytes.length (.mem key) 64).foldl (fun l o => o.before key (l.headD raw) :: l) [raw]

/-- Bytes written by a write that makes some releases. -/
def Hb.tag (h : Hb) (a : SyncAt) (n : Nat) (rs : List Release) : Hb := { h with tags := rs.flatMap (newTag a n) ++ h.tags }

/-- The chains that an atomic read-modify-write of a range continues, taken from before its write. -/
def Hb.chain (h : Hb) (old : Hb) (a : SyncAt) (n : Nat) : Hb := { h with tags := (old.tags.flatMap fun t => t.within a n) ++ h.tags }

/-- 04 R120, R121: the releases that a read of a range would synchronise with, of those that bytes hold. -/
def readTags (l : List SyncTag) (a : SyncAt) (n : Nat) : List Release :=
  (l.filter fun t => t.at_.meets t.len a n && a.covers n t.first t.cover).map fun t => t.rel

/-! ### Scopes (04 R118) -/

/-- 06 R166: scopes from narrow to wide. -/
def scopeRank : Scope → Nat
  | .t => 0 | .gang => 1 | .wg => 2 | .cl => 3 | .pkg => 4 | .pod => 5 | .sys => 6

/-- 04 R118: the least rank of a scope instance that has an agent of the package in it with others: a peer is in those of `.pod` and `.sys` alone, the host in those of
`.sys`. -/
def Agent.reach : Agent → Nat
  | .thread .. | .unit => 4
  | .peer => 5
  | .host => 6

/-- 04 R118: whether two agents are members of each other's scope instances of a rank; units of the package are in those of `.pkg` and wider alone. -/
def Agent.shares (a b : Agent) (rank : Nat) : Bool :=
  max a.reach b.reach ≤ rank || (match a, b with
    | .thread c w g l, .thread c' w' g' l' =>
      (rank == 3 && c == c') || (rank == 2 && w == w') || (rank == 1 && w == w' && g == g') || (w == w' && g == g' && l == l')
    | _, _ => false)

/-- The workgroup of an agent. -/
def Agent.wg? : Agent → Option Nat
  | .thread _ w _ _ => some w
  | _ => none

/-! ### Threads -/

/-- Whether an access is an agent's own, or of its issue. -/
def HbItem.own (u : HbItem) (a : Agent) : Bool :=
  match a with
  | .thread _ w g l => u.wg == w && u.gang == g && u.lanes.contains l
  | _ => false

/-- Whether an access happens-before what an agent does next. -/
def HbItem.before (u : HbItem) (a : Agent) : Bool := u.own a || u.seen.contains a

/-- 01 R29: the value that a uniform register of a workgroup had before an access that writes it. -/
def HbItem.regOld (u : HbItem) (w n : Nat) : Option Word :=
  match u.what with
  | .reg m old => if u.wg == w && m == n then some old else none
  | _ => none

/-- 01 R29: the old values of a uniform register that a thread may still read: those before the writes, the newest first, that are not visible to it. -/
def Hb.regOlds (h : Hb) (w n : Nat) (a : Agent) : List Word :=
  ((h.pend.filter fun u => (u.regOld w n).isSome).takeWhile fun u => !u.before a).filterMap fun u => u.regOld w n

/-- 01 R29: the values that accesses not visible to an agent have written to a uniform register that holds a value, the newest first. -/
def Hb.regWritten (h : Hb) (w n : Nat) (cur : Word) (a : Agent) : List Word :=
  let us := h.pend.filter fun u => (u.regOld w n).isSome
  ((us.zip (cur :: us.filterMap fun u => u.regOld w n)).filter fun x => !x.1.before a).map fun x => x.2

/-- 04 R122: the accesses that happen-before what an agent does next. -/
def Hb.known (h : Hb) (a : Agent) : List Nat := (h.pend.filter fun u => u.before a).map fun u => u.uid

/-- Whether a synchronisation at a scope of a rank makes an access happen-before what follows: a uniform write needs `.wg` (01 R29). -/
def HbWhat.shown (x : HbWhat) (rank : Nat) : Bool :=
  match x with
  | .reg .. => 2 ≤ rank
  | _ => true

/-- 04 R120: an agent has synchronised, at a scope of a rank, with what publishes some accesses. -/
def Hb.see (h : Hb) (a : Agent) (rank : Nat) (pubs : List Nat) : Hb :=
  if pubs.isEmpty then h
  else { h with pend := updWhere (fun u => pubs.contains u.uid && !u.seen.contains a && u.what.shown rank) (fun u => { u with seen := a :: u.seen }) h.pend }

/-- 04 R120: an acquire of an agent, at a scope of a rank, of some releases: it synchronises with those whose scope instance it shares, and that share its. -/
def Hb.acquire (h : Hb) (a : Agent) (rank : Nat) (rs : List Release) : Hb :=
  rs.foldl (fun h r => if r.by_.shares a (min rank r.rank) then h.see a (min rank r.rank) r.pubs else h) h

/-- What an agent has synchronised through fences. -/
def Hb.view (h : Hb) (a : Agent) : SyncView := (h.views.find? fun v => v.by_ == a).getD { by_ := a }

/-- An agent's view replaced. -/
def Hb.setView (h : Hb) (v : SyncView) : Hb := { h with views := v :: h.views.filter fun x => x.by_ != v.by_ }

/-- 04 R119: an agent's read observed releases, which its next acquire fence at a scope of at least a rank acquires. -/
def Hb.observe (h : Hb) (a : Agent) (need : Nat) (rs : List Release) : Hb :=
  if rs.isEmpty then h else h.setView { h.view a with obs := rs.map (fun r => (need, r)) ++ (h.view a).obs }

/-- 04 R119, R123: a release fence: the agent's later writes are releases at its scope, of what happens-before it; earlier fences of wider scopes
stand. -/
def Hb.fenceRel (h : Hb) (a : Agent) (rank : Nat) : Hb :=
  if h.pend.isEmpty then h
  else h.setView { h.view a with rel := { by_ := a, rank := rank, pubs := h.known a } :: (h.view a).rel.filter fun r => rank < r.rank }

/-- 04 R119, R123: an acquire fence: the agent acquires what its earlier reads observed. -/
def Hb.fenceAcq (h : Hb) (a : Agent) (rank : Nat) : Hb := h.acquire a rank (((h.view a).obs.filter fun x => x.1 ≤ rank).map fun x => x.2)

/-- 04 R123: an `.acq_rel` fence comes after every one before it whose scope instance it shares. -/
def Hb.fullFence (h : Hb) (a : Agent) (rank : Nat) : Hb :=
  let h1 := h.acquire a rank h.fences
  if h1.pend.isEmpty then h1 else { h1 with fences := { by_ := a, rank := rank, pubs := h1.known a } :: h1.fences }

/-- 04 R128: an `ofence` of an agent. -/
def Hb.ofenced (h : Hb) (a : Agent) : Hb :=
  if h.pend.isEmpty then h else h.setView { h.view a with ofence := h.known a }

/-- 04 R119: the releases that a write of an agent makes: its own at a scope of a rank above `.t`, and those of its last release fences. -/
def Hb.pubs (h : Hb) (a : Agent) (rank : Nat) : List Release :=
  (if rank == 0 then [] else [{ by_ := a, rank := rank, pubs := h.known a }]) ++ (h.view a).rel

/-! ### Phase objects -/

/-- The releases into a phase object. -/
def Hb.phase (h : Hb) (p : PhaseRef) : SyncPhase := (h.phases.find? fun x => x.obj == p).getD { obj := p, opened := [], done := [] }

/-- 03 R106, 04 R119: an arrival or a credit; the completion it causes releases all that came to the phase. -/
def Hb.arrive (h : Hb) (p : PhaseRef) (r : Release) (completes : Bool) : Hb :=
  if h.pend.isEmpty then h
  else
    let x := h.phase p
    let y : SyncPhase := if completes then { x with opened := [], done := r :: x.opened ++ x.done } else { x with opened := r :: x.opened }
    { h with phases := y :: h.phases.filter fun z => z.obj != p }

/-- 03 R106: the rank of an object's scope: `.cl` for one in a local store, `.pkg` for one in global memory. -/
def PhaseRef.rank : PhaseRef → Nat
  | .loc .. => 3
  | _ => 4

/-- 04 R120: a satisfied wait acquires every phase it observes completed. -/
def Hb.passed (h : Hb) (a : Agent) (p : PhaseRef) : Hb := h.acquire a p.rank (h.phase p).done

/-! ### On the machine -/

/-- An access recorded under a fresh number. -/
def State.hbAdd (s : State) (w g : Nat) (lanes : List Nat) (x : HbWhat) : State :=
  { s with uid := s.uid + 1, hb := { s.hb with pend := { uid := s.uid, what := x, wg := w, gang := g, lanes := lanes } :: s.hb.pend } }

/-- An access of the host or of a peer, recorded under a fresh number while there is a node that it may race with. What one peer has written no other knows. -/
def State.noteItem (s : State) (who : Agent) (x : HbWhat) : State × Option Nat :=
  let u : HbItem := { uid := s.uid, what := x, wg := 0, seen := if who == .host then [who] else [] }
  if s.nodes.isEmpty then (s, none) else ({ s with uid := s.uid + 1, hb := { s.hb with pend := u :: s.hb.pend } }, some s.uid)

/-- 04 R119: the bytes of a write of the host or of a peer, recorded or not, hold, where the write is a release, which is not this package's to know, that release
(notes/assumptions/65.md). -/
def State.outerTags (s : State) (h : Hb) (who : Agent) (a : SyncAt) (n : Nat) (item : Option Nat) : Hb :=
  if (Config.free s.tick [36, a.space.2]).getLsbD 0 then h.tag a n [{ by_ := who, rank := 6, pubs := item.toList ++ h.known who }] else h

/-- 04 R118: a thread as an agent. -/
def State.agent (s : State) (w g l : Nat) : Agent := .thread (s.wg w).cluster w g l

/-- 01 R29: a uniform register written by lanes of a gang, or by one of them. -/
def State.setG (s : State) (w g : Nat) (lanes : List Nat) (n : Nat) (x : Word) : State :=
  { s.hbAdd w g lanes (.reg n (((s.wg w).g[n]?).getD 0)) with wgs := updWhere (fun v => v.uid == w) (fun v => { v with g := v.g.set n x }) s.wgs }

/-- 03 R107: some accesses, and those since one: a store that was issued then met the others as it was issued. -/
def Hb.seenSince (h : Hb) (known : List Nat) (item : Nat) : List Nat := ((h.pend.filter fun u => item ≤ u.uid).map fun u => u.uid) ++ known

/-- 04 R127: whether bytes lie among those that an engine operation writes, or lets no thread touch, and whose completion a thread has not acquired. -/
def Hb.racing (h : Hb) (who : Agent) (a : SyncAt) (n : Nat) : Bool :=
  h.pend.any fun u => match u.what with
    | .op _ bytes _ => (bytes.any fun r => r.1.meets r.2 a n) && !u.before who
    | _ => false

/-- 04 R127: whether bytes are operands or scales of an `mma` whose completion a thread has not acquired. -/
def Hb.touches (h : Hb) (who : Agent) (a : SyncAt) (n : Nat) : Bool :=
  h.pend.any fun u => match u.what with
    | .op .mma bytes _ => (bytes.any fun r => r.1.meets r.2 a n) && !u.before who
    | _ => false

/-- 04 R127: whether an `mma` wrote an accumulator tile whose completion a thread has not acquired. -/
def Hb.tileRacing (h : Hb) (who : Agent) (w : Nat) (tile : Nat × Nat) : Bool :=
  h.pend.any fun u => match u.what with
    | .op _ _ tiles => u.wg == w && tiles.contains tile && !u.before who
    | _ => false

/-- 03 R107: whether an event on an object is not ordered before what an agent does that knows some accesses. -/
def Hb.eventRace (h : Hb) (obj : PhaseRef) (known : List Nat) : Bool :=
  h.pend.any fun u => !known.contains u.uid && u.what == .event obj

/-- The bytes of an object; a version record has none that a store reaches. -/
def PhaseRef.sync : PhaseRef → Option SyncAt
  | .loc w off => some (.loc w off)
  | .glb k => some (.mem k)
  | .ver .. => none

/-- 03 R107: whether a store or `phi` to an object is not ordered before what an agent does that knows some accesses. -/
def Hb.storeRace (h : Hb) (obj : PhaseRef) (known : List Nat) : Bool :=
  match obj.sync with
  | some a => h.storedBy known a 16
  | none => false

/-- The phase objects that recorded events name and that have a byte in a range. -/
def Hb.objsIn (h : Hb) (a : SyncAt) (n : Nat) : List PhaseRef :=
  (h.pend.filterMap fun u => match u.what with
    | .event o => (match o.sync with
      | some b => if b.meets 16 a n then some o else none
      | none => none)
    | _ => none).eraseDups

/-- A place some bytes on. -/
def SyncAt.shift (a : SyncAt) (n : Nat) : SyncAt := a.to (a.space.2 + n)

/-- 00 R7: the bytes of a place become undefined. -/
def State.wildAt (s : State) (a : SyncAt) (n : Nat) : State :=
  match a with
  | .loc w off => { s with wgs := updWhere (fun x => x.uid == w) (fun x => x.wildLs off n) s.wgs }
  | .mem k => s.wildMem k n
  | .host _ => s

/-- 00 R7: ranges of bytes become undefined. -/
def State.wildAll (s : State) (l : List (SyncAt × Nat)) : State := l.foldl (fun s r => s.wildAt r.1 r.2) s

/-- 04 R127: part of what an engine operation writes has landed: its bytes are an access of their own, and the operation's no more. -/
def State.landPart (s : State) (op : Nat) (kind : EKind) (w g : Nat) (bytes : List (SyncAt × Nat)) : State :=
  let less (x : HbWhat) : HbWhat := match x with
    | .op k l tiles => .op k (bytes.foldl (fun l r => cutPlaces l r.1 r.2) l) tiles
    | x => x
  let pend := updWhere (fun u => u.uid == op) (fun u => { u with what := less u.what }) s.hb.pend
  { s with uid := s.uid + 1, hb := { s.hb with pend := { uid := s.uid, what := .op kind bytes [], wg := w, gang := g } :: pend } }

/-- 10 R279: what a stopped operation wrote counts as written by the operation that resumes it. -/
def Hb.resume (h : Hb) (old new : Nat) : Hb :=
  { h with
    pend := h.pend.filter fun u => u.uid != old
    fresh := h.fresh.map fun f => if f.2.2 == old then (f.1, f.2.1, new) else f
    olds := h.olds.map fun o => if o.item == some old then { o with item := some new } else o }

/-- 03 R107: the bytes of an object become undefined. -/
def State.wildObj (s : State) (o : PhaseRef) : State :=
  match o.sync with
  | some a => s.wildAt a 16
  | none => s

/-- 03 R107: the phase objects in a range that a write leaves undefined, by an agent that knows some accesses, become so. -/
def State.wildObjs (s : State) (known : List Nat) (a : SyncAt) (n : Nat) : State :=
  (s.hb.objsIn a n).foldl (fun s o => if s.hb.eventRace o known then s.wildObj o else s) s

/-- 04 R127: the bytes of a place that an engine operation, whose completion an agent has not acquired, writes or lets no thread touch, as an access of the agent leaves
or finds them: undefined. -/
def State.raceBytes (s : State) (who : Agent) (a : SyncAt) (n : Nat) : State :=
  if !s.hb.racing who a n then s
  else (List.range n).foldl (fun t i => if s.hb.racing who (a.shift i) 1 then t.wildAt (a.shift i) 1 else t) s

/-- 03 R107, 04 R128: a lane's store is recorded as the last writer of its bytes. -/
def State.recordStore (s : State) (w g l : Nat) (a : SyncAt) (n : Nat) : State :=
  let s1 := s.hbAdd w g [l] .store
  { s1 with hb := s1.hb.wrote a n s.uid }

/-- Lanes of a gang make a release fence at a scope of a rank. -/
def State.fenceRelLanes (s : State) (w g rank : Nat) (lanes : List Nat) : State :=
  { s with hb := lanes.foldl (fun h l => h.fenceRel (s.agent w g l) rank) s.hb }

/-- Lanes of a gang make an acquire fence at a scope of a rank. -/
def State.fenceAcqLanes (s : State) (w g rank : Nat) (lanes : List Nat) : State :=
  { s with hb := lanes.foldl (fun h l => h.fenceAcq (s.agent w g l) rank) s.hb }

/-! ### What a write does to engine operations in flight -/

/-- Bytes of an engine operation's block (10 R281, R290, R298). -/
def EKind.blockBytes : EKind → Nat
  | .mma => 128
  | _ => 64

/-- Whether bytes meet some ranges. -/
def SyncAt.hits (a : SyncAt) (n : Nat) (l : List (SyncAt × Nat)) : Bool := l.any fun r => r.1.meets r.2 a n

/-- 10 R277: whether bytes lie in the block of an operation. -/
def EOp.holds (o : EOp) (a : SyncAt) (n : Nat) : Bool := a.hits n [(.loc o.wg o.blk, o.kind.blockBytes)]

/-- 10 R277: whether bytes lie in a 32-byte block of a workgroup. -/
def SyncAt.inBlock (a : SyncAt) (n w blk : Nat) : Bool := a.hits n [(.loc w blk, 32)]

/-- 10 R277: the entry of a stopped command of a workgroup, after a write of bytes: one whose block holds them. -/
def Entry.spoilBlock (e : Entry) (w : Nat) (a : SyncAt) (n : Nat) : Entry :=
  match e.kind with
  | .command u first size bad => { e with kind := .command u first size (bad || e.caps.any fun c => a.hits n [(.loc w c.a, size)]) }
  | _ => e

/-- 10 R277: the stopped commands of a gang, pending, in the queue of its frame or yet to be put back, after a write of bytes. -/
def Gang.spoilEntries (g : Gang) (a : SyncAt) (n : Nat) : Gang :=
  let f (e : Entry) : Entry := e.spoilBlock g.wg a n
  { g with
    pend := g.pend.map fun p => { p with entry := f p.entry }
    frame := { g.frame with queue := g.frame.queue.map f }
    reinject := g.reinject.map f
    later := g.later.map f }

/-- 10 R277: bytes are written, but not by the operation of some number to its own block: the fields of every block in flight that holds them, and the effect of
a re-issue of a stopped command, are undefined from then on. -/
def State.spoilBlocks (s : State) (a : SyncAt) (n : Nat) (but : Option Nat) : State :=
  { s with
    gangs := s.gangs.map fun g => g.spoilEntries a n
    eops := s.eops.map fun o => { o with spoiled := o.spoiled || (some o.uid != but && o.holds a n) }
    sends := s.sends.map fun x => { x with spoiled := x.spoiled || (some x.uid != but && a.inBlock n x.by_.wg x.send.blk) }
    contribs := s.contribs.map fun x => { x with spoiled := x.spoiled || (some x.uid != but && a.inBlock n x.by_.wg x.blk) }
    seals := s.seals.map fun x => { x with spoiled := x.spoiled || (some x.uid != but && a.hits n [(.loc x.by_.wg x.blk, 128)]) }
    parts := s.parts.map fun q => { q with
      armed := q.armed.map fun x => { x with spoiled := x.spoiled || (some x.uid != but && a.inBlock n x.by_.wg x.send.blk) } } }

/-- 09 R260: bytes are written: an `mcas` that waits and whose block holds them is spoiled. -/
def State.spoilMcas (s : State) (a : SyncAt) (n : Nat) : State :=
  let hit (g : Gang) (m : McasLane) : Bool := a.hits n [(.loc g.wg m.off, 16 + 24 * m.blk.count)]
  { s with gangs := s.gangs.map fun g => { g with
      mcas := g.mcas.map fun (x : McasWait) => { x with lanes := x.lanes.map fun m => { m with spoiled := m.spoiled || hit g m } } } }

/-- 10 R304, R307: a write, recorded under a number, is applied to bytes: what sends and contributions have not read of them is undefined, but for those that the
write happens-before. -/
def State.spoilReads (s : State) (a : SyncAt) (n item : Nat) : State :=
  { s with
    sends := s.sends.map fun x => { x with undef := x.undef || (!x.read && a.hits n x.span && !x.pubs.contains item) }
    contribs := s.contribs.map fun x => { x with undef := x.undef || (!x.sent && a.hits n x.span && !x.pubs.contains item) } }

/-- 04 R127: a thread's write, recorded under a number, is applied to bytes: what engine operations write whose bytes these are is undefined, and so is what sends and
contributions have not read of them, but for those that the write happens-before. -/
def State.spoilData (s : State) (a : SyncAt) (n item : Nat) : State :=
  let met (o : EOp) : Bool := a.hits n o.span && !o.pubs.contains item
  let t : State := { s.wildAll ((s.eops.filter met).flatMap fun (o : EOp) => o.dest) with
    eops := s.eops.map fun (o : EOp) => { o with undef := o.undef || met o } }
  t.spoilReads a n item

/-- 10 R277, R304, R307: what a write of an engine or an event, recorded under a number, does to commands in flight whose block or source holds its bytes. -/
def State.unitSpoil (s : State) (a : SyncAt) (n item : Nat) : State := (s.spoilReads a n item).spoilBlocks a n none

/-- 04 R127, 09 R260, 10 R277: what a thread's write of bytes does to the operations in flight. -/
def State.spoil (s : State) (a : SyncAt) (n item : Nat) : State := ((s.spoilData a n item).spoilBlocks a n none).spoilMcas a n

end Sys2Proof.Machine
end

