-- ==== Sys2Proof/Machine/Ops.lean ====
section
/-! DEFINITION. The named operations over the machine: lookups and updates of its records, uniform and vector registers, latches,
program counters and meetings, the store buffer, kills, kernel errors, and the ONE operation that takes a trap. -/

namespace Sys2Proof.Machine

/-- A free value of this step for a place of use (notes/assumptions/2.md). -/
def State.free (s : State) (site : List Nat) : DWord := Config.free s.tick site

/-! ### Lookups and updates -/

/-- A gang context by workgroup and index. -/
def State.gang (s : State) (w g : Nat) : Gang := (s.gangs.find? fun x => x.wg == w && x.idx == g).getD default
/-- A cluster by its number. -/
def State.cluster (s : State) (u : Nat) : Cluster := (s.clusters.find? fun c => c.uid == u).getD default
/-- A node by its number. -/
def State.node (s : State) (u : Nat) : Node := (s.nodes.find? fun n => n.uid == u).getD default
/-- The node of a workgroup. -/
def State.nodeOf (s : State) (w : Nat) : Node := s.node (s.cluster (s.wg w).cluster).node
/-- The launch record of a workgroup. -/
def State.launchOf (s : State) (w : Nat) : Launch := (s.nodeOf w).launch
/-- The partition that runs a workgroup. -/
def State.partOf (s : State) (w : Nat) : Nat := (s.nodeOf w).part
/-- 06 R152, R177: the line at an address as a slice that runs a workgroup reads it: its contents, or, where a store has reached them since its node came to the
device, those before or after any such store, or none that pass their parity, freely chosen. -/
def State.textLine (s : State) (w : Nat) (addr : DWord) : Except Nat Line :=
  let unit := unitCore (s.wg w).core
  match s.xlate unit (s.partOf w) addr.toNat .fetch, s.fetchLine unit (s.partOf w) addr with
  | .ok e, .ok l =>
    let k := e.key addr.toNat
    (match s.hb.texts (s.nodeOf w).uid k l.raw with
     | [_] => .ok l
     | raws => match raws[(s.free [24, k]).toNat % (raws.length + 1)]? with
       | some raw => .ok { l with raw := raw }
       | none => .error 0x02)
  | .error c, _ | _, .error c => .error c

/-- 06 R154: whether an address is, for a workgroup, a slot whose `TGT` bit is clear, or no slot. A line that cannot be read is left to its entry
(notes/assumptions/10.md). -/
def State.badTarget (s : State) (w : Nat) (pc : DWord) : Bool :=
  match slotOf pc with
  | none => true
  | some k => match s.textLine w (lineAddr pc) with
    | .error _ => false
    | .ok l => !l.tgt k

/-- 16 R417: a slice's reading of a line of text, and the walk to it, give back held words. -/
def State.textTouch (s : State) (w : Nat) (addr : DWord) : State :=
  let unit := unitCore (s.wg w).core
  let s1 := s.walkRecall unit (s.partOf w) addr.toNat
  match s.xlate unit (s.partOf w) addr.toNat .fetch with
  | .ok e => s1.recall (e.key addr.toNat) 64
  | .error _ => s1

/-- The threads of a gang context, in lane order. -/
def State.gangThreads (s : State) (w g : Nat) : List Thread := s.threads.filter fun t => t.wg == w && t.gang == g

/-- One workgroup updated. -/
def State.updWg (s : State) (u : Nat) (f : Wg → Wg) : State := { s with wgs := updWhere (fun w => w.uid == u) f s.wgs }
/-- One gang updated. -/
def State.updGang (s : State) (w g : Nat) (f : Gang → Gang) : State :=
  { s with gangs := updWhere (fun x => x.wg == w && x.idx == g) f s.gangs }
/-- One cluster updated. -/
def State.updCluster (s : State) (u : Nat) (f : Cluster → Cluster) : State :=
  { s with clusters := updWhere (fun c => c.uid == u) f s.clusters }
/-- One node updated. -/
def State.updNode (s : State) (u : Nat) (f : Node → Node) : State := { s with nodes := updWhere (fun n => n.uid == u) f s.nodes }
/-- Every thread that satisfies a test updated. -/
def State.updThreads (s : State) (p : Thread → Bool) (f : Thread → Thread) : State := { s with threads := updWhere p f s.threads }

/-- 01 R16: whether a thread is live. -/
def Thread.live (t : Thread) : Bool := t.st != .unlaunched && t.st != .exited

/-- 15 R396: the width of a member mask: the gang width, halved in shadow mode. -/
def Launch.maskW (l : Launch) : Nat := if l.shadow then l.gw / 2 else l.gw

/-- What the gang of the current issue decodes with. -/
def Launch.ctx (l : Launch) : Ctx := { vregs := l.vregs, w := l.maskW }

/-- The current issue's launch record. -/
def State.launch (s : State) : Launch := s.launchOf s.cur.wg
/-- The current issue's partition. -/
def State.curPart (s : State) : Nat := s.partOf s.cur.wg
/-- The core of the current issue. -/
def State.core (s : State) : Nat := (s.wg s.cur.wg).core
/-- The die of the current issue. -/
def State.die (s : State) : Nat := s.core / 16

/-- Whether a thread belongs to the current issue. -/
def State.inIssue (s : State) (t : Thread) : Bool := t.wg == s.cur.wg && t.gang == s.cur.gang && s.cur.lanes.contains t.lane

/-- The threads of the current issue, in lane order. -/
def State.issued (s : State) : List Thread := s.threads.filter s.inIssue

/-- Every thread of the current issue updated. -/
def State.updIssue (s : State) (f : Thread → Thread) : State := s.updThreads s.inIssue f

/-! ### Registers -/

/-- 01 R28: a predicate; `p0` reads as 1. -/
def Thread.pred (t : Thread) (n : Nat) : Bool := n == 0 || t.p.getLsbD n

/-- One bit of a predicate file set. -/
def setBit96 (p : BitVec 96) (n : Nat) (b : Bool) : BitVec 96 :=
  if b then p ||| BitVec.ofNat 96 (2 ^ n) else p &&& ~~~(BitVec.ofNat 96 (2 ^ n))

/-- 01 R28: a predicate written; a write to `p0` is discarded. -/
def Thread.setPred (t : Thread) (n : Nat) (b : Bool) : Thread := if n == 0 then t else { t with p := setBit96 t.p n b }

/-- A vector register (01 R27). -/
def Thread.vreg (t : Thread) (n : Nat) : Word := (t.v[n]?).getD 0

/-- A vector register written. -/
def Thread.setV (t : Thread) (n : Nat) (x : Word) : Thread := { t with v := t.v.set n x }

/-- `k` consecutive vector registers as one number, the lowest first (01 R27, 09 R244). -/
def Thread.vregs (t : Thread) (n : Nat) : Nat → Nat
  | 0 => 0
  | k + 1 => (t.vreg n).toNat + 2 ^ 32 * t.vregs (n + 1) k

/-- A number written to `k` consecutive vector registers. -/
def Thread.setVs (t : Thread) (n : Nat) : Nat → Nat → Thread
  | 0, _ => t
  | k + 1, x => (t.setV n (BitVec.ofNat 32 x)).setVs (n + 1) k (x / 2 ^ 32)

/-- 01 R29: what a thread reads in a uniform register: the value of its last write that is visible to the thread, or one written since. -/
def State.greg (s : State) (t : Thread) (n : Nat) : Word :=
  let cur := ((s.wg t.wg).g[n]?).getD 0
  let old := s.hb.regOlds t.wg n (s.agent t.wg t.gang t.lane)
  if old.isEmpty then cur
  else ((cur :: old)[(s.free [1, n, t.gang, t.lane]).toNat % (old.length + 1)]?).getD cur

/-! ### Slices and latches (01 R30, R31) -/

/-- The slice of a gang. -/
def State.sliceOf (s : State) (w g : Nat) : Option Slice :=
  s.slices.find? fun x => x.core == (s.wg w).core && x.idx == (s.gang w g).slice

/-- The slice of a gang updated, or created. -/
def State.updSlice (s : State) (w g : Nat) (f : Slice → Slice) : State :=
  let c := (s.wg w).core
  let i := (s.gang w g).slice
  if !(s.gangs.any fun x => x.wg == w && x.idx == g) then s
  else if (s.sliceOf w g).isSome then { s with slices := updWhere (fun x => x.core == c && x.idx == i) f s.slices }
  else { s with slices := f { core := c, idx := i, wg := w, gang := g } :: s.slices }

/-- Whether a thread waits for a shootdown or for a request outside the package. -/
def Block.outside : Block → Bool
  | .shoot _ | .io _ => true
  | _ => false

/-- Whether a gang waits for such a thing, and does not issue. -/
def State.gangStalls (s : State) (w g : Nat) : Bool := s.threads.any fun t => t.wg == w && t.gang == g && t.block.outside

/-- Whether a run is one of a gang. -/
def Run.of (r : Run) (w g : Nat) : Bool := r.wg == w && r.gang == g

/-- A gang issues on its slice: the latches of another gang become undefined (01 R31), but for the results that a run which waits has pushed. -/
def State.ownSlice (s : State) (w g : Nat) : State :=
  s.updSlice w g fun x =>
    if x.wg == w && x.gang == g then x
    else { x with wg := w, gang := g, latches := [], runs := x.runs.filter (fun r => r.of w g || r.waits || s.gangStalls r.wg r.gang), yielded := false }

/-- 15 R380, 01 R43: the latches of a gang become invalid. -/
def State.dropLatches (s : State) (w g : Nat) : State :=
  s.updSlice w g fun x =>
    { x with latches := if x.wg == w && x.gang == g then [] else x.latches, runs := x.runs.filter fun r => !r.of w g }

/-- 01 R30, R31: a result pushed: the latches shift and the result enters `l0`, of the slice, while no other gang has issued there, and of the run. -/
def State.push (s : State) (vals : List LatchVal) : State :=
  let mine (r : Run) : Bool := r.of s.cur.wg s.cur.gang && s.cur.lanes.all r.lanes.contains
  s.updSlice s.cur.wg s.cur.gang fun x =>
    { x with
      latches := if x.wg == s.cur.wg && x.gang == s.cur.gang then (vals :: x.latches).take 4 else x.latches
      runs := updWhere mine (fun r => { r with pushed := (vals :: r.pushed).take 4 }) x.runs }

/-- 01 R31: the result that a latch of a slice holds for a lane of a gang: that of its producer in the lane's run; else that of the last producer before it, if nothing
but the run has issued since (notes/assumptions/12.md). -/
def Slice.producer (x : Slice) (w g lane k : Nat) : List LatchVal :=
  let own := ((x.runs.find? fun r => r.of w g && r.lanes.contains lane).map fun r => r.pushed).getD []
  if k < own.length then (own[k]?).getD []
  else if x.wg == w && x.gang == g && x.latches.take own.length == own then (x.latches[k]?).getD []
  else []

/-- 01 R31, 06 R162: a latch as a lane reads it; a value without a producer is free, and so are the high bits of a 32-bit result read
as 64 bits. -/
def State.latch (s : State) (t : Thread) (k : Nat) (wide : Bool) : Nat :=
  let vals := match s.sliceOf t.wg t.gang with
    | some x => x.producer t.wg t.gang t.lane k
    | none => []
  match vals.find? fun v => v.lane == t.lane with
  | some v =>
    if wide then (if v.wide then v.x % 2 ^ 64 else v.x % 2 ^ 32 + 2 ^ 32 * ((s.free [2, k, t.lane]).toNat % 2 ^ 32))
    else v.x % 2 ^ 32
  | none => (s.free [3, k, t.lane]).toNat % 2 ^ (if wide then 64 else 32)

/-! ### Program counters and meetings (01 R14, R20 to R23) -/

/-- 01 R17, R21: threads that reach their meeting address hold; a meeting whose members have all arrived releases. Between the restore of an `iret` and
its last step nothing does (15 R385). -/
def State.settle (s : State) (w g : Nat) : State :=
  if (s.gang w g).returning then s else
  let mine (t : Thread) : Bool := t.wg == w && t.gang == g
  let held := updWhere (fun t => mine t && t.st == .ready && t.mt == some t.pc && !t.past) (fun t => { t with st := .held }) s.threads
  let complete (m : DWord) : Bool := held.all fun u => !(mine u && u.live && u.mt == some m) || u.pc == m
  let meets (t : Thread) : Bool := mine t && t.st == .held && (match t.mt with | some m => complete m | none => false)
  { s with threads := updWhere meets (fun t => { t with st := .ready, mt := none }) held }

/-- A thread stands at an address. -/
def Thread.goto (t : Thread) (pc : DWord) (past : Bool) : Thread := { t with pc := pc, past := past, skipBkpt := false }

/-- The threads of the current issue go to the next operation; a re-injected entry moves no program counter (15 R385). -/
def State.advance (s : State) : State :=
  if s.cur.replay then s
  else (s.updIssue fun t => t.goto s.cur.next s.cur.past).settle s.cur.wg s.cur.gang

/-! ### The store buffer (04 R125, 15 R387, R388) -/

/-- Whether a fault holds an entry of a workgroup's buffer. -/
def State.sbHeld (s : State) (w : Nat) : Bool := (s.wg w).sb.any fun e => e.held

/-- The key behind a byte of a window's shadow, if the window is open; a shadow that the partition has lost has none. -/
def State.winKey (s : State) (p w off : Nat) : Option (Option Nat) :=
  ((s.part p).windows.find? fun x => x.idx == w).map fun x => if s.windowOwned p x then some (x.shadow + off) else none

/-- 09 R247, 15 R387: whether a write meets part of an uncorrectable word at its home. -/
def State.badPart (s : State) (k n : Nat) : Bool :=
  !isPeer k && s.poison.any fun w => overlap (8 * w) 8 k n && !(k ≤ 8 * w && 8 * w + 8 ≤ k + n)

/-- 13 R337, R344: whether a range of memory is a peer's, or all of it the partition's. -/
def State.holdsRange (s : State) (p k n : Nat) : Bool := isPeer k || s.ownsRange p k n

/-- 15 R387, 16 R416: whether applying an entry of a workgroup meets an error: part of an uncorrectable word at its home, no path to its peer, or memory
that its partition has lost (13 R344). -/
def State.sbFails (s : State) (w : Nat) (e : SbEntry) : Bool :=
  match e.dest with
  | .mem k => s.unreachable k || s.badPart k e.bytes.length || !s.holdsRange (s.partOf w) k e.bytes.length
  | .win i off => match s.winKey (s.partOf w) i off with
    | some (some k) => s.badPart k e.bytes.length
    | some none => true
    | none => false

/-- 03 R98: bytes stored into a window's shadow, and marked. A window that was closed takes nothing. -/
def State.stage (s : State) (p w off : Nat) (bs : List Byte) : State :=
  match (s.part p).windows.find? fun x => x.idx == w with
  | none => s
  | some x => if s.windowOwned p x then ((s.recallWindow x off bs.length).writeMem (x.shadow + off) bs).setMarks x off bs.length else s

/-- A line remembers a store that it has not written back. -/
def State.rdcWriter (s : State) (die part key w : Nat) (e : SbEntry) : State :=
  { s with rdc := updWhere (fun l => l.at_ die part (lineOf key)) (fun l => { l with writers := l.writers ++ [(w, e)] }) s.rdc }

/-- Where the bytes of a place synchronise: those of a window do so in host memory. -/
def State.syncAt (s : State) (p : Nat) : Dest → SyncAt
  | .mem k => .mem k
  | .win i off => match (s.part p).windows.find? fun x => x.idx == i with
    | some x => .host (x.haddr + off)
    | none => .host off

/-- An entry's bytes, as they leave what they write: they hold the entry's releases, and none before them (04 R119, R120). -/
def State.entryTags (s : State) (w : Nat) (l : List SyncTag) (e : SbEntry) : List SyncTag :=
  let a := s.syncAt (s.partOf w) e.dest
  e.pubs.flatMap (newTag a e.bytes.length) ++ cutTags l a e.bytes.length

/-- 04 R120: the releasing writes that bytes at a place hold where the threads of a workgroup read them, through its store buffer and the RDC of its die. -/
def State.tagsThrough (s : State) (w : Nat) (a : SyncAt) : List SyncTag :=
  (s.wg w).sb.foldl (s.entryTags w) (match a with
    | .mem k => s.tagsAt ((s.wg w).core / 16) (s.partOf w) k
    | _ => s.hb.tags)

/-- A trap made pending for a gang (15 R379). -/
def State.addPending (s : State) (w g : Nat) (p : Pending) : State :=
  s.updGang w g fun x => { x with pend := x.pend ++ [p] }

/-- 15 R381, R387: whether the thread of a lane has exited. -/
def State.laneExited (s : State) (w g lane : Nat) : Bool := !(s.threads.any fun t => t.wg == w && t.gang == g && t.lane == lane && t.live)

/-- 15 R387: the trap of an entry that a fault holds, pending for the gang of its thread. -/
def State.sbTrap (s : State) (w : Nat) (e : SbEntry) : State :=
  let ex := s.laneExited w e.gang e.lane
  s.addPending w e.gang
    { exited := ex, cause := 0x20, pc := e.pc, mask := [e.lane], addr := e.va, tnum := e.tnum
      entry := { kind := .store e.uid, faulted := true, code := 0x20, pc := e.pc, mask := [e.lane], word := e.word
                 caps := [{ lane := e.lane, a := e.va.toNat, b := ofBytesLE e.bytes, c := ofBytesLE (e.bytes.drop 8) }] } }

/-- 15 R387: the entry is held and its trap is pending. -/
def State.sbFault (s : State) (w : Nat) (e : SbEntry) : State :=
  (s.updWg w fun x => { x with sb := updWhere (fun y => y.uid == e.uid) (fun y => { y with held := true }) x.sb }).sbTrap w e

/-- 09 R247, 15 R387, R388, 04 R115: the stores of a line whose write-back failed go back to the buffers of their workgroups, ahead of what these hold and in their
order, held, with their traps pending. -/
def State.writersFail (s : State) (l : List (Nat × SbEntry)) : State :=
  let back := (l.filter fun x => s.wgs.any fun w => w.uid == x.1).zipIdx.map fun x => (x.1.1, { x.1.2 with uid := s.uid + x.2, held := true })
  let s1 := { s with
    uid := s.uid + back.length
    wgs := s.wgs.map fun w => { w with sb := (back.filter fun x => x.1 == w.uid).map (fun x => x.2) ++ w.sb } }
  back.foldl (fun s x => s.sbTrap x.1 x.2) s1

/-- 03 R96, 16 R416: a line leaves its RDC: its dirty bytes are written back, and where that fails the stores that it held meet the error. -/
def State.rdcEvict (s : State) (l : RdcLine) (ok : Bool) : State :=
  let mine (x : RdcLine) : Bool := x.at_ l.die l.part l.line
  let gone (s : State) : State := { s with rdc := s.rdc.filter fun x => !mine x }
  if l.dirty.isEmpty then gone s
  else if ok && !s.unreachable (128 * l.line) then gone (s.rdcWriteBack mine)
  else (gone s).writersFail l.writers

/-- 00 R2: lines that the RDC of a die holds: 32 MiB. -/
def rdcLines : Nat := 262144

/-- 00 R2, 03 R96: room in a die's RDC for a line that it does not hold: a full one gives one up, freely chosen (notes/assumptions/66.md). -/
def State.rdcRoom (s : State) (die part line : Nat) : State :=
  let ls := s.rdc.filter fun l => l.die == die
  if (s.rdcLine? die part line).isSome || ls.length < rdcLines then s
  else match ls[(s.free [37, die, line]).toNat % ls.length]? with
    | some l => s.rdcEvict l true
    | none => s

/-- The bytes of an entry that lie in a range of its memory. -/
def SbEntry.touches (e : SbEntry) (d : Dest) (n : Nat) : Bool :=
  match e.dest, d with
  | .mem a, .mem b => overlap a e.bytes.length b n
  | .win i a, .win j b => i == j && overlap a e.bytes.length b n
  | _, _ => false

/-- 04 R122: the bytes of a peer that other lines hold from stores which an entry comes after reach their home before it. -/
def State.olderBack (s : State) (die p k : Nat) (e : SbEntry) : State :=
  s.rdcBack (fun l => l.line == lineOf k && !l.at_ die p (lineOf k) && l.writers.any fun x => e.touches x.2.dest x.2.bytes.length && !s.hb.open_ e.sees (some x.2.item))
    (some (k, e.bytes.length))

/-- 04 R125: one entry applied at its ordering point and taken out of the buffer; the workgroup has committed (15 R391). What bytes of a peer were is
kept here; of the others `writeMem` keeps it. -/
def State.sbApply (s0 : State) (w : Nat) (e : SbEntry) : State :=
  let p := s0.partOf w
  let die := (s0.wg w).core / 16
  let n := e.bytes.length
  let s := s0.updWg w fun x => { x with sb := x.sb.filter (fun y => y.uid != e.uid), committed := true }
  match e.dest with
  | .mem k =>
    let t := if isPeer k then
        let r := ((s.rdcRoom die p (lineOf k)).olderBack die p k e)
        ((r.noteOld (.mem k) (r.readKey die p k n) (some e.item)).rdcStore die p k e.bytes e.pubs).rdcWriter die p k w e
      else
        let r := (s.recall k n).writeMem k e.bytes (some e.item)
        { r with hb := { r.hb with tags := r.entryTags w r.hb.tags e } }
    (t.wildObjs (t.hb.seenSince e.sees e.item) (.mem k) n).spoilData (.mem k) n e.item
  | .win i off =>
    let t := s.stage p i off e.bytes
    { t with hb := { t.hb with tags := t.entryTags w t.hb.tags e } }

/-- Whether a buffer of a workgroup has got back a store that another state's does not hold (15 R387). -/
def State.gotBack (s t : State) (w : Nat) : Bool := (s.wg w).sb.any fun e => e.held && !((t.wg w).sb.any fun x => x.uid == e.uid)

/-- Entries applied in order until one fails, or an older store comes back (15 R388). -/
def State.sbApplyList (s : State) (w : Nat) : List SbEntry → State
  | [] => s
  | e :: r =>
    if s.sbFails w e then s.sbFault w e
    else if (s.sbApply w e).gotBack s w then s.sbApply w e
    else (s.sbApply w e).sbApplyList w r

/-- 04 R125: a commit point applies every entry; in an idempotent launch the workgroup has committed once it is complete, with an empty buffer too
(15 R391, notes/assumptions/29.md). -/
def State.commit (s : State) (w : Nat) : State :=
  let s1 := if s.sbHeld w then s else s.sbApplyList w (s.wg w).sb
  if (s.launchOf w).idem && (s1.wg w).sb.isEmpty then s1.updWg w fun x => { x with committed := true } else s1

/-- Whether the buffer of a workgroup is empty: a commit point is complete. -/
def State.committedAll (s : State) (w : Nat) : Bool := (s.wg w).sb.isEmpty

/-- 04 R124: the entries up to the last one that stores into a range, in buffer order. -/
def sbUpTo (sb : List SbEntry) (d : Dest) (n : Nat) : List SbEntry :=
  ((sb.reverse.dropWhile fun e => !e.touches d n)).reverse

/-- 04 R124, R133: the buffered stores to a range applied, with everything before them. -/
def State.commitRange (s : State) (w : Nat) (d : Dest) (n : Nat) : State :=
  if (sbUpTo (s.wg w).sb d n).any (fun e => e.held) then s else s.sbApplyList w (sbUpTo (s.wg w).sb d n)

/-- Whether no buffered store to a range is left. -/
def State.rangeClear (s : State) (w : Nat) (d : Dest) (n : Nat) : Bool := !((s.wg w).sb.any fun e => e.touches d n)

/-- The byte that a buffer forwards for a place, the newest first. -/
def sbByte (sb : List SbEntry) (d : Dest) : Option Byte :=
  match (sb.reverse.find? fun e => e.touches d 1), d with
  | some e, .mem x => (match e.dest with | .mem a => e.bytes[x - a]? | _ => none)
  | some e, .win _ x => (match e.dest with | .win _ a => e.bytes[x - a]? | _ => none)
  | none, _ => none

/-- 04 R125: bytes at a key as a thread of a workgroup reads them, through its store buffer. -/
def State.readThrough (s : State) (w key n : Nat) : List Byte :=
  let sb := (s.wg w).sb
  let under := s.readKey ((s.wg w).core / 16) (s.partOf w) key n
  (List.range n).map fun i =>
    match sbByte sb (.mem (key + i)) with
    | some b => b
    | none => (under[i]?).getD 0

/-- 04 R125: an entry put into the buffer. -/
def State.sbPut (s : State) (w : Nat) (e : SbEntry) : State :=
  { s with uid := s.uid + 1, wgs := updWhere (fun x => x.uid == w) (fun x => { x with sb := x.sb ++ [{ e with uid := s.uid }] }) s.wgs }

/-- Data bytes that a buffer holds. -/
def sbSize (sb : List SbEntry) : Nat := (sb.map fun e => e.bytes.length).sum

/-! ### Interrupts to the host, node and cluster ends -/

/-- 16 R407: the message of a partition's functions. -/
def State.msix (s : State) (p : Nat) : State :=
  { s with outbox := s.outbox ++ (s.vfmap.filter fun v => v.valid && v.part == p).map fun v => Msg.msix v.idx }

/-- A workgroup's records taken out of everything that can act for it (15 R392): its threads exit, its engine operations are abandoned,
its uncommitted stores are dropped. -/
def State.stopWg (s : State) (w : Nat) (st : WState) : State :=
  { s with
    threads := updWhere (fun t => t.wg == w && t.st != .unlaunched)
      (fun t => { t with st := .exited, sync := none, wait := none, block := .none }) s.threads
    gangs := updWhere (fun g => g.wg == w) (fun g => { g with pend := [], reinject := [], later := [], returning := false, mcas := [] }) s.gangs
    eops := s.eops.filter fun o => o.wg != w
    io := s.io.filter fun r => r.issue.wg != w
    shoots := s.shoots.filter fun r => r.wg != w
    sends := s.sends.filter fun x => x.read || x.by_.wg != w
    contribs := s.contribs.filter fun x => x.sent || x.by_.wg != w
    seals := s.seals.filter fun x => x.by_.wg != w
    parts := s.parts.map fun q => { q with armed := q.armed.filter fun a => a.by_.wg != w }
    wgs := updWhere (fun x => x.uid == w) (fun x => { x with sb := [], st := st }) s.wgs }

/-- The workgroups of a cluster. -/
def State.clusterWgs (s : State) (c : Nat) : List Wg := s.wgs.filter fun w => w.cluster == c

/-- Whether an access is one that some workgroups have made. -/
def HbItem.madeBy (u : HbItem) (us : List Nat) : Bool :=
  us.contains u.wg && (!u.lanes.isEmpty || match u.what with
    | .op .. => true
    | _ => false)

/-- Whether an access can concern no thread once some workgroups are gone, none of whose bytes `fresh` and `olds` have kept. -/
def HbItem.ends (u : HbItem) (gone : List Nat) (fresh : List (SyncAt × Nat × Nat)) (olds : List OldBytes) : Bool :=
  match u.what with
  | .event (.loc w _) => gone.contains w
  | .event _ => false
  | .reg .. => gone.contains u.wg
  | _ => u.madeBy gone && !(fresh.any fun f => f.2.2 == u.uid) && !(olds.any fun o => o.item == some u.uid)

/-- 14 R364: the accesses that some workgroups of a cluster have made or come after. -/
def Hb.gaveBy (h : Hb) (c : Nat) (us : List Nat) : List Nat :=
  (h.pend.filter fun u => u.madeBy us || u.seen.any fun a => match a with
    | .thread c' .. => c' == c
    | _ => false).map fun u => u.uid

/-- The happens-before without some workgroups. -/
def Hb.without (h : Hb) (gone : List Nat) : Hb :=
  let fresh := h.fresh.filter fun f => match f.1 with
    | .loc w _ => !gone.contains w
    | _ => true
  let olds := h.olds.filter fun o => match o.at_ with
    | .loc w _ => !gone.contains w
    | _ => true
  { h with
    pend := h.pend.filter fun u => !u.ends gone fresh olds
    views := h.views.filter fun v => match v.by_.wg? with
      | some w => !gone.contains w
      | none => true
    fresh := fresh
    olds := olds }

/-- Clusters of a node's grid (01 R39). -/
def Launch.clusters (l : Launch) : Nat := (l.nwx / l.cwx) * (l.nwy / l.cwy) * (l.nwz / l.cwz)

/-- Whether a node has ended: every cluster retired or ended, or it failed and nothing of it is left. -/
def State.nodeOver (s : State) (n : Node) : Bool :=
  n.done == n.launch.clusters || (n.failed && !(s.clusters.any fun c => c.node == n.uid && c.st != .retired && c.st != .ended))

/-- Whether all that a node can still do comes after an access: its threads know it, and so will those of the clusters that it has still to dispatch. -/
def State.nodeKnows (s : State) (n : Node) (u : HbItem) : Bool :=
  (n.next == n.launch.clusters || n.pubs.contains u.uid) &&
  s.threads.all fun t => t.st == .unlaunched || (s.nodeOf t.wg).uid != n.uid || u.before (.thread (s.wg t.wg).cluster t.wg t.gang t.lane)

/-- 14 R364: a node has ended: an access that every node left comes after can race with nothing any more (notes/assumptions/26.md). What bytes were is kept while it may
still be read: for the lines of text of the nodes that are left, and for accesses that stay. -/
def State.settleNode (s : State) : State :=
  let left := s.nodes.filter fun n => !s.nodeOver n
  let h := { s.hb with pend := s.hb.pend.filter fun u => left.any fun n => !s.nodeKnows n u }
  let needed (o : OldBytes) : Bool := h.open_ [] o.item || s.nodes.any fun n => !s.nodeOver n && n.uid < o.when_
  { s with hb := { h with olds := h.olds.filter needed } }

/-- Every record of a cluster's workgroups removed; their node keeps what they have made or come after, and the spindle commands that they leave the die that they
were on. -/
def State.dropCluster (s : State) (c : Nat) : State :=
  let us := (s.clusterWgs c).map (·.uid)
  let left (b : Issuer) : Issuer := if us.contains b.wg then { b with die := (s.wg b.wg).core / 16 } else b
  { s with
    sends := s.sends.map fun x => { x with by_ := left x.by_ }
    contribs := s.contribs.map fun x => { x with by_ := left x.by_ }
    parts := s.parts.map fun q => { q with armed := q.armed.map fun x => { x with by_ := left x.by_ } }
    nodes := updWhere (fun n => n.uid == (s.cluster c).node) (fun n => { n with gave := (s.hb.gaveBy c us ++ n.gave).eraseDups }) s.nodes
    wgs := s.wgs.filter fun w => w.cluster != c
    gangs := s.gangs.filter fun g => !us.contains g.wg
    threads := s.threads.filter fun t => !us.contains t.wg
    hb := s.hb.without us }

/-! ### Cores and partition commands -/

/-- 13 R341: the command in progress ends with a result; a write that it discarded is reported instead. -/
def State.pcmdEnd (s : State) (r : Nat) : State :=
  { s with pcmdBusy := false, pcmdResult := if s.pcmdLost then 1 else r, pcmdLost := false }

/-- The workgroups on a core, apart from those of some clusters. -/
def State.coreWgs (s : State) (gone : List Nat) (core : Nat) : List Wg :=
  s.wgs.filter fun w => w.core == core && (w.st == .resident || w.st == .draining) && !gone.contains w.cluster &&
    (s.cluster w.cluster).st == .resident

/-- Whether no workgroup is on the quads of a mask. -/
def State.quadsFree (s : State) (mask : Nat) : Bool :=
  (List.range 16).all fun i => !bitAt mask i || (List.range 4).all fun j => (s.coreWgs [] (4 * i + j)).isEmpty

/-- 14 R373 to R375: cores have become free: `DONE` is set once every held core is; and a resize whose removed quads are empty completes,
with the held marks on them dropped. -/
def State.coresFreed (s : State) (p : Nat) : State :=
  let s1 := if (s.part p).heldCores.any fun c => !(s.coreWgs [] c).isEmpty then s else s.updPart p fun q => { q with vdone := true }
  match (s1.part p).resizeTo with
  | none => s1
  | some m =>
    if !s1.quadsFree ((s1.part p).qact &&& (65535 - m)) then s1
    else (s1.updPart p fun q =>
      { q with qact := m, resizeTo := none, heldCores := q.heldCores.filter fun c => bitAt m (c / 4) }).pcmdEnd 0

/-- 14 R364: a node of a running kick is eligible once every node it depends on has retired. -/
def regionsMeet (a b : Region) : Bool := overlap a.base a.len b.base b.len && (a.kind ≥ 2 || b.kind ≥ 2)

/-- 14 R364: whether node `v` depends on node `u` of its kick. -/
def dependsOn (v u : Node) : Bool := u.idx < v.idx && u.regions.any fun a => v.regions.any fun b => regionsMeet a b

/-- The nodes of a kick. -/
def State.kickNodes (s : State) (k : Nat) : List Node := s.nodes.filter fun n => n.kick == some k

/-- 14 R364: the nodes of the running kicks that have become eligible; the retirement of what they waited for releases to them. -/
def State.wakeNodes (s : State) : State :=
  let wakes (n : Node) : Bool := !n.eligible && !n.failed && (match n.kick with
    | some k => (s.kicks.any fun x => x.uid == k && x.running) &&
                (s.kickNodes k).all fun u => !dependsOn n u || (s.nodeOver u && !u.failed)
    | none => false)
  let before_ (n : Node) : List Nat := match n.kick with
    | some k => ((s.kickNodes k).filter fun u => dependsOn n u).flatMap fun u => u.gave
    | none => []
  { s with nodes := updWhere wakes (fun n => { n with eligible := true, waitFrom := s.headClk, pubs := (before_ n ++ n.pubs).eraseDups }) s.nodes }

/-- Whether a launch bound to the training group is queued, resident or switched out in a partition (13 R348 `BOUND`). -/
def State.groupInUse (s : State) (p : Nat) : Bool :=
  s.nodes.any fun n => n.part == p && n.launch.tgb && !s.nodeOver n

/-- 13 R350, 05 R140, R141: `BOUND` follows the bound launches; its fall resets the progress table, its rise restarts the silence. Its fall leaves the
gates that `step.adv` recorded (05 R143, 10 R308), which the step compares with the new allowance (`State.settleGates`). DESIGN CHOICE: 12 R328 and R334 give the table
after the run as it was announced, step by step; R140 and R350 reset it when `BOUND` falls, and the model does so (notes/assumptions/42.md). -/
def State.updateBound (s : State) (p : Nat) : State :=
  let q := s.part p
  let use := s.groupInUse p
  if use == q.bound then s
  else if use then
    s.updPart p fun q => { q with bound := true, prog := q.prog.map fun e => if e.state < 2 then { e with quiet := 0 } else e }
  else s.updPart p fun q => { q with bound := false, prog := freshProg }

/-- 14 R363: the oldest pending kick of a slot starts when none runs. -/
def State.startKick (s : State) (p slot : Nat) : State :=
  if s.kicks.any fun k => k.part == p && k.slot == slot && k.running then s
  else match s.kicks.find? fun k => k.part == p && k.slot == slot with
    | none => s
    | some k => { s with kicks := updWhere (fun x => x.uid == k.uid) (fun x => { x with running := true }) s.kicks }.wakeNodes

/-- 14 R363, R376: a kick whose every node is over ends: `KDONE` counts it, a release at `.sys` scope that writes back the dirty bytes of
peer-homed lines; its records go, and the next kick, whose nodes come after it, starts. -/
def State.endKicks (s : State) : State :=
  match s.kicks.find? fun k => k.running && (s.kickNodes k.uid).all fun n => s.nodeOver n with
  | none => s
  | some k =>
    let s := (s.rdcWriteBack fun _ => true).updPart k.part fun q => { q with slots := (q.slots.zipIdx).map fun (x, i) =>
                                                  if i == k.slot then { x with kdone := x.kdone + 1 } else x }
    let us := (s.kickNodes k.uid).map (·.uid)
    let gave := ((s.kickNodes k.uid).flatMap fun n => n.gave).eraseDups
    let follows (n : Node) : Bool := s.kicks.any fun x => n.kick == some x.uid && x.part == k.part && x.slot == k.slot
    let s := { s with
      hb := s.hb.see .host 6 gave
      nodes := updWhere follows (fun n => { n with pubs := (gave ++ n.pubs).eraseDups }) (s.nodes.filter fun n => n.kick != some k.uid)
      clusters := s.clusters.filter fun c => !us.contains c.node
      kicks := s.kicks.filter fun x => x.uid != k.uid }
    ((s.msix k.part).updateBound k.part).startKick k.part k.slot

/-! ### Kernel errors and kills (15 R386, R391 to R393) -/

/-- 15 R381: `KERR` and `KERRWG` record the first error while `VALID` is clear. -/
def State.recordError (s : State) (p reason cause wgNum : Nat) : State :=
  if ((s.part p).csrWord 0x110).getLsbD 31 then s
  else (s.updPart p fun q =>
    (q.setCsr 0x110 (BitVec.ofNat 32 (2 ^ 31 + 256 * reason + cause))).setCsr 0x111 (BitVec.ofNat 32 wgNum)).msix p

/-- 15 R393: the 1 KiB blocks of a range that still read uncorrectable are withheld until the partition's next `RESET`. -/
def State.withhold (s : State) (p core base n : Nat) : State :=
  let lost := s.sticky.filter fun x => x.1 == core && base ≤ 1024 * x.2 && 1024 * x.2 < base + n
  s.updPart p fun q => { q with withheld := lost ++ q.withheld.filter fun x => !lost.contains x }

/-- 15 R386, R393, 14 R376: every workgroup of the node ends without relaunch (its lost blocks are withheld), and no node of its kick that has not dispatched starts. -/
def State.failNode (s : State) (n : Nat) : State :=
  let cs := (s.clusters.filter fun c => c.node == n).map (·.uid)
  let placed := (s.node n).launch.lskib * 1024
  let s := (s.wgs.filter fun w => cs.contains w.cluster).foldl (fun s w =>
    (if w.st == .resident || w.st == .draining then s.withhold (s.node n).part w.core w.lsBase placed else s).stopWg w.uid .ended) s
  let s := cs.foldl State.dropCluster s
  let k := (s.node n).kick
  let s := { s with
    clusters := updWhere (fun c => c.node == n) (fun c => { c with st := .ended }) s.clusters
    nodes := updWhere (fun x => x.uid == n || (k.isSome && x.kick == k && x.next == 0)) (fun x => { x with failed := true, eligible := false }) s.nodes }
  let p := (s.node n).part
  let s := (s.coresFreed p).settleNode
  if k.isSome then (s.updateBound p).endKicks
  else ({ s with nodes := s.nodes.filter fun x => x.uid != n, clusters := s.clusters.filter fun c => c.node != n }).updateBound p

/-- 15 R386: a kernel error of the node of a workgroup. -/
def State.kernelError (s : State) (w reason cause : Nat) : State :=
  (s.recordError (s.partOf w) reason cause (s.wg w).num).failNode (s.cluster (s.wg w).cluster).node

/-- 15 R391: whether a cluster has committed. -/
def State.clusterCommitted (s : State) (c : Nat) : Bool := (s.clusterWgs c).any fun w => w.committed

/-- 15 R392: a kill of the cluster of a workgroup; `cause` is what `KERR` records. -/
def State.kill (s : State) (w cause : Nat) : State :=
  let c := s.cluster (s.wg w).cluster
  let p := s.partOf w
  let lsz := (s.launchOf w).lskib * 1024
  let ws := s.clusterWgs c.uid
  if s.clusterCommitted c.uid then s.kernelError w 3 cause
  else if 3 ≤ c.relaunches then s.kernelError w 4 cause
  else
    let s := ws.foldl (fun s x => (s.stopWg x.uid .killed).withhold p x.core x.lsBase lsz) s
    let s := s.dropCluster c.uid
    let s := s.updCluster c.uid fun c =>
      { c with st := .queued, relaunches := c.relaunches + 1, front := s.uid + 1, waitFrom := s.headClk }
    { s.updPart p (fun q => q.setCsr 0x112 (q.csrWord 0x112 + 1)) with uid := s.uid + 1 }.coresFreed p

/-! ### Taking a trap (15 R377 to R381) -/

/-- What a trap is taken with: the lanes that met it, the replay queue, and of a decode trap the instruction word (06 R176). -/
structure TrapInfo where
  cause : Nat
  info : Nat := 0
  async : Bool := false
  exited : Bool := false
  pc : DWord
  mask : List Nat
  addr : DWord := 0
  tnum : Option Nat := none
  queue : List Entry := []
  word : Option Nat := none
  deriving DecidableEq, Repr, Inhabited

/-- 13 R348: the handler entry address. -/
def Part.hent (p : Part) : DWord := BitVec.ofNat 64 (p.csrPair 0x008 0x009)

/-- 15 R386: whether the handler entry can begin: its line can be fetched, passes its checks, and its slot has `TGT` set. -/
def State.handlerOk (s : State) (unit p : Nat) : Bool :=
  let h := (s.part p).hent
  match slotOf h, s.fetchLine unit p (lineAddr h) with
  | some k, .ok l => l.parityOk && l.zeroOk && l.tgt k
  | _, _ => false

/-- `%tnum` of a thread (01 R24): in shadow mode both copies of a pair of lanes run one thread (15 R396). -/
def State.tnumOf (s : State) (t : Thread) : Nat :=
  let l := s.launchOf t.wg
  (s.gang t.wg t.gang).num * l.maskW + t.lane % l.maskW

/-- 15 R380: the rows of the frame for a live thread. -/
def saveRow (t : Thread) : SaveRow :=
  { lane := t.lane, v := [t.vreg 0, t.vreg 1, t.vreg 2, t.vreg 3]
    p := BitVec.ofNat 3 ((t.pred 1).toNat + 2 * (t.pred 2).toNat + 4 * (t.pred 3).toNat) }

/-- 15 R380, R383: the saved thread state of a thread; the address bits of a clear `mt` are free. -/
def State.resumeRow (s : State) (t : Thread) : ResumeRow :=
  let mt := match t.mt with
    | some a => a ||| 0x8000000000000000
    | none => s.free [15, t.lane] &&& 0x7FFFFFFFFFFFFFFF
  { lane := t.lane, pc := t.pc, past := t.past, mt := mt, st := t.st, sync := t.sync, wait := t.wait }

/-- The first lane of a mask. -/
def lowest (l : List Nat) : Nat := l.foldl min ((l.head?).getD 0)

/-- 15 R380, R396: taking a trap for a gang at kernel level whose handler entry can begin; of a gang without a live thread its thread 0 runs the handler, in both copies
in shadow mode. A queue holds 16 entries (R378); those beyond it, which a trap
between re-injections can leave, follow after the handler's return (notes/assumptions/8.md). -/
def State.enterHandler (s : State) (w g : Nat) (t : TrapInfo) : State :=
  let h := (s.part (s.partOf w)).hent
  let mine (x : Thread) : Bool := x.wg == w && x.gang == g
  let dead := !(s.threads.any fun x => mine x && x.live)
  let goes (x : Thread) : Bool := mine x && (x.live || (dead && x.lane % (s.launchOf w).maskW == 0))
  let runs := s.threads.filter goes
  let gg := s.gang w g
  let tn := match t.tnum with
    | some n => n
    | none => match s.threads.find? fun x => mine x && x.lane == lowest t.mask with
      | some x => s.tnumOf x
      | none => 0
  let f : Frame :=
    { exited := t.exited || dead, async := t.async, info := t.info, cause := t.cause, tpc := t.pc, tmask := t.mask, taddr := t.addr
      stage := gg.stage, tnum := tn, twg := (s.wg w).num, queue := t.queue.take 16, save := runs.map saveRow, resume := runs.map s.resumeRow
      gone := (s.threads.filter fun x => mine x && x.st == .exited).map (·.lane), word := t.word }
  let s := { s with
    threads := updWhere goes (fun x => { x with pc := h, past := false, mt := none, st := .ready, sync := none, wait := none
                                                block := .none, line := none, skipBkpt := false }) s.threads }
  (s.updGang w g fun x => { x with handler := true, fresh := true, frame := f, returning := false, ages := []
                                   later := t.queue.drop 16 ++ x.later }).dropLatches w g

/-- 15 R377 to R380, R386: THE operation that takes a trap. At handler level a trap is a double fault (reason 1), or reason 2 before
the first operation of the handler has been fetched; a handler entry that cannot begin is reason 2. -/
def State.takeTrap (s : State) (w g : Nat) (t : TrapInfo) : State :=
  let gg := s.gang w g
  if gg.handler then
    (if gg.fresh then s.kernelError w 2 gg.frame.cause else s.kernelError w 1 t.cause)
  else if !s.handlerOk (unitCore (s.wg w).core) (s.partOf w) then s.kernelError w 2 t.cause
  else s.enterHandler w g t

/-- The replay-queue entry of the current issue (15 R383), met by a cause. -/
def State.curEntry (s : State) (lanes : List Nat) (caps : List Cap) (code : Nat) (faulted : Bool) : Entry :=
  { kind := s.cur.kind, faulted := faulted, code := code, pc := s.cur.pc, mask := lanes, word := s.cur.word, half := s.cur.half, caps := caps }

/-- A precise execution trap of the current issue (15 R378, R380): the operation is entry 0, followed by the younger operations that have issued and by the
entries that an `iret` had not yet put back, and its threads resume after the youngest. `lanes` are the lanes whose guard is true, with their captured sources. -/
def State.trapIssue (s : State) (cause : Nat) (mask lanes : List Nat) (caps : List Cap) (addr : DWord) (info : Nat) : State :=
  if s.cur.probe then { s with cur := { s.cur with found := some cause } } else
  let w := s.cur.wg
  let g := s.cur.gang
  let rest := (s.gang w g).reinject
  let s1 := if s.cur.replay then s
    else if s.cur.young.isEmpty then s.updIssue fun t => t.goto s.cur.next s.cur.past
    else s.updIssue fun t => t.goto s.cur.resume s.cur.resumePast
  let s2 := s1.updGang w g fun x => { x with reinject := [] }
  s2.takeTrap w g { cause := cause, info := info, pc := s.cur.pc, mask := mask, addr := addr
                    queue := s.curEntry lanes caps cause true :: s.cur.young ++ rest }

/-- A trap that leaves the trapping operation out of the queue (15 R377, R378): decode, line, breakpoint, and `brp` targets; of a decode trap with the instruction word
(06 R176). -/
def State.trapOut (s : State) (cause : Nat) (mask : List Nat) (info : Nat) (word : Option Nat := none) : State :=
  let w := s.cur.wg
  let g := s.cur.gang
  let rest := (s.gang w g).reinject
  (s.updGang w g fun x => { x with reinject := [] }).takeTrap w g
    { cause := cause, info := info, pc := s.cur.pc, mask := mask, queue := rest, word := word }

/-- 15 R379: among faults of several lanes, the lowest code, with the lanes that met it and the address of the lowest. -/
def lowestFault (fs : List (Nat × Nat × DWord)) : Option (Nat × List Nat × DWord) :=
  match fs with
  | [] => none
  | f :: r =>
    let code := r.foldl (fun a x => min a x.2.1) f.2.1
    let met := fs.filter fun x => x.2.1 == code
    let lanes := met.map (·.1)
    let addr := match met.find? fun x => x.1 == lowest lanes with
      | some x => x.2.2
      | none => 0
    some (code, lanes, addr)

/-- 01 R37: a workgroup without a live thread is Draining. -/
def State.drainIfDone (s : State) (w : Nat) : State :=
  if s.threads.any fun t => t.wg == w && t.live then s
  else s.updWg w fun x => if x.st == .resident then { x with st := .draining } else x

end Sys2Proof.Machine
end

