-- ==== Sys2Proof/Machine/Operands.lean ====
section
/-! DEFINITION. Every operand form: how a lane reads a source (06 R160 to R164), what it writes to a destination (06 R158, R159), and the
shared shapes of an instruction: compute per lane, write, push, advance; and the comparison of shadow copies (15 R397). -/

namespace Sys2Proof

/-- The registers that a result of 32 or 64 bits takes. -/
def Op.words (o : Op) : Nat := if o.wide then 2 else 1

/-- The fields of a compact half as those of the full operation it stands for (06 R169). -/
def COp.toOp (o : COp) : Op := { guard := o.guard, dst := .v o.dst, ty := o.ty, a := o.a, b := o.b }

/-- 06 R169: the compact `mad` and `ffma` take their destination as the third operand. -/
def COp.toOpAcc (o : COp) : Op := { o.toOp with c := .v o.dst }

end Sys2Proof

namespace Sys2Proof.Machine

/-- How a source field is read: in a type, as a count or index (n32), as an offset (s32), as a 64-bit address, as a predicate,
as four registers, or not at all. -/
inductive Kind where
  | ty (t : Ty)
  | n32
  | s32
  | n64
  | pred
  | quad
  | unused
  deriving DecidableEq, Repr, Inhabited

/-- Registers that an operand of a kind takes. -/
def Kind.words : Kind → Nat
  | .ty t => if t.bits = 64 then 2 else 1
  | .n64 => 2
  | .quad => 4
  | _ => 1

/-- 06 R163: the fp8e4 value of an immediate in a format. -/
def immFloat (F : Fmt) (b : Nat) : Nat := (F.ofVal .rn (Fmt.fp8e4.decode (b % 256))).bits

/-- 06 R163: an immediate read by its operand's type. -/
def immVal (t : Ty) (b : Nat) : Nat :=
  match t with
  | .s32 => zext (sext b 8) 32
  | .s64 => zext (sext b 8) 64
  | .s16x2 => zext (sext b 8) 16 * 0x10001
  | .n16x2 => b % 256 * 0x10001
  | .s8x4 | .n8x4 => b % 256 * 0x1010101
  | .f32 => immFloat .f32 b
  | .bf16x2 => immFloat .bf16 b * 0x10001
  | .f16x2 => immFloat .f16 b * 0x10001
  | .b32 | .n32 | .b64 | .n64 => b % 256
  | .b1 => b % 2

/-- 06 R160 to R164: what a lane reads in a source field. -/
def State.readSrc (s : State) (t : Thread) (k : Kind) (x : Src) : Nat :=
  match k, x with
  | .unused, _ => 0
  | .pred, .v n => (t.pred n).toNat
  | .pred, .imm b => b % 2
  | .pred, _ => 0
  | k, .v n => t.vregs n k.words
  | k, .g n => (s.greg t n).toNat + (if k.words == 2 then 2 ^ 32 * (s.greg t (n + 1)).toNat else 0)
  | k, .l n => s.latch t n (k.words == 2)
  | .s32, .imm b => immVal .s32 b
  | .ty t, .imm b => immVal t b
  | _, .imm b => b % 256

/-- The kinds of the three sources. -/
structure Kinds where
  a : Kind := .unused
  b : Kind := .unused
  c : Kind := .unused
  deriving DecidableEq, Repr, Inhabited

/-- 06 R157: whether a lane executes; a re-injected entry executes for every lane of its mask (15 R385). -/
def State.executes (s : State) (g : Guard) (t : Thread) : Bool := s.cur.replay || (t.pred g.p != g.neg)

/-- The values of three sources of a lane. -/
def State.sources (s : State) (k : Kinds) (a b c : Src) (t : Thread) : Cap :=
  { lane := t.lane, a := s.readSrc t k.a a, b := s.readSrc t k.b b, c := s.readSrc t k.c c }

/-- The sources of the executing lanes, in lane order: read now, or the captures of a re-injected entry (15 R385). -/
def State.captureBy (s : State) (g : Guard) (src : Thread → Cap) : List Cap :=
  if s.cur.replay then s.cur.caps.filter fun x => s.issued.any fun t => t.lane == x.lane
  else (s.issued.filter fun t => s.executes g t).map src

/-- `captureBy` on source fields. -/
def State.capture (s : State) (g : Guard) (k : Kinds) (a b c : Src) : List Cap := s.captureBy g (s.sources k a b c)

/-- 15 R397: the captures of both copies of the threads of which a copy executes; outside shadow mode, and of a re-injected entry, those of the
executing lanes. -/
def State.pairBy (s : State) (g : Guard) (src : Thread → Cap) : List Cap :=
  let l := s.launch
  if s.cur.replay || !l.shadow then s.captureBy g src
  else
    let lanes := (s.issued.filter fun t => s.executes g t).map fun t => t.lane % l.maskW
    (s.issued.filter fun t => lanes.contains (t.lane % l.maskW)).map src

/-- The captures of an operation with the fields of `Op`. -/
def State.captureOp (s : State) (k : Kinds) (o : Op) : List Cap := s.capture o.guard k o.a o.b o.c

/-- `pairBy` of an operation with the fields of `Op`. -/
def State.pairOp (s : State) (k : Kinds) (o : Op) : List Cap := s.pairBy o.guard (s.sources k o.a o.b o.c)

/-- The lanes of captures. -/
def lanesOf (caps : List Cap) : List Nat := caps.map (·.lane)

/-- 15 R379: whether what the current issue would go on to do ends in a precise trap of a lower code, which its lanes then take. -/
def State.lowerFirst (s : State) (code : Nat) (k : State → State) : Bool :=
  match (k { s with cur := { s.cur with probe := true, found := none } }).cur.found with
  | some c => c < code
  | none => false

/-- 15 R395, R379: the second mismatch of an issue raises 0x50, where no lane has met a lower cause, and suppresses the instruction's writes. -/
def State.checked (s : State) (caps : List Cap) (k : State → State) : State :=
  if s.cur.mism ≥ 2 && !caps.isEmpty && !s.lowerFirst 0x50 k then s.trapIssue 0x50 (lanesOf caps) (lanesOf caps) caps 0 0 else k s

/-- A precise execution trap of some lanes of the current issue, none of which has taken effect (15 R378, R379). -/
def State.faultLanes (s : State) (caps : List Cap) (f : Nat × List Nat × DWord) (info : Nat := 0) : State :=
  s.trapIssue f.1 f.2.1 (lanesOf caps) caps f.2.2 info

/-! ### Destinations -/

/-- 06 R158, 01 R32: a result written to the destination of an operation. -/
def Thread.writeDst (t : Thread) (o : Op) (words : Nat) (x : Nat) : Thread :=
  match o.dst with
  | .v n => t.setVs n words x
  | .p n => t.setPred n (x % 2 == 1)
  | .g _ => t
  | .none => t

/-- 06 R159: both results written. Where both name one predicate they are the same (`settleBoth`). -/
def writeBoth (o : Op) (t : Thread) (x : Nat) (y : Bool) : Thread := (t.writeDst o o.words x).setPred o.d2 y

/-- 06 R159, 08 R226: what is written of a lane's results: where both destinations name one predicate, the spec does not say which result stays; it
depends on the operation and its operands alone. -/
def settleBoth (o : Op) (word : Nat) (c : Cap) (r : Nat × Bool) : Nat × Bool :=
  if o.dst == .p o.d2 && o.d2 != 0 then
    let b := if Config.secondStays word [c.a, c.b, c.c] then r.2 else r.1 % 2 == 1
    (b.toNat, b)
  else r

/-- The value that results give a lane. -/
def laneVal {α : Type} (l : List (Nat × α)) (lane : Nat) : Option α :=
  match l with
  | [] => none
  | (k, x) :: r => if k = lane then some x else laneVal r lane

/-- Results written to the threads of the current issue. -/
def State.writeLanes (s : State) (res : List (Nat × Nat × Bool)) (write : Thread → Nat → Bool → Thread) : State :=
  s.updIssue fun t =>
    match laneVal res t.lane with
    | some (x, y) => write t x y
    | none => t

/-- 01 R30: the results pushed. -/
def State.pushLanes (s : State) (o : Op) (res : List (Nat × Nat × Bool)) : State :=
  s.push (res.map fun r => { lane := r.1, wide := o.wide, x := r.2.1 })

/-- THE shape of a register-to-register instruction: each executing lane computes its results from its sources, all are
written, the first is pushed where the group pushes, and the threads advance. An issue without a true guard pushes too (01 R30; notes/assumptions/43.md). -/
def State.aluBy (s : State) (o : Op) (src : Thread → Cap) (push : Bool) (f : Nat → Nat → Nat → Nat × Bool)
    (write : Thread → Nat → Bool → Thread) : State :=
  let caps := s.captureBy o.guard src
  s.checked caps fun s =>
    let s1 := s.writeLanes (caps.map fun c => (c.lane, settleBoth o s.cur.word c (f c.a c.b c.c))) write
    (if push then s1.pushLanes o (caps.map fun c => (c.lane, f c.a c.b c.c)) else s1).advance

/-- `aluBy` from source fields to the destinations of `Op`. -/
def State.alu (s : State) (o : Op) (k : Kinds) (push : Bool) (f : Nat → Nat → Nat → Nat × Bool) : State :=
  s.aluBy o (s.sources k o.a o.b o.c) push f (writeBoth o)

/-- `alu` on operands of one type, pushing. -/
def State.alu3 (s : State) (o : Op) (f : Nat → Nat → Nat → Nat) : State :=
  s.alu o { a := .ty o.ty, b := .ty o.ty, c := .ty o.ty } true fun a b c => (f a b c, false)

/-- 01 R31: the run of the current slice ends. -/
def State.endRun (s : State) : State :=
  let met (r : Run) : Bool := r.wg == s.cur.wg && r.gang == s.cur.gang && r.lanes.any fun l => s.cur.lanes.contains l
  s.updSlice s.cur.wg s.cur.gang fun x => { x with runs := x.runs.filter fun r => !met r }

/-- 15 R388: whether a held store is another gang's of the slice of a gang, whose handler has to see to it. -/
def State.storeWaits (s : State) (w g : Nat) : Bool :=
  s.wgs.any fun v => v.core == (s.wg w).core && v.sb.any fun e =>
    e.held && !(v.uid == w && e.gang == g) && (s.gang v.uid e.gang).slice == (s.gang w g).slice

/-- 01 R31: the run of the current issue waits at its instruction. -/
def State.runWaits (s : State) : State :=
  s.updSlice s.cur.wg s.cur.gang fun x => { x with
    runs := updWhere (fun r => r.of s.cur.wg s.cur.gang && s.cur.lanes.all r.lanes.contains) (fun r => { r with waits := true }) x.runs }

/-- An instruction that waits where it stands is issued again, and a re-injected one is tried again; nothing else changes
(04 R124, 10 R275, R276, 15 R388). Its run goes on (01 R31); while a held store waits for another gang of the slice, whose handler has to act, that gang issues
first (15 R388), and the run goes on after it (notes/assumptions/12.md). -/
def State.waitHere (s : State) : State :=
  if s.cur.replay then
    s.updGang s.cur.wg s.cur.gang fun g => { g with reinject := s.curEntry s.cur.lanes s.cur.caps 0 false :: g.reinject }
  else s.runWaits

/-! ### Shadow mode (15 R396, R397) -/

/-- 15 R397: the lower lanes of the threads whose copies differ in a test of their captures, or of which one copy does not execute or is not there. -/
def State.shadowDiff (s : State) (caps : List Cap) (same : Cap → Cap → Bool) : List Nat :=
  let l := s.launch
  if !l.shadow then [] else
  let half := l.gw / 2
  (List.range half).filter fun i =>
    match caps.find? (fun c => c.lane == i), caps.find? (fun c => c.lane == i + half) with
    | none, none => false
    | some c, some d => !same c d
    | _, _ => true

/-- The captures that take effect: in shadow mode those of the lower copies (15 R397). -/
def State.effective (s : State) (caps : List Cap) : List Cap :=
  let l := s.launch
  if l.shadow then caps.filter fun c => c.lane < l.gw / 2 else caps

/-- The lanes that a returned value reaches: with the lower copy its upper copy (15 R397). -/
def State.copies (s : State) (lane : Nat) : List Nat :=
  let l := s.launch
  if l.shadow then [lane % (l.gw / 2), lane % (l.gw / 2) + l.gw / 2] else [lane]

/-- Whether the current issue puts back the command of an engine operation that has stopped (15 R385), which one copy of a shadow thread had issued. -/
def State.commandAgain (s : State) : Bool := match s.cur.kind with
  | .command .. => true
  | _ => false

/-- 15 R397, R379: the comparison before an effect: a difference raises 0x51, naming the lower copies, where no lane has met a lower cause; the entry holds what both
copies captured. The command of a stopped operation was compared when it was issued first. -/
def State.shadowed (s : State) (caps : List Cap) (same : Cap → Cap → Bool) (k : State → State) (pair : List Cap := caps) : State :=
  let bad := if s.commandAgain then [] else s.shadowDiff caps same
  if bad.isEmpty || s.lowerFirst 0x51 k then k s else s.trapIssue 0x51 bad (lanesOf pair) pair 0 0

/-- Copies agree in every captured source. -/
def sameCaps (c d : Cap) : Bool := c.a == d.a && c.b == d.b && c.c == d.c

/-- THE frame of an instruction with an effect beyond registers: its sources, the checkers, the shadow comparison. -/
def State.acting (s : State) (caps : List Cap) (k : State → State) (pair : List Cap := caps) : State :=
  s.checked caps fun s => s.shadowed caps sameCaps k pair

end Sys2Proof.Machine
end

