-- ==== Sys2Proof/Machine/FloatOps.lean ====
section
/-! DEFINITION. Floating point and conversion (spec/08 R227 to R241), full and compact (spec/06 R169). -/

namespace Sys2Proof.Machine

open Host (Outcome)

/-- 08 R225: a floating-point function of each element. -/
def State.floatAlu (s : State) (o : Op) (f : Fmt → Nat → Nat → Nat → Nat) : State := s.alu3 o (floatOp o.ty f)

/-- 08 R233, R234: a special function of an f32, which pushes nothing. -/
def State.special (s : State) (o : Op) (f : Nat → Nat) : State := s.alu o { a := .ty .f32 } false fun a _ _ => (f a, false)

/-- 08 R227, R228: `fadd`. -/
def execFadd (o : Op) (r : Rnd) (s : State) : Outcome State Fault Refusal := .next (s.floatAlu o (fun F a b _ => F.add r a b))

/-- 08 R227, R228: `fsub`. -/
def execFsub (o : Op) (r : Rnd) (s : State) : Outcome State Fault Refusal := .next (s.floatAlu o (fun F a b _ => F.sub r a b))

/-- 08 R227, R228: `fmul`. -/
def execFmul (o : Op) (r : Rnd) (s : State) : Outcome State Fault Refusal := .next (s.floatAlu o (fun F a b _ => F.mul r a b))

/-- 08 R227, R228: `ffma`. -/
def execFfma (o : Op) (r : Rnd) (s : State) : Outcome State Fault Refusal := .next (s.floatAlu o (fun F a b c => F.fma r a b c))

/-- 08 R229, R230: `fmin`. -/
def execFmin (o : Op) (s : State) : Outcome State Fault Refusal := .next (s.floatAlu o (fun F a b _ => F.extremum false a b))

/-- 08 R229, R230: `fmax`. -/
def execFmax (o : Op) (s : State) : Outcome State Fault Refusal := .next (s.floatAlu o (fun F a b _ => F.extremum true a b))

/-- 08 R229, R230: `fminnum`. -/
def execFminnum (o : Op) (s : State) : Outcome State Fault Refusal := .next (s.floatAlu o (fun F a b _ => F.extremumNum false a b))

/-- 08 R229, R230: `fmaxnum`. -/
def execFmaxnum (o : Op) (s : State) : Outcome State Fault Refusal := .next (s.floatAlu o (fun F a b _ => F.extremumNum true a b))

/-- 08 R229, R230: `fabs`. -/
def execFabs (o : Op) (s : State) : Outcome State Fault Refusal := .next (s.floatAlu o (fun F a _ _ => F.abs a))

/-- 08 R229, R230: `fneg`. -/
def execFneg (o : Op) (s : State) : Outcome State Fault Refusal := .next (s.floatAlu o (fun F a _ _ => F.negate a))

/-- 08 R231: `fcmp`. -/
def execFcmp (o : Op) (cond : FCond) (comb : Comb) (s : State) : Outcome State Fault Refusal := .next (s.alu o { a := .ty .f32, b := .ty .f32, c := if comb == .none then .unused else .pred } true fun a b c =>
    let r := fcmpBits cond comb a b (c == 1)
    (r.toNat, !r))

/-- 08 R232: `fclass`, the vector form. -/
def execFclassV (o : Op) (s : State) : Outcome State Fault Refusal := .next (s.floatAlu o (fun F a _ _ => F.classify a))

/-- 08 R232: `fclass`, the predicate form. -/
def execFclassP (o : Op) (s : State) : Outcome State Fault Refusal := .next (s.alu o { a := .ty .f32, b := .ty .b32 } true fun a m _ =>
    let r := Fmt.f32.classify a &&& m != 0
    (r.toNat, !r))

/-- 08 R233: `rcp`. -/
def execRcp (o : Op) (r : Rnd) (s : State) : Outcome State Fault Refusal := .next (s.special o (frcp r))

/-- 08 R233: `sqrt`. -/
def execSqrt (o : Op) (r : Rnd) (s : State) : Outcome State Fault Refusal := .next (s.special o (fsqrt r))

/-- 08 R234: `rsq`. -/
def execRsq (o : Op) (s : State) : Outcome State Fault Refusal := .next (s.special o frsq)

/-- 08 R234: `exp2`. -/
def execExp2 (o : Op) (s : State) : Outcome State Fault Refusal := .next (s.special o fexp2)

/-- 08 R234: `log2`. -/
def execLog2 (o : Op) (s : State) : Outcome State Fault Refusal := .next (s.special o flog2)

/-- 08 R234: `sin`. -/
def execSin (o : Op) (s : State) : Outcome State Fault Refusal := .next (s.special o fsin)

/-- 08 R234: `cos`. -/
def execCos (o : Op) (s : State) : Outcome State Fault Refusal := .next (s.special o fcos)

/-- 08 R236: how a `cvt` source field is read. -/
def cvtKind (f : CvtFmt) : Kind :=
  match f with
  | .f32 => .ty .f32
  | .s64 => .ty .s64
  | .n64 => .ty .n64
  | .s8 | .s16 | .s32 => .ty .s32
  | _ => .n32

/-- 08 R235 to R241: `cvt`. -/
def execCvt (o : Op) (m : CvtMods) (s : State) : Outcome State Fault Refusal := .next (s.alu o { a := cvtKind m.src, b := if m.pk then cvtKind m.src else .unused } true fun a b _ =>
    let r := cvtAll m a b
    (r.d, r.invalid))

/-- 06 R169: compact `fadd`, rounding to nearest even. -/
def execFaddCompact (o : COp) (s : State) : Outcome State Fault Refusal := .next (s.floatAlu o.toOp (fun F a b _ => F.add .rn a b))

/-- 06 R169: compact `fsub`, rounding to nearest even. -/
def execFsubCompact (o : COp) (s : State) : Outcome State Fault Refusal := .next (s.floatAlu o.toOp (fun F a b _ => F.sub .rn a b))

/-- 06 R169: compact `fmul`, rounding to nearest even. -/
def execFmulCompact (o : COp) (s : State) : Outcome State Fault Refusal := .next (s.floatAlu o.toOp (fun F a b _ => F.mul .rn a b))

/-- 06 R169: compact `ffma`, rounding to nearest even. -/
def execFfmaCompact (o : COp) (s : State) : Outcome State Fault Refusal := .next (s.floatAlu o.toOpAcc (fun F a b c => F.fma .rn a b c))

/-- 06 R169: compact `fmin`. -/
def execFminCompact (o : COp) (s : State) : Outcome State Fault Refusal := .next (s.floatAlu o.toOp (fun F a b _ => F.extremum false a b))

/-- 06 R169: compact `fmax`. -/
def execFmaxCompact (o : COp) (s : State) : Outcome State Fault Refusal := .next (s.floatAlu o.toOp (fun F a b _ => F.extremum true a b))

/-- 06 R169: compact `fminnum`. -/
def execFminnumCompact (o : COp) (s : State) : Outcome State Fault Refusal := .next (s.floatAlu o.toOp (fun F a b _ => F.extremumNum false a b))

/-- 06 R169: compact `fmaxnum`. -/
def execFmaxnumCompact (o : COp) (s : State) : Outcome State Fault Refusal := .next (s.floatAlu o.toOp (fun F a b _ => F.extremumNum true a b))

/-- 06 R169: compact `fabs`. -/
def execFabsCompact (o : COp) (s : State) : Outcome State Fault Refusal := .next (s.floatAlu o.toOp (fun F a _ _ => F.abs a))

/-- 06 R169: compact `fneg`. -/
def execFnegCompact (o : COp) (s : State) : Outcome State Fault Refusal := .next (s.floatAlu o.toOp (fun F a _ _ => F.negate a))

end Sys2Proof.Machine
end

