-- ==== Sys2Proof/Machine/Integer.lean ====
section
/-! DEFINITION. Integer arithmetic (spec/07 R197 to R199), full and compact (spec/06 R169). -/

namespace Sys2Proof.Machine

open Host (Outcome)

/-- 07 R197 to R199: `add` and `sub` with carry in, carry out and saturation. -/
def State.addSub (s : State) (o : Op) (m : AddMods) (f : Int → Int → Int → Int) : State :=
  s.alu o { a := .ty o.ty, b := .ty o.ty, c := if m.cr then .pred else .unused } true fun a b c =>
    (intOp o.ty m.sat (fun x y _ => f x y (c : Int)) a b 0,
     m.cw && carryOut o.ty.bits (f (elemVal false o.ty.bits a) (elemVal false o.ty.bits b) (c : Int)))

/-- 07 R198: an exact integer result per element. -/
def State.intAlu (s : State) (o : Op) (sat : Bool) (f : Int → Int → Int → Int) : State := s.alu3 o (intOp o.ty sat f)

/-- 07 R197: the exact results. -/
def addExact (x y cin : Int) : Int := x + y + cin
/-- 07 R197. -/
def subExact (x y cin : Int) : Int := x - y - cin

/-- 07 R197 to R199: `add`. -/
def execAdd (o : Op) (m : AddMods) (s : State) : Outcome State Fault Refusal := .next (s.addSub o m addExact)

/-- 07 R197 to R199: `sub`. -/
def execSub (o : Op) (m : AddMods) (s : State) : Outcome State Fault Refusal := .next (s.addSub o m subExact)

/-- 07 R197, R198: `mul`. -/
def execMul (o : Op) (s : State) : Outcome State Fault Refusal := .next (s.intAlu o false (fun x y _ => x * y))

/-- 07 R197, R198: `mulh`. -/
def execMulh (o : Op) (s : State) : Outcome State Fault Refusal := .next (s.intAlu o false (fun x y _ => mulHigh o.ty.elemBits x y))

/-- 07 R197, R198: `mad`. -/
def execMad (o : Op) (sat : Bool) (s : State) : Outcome State Fault Refusal := .next (s.intAlu o sat (fun x y z => x * y + z))

/-- 07 R197, R198: `madh`. -/
def execMadh (o : Op) (s : State) : Outcome State Fault Refusal := .next (s.intAlu o false (fun x y z => mulHigh o.ty.elemBits x y + z))

/-- 07 R197: `min`. -/
def execMin (o : Op) (s : State) : Outcome State Fault Refusal := .next (s.intAlu o false (fun x y _ => min x y))

/-- 07 R197: `max`. -/
def execMax (o : Op) (s : State) : Outcome State Fault Refusal := .next (s.intAlu o false (fun x y _ => max x y))

/-- 07 R197, R198: `abs`. -/
def execAbs (o : Op) (sat : Bool) (s : State) : Outcome State Fault Refusal := .next (s.intAlu o sat (fun x _ _ => (x.natAbs : Int)))

/-- 07 R197, R198: `neg`. -/
def execNeg (o : Op) (sat : Bool) (s : State) : Outcome State Fault Refusal := .next (s.intAlu o sat (fun x _ _ => -x))

/-- 06 R169: compact `add`. -/
def execAddCompact (o : COp) (s : State) : Outcome State Fault Refusal := .next (s.intAlu o.toOp o.sat (fun x y _ => x + y))

/-- 06 R169: compact `sub`. -/
def execSubCompact (o : COp) (s : State) : Outcome State Fault Refusal := .next (s.intAlu o.toOp o.sat (fun x y _ => x - y))

/-- 06 R169: compact `min`. -/
def execMinCompact (o : COp) (s : State) : Outcome State Fault Refusal := .next (s.intAlu o.toOp false (fun x y _ => min x y))

/-- 06 R169: compact `max`. -/
def execMaxCompact (o : COp) (s : State) : Outcome State Fault Refusal := .next (s.intAlu o.toOp false (fun x y _ => max x y))

/-- 06 R169: compact `abs`. -/
def execAbsCompact (o : COp) (s : State) : Outcome State Fault Refusal := .next (s.intAlu o.toOp false (fun x _ _ => (x.natAbs : Int)))

/-- 06 R169: compact `neg`. -/
def execNegCompact (o : COp) (s : State) : Outcome State Fault Refusal := .next (s.intAlu o.toOp false (fun x _ _ => -x))

/-- 06 R169: compact `mul`. -/
def execMulCompact (o : COp) (s : State) : Outcome State Fault Refusal := .next (s.intAlu o.toOp false (fun x y _ => x * y))

/-- 06 R169: compact `mad`. -/
def execMadCompact (o : COp) (s : State) : Outcome State Fault Refusal := .next (s.intAlu o.toOpAcc false (fun x y z => x * y + z))

end Sys2Proof.Machine
end

