-- ==== Sys2Proof/Machine/Cross.lean ====
section
/-! DEFINITION. Cross-lane instructions and the vote of `brp` (spec/01 R26; spec/07 R189, R212 to R219), and random numbers
(R220 to R222). A thread that arrives becomes Synchronising with a record of what it brought; at every arrival and exit of its gang the
threads whose whole mask has come combine as one event. -/

namespace Sys2Proof.Machine

open Host (Outcome)

/-- 06 R167: the address of a control-flow target, from the address of the operation. -/
def targetAddr (pc : DWord) (t : Target) : DWord := lineAddr pc + BitVec.ofInt 64 (64 * t.disp.toInt) + BitVec.ofNat 64 (12 * t.slot)

/-- A thread goes to a target: the line ends for it (06 R153), and the line at the target is entered anew (R152). -/
def Thread.jump (t : Thread) (pc : DWord) : Thread := { t.goto pc false with line := none }

/-- 07 R213: how a member mask is read. -/
def State.maskKind (s : State) : Kind := if s.launch.maskW == 64 then .n64 else .n32

/-- What the meeting of 01 R26 gives a thread: its result if one is written, its validity bit, and whether a `brp` is taken. -/
structure XOut where
  d : Option Nat := none
  ok : Bool := false
  taken : Bool := false
  deriving DecidableEq, Repr, Inhabited

/-- 07 R214: the lanes of V that supply a value, by lane number in ascending order, for a thread of a lane with a record. In
shadow mode a mask speaks of the thread's own half (15 R396). -/
def xSuppliers (w : Nat) (rs : List (Nat × SyncRec)) (lane : Nat) (r : SyncRec) : List (Nat × SyncRec) :=
  (List.range w).filterMap fun j =>
    if bitAt r.mask j then
      (rs.find? fun x => x.1 == lane - lane % w + j && x.2.at_ == r.at_ && x.2.mask == r.mask && x.2.on).map fun x => (j, x.2)
    else none

/-- A set of lanes as bits. -/
def laneBits (l : List Nat) : Nat := l.foldl (fun a j => a + 2 ^ j) 0

/-- 07 R216, R189: the outcome of a member whose set of suppliers is `u`. -/
def xMember (w lane : Nat) (r : SyncRec) (u : List (Nat × SyncRec)) : XOut :=
  let me := lane % w
  let all := (List.range w).all fun j => !bitAt r.mask j || u.any fun x => x.1 == j
  let one (y : Option (Nat × SyncRec)) : XOut := match y with
    | some x => { d := some x.2.a, ok := true }
    | none => { d := some r.a, ok := false }
  match r.instr with
  | .xperm _ | .xbc _ => one (u.find? fun x => x.1 == r.c)
  | .xbcFirst _ => one u.head?
  | .xred o x => { d := some (xreduce x o.ty ((List.range w).map fun j => (laneVal u j).map fun y => y.a)), ok := all }
  | .xscan o x excl =>
    { d := some (xfold x o.ty ((u.filter fun y => y.1 < me || (y.1 == me && !excl)).map fun y => y.2.a)), ok := all }
  | .xvoteAny _ => { d := some (u.any fun y => y.2.a == 1).toNat, ok := all }
  | .xvoteAll _ => { d := some (u.all fun y => y.2.a == 1).toNat, ok := all }
  | .xvoteBallot _ => { d := some (laneBits ((u.filter fun y => y.2.a == 1).map (·.1))), ok := all }
  | .xmatch _ => { d := some (laneBits ((u.filter fun y => y.2.a == r.a).map (·.1))), ok := all }
  | .brpAny .. => { taken := u.any fun y => y.2.a == 1 }
  | .brpAll .. => { taken := u.all fun y => y.2.a == 1 }
  | _ => {}

/-- 07 R216: the outcome of a thread that is not a member of its own mask, or whose mask is empty. -/
def xOutside (w lane : Nat) (r : SyncRec) : XOut :=
  if r.mask == 0 then {}
  else match r.instr with
    | .xvoteBallot _ => { d := some (r.a * 2 ^ (lane % w)) }
    | .xmatch _ => { d := some (2 ^ (lane % w)) }
    | .brpAny .. | .brpAll .. => {}
    | _ => { d := some r.a }

/-- 01 R26: the outcome of a thread whose meeting is complete. -/
def xOutcome (w : Nat) (rs : List (Nat × SyncRec)) (lane : Nat) (r : SyncRec) : XOut :=
  if bitAt r.mask (lane % w) then xMember w lane r (xSuppliers w rs lane r) else xOutside w lane r

/-- The common fields of a cross-lane instruction. -/
def xOp : Instr → Op
  | .xperm o | .xbc o | .xbcFirst o | .xred o _ | .xscan o _ _ | .xvoteAny o | .xvoteAll o | .xvoteBallot o | .xmatch o => o
  | _ => {}

/-- The target of a vote. -/
def voteTarget : Instr → Option Target
  | .brpAny _ _ _ t | .brpAll _ _ _ t => some t
  | _ => none

/-- The results of a meeting written to a thread whose guard is true (07 R214). Where both destinations name one predicate, the spec does not say which
result stays: a free choice. -/
def State.xWrite (s : State) (t : Thread) (r : SyncRec) (x : XOut) : Thread :=
  let o := xOp r.instr
  if !r.on then t
  else match x.d with
    | some d => writeBoth o t d (if o.dst == .p o.d2 && o.d2 != 0 && !(s.free [4, t.lane]).getLsbD 0 then d % 2 == 1 else x.ok)
    | none => t.setPred o.d2 false

/-- The Synchronising threads of a gang with their records. -/
def syncRecs (ts : List Thread) : List (Nat × SyncRec) :=
  ts.filterMap fun t => if t.st == .sync then t.sync.map fun r => (t.lane, r) else none

/-- 01 R26: whether a lane stands at an instruction: Synchronising there, or Held with its program counter there (it then takes no part in what the lanes
combine, having no mask; notes/assumptions/28.md). -/
def Thread.standsAt (u : Thread) (a : DWord) : Bool :=
  match u.st, u.sync with
  | .sync, some q => q.at_ == a
  | .held, _ => u.pc == a && !u.past
  | _, _ => false

/-- 01 R26: whether every lane of a thread's mask is not live or stands at the instruction; a thread outside its own mask does not wait. -/
def xArrived (ts : List Thread) (w lane : Nat) (r : SyncRec) : Bool :=
  !bitAt r.mask (lane % w) ||
  (List.range w).all fun j => !bitAt r.mask j ||
    (match ts.find? fun u => u.lane == lane - lane % w + j with
     | some u => !u.live || u.standsAt r.at_
     | none => true)

/-- 01 R26, 07 R189, R190: the complete meetings of a gang take effect. A vote that goes to a slot without `TGT` raises 0x03 for the
members with a true guard, which are saved Ready at the `brp`; copies of a shadow thread that would part raise 0x51 (15 R397). Where several votes
fail together, the trap is that of the lowest lane and of those at its address, in one mask; the members of a vote at another address are left Ready at
their `brp` and raise theirs when it issues again (notes/assumptions/44.md). -/
def State.resolveOnce (s : State) (w g : Nat) : State :=
  let ts := s.gangThreads w g
  let l := s.launchOf w
  let mw := l.maskW
  let rs := syncRecs ts
  let done := (rs.filter fun x => xArrived ts mw x.1 x.2).map fun x => (x.1, x.2, xOutcome mw rs x.1 x.2)
  if done.isEmpty then s else
  let goes (x : Nat × SyncRec × XOut) : Option DWord :=
    if x.2.1.on && x.2.2.taken then (voteTarget x.2.1.instr).map (targetAddr x.2.1.at_) else none
  let bad := (done.filter fun x => match goes x with | some a => s.badTarget w a | none => false).map (·.1)
  let parts (x : Nat × SyncRec × XOut) : Bool := l.shadow && (voteTarget x.2.1.instr).isSome &&
    (done.all fun y => !(y.1 != x.1 && y.1 % mw == x.1 % mw) || goes y != goes x || y.2.1.on != x.2.1.on)
  let split := if bad.isEmpty then (done.filter parts).map (·.1) else []
  let mine (t : Thread) : Bool := t.wg == w && t.gang == g
  let move (t : Thread) : Thread :=
    match laneVal (done.map fun x => (x.1, x.2)) t.lane with
    | none => t
    | some (r, x) =>
      let u := { s.xWrite t r x with st := .ready, sync := none }
      if bad.contains t.lane then u
      else if split.contains t.lane then u.goto r.next r.past
      else match goes (t.lane, r, x) with
        | some a => u.jump a
        | none => u.goto r.next r.past
  let s1 := (s.updThreads mine move).settle w g
  let rest := (s.gang w g).reinject
  match (bad ++ split).head?.bind fun lane => (laneVal rs lane).map fun r => (lane, r) with
  | none => s1
  | some (_, r) =>
    let here := (bad ++ split).filter fun j => match laneVal rs j with | some q => q.at_ == r.at_ | none => false
    let s2 := s1.updGang w g fun x => { x with reinject := [] }
    if !bad.isEmpty then s2.takeTrap w g { cause := 0x03, pc := r.at_, mask := here, queue := rest }
    else
      let caps := here.filterMap fun j => (laneVal rs j).map fun q => ({ lane := j, a := q.a, b := q.mask, c := q.c } : Cap)
      s2.takeTrap w g { cause := 0x51, pc := r.at_, mask := here.filter fun j => j < mw
                        queue := { faulted := true, code := 0x51, pc := r.at_, mask := here, word := r.word, caps := caps } :: rest }

/-- `resolveOnce` while threads that move leave others complete. -/
def State.resolveGo (w g : Nat) : Nat → State → State
  | 0, s => s
  | n + 1, s =>
    let ts := s.gangThreads w g
    let rs := syncRecs ts
    if rs.any fun x => xArrived ts (s.launchOf w).maskW x.1 x.2 then State.resolveGo w g n (s.resolveOnce w g) else s

/-- 01 R26, 07 R189, R190: every complete meeting of a gang takes effect. Between the restore of an `iret` and its last step none does (15 R385). -/
def State.resolveSync (s : State) (w g : Nat) : State :=
  if (s.gang w g).returning then s else State.resolveGo w g (syncRecs (s.gangThreads w g)).length s

/-- A re-injected cross-lane instruction: the lanes of its entry meet without waiting (notes/assumptions/13.md), and the copies of a shadow thread are
compared at a vote (15 R397). -/
def State.crossAgain (s : State) (i : Instr) : State :=
  let mw := s.launch.maskW
  let caps := s.cur.caps.filter fun x => s.issued.any fun t => t.lane == x.lane
  let rec_ (c : Cap) : SyncRec :=
    { instr := i, at_ := s.cur.pc, next := s.cur.next, past := s.cur.past, mask := c.b % 2 ^ mw, on := true, a := c.a, c := c.c, word := s.cur.word }
  let rs := caps.map fun c => (c.lane, rec_ c)
  let outs := rs.map fun x => (x.1, x.2, xOutcome mw rs x.1 x.2)
  let tgt := (voteTarget i).map (targetAddr s.cur.pc)
  let bad := match tgt with
    | some a => if s.badTarget s.cur.wg a then (outs.filter fun x => x.2.2.taken).map (·.1) else []
    | none => []
  let goes (lane : Nat) : Option Bool := (outs.find? fun x => x.1 == lane).map fun x => x.2.2.taken
  let split := if s.launch.shadow && tgt.isSome then (List.range mw).filter fun j => goes j != goes (j + mw) else []
  if !bad.isEmpty then
    (s.updIssue fun t => if bad.contains t.lane then { t with pc := s.cur.pc, past := false } else t).trapOut 0x03 bad 0
  else if !split.isEmpty then s.trapIssue 0x51 split (lanesOf caps) caps 0 0
  else (s.updIssue fun t =>
    match laneVal (outs.map fun x => (x.1, x.2)) t.lane with
    | none => t
    | some (r, x) =>
      let u := s.xWrite t r x
      match x.taken, tgt with
      | true, some a => u.jump a
      | _, _ => u).settle s.cur.wg s.cur.gang

/-- 07 R212 to R214: THE shape of a cross-lane instruction and of `brp`: the threads of the issue become Synchronising with what they
bring, and the meetings of the gang that are complete take effect. -/
def State.cross (s : State) (i : Instr) (g : Guard) (k : Kinds) (a b c : Src) : State :=
  let mw := s.launch.maskW
  s.checked (s.capture g k a b c) fun s =>
    if s.cur.replay then s.crossAgain i
    else
      let arrive (t : Thread) : Thread :=
        let x := s.sources k a b c t
        { t with
          st := .sync
          sync := some { instr := i, at_ := t.pc, next := s.cur.next, past := s.cur.past, mask := x.b % 2 ^ mw
                         on := s.executes g t, a := x.a, c := x.c, word := s.cur.word } }
      let s1 := (s.updIssue arrive).resolveSync s.cur.wg s.cur.gang
      if s1.threads.any fun t => s.inIssue t && t.st == .sync then s1.endRun else s1

/-- A cross-lane instruction on values of its type. -/
def State.crossTy (s : State) (i : Instr) (o : Op) (c : Kind) : State :=
  s.cross i o.guard { a := .ty o.ty, b := s.maskKind, c := c } o.a o.b o.c

/-- A vote on a predicate. -/
def State.crossPred (s : State) (i : Instr) (o : Op) : State :=
  s.cross i o.guard { a := .pred, b := s.maskKind } o.a o.b o.c

/-- 07 R216: `xperm`. -/
def execXperm (o : Op) (s : State) : Outcome State Fault Refusal := .next (s.crossTy (.xperm o) o .n32)
/-- 07 R216: `xbc`. -/
def execXbc (o : Op) (s : State) : Outcome State Fault Refusal := .next (s.crossTy (.xbc o) o .n32)
/-- 07 R216: `xbc.first`. -/
def execXbcFirst (o : Op) (s : State) : Outcome State Fault Refusal := .next (s.crossTy (.xbcFirst o) o .unused)
/-- 07 R217, R218: `xred`. -/
def execXred (o : Op) (x : XOp) (s : State) : Outcome State Fault Refusal := .next (s.crossTy (.xred o x) o .unused)
/-- 07 R217, R219: `xscan`. -/
def execXscan (o : Op) (x : XOp) (excl : Bool) (s : State) : Outcome State Fault Refusal :=
  .next (s.crossTy (.xscan o x excl) o .unused)
/-- 07 R216: `xvote.any`. -/
def execXvoteAny (o : Op) (s : State) : Outcome State Fault Refusal := .next (s.crossPred (.xvoteAny o) o)
/-- 07 R216: `xvote.all`. -/
def execXvoteAll (o : Op) (s : State) : Outcome State Fault Refusal := .next (s.crossPred (.xvoteAll o) o)
/-- 07 R216: `xvote.ballot`. -/
def execXvoteBallot (o : Op) (s : State) : Outcome State Fault Refusal := .next (s.crossPred (.xvoteBallot o) o)
/-- 07 R216: `xmatch`. -/
def execXmatch (o : Op) (s : State) : Outcome State Fault Refusal := .next (s.crossTy (.xmatch o) o .unused)

/-- 07 R189: `brp.any`. -/
def execBrpAny (g : Guard) (p : Nat) (mask : Src) (t : Target) (s : State) : Outcome State Fault Refusal :=
  .next (s.cross (.brpAny g p mask t) g { a := .pred, b := s.maskKind } (.v p) mask (.v 0))
/-- 07 R189: `brp.all`. -/
def execBrpAll (g : Guard) (p : Nat) (mask : Src) (t : Target) (s : State) : Outcome State Fault Refusal :=
  .next (s.cross (.brpAll g p mask t) g { a := .pred, b := s.maskKind } (.v p) mask (.v 0))

/-! ### Random numbers -/

/-- 07 R221: `rng.next`. -/
def execRngNext (o : Op) (s : State) : Outcome State Fault Refusal :=
  .next (s.aluBy o (fun t => { lane := t.lane, a := 0, b := 0, c := 0 }) false (fun _ _ _ => (0, false))
    fun t _ _ => { t.writeDst o 1 ((rngStep t.rng).toNat / 2 ^ 32) with rng := rngStep t.rng })

/-- 07 R222: `rng.jump`. -/
def execRngJump (o : Op) (s : State) : Outcome State Fault Refusal :=
  .next (s.aluBy o (s.sources { a := .n64 } o.a o.b o.c) false (fun a _ _ => (a, false))
    fun t x _ => { t with rng := rngJump t.rng (BitVec.ofNat 64 x) })

end Sys2Proof.Machine
end

