-- ==== Sys2Proof/Machine/Phase.lean ====
section
/-! DEFINITION. Phase objects: their fields, the one atomic event on them (03 R104 to R106), version records (03 R102), and the
waking of the threads that wait (01 R17, 09 R266). -/

namespace Sys2Proof.Machine

/-- A phase object (03 R104). -/
structure PhaseObj where
  phase : Nat
  arrExp : Nat
  arrPend : Nat
  bytExp : Nat
  bytPend : Nat
  deriving DecidableEq, Repr, Inhabited

/-- 03 R104: the fields of 16 bytes. -/
def phaseOfNum (x : Nat) : PhaseObj :=
  { phase := bits x 31 0, arrExp := bits x 47 32, arrPend := bits x 63 48, bytExp := bits x 95 64, bytPend := bits x 127 96 }

/-- 03 R104: the 16 bytes of the fields. -/
def phaseToNum (o : PhaseObj) : Nat :=
  o.phase % 2 ^ 32 + 2 ^ 32 * (o.arrExp % 2 ^ 16) + 2 ^ 48 * (o.arrPend % 2 ^ 16) + 2 ^ 64 * (o.bytExp % 2 ^ 32) + 2 ^ 96 * (o.bytPend % 2 ^ 32)

/-- 03 R105, 09 R265: one event: both decrements stop at zero; with both counts zero the phase completes and both reload. -/
def phaseStep (o : PhaseObj) (cnt bytes : Nat) : PhaseObj × Bool :=
  let a := o.arrPend - cnt
  let b := o.bytPend - bytes
  if a == 0 && b == 0 then ({ o with phase := (o.phase + 1) % 2 ^ 32, arrPend := o.arrExp, bytPend := o.bytExp }, true)
  else ({ o with arrPend := a, bytPend := b }, false)

/-- 09 R264: what `phi` writes. -/
def phaseInit (arrive bytes : Nat) : PhaseObj :=
  { phase := 0, arrExp := min arrive 65535, arrPend := min arrive 65535, bytExp := bytes % 2 ^ 32, bytPend := bytes % 2 ^ 32 }

/-- 03 R106: `wph obj, n` is satisfied. -/
def phasePassed (phase n : Word) : Bool := 0 < (phase - n).toInt

/-- The 16 bytes of an object; a version record shows its step (03 R102). -/
def State.phaseNum (s : State) : PhaseRef → Nat
  | .loc w off => s.lsNum w off 16
  | .glb pa => ofBytesLE (s.homeBytes pa 16)
  | .ver d i => (s.stepOf d i).toNat

/-- The `PHASE` of an object. -/
def State.phaseAt (s : State) (r : PhaseRef) : Word := BitVec.ofNat 32 (s.phaseNum r)

/-- The `PHASE` of an object as the threads of a workgroup read it: a global one through their store buffer (04 R125). -/
def State.phaseSeen (s : State) (w : Nat) (r : PhaseRef) : Word :=
  match r with
  | .glb pa => if (s.wg w).sb.isEmpty then s.phaseAt r else BitVec.ofNat 32 (ofBytesLE (s.readThrough w pa 4))
  | r => s.phaseAt r

/-- What bytes hold after a write: no earlier release, and the write of a recorded access or of none. -/
def Hb.written (h : Hb) (a : SyncAt) (n : Nat) (item : Option Nat) : Hb :=
  match item with
  | some u => (h.cut a n).wrote a n u
  | none => (h.cut a n).settled a n

/-- Bytes written at a workgroup's port (03 R90), by a recorded access or another; a word written whole is no longer poisoned (03 R89), the bytes are defined,
and hold no earlier release. -/
def State.lsWrite (s : State) (w off : Nat) (bs : List Byte) (item : Option Nat := none) : State :=
  let s1 := s.noteOld (.loc w off) (getBytes (s.wg w).ls off bs.length) item
  { s1.updWg w (fun x => { x with
      ls := setBytes x.ls off bs
      undef := cutRange x.undef off bs.length
      poison := x.poison.filter fun k => !(off ≤ 8 * k && 8 * k + 8 ≤ off + bs.length) }) with hb := s1.hb.written (.loc w off) bs.length item }

/-- Whether a range of a local store touches an uncorrectable word. -/
def Wg.lsBad (w : Wg) (off n : Nat) : Bool := w.poison.any fun k => overlap (8 * k) 8 off n

/-- Bytes written to package memory at their home, by a recorded access or another. -/
def State.homeWrite (s : State) (pa : Nat) (bs : List Byte) (item : Option Nat := none) : State :=
  let s1 := (s.recall pa bs.length).writeMem pa bs item
  { s1 with hb := s1.hb.written (.mem pa) bs.length item }

/-- The 16 bytes of an object replaced by a recorded access; version records change only by their own rules. -/
def State.setPhaseNum (s : State) (r : PhaseRef) (x item : Nat) : State :=
  match r with
  | .loc w off => s.lsWrite w off (toBytesLE x 16) (some item)
  | .glb pa => s.homeWrite pa (toBytesLE x 16) (some item)
  | .ver .. => s

/-- 13 R337, R344: whether a partition owns the granules of an object that it named. What it lost a thread or a unit of it neither reads nor changes
(notes/assumptions/57.md). -/
def State.objOwned (s : State) (p : Nat) (r : PhaseRef) : Bool :=
  match r with
  | .glb k => s.holdsRange p k 16
  | _ => true

/-- 04 R127: an object as a thread's access meets it: bytes of an engine operation whose completion the thread has not acquired are undefined. -/
def State.raceObj (s : State) (who : Agent) (r : PhaseRef) : State :=
  match r.sync with
  | some a => s.raceBytes who a 16
  | none => s

/-- 09 R266, 04 R127: the `PHASE` of an object as a thread tests it. -/
def State.phaseBy (s : State) (w g l : Nat) (r : PhaseRef) : Word := (s.raceObj (s.agent w g l) r).phaseSeen w r

/-- Whether a waiting thread of a workgroup on a core waits on an object that a test holds of (09 R266); a switched-out one is tested at switch-in (01 R43),
and one that its handler has just restored in the last step of the `iret` (15 R385). -/
def State.tests (s : State) (t : Thread) (p : WaitRec → Bool) : Bool :=
  t.st == .waiting && (s.wg t.wg).st != .switchedOut && !(s.gang t.wg t.gang).returning && (t.wait.map p).getD false

/-- 09 R266, 13 R337: whether such a thread may go on: its partition still owns the object, and the test holds. -/
def State.mayWake (s : State) (r : PhaseRef) (t : Thread) : Bool :=
  s.tests t fun x => x.obj == r && s.objOwned (s.partOf t.wg) r && phasePassed (s.phaseBy t.wg t.gang t.lane r) x.n

/-- A waiting thread goes on after its `wph`; one whose program counter its handler has changed goes on there. -/
def Thread.resumeWait (t : Thread) : Thread :=
  match t.wait with
  | some x => if t.pc == x.at_ then { t.goto x.next x.past with st := .ready, wait := none } else { t with st := .ready, wait := none }
  | none => { t with st := .ready }

/-- 04 R120: a thread whose `wph` is satisfied acquires what its object's completions released. -/
def State.passWait (s : State) (t : Thread) : State :=
  match t.wait with
  | some x => { s with hb := s.hb.passed (s.agent t.wg t.gang t.lane) x.obj }
  | none => s

/-- The waiting threads that satisfy a test go on, each after its acquire (01 R17, R29). -/
def State.wakeIf (s : State) (p : Thread → Bool) : State :=
  let ts := s.threads.filter p
  let s1 := s.updThreads p Thread.resumeWait
  ts.foldl (fun s t => ((s.passWait t).settle t.wg t.gang).resolveSync t.wg t.gang) s1

/-- 09 R266: the threads waiting on an object are tested. -/
def State.wake (s : State) (r : PhaseRef) : State := s.wakeIf (s.mayWake r)

/-- 03 R89: whether a test of a waiting thread reads an uncorrectable object. -/
def State.readsBad (s : State) (t : Thread) : Bool :=
  s.tests t fun x => match x.obj with
    | .loc w off => (s.wg w).lsBad off 16
    | _ => false

/-- 09 R266, 15 R385, 01 R43: the waiting threads of some set are tested again, where they were not while their objects changed. One that reads an uncorrectable
object kills its cluster (03 R89). -/
def State.testAgain (s : State) (p : Thread → Bool) : State :=
  match s.threads.find? fun t => p t && s.readsBad t with
  | some t => s.kill t.wg 0x52
  | none => s.wakeIf fun t => p t && match t.wait with
    | some x => s.mayWake x.obj t
    | none => false

/-- What an event on an object gives: the state, the phase it counted toward, and whether it completed that phase. -/
structure PhaseOut where
  st : State
  phase : Word
  done : Bool
  deriving DecidableEq, Repr

/-- 03 R107: the bytes of an object that a buffer holds from stores which race with an event on it are undefined, until they are applied and after. -/
def State.freeBuffered (s : State) (r : PhaseRef) (known : List Nat) : State :=
  let raced (e : SbEntry) (i : Nat) : Bool := !known.contains e.item && (match r.sync, e.dest with
    | some (.mem k), .mem a => k ≤ a + i && a + i < k + 16
    | _, _ => false)
  let f (e : SbEntry) : SbEntry := { e with bytes := e.bytes.zipIdx.map fun x => if raced e x.2 then (s.free [38, e.uid, x.2]).truncate 8 else x.1 }
  { s with wgs := s.wgs.map fun w => { w with sb := w.sb.map f } }

/-- 03 R107: what an event, by an agent that knows some accesses, finds: a store that is not among them races with it, and leaves the object undefined. -/
def State.eventRaces (s : State) (h : Hb) (r : PhaseRef) (known : List Nat) : State :=
  if h.storeRace r known then (s.wildObj r).freeBuffered r known else s

/-- Who makes an event, as `HbItem` records it: nobody for a unit of the package. -/
def Agent.parts : Agent → Nat × Nat × List Nat
  | .thread _ w g l => (w, g, [l])
  | _ => (0, 0, [])

/-- 03 R105 to R107: an event leaves an object with some bytes, and the waiting threads are tested. `ev` says who makes it, and what happens-before it, which its
completion releases at the object's scope. `own` says whether it is a thread's own access. -/
def State.eventAt (s : State) (r : PhaseRef) (num : Nat) (done : Bool) (ev : Agent × List Nat) (own : Bool := false) : State :=
  let (w, g, lanes) := if own then ev.1.parts else (0, 0, [])
  let s1 := (s.hbAdd w g lanes (.event r)).setPhaseNum r num s.uid
  let s2 := { s1 with hb := { s1.hb with fresh := s.hb.fresh } }.eventRaces s.hb r ev.2
  let s3 := match r.sync with
    | some a => if own then s2.spoil a 16 s.uid else s2.unitSpoil a 16 s.uid
    | none => s2
  { s3 with hb := s3.hb.arrive r { by_ := ev.1, rank := r.rank, pubs := s.uid :: ev.2 } done }.wake r

/-- 03 R105: THE event on a phase object: decrements, completion and reload. -/
def State.phaseEvent (s : State) (r : PhaseRef) (cnt bytes : Nat) (ev : Agent × List Nat := (.unit, [])) (own : Bool := false) : PhaseOut :=
  let o := phaseOfNum (s.phaseNum r)
  let (o', done) := phaseStep o cnt bytes
  { st := s.eventAt r (phaseToNum o') done ev own, phase := BitVec.ofNat 32 o.phase, done := done }

/-- The state that an event on an object leaves. -/
def State.arrive (s : State) (r : PhaseRef) (cnt bytes : Nat) (ev : Agent × List Nat := (.unit, [])) : State := (s.phaseEvent r cnt bytes ev).st

/-- 15 R385: the last step of an `iret`, once no trap is pending and every entry has been put back: Held, Synchronising and Waiting threads are
evaluated again. -/
def State.finishReturn (s : State) (w g : Nat) : State :=
  let x := s.gang w g
  if !x.returning || !x.reinject.isEmpty || !x.pend.isEmpty then s
  else
    let stands (t : Thread) : Bool := t.wg == w && t.gang == g && t.st == .held
    let s1 := ((s.updThreads stands fun t => { t with st := .ready }).updGang w g fun y => { y with returning := false }).settle w g
    ((s1.testAgain fun t => t.wg == w && t.gang == g).resolveSync w g).drainIfDone w

/-- 01 R31: a run of a gang ends once one of its threads holds. -/
def State.holdEndsRun (s : State) (w g : Nat) : State :=
  let held (r : Run) : Bool := r.wg == w && r.gang == g && s.threads.any fun t => t.wg == w && t.gang == g && r.lanes.contains t.lane && t.st == .held
  match s.sliceOf w g with
  | some x => if x.runs.any held then s.updSlice w g fun x => { x with runs := x.runs.filter fun r => !held r } else s
  | none => s

/-- What follows an issue of a gang, besides its instruction: meetings that it has completed (01 R26), the last step of an `iret` (15 R385), the end
of a run by a hold (01 R31). -/
def State.afterIssue (s : State) (w g : Nat) : State := ((s.resolveSync w g).finishReturn w g).holdEndsRun w g

end Sys2Proof.Machine
end

