-- ==== Sys2Proof/Machine/Control.lean ====
section
/-! DEFINITION. Control flow (spec/07 R185 to R194, spec/01 R20 to R22). -/

namespace Sys2Proof.Machine

open Host (Outcome)

/-- The captures of an instruction that reads no source. -/
def State.captureNone (s : State) (g : Guard) : List Cap := s.capture g {} (.v 0) (.v 0) (.v 0)

/-- `pairBy` of an instruction that reads no source (15 R397). -/
def State.pairNone (s : State) (g : Guard) : List Cap := s.pairBy g (s.sources {} (.v 0) (.v 0) (.v 0))

/-- 06 R154: whether a target is not a slot with `TGT` set. -/
def State.noTarget (s : State) (pc : DWord) : Bool := s.badTarget s.cur.wg pc

/-- The threads of the current issue that a test names go to addresses; the others advance. A re-injected branch moves its
threads too (notes/assumptions/11.md). -/
def State.transfer (s : State) (f : Thread → Option Thread) : State :=
  let s1 := s.updIssue fun t =>
    match f t with
    | some u => u
    | none => if s.cur.replay then t else t.goto s.cur.next s.cur.past
  s1.settle s.cur.wg s.cur.gang

/-- 07 R193: `nop`. -/
def execNop (s : State) : Outcome State Fault Refusal := .next s.advance

/-- 06 R169, R170: the compact `nop`. -/
def execNopCompact (s : State) : Outcome State Fault Refusal := .next s.advance

/-- 07 R186: `br`. -/
def execBr (g : Guard) (t : Target) (s : State) : Outcome State Fault Refusal :=
  let caps := s.captureNone g
  let dest := targetAddr s.cur.pc t
  .next (s.acting caps (pair := s.pairNone g) fun s =>
    if !caps.isEmpty && s.noTarget dest then s.faultLanes caps (0x03, lanesOf caps, 0)
    else if caps.isEmpty then s.advance
    else (s.transfer fun u => if (lanesOf caps).contains u.lane then some (u.jump dest) else none).endRun)

/-- 07 R187: `call`. The continuation is the next slot. -/
def execCall (g : Guard) (t : Target) (s : State) : Outcome State Fault Refusal :=
  let caps := s.captureNone g
  let dest := targetAddr s.cur.pc t
  .next (s.acting caps (pair := s.pairNone g) fun s =>
    let bad := s.noTarget dest
    let depth := s.issued.filter fun u => (lanesOf caps).contains u.lane && 16 ≤ u.ret.length
    let fs : List (Nat × Nat × DWord) := caps.filterMap fun c =>
      if depth.any fun u => u.lane == c.lane then some (c.lane, 0x05, 0) else if bad then some (c.lane, 0x03, 0) else none
    match lowestFault fs with
    | some f => s.faultLanes caps f
    | none =>
      if caps.isEmpty then s.advance
      else (s.transfer fun u =>
        if (lanesOf caps).contains u.lane then some ({ u with ret := (s.cur.next, s.cur.past) :: u.ret }.jump dest) else none).endRun)

/-- 01 R17, 07 R190: a thread becomes Exited. -/
def Thread.leave (t : Thread) : Thread := { t with st := .exited, sync := none, wait := none, block := .none }

/-- 07 R190, 15 R386: the lanes that exit, at kernel level, with what their leaving completes; at handler level it is a double fault, whose
recorded cause the spec does not state. -/
def State.leaving (s : State) (lanes : List Nat) (f : Thread → Option Thread) : State :=
  let w := s.cur.wg
  let g := s.cur.gang
  if (s.gang w g).handler && !lanes.isEmpty then s.kernelError w 1 ((s.free [6]).toNat % 256)
  else
    let s1 := s.transfer fun t => if lanes.contains t.lane then some t.leave else f t
    let s2 := if lanes.isEmpty then s1 else s1.endRun
    ((s2.settle w g).resolveSync w g).drainIfDone w

/-- 07 R190: `exit`. -/
def execExit (g : Guard) (s : State) : Outcome State Fault Refusal :=
  let caps := s.captureNone g
  .next (s.checked caps fun s => s.leaving (lanesOf caps) fun _ => none)

/-- 07 R188: `ret`. A continuation beyond the last line raises 0x01 when it is reached (06 R153). -/
def execRet (g : Guard) (s : State) : Outcome State Fault Refusal :=
  let caps := s.captureNone g
  let runs (t : Thread) : Bool := (lanesOf caps).contains t.lane
  .next (s.acting caps (pair := s.pairNone g) fun s =>
    let bad := s.issued.filter fun t => runs t && (match t.ret with | (a, past) :: _ => !past && s.noTarget a | [] => false)
    let badLanes := bad.map (·.lane)
    if !bad.isEmpty then
      (s.updIssue fun t => if badLanes.contains t.lane then { t with ret := t.ret.tail } else t).faultLanes caps (0x03, badLanes, 0)
    else
      let out := (s.issued.filter fun t => runs t && t.ret.isEmpty).map (·.lane)
      let s1 := s.leaving out fun t => match runs t, t.ret with
        | true, (a, past) :: r => some { { t with ret := r }.jump a with past := past }
        | _, _ => none
      if caps.isEmpty then s1 else s1.endRun)

/-- 07 R191, 01 R20: `meet`. -/
def execMeet (g : Guard) (t : Target) (s : State) : Outcome State Fault Refusal :=
  let caps := s.captureNone g
  let dest := targetAddr s.cur.pc t
  .next (s.checked caps fun s =>
    if !caps.isEmpty && s.noTarget dest then s.faultLanes caps (0x03, lanesOf caps, 0)
    else
      let s1 := s.updIssue fun u => if (lanesOf caps).contains u.lane then { u with mt := some dest } else u
      s1.advance.settle s.cur.wg s.cur.gang)

/-- 07 R191: `meet.clr`. -/
def execMeetClr (g : Guard) (s : State) : Outcome State Fault Refusal :=
  let caps := s.captureNone g
  .next (s.checked caps fun s =>
    let s1 := s.updIssue fun u => if (lanesOf caps).contains u.lane then { u with mt := none } else u
    s1.advance.settle s.cur.wg s.cur.gang)

/-- 07 R192: `yield`: another Ready gang of the slice issues before this one does. -/
def execYield (g : Guard) (s : State) : Outcome State Fault Refusal :=
  let caps := s.captureNone g
  .next (s.checked caps fun s =>
    if caps.isEmpty then s.advance
    else s.advance.updSlice s.cur.wg s.cur.gang fun x => { x with runs := [], yielded := true })

/-- 07 R194: `trap`: 0x7F with the code, after the instruction. -/
def execTrap (g : Guard) (code : Nat) (s : State) : Outcome State Fault Refusal :=
  let caps := s.captureNone g
  .next (s.checked caps fun s => if caps.isEmpty then s.advance else s.advance.trapOut 0x7F (lanesOf caps) (code % 256))

end Sys2Proof.Machine
end

