-- ==== Sys2Proof/Machine/Access.lean ====
section
/-! DEFINITION. The addresses of memory instructions: their checks in order (03 R85, R86, 09 R245), the bytes at a place, the release
and acquire sides of an order (04 R119, 09 R262), and requests that leave the package. -/

namespace Sys2Proof.Machine

/-- Bytes of a workgroup's local-store allocation (03 R87). -/
def State.lsSize (s : State) (w : Nat) : Nat := (s.launchOf w).lskib * 1024

/-- 01 R34: workgroups per cluster. -/
def Launch.clsize (l : Launch) : Nat := l.cwx * l.cwy * l.cwz

/-- The workgroup of a rank in the cluster of a workgroup. -/
def State.mate (s : State) (w rank : Nat) : Option Wg := (s.clusterWgs (s.wg w).cluster).find? fun x => x.rank == rank

/-- 03 R85, R86, 09 R245: a local-store address checked for an access of `n` bytes: the cause, or the place. -/
def State.placeLoc (s : State) (w a n : Nat) : Except Nat Place :=
  if a % n != 0 then .error 0x18
  else if 2 ^ 22 ≤ a || s.lsSize w < a + n then .error 0x19
  else .ok (.loc w a)

/-- 03 R85, R86: a neighbour address. -/
def State.placeNbr (s : State) (w a n : Nat) : Except Nat Place :=
  let rank := bits a 25 24
  if bits a 31 26 != 0 || bits a 23 22 != 0 || (s.launchOf w).clsize ≤ rank then .error 0x1A
  else if a % n != 0 then .error 0x18
  else match s.mate w rank with
    | none => .error 0x1A
    | some x => if s.lsSize w < bits a 21 0 + n then .error 0x19 else .ok (.loc x.uid (bits a 21 0))

/-- 03 R85, R86, 16 R400: a global address. -/
def State.placeGlb (s : State) (w a n : Nat) (acc : Acc) : Except Nat Place :=
  if 2 ^ 52 ≤ a then .error 0x17
  else if a % n != 0 then .error 0x18
  else match s.xlate (unitCore (s.wg w).core) (s.partOf w) a acc with
    | .error c => .error c
    | .ok e => .ok (.mem (e.key a) e.vers)

/-- 03 R85, R86: a host-window address. -/
def State.placeWin (s : State) (w a n : Nat) : Except Nat Place :=
  match (s.part (s.partOf w)).windows.find? fun x => x.idx == a / 2 ^ 58 with
  | none => .error 0x1B
  | some x =>
    if bits a 57 48 != 0 then .error 0x1B
    else if a % n != 0 then .error 0x18
    else if x.size < bits a 47 0 + n then .error 0x1B
    else .ok (.win x.idx (bits a 47 0) x.haddr)

/-- 09 R245: an address of a space checked for an access of `n` bytes. -/
def State.place (s : State) (sp : Space) (acc : Acc) (w a n : Nat) : Except Nat Place :=
  match sp with
  | .loc => s.placeLoc w a n
  | .nbr => s.placeNbr w a n
  | .glb => s.placeGlb w a n acc
  | .ver => match s.placeGlb w a n acc with
    | .ok (.mem _ none) => .error 0x1C
    | r => r
  | .host => s.placeWin w a n

/-- A lane with its sources and the place of its access. -/
structure LaneRef where
  cap : Cap
  place : Place
  deriving DecidableEq, Repr, Inhabited

/-- The places of the lanes whose address passes. -/
def placed (f : Cap → Except Nat Place) (caps : List Cap) : List LaneRef :=
  caps.filterMap fun c => match f c with
    | .ok p => some { cap := c, place := p }
    | .error _ => none

/-- The causes of the lanes whose address does not. -/
def failed (f : Cap → Except Nat Place) (addr : Cap → Nat) (caps : List Cap) : List (Nat × Nat × DWord) :=
  caps.filterMap fun c => match f c with
    | .ok _ => none
    | .error k => some (c.lane, k, BitVec.ofNat 64 (addr c))

/-- 16 R403: the translations that lanes used, kept. -/
def State.cacheLanes (s : State) (sp : Space) (addr : Cap → Nat) (caps : List Cap) : State :=
  match sp with
  | .glb | .ver => caps.foldl (fun s c => s.cache (unitCore s.core) s.curPart (addr c)) s
  | _ => s

/-- 16 R417: the held words of the lines that the walks of lanes read, given back. -/
def State.recallLanes (s : State) (sp : Space) (addr : Cap → Nat) (caps : List Cap) : State :=
  match sp with
  | .glb | .ver => caps.foldl (fun s c => s.walkRecall (unitCore s.core) s.curPart (addr c)) s
  | _ => s

/-- 09 R245, 15 R379: every lane's address checked; any failure traps precisely and no access takes effect. -/
def State.withPlaces (s : State) (sp : Space) (acc : Acc) (n : Nat) (addr : Cap → Nat) (caps : List Cap)
    (k : State → List LaneRef → State) : State :=
  let f := fun c => s.place sp acc s.cur.wg (addr c) n
  match lowestFault (failed f addr caps) with
  | some e => (s.recallLanes sp addr caps).faultLanes caps e
  | none => k (s.cacheLanes sp addr caps) (placed f caps)

/-- 03 R89, 15 R392: an access that reads an uncorrectable local-store word kills the cluster. -/
def State.unpoisoned (s : State) (n : Nat) (refs : List LaneRef) (k : State → State) : State :=
  if refs.any fun r => match r.place with
    | .loc w off => (s.wg w).lsBad off n
    | _ => false
  then s.kill s.cur.wg 0x52 else k s

/-! ### Bytes at a place -/

/-- A partition's open window. -/
def State.window (s : State) (p i : Nat) : Window := ((s.part p).windows.find? fun x => x.idx == i).getD default

/-- 03 R98, 16 R413: the window of a place, while it is the one that the address was checked in: not one opened under its number since. -/
def State.windowOf (s : State) (p i host : Nat) : Option Window := (s.part p).windows.find? fun x => x.idx == i && x.haddr == host

/-- Whether a byte of a window is staged. -/
def State.staged (s : State) (p i off host : Nat) : Bool :=
  match s.windowOf p i host with
  | some x => s.windowOwned p x && s.marked x off
  | none => false

/-- 03 R98, 16 R413: a byte of a host window: buffered, staged, or in host memory. -/
def State.winByte (s : State) (w i off host : Nat) : Byte :=
  match sbByte (s.wg w).sb (.win i off) with
  | some b => b
  | none => if s.staged (s.partOf w) i off host then s.homeByte ((s.window (s.partOf w) i).shadow + off) else getByte s.hostMem (host + off)

/-- Where the bytes of a place synchronise. -/
def State.placeSync (_ : State) : Place → SyncAt
  | .loc w off => .loc w off
  | .mem k _ => .mem k
  | .win _ off host => .host (host + off)

/-- 04 R118: a lane of the current gang as an agent. -/
def State.me (s : State) (lane : Nat) : Agent := s.agent s.cur.wg s.cur.gang lane

/-- The bytes that a lane of the current issue reads at a place; those of an engine operation whose completion it has not acquired are undefined
(04 R127). -/
def State.bytesAt (s : State) (lane : Nat) (p : Place) (n : Nat) : List Byte :=
  let bs := match p with
    | .loc x off => s.lsRead x off n
    | .mem k _ => s.readThrough s.cur.wg k n
    | .win i off host => (List.range n).map fun j => s.winByte s.cur.wg i (off + j) host
  if !s.hb.racing (s.me lane) (s.placeSync p) n then bs
  else bs.zipIdx.map fun (b, i) =>
    if s.hb.racing (s.me lane) ((s.placeSync p).shift i) 1 then (s.free [16, lane, i]).truncate 8 else b

/-- Whether a byte of a peer is neither buffered nor valid in the RDC of a die. -/
def State.absent (s : State) (w k : Nat) : Bool :=
  (sbByte (s.wg w).sb (.mem k)).isNone && (match s.rdcLine? ((s.wg w).core / 16) (s.partOf w) (lineOf k) with
    | some l => !l.has (k % 128)
    | none => true)

/-- Whether reading a place asks something outside the package: a peer's bytes that the RDC of the die does not hold, or unmarked window bytes. -/
def State.leaves (s : State) (w : Nat) (p : Place) (n : Nat) : Bool :=
  match p with
  | .loc .. => false
  | .mem k _ => isPeer k && (List.range n).any fun i => s.absent w (k + i)
  | .win i off host => (List.range n).any fun j =>
      (sbByte (s.wg w).sb (.win i (off + j))).isNone && !s.staged (s.partOf w) i (off + j) host

/-- The step tag that a fill of a page takes (03 R101). -/
def State.fillTag (s : State) (k : Nat) (vers : Option Nat) : Word :=
  match vers with
  | some i => s.stepOf (homeOf k) i
  | none => 0

/-- The line of a peer that a place needs, filled into the die's RDC by the answer of a request. -/
def State.fillPlace (s : State) (p : Place) : State :=
  match p with
  | .mem k v => if isPeer k then (s.rdcRoom s.die s.curPart (lineOf k)).rdcFill s.die s.curPart (lineOf k) (s.fillTag k v) else s
  | _ => s

/-- 16 R417: held words are recalled before an access to a place: to a line homed here, or to the shadow and the map of a window. -/
def State.recallAt (s : State) (p : Place) (n : Nat) : State :=
  match p with
  | .mem k _ => if isPeer k then s else s.recall k n
  | .win i off host => match s.windowOf s.curPart i host with
    | some x => if s.windowOwned s.curPart x then s.recallWindow x off n else s
    | none => s
  | .loc .. => s

/-- The span of the leaf that an address of the current workgroup is translated by (16 R405). -/
def State.leafSpan (s : State) (a : Nat) : Nat × Nat :=
  match s.leaf (unitCore s.core) s.curPart a with
  | .ok e => (e.va, e.span)
  | .error _ => (a, 1)

/-- A request outside the package: the gang waits for the answers of the lanes whose place leaves it, and what the others have got is kept. -/
def State.ask (s : State) (i : Instr) (caps : List Cap) (addr : Cap → Nat) (out : List LaneRef) (got : List (Nat × Option Nat)) : State :=
  let r : IoReq :=
    { id := s.uid, instr := i, issue := s.cur, caps := caps, waits := out.map (fun x => (x.cap.lane, x.place)), got := got
      spans := (out.filter fun x => match x.place with | .mem .. => true | _ => false).map fun x => s.leafSpan (addr x.cap) }
  { s with uid := s.uid + 1, io := s.io ++ [r] }.updIssue fun t => { t with block := .io s.uid }

/-! ### Orders and scopes -/

/-- Whether an order releases. -/
def isRelease (o : Order) : Bool := o == .rel || o == .acqRel
/-- Whether an order acquires. -/
def isAcquire (o : Order) : Bool := o == .acq || o == .acqRel

/-- 04 R122: the accesses that happen-before what a lane of the current gang does next. -/
def State.knownBy (s : State) (lane : Nat) : List Nat := s.hb.known (s.me lane)

/-- The rank of the scope of a side of an order; that of `.t`, which orders nothing, where the order has not that side. -/
def sideRank (b : Bool) (scope : Scope) : Nat := if b then scopeRank scope else 0

/-- 04 R119: the releases that the write of a lane with an order makes. -/
def State.pubsOf (s : State) (order : Order) (scope : Scope) (lane : Nat) : List Release :=
  s.hb.pubs (s.me lane) (sideRank (isRelease order) scope)

/-- 04 R119 to R121: a lane's read of a place, whose bytes hold some releasing writes, with an order, in both copies of a shadow thread (15 R397): it acquires, and a later
fence does. -/
def State.readSync (s : State) (tags : List SyncTag) (order : Order) (scope : Scope) (lane : Nat) (p : Place) (n : Nat) : State :=
  let rs := readTags tags (s.placeSync p) n
  let k := sideRank (isAcquire order) scope
  { s with hb := (s.copies lane).foldl (fun h l => (if k == 0 then h else h.acquire (s.me l) k rs).observe (s.me l) 1 rs) s.hb }

/-- 04 R120: a lane's load of a place: what it reads holds the releasing writes of the buffer, of the RDC line or of the home. -/
def State.loadSync (s : State) (lane : Nat) (p : Place) (n : Nat) : State :=
  s.readSync (s.tagsThrough s.cur.wg (s.placeSync p)) .rlx .t lane p n

/-- 04 R125, 15 R388, 09 R262: what a release at a scope does before its write: at `.cl` or wider a commit point, at `.pod` or wider the dirty bytes of
peer-homed lines too; and whether that is complete. -/
def State.released (s : State) (order : Order) (scope : Scope) : State × Bool :=
  if !isRelease order || scopeRank scope < 3 then (s, true)
  else
    let s1 := s.commit s.cur.wg
    if !s1.committedAll s.cur.wg then (s1, false)
    else (if 5 ≤ scopeRank scope then s1.rdcWriteBack fun _ => true else s1, true)

/-- 04 R125, 15 R388: a commit point of the current workgroup, which waits at its instruction while an entry is held. -/
def State.committing (s : State) (k : State → State) : State :=
  let s1 := s.commit s.cur.wg
  if s1.committedAll s.cur.wg then k s1 else s1.waitHere

/-- 04 R119, R125, 09 R262: the release side of an order at a scope, before the effect; the instruction waits while it cannot be completed. -/
def State.releasing (s : State) (order : Order) (scope : Scope) (lanes : List Nat) (k : State → State) : State :=
  if lanes.isEmpty then k s
  else
    let (s1, ok) := s.released order scope
    if ok then k s1 else s1.waitHere

/-- 09 R262: the acquire side of an order at a scope, after the effect. -/
def State.acquiring (s : State) (order : Order) (scope : Scope) (lanes : List Nat) : State :=
  if isAcquire order && !lanes.isEmpty && 5 ≤ scopeRank scope then s.rdcAcquire s.die else s

/-- 01 R29, 04 R125: a release at `.cl` or wider by an instruction that makes one: a commit point. -/
def State.releasingObj (s : State) (lanes : List Nat) (k : State → State) : State := s.releasing .rel .pkg lanes k

/-- A free order of lanes (09 R252, R260, R265, R268): each lane has a free key, and lanes go by rising keys. -/
def State.freeOrder {α : Type} (s : State) (site : Nat) (lane : α → Nat) (l : List α) : List α :=
  match l with
  | [] => []
  | [x] => [x]
  | l =>
    let key (x : α) : Nat := (s.free [7, site, lane x]).toNat
    let before (x y : α) : Bool := key x < key y || (key x == key y && lane x < lane y)
    l.foldl (fun acc x => acc.takeWhile (fun y => before y x) ++ x :: acc.dropWhile (fun y => before y x)) []

end Sys2Proof.Machine
end

