-- ==== Sys2Proof/Machine/LoadStore.lean ====
section
/-! DEFINITION. Loads and stores of every space (spec/09 R243 to R249) and the uniform writes `gmov` and `gld`, with `sreg`
(spec/07 R209 to R211, spec/01 R29, R34). -/

namespace Sys2Proof.Machine

open Host (Outcome)

/-- 09 R245: base plus offset, in the address width. -/
def effAddr (wide : Bool) (c : Cap) : Nat := zext ((c.a : Int) + sext c.b 32) (if wide then 64 else 32)

/-- 09 R244: the register image of loaded bytes. -/
def widen (w : Width) (x : Nat) : Nat :=
  match w with
  | .s8 => zext (sext x 8) 32
  | .s16 => zext (sext x 16) 32
  | _ => x

/-- 09 R244: the registers of an access. -/
def widthWords : Width → Nat
  | .b64 => 2
  | .b128 => 4
  | _ => 1

/-- 03 R85: whether a space has 64-bit addresses. -/
def wideSpace : Space → Bool
  | .loc | .nbr => false
  | _ => true

/-- The kinds of the sources of a load. -/
def loadKinds (sp : Space) (c : Kind) : Kinds := { a := if wideSpace sp then .n64 else .n32, b := .s32, c := c }

/-- 09 R249, 03 R101: the step that serves an `ldv`: the tag of an RDC line of a peer's page, else the record at the home. -/
def State.stepSeen (s : State) (r : LaneRef) : Word :=
  match r.place with
  | .mem k (some i) =>
    match (if isPeer k then s.rdcLine? s.die s.curPart (lineOf k) else none) with
    | some l => if l.full then l.tag else s.stepOf (homeOf k) i
    | none => s.stepOf (homeOf k) i
  | _ => 0

/-- 09 R249: whether an `ldv` is refused. -/
def State.refused (s : State) (sp : Space) (r : LaneRef) : Bool := sp == .ver && s.stepSeen r < BitVec.ofNat 32 r.cap.c

/-- 09 R244, R246, R249: what a lane's load reads: nothing for a refused `ldv`. -/
def State.loadVal (s : State) (sp : Space) (w : Width) (r : LaneRef) : Option Nat :=
  if s.refused sp r then none else some (widen w (ofBytesLE (s.bytesAt r.cap.lane r.place (WF.widthBytes w))))

/-- 04 R119, R132: an `ldv` that returns data observes the actions that raised its page's step. -/
def State.observeStep (s : State) (sp : Space) (r : LaneRef) : State :=
  match sp, r.place with
  | .ver, .mem k (some i) => { s with hb := s.hb.observe (s.me r.cap.lane) 4 (s.hb.phase (.ver (homeOf k) i)).done }
  | _, _ => s

/-- One lane's load; its value is added to the results. -/
def State.loadLane (sp : Space) (w : Width) (x : State × List (Nat × Option Nat)) (r : LaneRef) : State × List (Nat × Option Nat) :=
  let s := x.1.recallAt r.place (WF.widthBytes w)
  match s.loadVal sp w r with
  | none => (s, x.2 ++ [(r.cap.lane, none)])
  | some v => ((s.loadSync r.cap.lane r.place (WF.widthBytes w)).observeStep sp r, x.2 ++ [(r.cap.lane, some v)])

/-- 09 R244 to R249: the loaded values written; a refused `ldv` only clears its predicate. -/
def State.loadDone (s : State) (o : Op) (w : Width) (got : List (Nat × Option Nat)) : State :=
  (s.updIssue fun t =>
    match laneVal got t.lane with
    | none => t
    | some none => t.setPred o.d2 false
    | some (some v) => (t.writeDst o (widthWords w) v).setPred o.d2 true).advance

/-- 03 R101: whether an `ldv` must fetch its line: the RDC holds no filled copy, or its copy carries too low a tag. -/
def State.staleTag (s : State) (sp : Space) (r : LaneRef) : Bool :=
  match sp, r.place with
  | .ver, .mem k _ => isPeer k && (s.refused sp r || !((s.rdcLine? s.die s.curPart (lineOf k)).map RdcLine.full).getD false)
  | _, _ => false

/-- 09 R243 to R249: a load. -/
def State.loadOp (s : State) (i : Instr) (sp : Space) (o : Op) (w : Width) : State :=
  let caps := s.captureOp (loadKinds sp (if sp == .ver then .n32 else .unused)) o
  s.checked caps fun s =>
    s.withPlaces sp .read (WF.widthBytes w) (effAddr (wideSpace sp)) caps fun s refs =>
      s.unpoisoned (WF.widthBytes w) refs fun s =>
        let outside (r : LaneRef) : Bool := s.leaves s.cur.wg r.place (WF.widthBytes w) || s.staleTag sp r
        let (s1, got) := (refs.filter fun r => !outside r).foldl (State.loadLane sp w) (s, [])
        if refs.any outside then s1.ask i caps (effAddr (wideSpace sp)) (refs.filter outside) got else s1.loadDone o w got

/-- 09 R243: `ldg`. -/
def execLdg (o : Op) (w : Width) (s : State) : Outcome State Fault Refusal := .next (s.loadOp (.ldg o w) .glb o w)
/-- 09 R243: `ldl`. -/
def execLdl (o : Op) (w : Width) (s : State) : Outcome State Fault Refusal := .next (s.loadOp (.ldl o w) .loc o w)
/-- 09 R243: `ldn`. -/
def execLdn (o : Op) (w : Width) (s : State) : Outcome State Fault Refusal := .next (s.loadOp (.ldn o w) .nbr o w)
/-- 09 R243: `ldh`. -/
def execLdh (o : Op) (w : Width) (s : State) : Outcome State Fault Refusal := .next (s.loadOp (.ldh o w) .host o w)
/-- 09 R249: `ldv`. -/
def execLdv (o : Op) (w : Width) (s : State) : Outcome State Fault Refusal := .next (s.loadOp (.ldv o w) .ver o w)

/-! ### Stores -/

/-- 15 R391: a workgroup that is not idempotent has committed once it issues a global or host-window store. -/
def State.storeIssued (s : State) : State :=
  if s.launch.idem then s else s.updWg s.cur.wg fun w => { w with committed := true }

/-- 09 R247: the data of a lane's store, `n` bytes. -/
def storeBytes (n : Nat) (r : LaneRef) : List Byte := toBytesLE r.cap.c n

/-- 09 R247, 04 R119, R127: bytes written to a local store by a lane of the current issue, with an order. -/
def State.laneWrite (s : State) (order : Order) (scope : Scope) (lane w off : Nat) (bs : List Byte) : State :=
  let a := SyncAt.loc w off
  let n := bs.length
  let pubs := s.pubsOf order scope lane
  let known := s.knownBy lane
  let s1 := ((s.hbAdd s.cur.wg s.cur.gang [lane] .store).lsWrite w off bs (some s.uid)).wildObjs known a n
  let s2 := (List.range n).foldl (fun (t : State) i =>
    if s.hb.touches (s.me lane) (a.shift i) 1 then t.updWg w fun x => x.wildLs (off + i) 1 else t) s1
  { s2 with hb := s2.hb.tag a n pubs }.spoil a n s.uid

/-- 09 R247, R248: stores into local stores, in ascending lane order. -/
def State.storeLocal (s : State) (n : Nat) (refs : List LaneRef) : State :=
  refs.foldl (fun s r => match r.place with
    | .loc w off => s.laneWrite .rlx .t r.cap.lane w off (storeBytes n r)
    | _ => s) s

/-- 15 R387: the store-buffer entry of a lane of the current issue. -/
def State.sbEntry (s : State) (lane : Nat) (d : Dest) (vers : Option Nat) (va : DWord) (bs : List Byte) : SbEntry :=
  let tn := match s.threads.find? fun t => t.wg == s.cur.wg && t.gang == s.cur.gang && t.lane == lane with
    | some t => s.tnumOf t
    | none => 0
  { uid := 0, dest := d, va := va, bytes := bs, gang := s.cur.gang, lane := lane, tnum := tn, pc := s.cur.pc, word := s.cur.word
    leaf := match d with | .mem _ => s.leafSpan va.toNat | .win .. => (0, 0)
    vers := vers, pubs := s.pubsOf .rlx .t lane }

/-- 03 R107, 04 R127: the bytes that a lane stores to global memory: undefined where they are operands of an `mma` whose completion the lane has not acquired, or
of a phase object on which an event races with the store. -/
def State.storedBytes (s : State) (lane k : Nat) (bs : List Byte) : List Byte :=
  let a := SyncAt.mem k
  let raced := (s.hb.objsIn a bs.length).filter fun o => s.hb.eventRace o (s.knownBy lane)
  if !s.hb.touches (s.me lane) a bs.length && raced.isEmpty then bs
  else bs.zipIdx.map fun (b, i) =>
    if s.hb.touches (s.me lane) (a.shift i) 1 || (raced.any fun o => (o.sync.map fun c => c.meets 16 (a.shift i) 1).getD false) then
      (s.free [31, lane, i]).truncate 8
    else b

/-- 09 R247, 04 R127: one lane's store to global memory: an entry of the buffer, recorded. What it races with is undefined from then on. -/
def State.storeGlobal (s : State) (n : Nat) (va : Nat) (r : LaneRef) (k : Nat) (v : Option Nat) (undef : Bool) : State :=
  let lane := r.cap.lane
  let bs := if undef then (List.range n).map fun i => (s.free [31, lane, i]).truncate 8 else s.storedBytes lane k (storeBytes n r)
  let e := s.sbEntry lane (.mem k) v (BitVec.ofNat 64 va) bs
  let known := s.knownBy lane
  let s1 := s.recordStore s.cur.wg s.cur.gang lane (.mem k) n
  ((s1.sbPut s.cur.wg { e with item := s.uid, sees := known }).spoil (.mem k) n s.uid).wildObjs known (.mem k) n

/-- 09 R247, R248: stores into the store buffer, in ascending lane order; those of which a test holds are of undefined bytes. -/
def State.storeBuffered (s : State) (n : Nat) (addr : Cap → Nat) (refs : List LaneRef) (undef : LaneRef → Bool := fun _ => false) : State :=
  refs.foldl (fun s r =>
    match r.place with
    | .mem k v => s.storeGlobal n (addr r.cap) r k v (undef r)
    | .win i off _ => s.sbPut s.cur.wg (s.sbEntry r.cap.lane (.win i off) none (BitVec.ofNat 64 (addr r.cap)) (storeBytes n r))
    | .loc .. => s) s

/-- 04 R125: entries of `n` bytes need room: an overflow is a commit point. -/
def State.withRoom (s : State) (n : Nat) (k : State → State) : State :=
  if sbSize (s.wg s.cur.wg).sb + n ≤ Config.sbBytes then k s else s.committing k

/-- 09 R244, R247: how the data of a store of a width is read. -/
def storeKind (w : Width) : Kind :=
  match w with
  | .b64 => .n64
  | .b128 => .quad
  | _ => .n32

/-- 09 R243 to R248: a store. -/
def State.storeOp (s : State) (sp : Space) (o : Op) (w : Width) : State :=
  let n := WF.widthBytes w
  let data := storeKind w
  let caps := s.captureOp (loadKinds sp data) o
  let addr := effAddr (wideSpace sp)
  let same (c d : Cap) : Bool := addr c == addr d && c.c % 2 ^ (8 * n) == d.c % 2 ^ (8 * n)
  s.checked caps fun s => s.shadowed caps same (pair := s.pairOp (loadKinds sp data) o) fun s =>
    s.withPlaces sp .write n addr caps fun s _ =>
      let refs := placed (fun c => s.place sp .write s.cur.wg (addr c) n) (s.effective caps)
      match sp with
      | .loc | .nbr =>
        if n < 8 then s.unpoisoned n refs fun s => (s.storeLocal n refs).advance else (s.storeLocal n refs).advance
      | _ => if refs.isEmpty then s.advance
             else s.withRoom (n * refs.length) fun s => (s.storeIssued.storeBuffered n addr refs).advance

/-- 09 R247: `stg`. -/
def execStg (o : Op) (w : Width) (s : State) : Outcome State Fault Refusal := .next (s.storeOp .glb o w)
/-- 09 R247: `stl`. -/
def execStl (o : Op) (w : Width) (s : State) : Outcome State Fault Refusal := .next (s.storeOp .loc o w)
/-- 09 R247: `stn`. -/
def execStn (o : Op) (w : Width) (s : State) : Outcome State Fault Refusal := .next (s.storeOp .nbr o w)
/-- 09 R247: `sth`. -/
def execSth (o : Op) (w : Width) (s : State) : Outcome State Fault Refusal := .next (s.storeOp .host o w)

/-! ### Uniform registers and special registers -/

/-- 01 R29: one of several values, freely chosen. -/
def State.freePick (s : State) (site : List Nat) (l : List Nat) : Nat :=
  match l with
  | [] => 0
  | x :: l => if l.all fun y => y == x then x else ((x :: l)[(s.free site).toNat % (l.length + 1)]?).getD 0

/-- 01 R29: a uniform register written by lanes of the current issue with their values: one of them stays, or what other threads have written to it that is not visible to
one of the lanes. -/
def State.writeG (s : State) (n : Nat) (vals : List (Nat × Nat)) : State :=
  if vals.isEmpty then s else
  let cur := ((s.wg s.cur.wg).g[n]?).getD 0
  let others := vals.flatMap fun v => s.hb.regWritten s.cur.wg n cur (s.me v.1)
  let x := BitVec.ofNat 32 (s.freePick [8, n] (vals.map (·.2)))
  let y := if others.isEmpty then x else ((x :: others)[(s.free [9, n]).toNat % (others.length + 1)]?).getD x
  s.setG s.cur.wg s.cur.gang s.cur.lanes n y

/-- A value of one or two registers written to uniform registers. -/
def State.writeGs (s : State) (o : Op) (vals : List (Nat × Nat)) : State :=
  match o.dst with
  | .g n =>
    let s1 := s.writeG n (vals.map fun v => (v.1, v.2 % 2 ^ 32))
    if o.wide then s1.writeG (n + 1) (vals.map fun v => (v.1, v.2 / 2 ^ 32)) else s1
  | _ => s

/-- 07 R210: `gmov`. -/
def execGmov (o : Op) (s : State) : Outcome State Fault Refusal :=
  let caps := s.captureOp { a := .ty o.ty } o
  .next (s.checked caps fun s =>
    ((s.writeGs o (caps.map fun c => (c.lane, c.a))).pushLanes o (caps.map fun c => (c.lane, c.a, false))).advance)

/-- 07 R211: one lane's load for `gld`. -/
def State.gldLane (o : Op) (x : State × List (Nat × Option Nat)) (r : LaneRef) : State × List (Nat × Option Nat) :=
  let s := x.1.recallAt r.place (4 * o.words)
  (s.loadSync r.cap.lane r.place (4 * o.words), x.2 ++ [(r.cap.lane, some (ofBytesLE (s.bytesAt r.cap.lane r.place (4 * o.words))))])

/-- 07 R211: the loaded values written to a uniform register and pushed. -/
def State.gldDone (s : State) (o : Op) (got : List (Nat × Option Nat)) : State :=
  let vals := got.map fun v => (v.1, v.2.getD 0)
  ((s.writeGs o vals).pushLanes o (vals.map fun v => (v.1, v.2, false))).advance

/-- 07 R211: `gld`. -/
def execGld (o : Op) (sp : Space) (s : State) : Outcome State Fault Refusal :=
  let caps := s.captureOp { a := if sp == .glb then .n64 else .n32 } o
  .next (s.checked caps fun s =>
    s.withPlaces sp .read (4 * o.words) (fun c => c.a) caps fun s refs =>
      s.unpoisoned (4 * o.words) refs fun s =>
        let outside (r : LaneRef) : Bool := s.leaves s.cur.wg r.place (4 * o.words)
        let (s1, got) := (refs.filter fun r => !outside r).foldl (State.gldLane o) (s, [])
        if refs.any outside then s1.ask (.gld o sp) caps (fun c => c.a) (refs.filter outside) got else s1.gldDone o got)

/-- 01 R34, R35: `%clk` of a gang: the clocks that its own slice has counted since its quad became ready. -/
def State.clk (s : State) (w g : Nat) : DWord :=
  let core := (s.wg w).core
  BitVec.ofNat 64 (s.clockOf s.sliceClk (clockSlice core (s.gang w g).slice) - lookupD s.clkZero (core / 4) 0)

/-- 15 R397: what a thread reads in `%clk`: the upper copy of a shadow thread may read it some clocks after the lower one, which the spec leaves open. -/
def State.clkOf (s : State) (t : Thread) : DWord :=
  let l := s.launchOf t.wg
  if l.shadow && l.maskW ≤ t.lane then s.clk t.wg t.gang + s.free [39, t.wg, t.gang, t.lane] else s.clk t.wg t.gang

/-- 01 R24, R34, R39: the special registers. -/
def State.special32 (s : State) (t : Thread) (n : Nat) : Nat :=
  let w := s.wg t.wg
  let l := s.launchOf t.wg
  let gg := s.gang t.wg t.gang
  let st := (l.stages[gg.stage]?).getD default
  let tn := s.tnumOf t
  let c := s.cluster w.cluster
  let q := s.part (s.partOf t.wg)
  match n with
  | 0 => tn % st.nx
  | 1 => tn / st.nx % st.ny
  | 2 => tn / st.nx / st.ny
  | 3 => st.nx
  | 4 => st.ny
  | 5 => st.nz
  | 6 => tn
  | 7 => gg.num
  | 8 => l.gw
  | 9 => t.lane % l.maskW
  | 10 => gg.stage
  | 11 => l.stages.length
  | 12 => w.x
  | 13 => w.y
  | 14 => w.z
  | 15 => l.nwx
  | 16 => l.nwy
  | 17 => l.nwz
  | 18 => c.clid
  | 19 => l.clusters
  | 20 => w.rank
  | 21 => l.clsize
  | 22 => w.core
  | 24 => if l.tgb then l.rank else 2 ^ 32 - 1
  | 25 => if l.tgb then (q.csrWord 0x010).toNat % 2 ^ 13 else 0
  | 26 => q.idx
  | _ => 0

/-- 07 R209, 01 R35: `sreg`. Its captured source is the value read at issue. -/
def execSreg (o : Op) (s : State) : Outcome State Fault Refusal :=
  let value (t : Thread) : Nat := match o.a with
    | .imm 23 => (s.clkOf t).toNat
    | .imm n => s.special32 t n
    | _ => 0
  .next (s.aluBy o (fun t => { lane := t.lane, a := value t, b := 0, c := 0 }) true (fun a _ _ => (a, false)) (writeBoth o))

end Sys2Proof.Machine
end

