-- ==== Sys2Proof/Machine/Logic.lean ====
section
/-! DEFINITION. Logic, shifts, bit fields, compare, select and move (spec/07 R200 to R208), full and compact. -/

namespace Sys2Proof.Machine

open Host (Outcome)

/-- A shift, rotate or field instruction: the second source is a count read as n32 (07 R201, R204). -/
def State.shiftAlu (s : State) (o : Op) (f : Ty → Nat → Nat → Nat) : State :=
  s.alu o { a := .ty o.ty, b := .n32 } true fun a b _ => (f o.ty a b, false)

/-- 07 R200: `and`. -/
def execAnd (o : Op) (s : State) : Outcome State Fault Refusal := .next (s.alu3 o (fun a b _ => a &&& b))

/-- 07 R200: `or`. -/
def execOr (o : Op) (s : State) : Outcome State Fault Refusal := .next (s.alu3 o (fun a b _ => a ||| b))

/-- 07 R200: `xor`. -/
def execXor (o : Op) (s : State) : Outcome State Fault Refusal := .next (s.alu3 o (fun a b _ => a ^^^ b))

/-- 07 R200: `andn`. -/
def execAndn (o : Op) (s : State) : Outcome State Fault Refusal := .next (s.alu3 o (fun a b _ => andNot o.ty a b))

/-- 07 R200: `not`. -/
def execNot (o : Op) (s : State) : Outcome State Fault Refusal := .next (s.alu3 o (fun a _ _ => notBits o.ty a))

/-- 07 R201: `shl`. -/
def execShl (o : Op) (s : State) : Outcome State Fault Refusal := .next (s.shiftAlu o shiftLeft)

/-- 07 R201: `shr`. -/
def execShr (o : Op) (s : State) : Outcome State Fault Refusal := .next (s.shiftAlu o shiftRight)

/-- 07 R201: `rol`. -/
def execRol (o : Op) (s : State) : Outcome State Fault Refusal := .next (s.shiftAlu o rotl)

/-- 07 R201: `ror`. -/
def execRor (o : Op) (s : State) : Outcome State Fault Refusal := .next (s.shiftAlu o rotr)

/-- 07 R202: `fsh.r`. -/
def execFshR (o : Op) (wrap : Bool) (s : State) : Outcome State Fault Refusal := .next (s.alu o { a := .ty .b32, b := .ty .b32, c := .n32 } true fun lo hi k => (funnelRight wrap lo hi k, false))

/-- 07 R202: `fsh.l`. -/
def execFshL (o : Op) (wrap : Bool) (s : State) : Outcome State Fault Refusal := .next (s.alu o { a := .ty .b32, b := .ty .b32, c := .n32 } true fun lo hi k => (funnelLeft wrap lo hi k, false))

/-- 07 R203: `popc`. -/
def execPopc (o : Op) (s : State) : Outcome State Fault Refusal := .next (s.alu3 o (fun a _ _ => popCount o.ty a))

/-- 07 R203: `clz`. -/
def execClz (o : Op) (s : State) : Outcome State Fault Refusal := .next (s.alu3 o (fun a _ _ => leadZeros o.ty a))

/-- 07 R203: `brev`. -/
def execBrev (o : Op) (s : State) : Outcome State Fault Refusal := .next (s.alu3 o (fun a _ _ => bitReverse o.ty a))

/-- 07 R204: `fxt`. -/
def execFxt (o : Op) (s : State) : Outcome State Fault Refusal := .next (s.shiftAlu o fieldExtract)

/-- 07 R204: `fins`. -/
def execFins (o : Op) (s : State) : Outcome State Fault Refusal := .next (s.alu o { a := .ty o.ty, b := .ty o.ty, c := .n32 } true fun base ins ctl => (fieldInsert o.ty base ins ctl, false))

/-- 07 R205: `bsel`. -/
def execBsel (o : Op) (fill : Bool) (s : State) : Outcome State Fault Refusal := .next (s.alu3 o (byteSelect fill))

/-- 07 R206: `cmp`; the second result is the first inverted. -/
def execCmp (o : Op) (cond : Cond) (comb : Comb) (s : State) : Outcome State Fault Refusal := .next (s.alu o { a := .ty o.ty, b := .ty o.ty, c := if comb == .none then .unused else .pred } true fun a b c =>
    let r := cmpBits o.ty cond comb a b (c == 1)
    (r.toNat, !r))

/-- 07 R207: `sel`. -/
def execSel (o : Op) (s : State) : Outcome State Fault Refusal := .next (s.alu o { a := .ty o.ty, b := .ty o.ty, c := .pred } true fun a b c => (if c == 1 then a else b, false))

/-- 07 R207: `mov`. -/
def execMov (o : Op) (s : State) : Outcome State Fault Refusal := .next (s.alu3 o (fun a _ _ => a))

/-- 07 R208: `lea`. -/
def execLea (o : Op) (k : Nat) (s : State) : Outcome State Fault Refusal := .next (s.alu o { a := .n64, b := .ty o.ty, c := .s32 } true fun a b c => (leaAddr o.ty.signed k a b c, false))

/-- 06 R169: compact `and`. -/
def execAndCompact (o : COp) (s : State) : Outcome State Fault Refusal := .next (s.alu3 o.toOp (fun a b _ => a &&& b))

/-- 06 R169: compact `or`. -/
def execOrCompact (o : COp) (s : State) : Outcome State Fault Refusal := .next (s.alu3 o.toOp (fun a b _ => a ||| b))

/-- 06 R169: compact `xor`. -/
def execXorCompact (o : COp) (s : State) : Outcome State Fault Refusal := .next (s.alu3 o.toOp (fun a b _ => a ^^^ b))

/-- 06 R169: compact `andn`. -/
def execAndnCompact (o : COp) (s : State) : Outcome State Fault Refusal := .next (s.alu3 o.toOp (fun a b _ => andNot o.ty a b))

/-- 06 R169: compact `not`. -/
def execNotCompact (o : COp) (s : State) : Outcome State Fault Refusal := .next (s.alu3 o.toOp (fun a _ _ => notBits o.ty a))

/-- 06 R169: compact `mov`. -/
def execMovCompact (o : COp) (s : State) : Outcome State Fault Refusal := .next (s.alu3 o.toOp (fun a _ _ => a))

/-- 06 R169: compact `shl`. -/
def execShlCompact (o : COp) (s : State) : Outcome State Fault Refusal := .next (s.shiftAlu o.toOp shiftLeft)

/-- 06 R169: compact `shr`. -/
def execShrCompact (o : COp) (s : State) : Outcome State Fault Refusal := .next (s.shiftAlu o.toOp shiftRight)

end Sys2Proof.Machine
end

