-- ==== Sys2Proof/Machine/Predicate.lean ====
section
/-! DEFINITION. Predicate instructions (spec/07 R195, R196). -/

namespace Sys2Proof.Machine

open Host (Outcome)

/-- 07 R195: a function of two predicates. -/
def State.predAlu (s : State) (o : Op) (two : Bool) (f : Bool → Bool → Bool) : State :=
  s.alu o { a := .pred, b := if two then .pred else .unused } false fun a b _ => ((f (a == 1) (b == 1)).toNat, false)

/-- `k` predicates from `n` on as bits (07 R196). -/
def Thread.preds (t : Thread) (n : Nat) : Nat → Nat
  | 0 => 0
  | k + 1 => (t.pred n).toNat + 2 * t.preds (n + 1) k

/-- `k` predicates from `n` on written (07 R196). -/
def Thread.setPreds (t : Thread) (n x : Nat) : Nat → Thread
  | 0 => t
  | k + 1 => (t.setPred n (x % 2 == 1)).setPreds (n + 1) (x / 2) k

/-- The number of a source field. -/
def srcNum : Src → Nat
  | .v n | .g n | .l n | .imm n => n

/-- The number of a destination. -/
def dstNum : Dst → Nat
  | .v n | .p n | .g n => n
  | .none => 0

/-- 07 R195: `pand`. -/
def execPand (o : Op) (s : State) : Outcome State Fault Refusal := .next (s.predAlu o true (fun a b => a && b))

/-- 07 R195: `por`. -/
def execPor (o : Op) (s : State) : Outcome State Fault Refusal := .next (s.predAlu o true (fun a b => a || b))

/-- 07 R195: `pxor`. -/
def execPxor (o : Op) (s : State) : Outcome State Fault Refusal := .next (s.predAlu o true (fun a b => a != b))

/-- 07 R195: `pandn`. -/
def execPandn (o : Op) (s : State) : Outcome State Fault Refusal := .next (s.predAlu o true (fun a b => a && !b))

/-- 07 R195: `pnot`. -/
def execPnot (o : Op) (s : State) : Outcome State Fault Refusal := .next (s.predAlu o false (fun a _ => !a))

/-- 07 R195: `pmov`. -/
def execPmov (o : Op) (s : State) : Outcome State Fault Refusal := .next (s.predAlu o false (fun a _ => a))

/-- 07 R196: `ppack`. Its captured source is the 32 predicates. -/
def execPpack (o : Op) (s : State) : Outcome State Fault Refusal := .next (s.aluBy o (fun t => { lane := t.lane, a := t.preds (srcNum o.a) 32, b := 0, c := 0 }) false (fun a _ _ => (a, false)) (writeBoth o))

/-- 07 R196: `punpack`; it has no second result. -/
def execPunpack (o : Op) (s : State) : Outcome State Fault Refusal := .next (s.aluBy { o with d2 := 0 } (s.sources { a := .ty .b32 } o.a o.b o.c) false (fun a _ _ => (a, false)) fun t x _ => t.setPreds (dstNum o.dst) x 32)

/-- 07 R196: `pcnt`. Its captured first source is the predicates counted. -/
def execPcnt (o : Op) (s : State) : Outcome State Fault Refusal := .next (s.aluBy o (fun t => { lane := t.lane, a := t.preds (srcNum o.a) (srcNum o.b), b := srcNum o.b, c := 0 }) false
    (fun a _ _ => (countOnes a 32, false)) (writeBoth o))

end Sys2Proof.Machine
end

