-- ==== Sys2Proof/Machine/Ahead.lean ====
section
/-! DEFINITION. Which operations can issue behind one that has not passed its fault checks (spec/15 R378, spec/09 R246), and what they read and write.
The model lets plain arithmetic, loads and stores do so (notes/assumptions/8.md). -/

namespace Sys2Proof

open Machine

/-- The fields and the kinds of the sources of an operation that can issue behind an unchecked one; none for every other. -/
def Instr.plain : Instr → Option (Op × Kinds)
  | .pand o | .por o | .pxor o | .pandn o => some (o, { a := .pred, b := .pred })
  | .pnot o | .pmov o => some (o, { a := .pred })
  | .add o m | .sub o m => some (o, { a := .ty o.ty, b := .ty o.ty, c := if m.cr then .pred else .unused })
  | .mul o | .mulh o | .mad o _ | .madh o | .min o | .max o | .abs o _ | .neg o _ | .and o | .or o | .xor o | .andn o | .not o | .popc o | .clz o
  | .brev o | .bsel o _ | .mov o => some (o, { a := .ty o.ty, b := .ty o.ty, c := .ty o.ty })
  | .fadd o _ | .fsub o _ | .fmul o _ | .ffma o _ | .fmin o | .fmax o | .fminnum o | .fmaxnum o | .fabs o | .fneg o | .fclassV o =>
    some (o, { a := .ty o.ty, b := .ty o.ty, c := .ty o.ty })
  | .shl o | .shr o | .rol o | .ror o | .fxt o => some (o, { a := .ty o.ty, b := .n32 })
  | .fshR o _ | .fshL o _ => some (o, { a := .ty .b32, b := .ty .b32, c := .n32 })
  | .fins o => some (o, { a := .ty o.ty, b := .ty o.ty, c := .n32 })
  | .cmp o _ comb => some (o, { a := .ty o.ty, b := .ty o.ty, c := if comb == .none then .unused else .pred })
  | .fcmp o _ comb => some (o, { a := .ty .f32, b := .ty .f32, c := if comb == .none then .unused else .pred })
  | .sel o => some (o, { a := .ty o.ty, b := .ty o.ty, c := .pred })
  | .lea o _ => some (o, { a := .n64, b := .ty o.ty, c := .s32 })
  | .fclassP o => some (o, { a := .ty .f32, b := .ty .b32 })
  | .rcp o _ | .sqrt o _ | .rsq o | .exp2 o | .log2 o | .sin o | .cos o => some (o, { a := .ty .f32 })
  | .cvt o m => some (o, { a := cvtKind m.src, b := if m.pk then cvtKind m.src else .unused })
  | .ldg o _ => some (o, loadKinds .glb .unused)
  | .ldl o _ => some (o, loadKinds .loc .unused)
  | .ldn o _ => some (o, loadKinds .nbr .unused)
  | .ldh o _ => some (o, loadKinds .host .unused)
  | .stg o w => some (o, loadKinds .glb (storeKind w))
  | .stl o w => some (o, loadKinds .loc (storeKind w))
  | .stn o w => some (o, loadKinds .nbr (storeKind w))
  | .sth o w => some (o, loadKinds .host (storeKind w))
  | .addCompact o | .subCompact o | .minCompact o | .maxCompact o | .absCompact o | .negCompact o | .mulCompact o | .andCompact o | .orCompact o
  | .xorCompact o | .andnCompact o | .notCompact o | .movCompact o => some (o.toOp, { a := .ty o.ty, b := .ty o.ty, c := .ty o.ty })
  | .faddCompact o | .fsubCompact o | .fmulCompact o | .fminCompact o | .fmaxCompact o | .fminnumCompact o | .fmaxnumCompact o | .fabsCompact o
  | .fnegCompact o => some (o.toOp, { a := .ty o.ty, b := .ty o.ty, c := .ty o.ty })
  | .madCompact o | .ffmaCompact o => some (o.toOpAcc, { a := .ty o.ty, b := .ty o.ty, c := .ty o.ty })
  | .shlCompact o | .shrCompact o => some (o.toOp, { a := .ty o.ty, b := .n32 })
  | _ => none

end Sys2Proof

namespace Sys2Proof.Machine

/-- A register that an operation reads or writes. -/
inductive RegName where
  | v (n : Nat)
  | p (n : Nat)
  | latch
  deriving DecidableEq, Repr, Inhabited

/-- The registers that a source field of a kind reads. -/
def Src.regs (k : Kind) (x : Src) : List RegName :=
  match k, x with
  | .unused, _ => []
  | .pred, .v n => [.p n]
  | k, .v n => (List.range k.words).map fun i => .v (n + i)
  | _, .l _ => [.latch]
  | _, _ => []

/-- What an operation reads: its guard and its sources. -/
def readsOf (o : Op) (k : Kinds) : List RegName := .p o.guard.p :: Src.regs k.a o.a ++ Src.regs k.b o.b ++ Src.regs k.c o.c

/-- What an operation may write: a vector result has at most four words (09 R244), and a pushed one is the next latch. -/
def writesOf (o : Op) : List RegName :=
  .latch :: (if o.d2 == 0 then [] else [.p o.d2]) ++ (match o.dst with
    | .v n => (List.range 4).map fun i => .v (n + i)
    | .p n => [.p n]
    | _ => [])

/-- Whether an operation needs a result that is not there yet; `p0` always is. -/
def needs (pending : List RegName) (o : Op) (k : Kinds) : Bool := (readsOf o k).any fun r => r != .p 0 && pending.contains r

end Sys2Proof.Machine
end

