-- ==== Sys2Proof/Machine/Atomic.lean ====
section
/-! DEFINITION. Single-location atomics (spec/09 R250 to R254, spec/04 R124, R131, spec/16 R415, R417) and the answers of requests
that left the package (spec/16 R414, R416). -/

namespace Sys2Proof.Machine

open Host (Outcome)

/-- 09 R251, 02 R81 to R83: the new value. -/
def atNew (op : AtOp) (ty : Ty) (old b c : Nat) : Nat :=
  match op, ty with
  | .add, .f32 => Fmt.f32.add .rn old b
  | .add, .bf16x2 => floatOp .bf16x2 (fun F x y _ => F.add .rn x y) old b 0
  | .add, t => intOp t false (fun x y _ => x + y) old b 0
  | .sub, t => intOp t false (fun x y _ => x - y) old b 0
  | .min, .f32 => Fmt.f32.extremum false old b
  | .max, .f32 => Fmt.f32.extremum true old b
  | .min, t => intOp t false (fun x y _ => min x y) old b 0
  | .max, t => intOp t false (fun x y _ => max x y) old b 0
  | .and, _ => old &&& b
  | .or, _ => old ||| b
  | .xor, _ => old ^^^ b
  | .xchg, _ => b
  | .cas, _ => if old == b then c else old

/-- 09 R251, R253: bytes of an atomic. -/
def atBytes (o : Op) (m : AtMods) : Nat := if m.b128 then 16 else o.ty.bits / 8

/-- 16 R415: whether an operation is carried as one AtomicOp. -/
def isNative (o : Op) (m : AtMods) : Bool :=
  match m.op with
  | .add => o.ty != .f32 && o.ty != .bf16x2
  | .sub | .xchg | .cas => true
  | _ => false

/-- 04 R124: the 8-byte container of a place, as the store buffer knows it, with its bytes. -/
def containerOf (p : Place) (n : Nat) : Option (Dest × Nat) :=
  match p with
  | .loc .. => none
  | .mem k _ => some (.mem (k / 8 * 8), max 8 n)
  | .win i off _ => some (.win i (off / 8 * 8), max 8 n)

/-- 04 R124: the buffered stores to the containers applied; the instruction waits while one of them cannot be. -/
def State.containersApplied (s : State) (n : Nat) (refs : List LaneRef) (k : State → State) : State :=
  let cs := refs.filterMap fun r => containerOf r.place n
  let s1 := cs.foldl (fun s c => s.commitRange s.cur.wg c.1 c.2) s
  if cs.all fun c => s1.rangeClear s1.cur.wg c.1 c.2 then k s1 else s1.waitHere

/-- The number at a place at its ordering point (04 R114). -/
def State.numAt (s : State) (p : Place) (n : Nat) : Nat :=
  match p with
  | .loc w off => s.lsNum w off n
  | .mem k _ => ofBytesLE (s.homeBytes k n)
  | .win _ off host => getNum s.hostMem (host + off) n

/-- The number that a lane of the current issue reads at a place at its ordering point; bytes of an engine operation whose completion it has not acquired
are undefined (04 R127). -/
def State.numBy (s : State) (lane : Nat) (p : Place) (n : Nat) : Nat :=
  if s.hb.racing (s.me lane) (s.placeSync p) n then ofBytesLE ((List.range n).map fun i => (s.free [16, lane, i]).truncate 8)
  else s.numAt p n

/-- A number written at a place at its ordering point, by a recorded access. -/
def State.putAt (s : State) (p : Place) (n x item : Nat) : State :=
  let bs := toBytesLE x n
  match p with
  | .loc w off => s.lsWrite w off bs (some item)
  | .mem k _ =>
    if isPeer k then
      let s1 := s.writeMem k bs (some item)
      { s1 with hb := s1.hb.written (.mem k) n (some item) }
    else s.homeWrite k bs (some item)
  | .win _ off host => { s with hostMem := setNum s.hostMem (host + off) n x, hb := s.hb.written (.host (host + off)) n (some item) }

/-- 04 R119, R120, R124, R127: the write of a lane's read-modify-write: it continues the release chains of its bytes, and publishes under its order. Written to
operands of an `mma` whose completion the lane has not acquired, the bytes are undefined. It is no ordinary store (03 R107, 09 R252). -/
def State.putRmw (s : State) (order : Order) (scope : Scope) (lane : Nat) (p : Place) (n x : Nat) : State :=
  let a := s.placeSync p
  let pubs := s.pubsOf order scope lane
  let s1 := (s.hbAdd s.cur.wg s.cur.gang [lane] .rmw).putAt p n x s.uid
  let s2 := (List.range n).foldl (fun (t : State) i => if s.hb.touches (s.me lane) (a.shift i) 1 then t.wildAt (a.shift i) 1 else t) s1
  { s2 with hb := (s2.hb.chain s.hb a n).tag a n pubs }.spoil a n s.uid

/-- 04 R124, 09 R253: the dirty RDC bytes of the container of an access of `n` bytes to a peer written back, whichever die holds them. -/
def State.ownDirty (s : State) (p : Place) (n : Nat) : State :=
  match p with
  | .mem k _ => if isPeer k then s.rdcBack (fun l => l.line == lineOf k) (some (k / 8 * 8, max 8 n)) else s
  | _ => s

/-- 04 R115: what an atomic has found or left at a peer's home, seen by the copies of its line that the die holds. -/
def State.copyPeer (s : State) (p : Place) (n : Nat) : State :=
  match p with
  | .mem k _ => if isPeer k then s.rdcPatch s.die k (s.homeBytes k n) else s
  | _ => s

/-- Whether an access is to global or host memory. -/
def isShared : Place → Bool
  | .loc .. => false
  | _ => true

/-- 09 R252: whether an atomic that finds a value writes. -/
def atWrites (m : AtMods) (r : LaneRef) (old : Nat) : Bool := m.op != .cas || old == r.cap.b

/-- 09 R252, 04 R124, 16 R417: one lane's atomic event; its old value is added to the results. A held word is recalled, whether or not the atomic
writes. -/
def State.atomicLane (o : Op) (m : AtMods) (x : State × List (Nat × Option Nat)) (r : LaneRef) : State × List (Nat × Option Nat) :=
  let n := atBytes o m
  let s := (x.1.ownDirty r.place n).recallAt r.place n
  let old := s.numBy r.cap.lane r.place n
  let s1 := s.readSync s.hb.tags m.order m.scope r.cap.lane r.place n
  let s2 := if atWrites m r old then s1.putRmw m.order m.scope r.cap.lane r.place n (atNew m.op o.ty old r.cap.b r.cap.c) else s1
  (s2.copyPeer r.place n, (r.cap.lane, some old) :: x.2)

/-- 09 R254: an effect on global, versioned or host memory commits the workgroup. -/
def State.committed (s : State) : State := s.updWg s.cur.wg fun w => { w with committed := true }

/-- 09 R252, R254: the atomic events of an issue, in a free order of its lanes, and what they found. -/
def State.atomicEvents (s : State) (o : Op) (m : AtMods) (refs : List LaneRef) : State × List (Nat × Option Nat) :=
  let (s1, got) := (s.freeOrder 1 (fun r => r.cap.lane) refs).foldl (State.atomicLane o m) (s, [])
  (if refs.any fun r => isShared r.place then s1.committed else s1, got)

/-- 09 R252: whether one of the atomic events of an issue writes: the release of a `cas` that fails synchronises with nothing. -/
def State.atomicWrites (s : State) (o : Op) (m : AtMods) (refs : List LaneRef) : Bool :=
  m.op != .cas || (s.atomicEvents o m refs).2.any fun x => refs.any fun r => r.cap.lane == x.1 && x.2 == some r.cap.b

/-- 09 R252: what an atomic returns, written to both copies of a shadow thread (15 R397). -/
def State.atomicReturn (s : State) (o : Op) (m : AtMods) (caps : List Cap) (got : List (Nat × Option Nat)) : State :=
  let words := if m.b128 then 4 else o.words
  (s.acquiring m.order m.scope (got.map (·.1))).updIssue fun t =>
    match got.find? fun r => (s.copies r.1).contains t.lane with
    | some (lane, some old) =>
      let u := if m.nr then t else t.writeDst o words old
      if m.op == .cas then u.setPred o.d2 (caps.any fun c => c.lane == lane && c.b == old) else u
    | _ => t

/-- Whether an atomic leaves the package: to a peer's ingress unit or to the host. -/
def leavesAtomic : Place → Bool
  | .loc .. => false
  | .mem k _ => isPeer k
  | .win .. => true

/-- 09 R250 to R253: a single-location atomic. -/
def State.atomicOp (s : State) (i : Instr) (sp : Space) (o : Op) (m : AtMods) : State :=
  let n := atBytes o m
  let k : Kind := if m.b128 then .quad else .ty o.ty
  let kinds : Kinds := { a := if wideSpace sp then .n64 else .n32, b := k, c := if m.op == .cas then k else .unused }
  let caps := s.captureOp kinds o
  s.acting caps (pair := s.pairOp kinds o) fun s =>
    s.withPlaces sp .write n (fun c => c.a) caps fun s all =>
      let noao := all.filter fun r => match r.place with
        | .win j .. => (s.window s.curPart j).noao
        | _ => false
      match lowestFault (noao.map fun r => (r.cap.lane, 0x1F, BitVec.ofNat 64 r.cap.a)) with
      | some f => s.faultLanes caps f
      | none =>
        let refs := all.filter fun r => (s.effective caps).contains r.cap
        s.unpoisoned n refs fun s =>
          s.containersApplied n refs fun s =>
            let home := refs.filter fun r => !leavesAtomic r.place
            s.releasing m.order m.scope (if s.atomicWrites o m home then lanesOf (home.map fun r => r.cap) else []) fun s =>
              let (s1, got) := s.atomicEvents o m home
              let out := refs.filter fun r => leavesAtomic r.place
              if out.isEmpty then (s1.atomicReturn o m caps got).advance else s1.ask i caps (fun c => c.a) out got

/-- 09 R250, R253: `atg`. -/
def execAtg (o : Op) (m : AtMods) (s : State) : Outcome State Fault Refusal := .next (s.atomicOp (.atg o m) .glb o m)
/-- 09 R250, R253: `atl`. -/
def execAtl (o : Op) (m : AtMods) (s : State) : Outcome State Fault Refusal := .next (s.atomicOp (.atl o m) .loc o m)
/-- 09 R250, R253: `atn`. -/
def execAtn (o : Op) (m : AtMods) (s : State) : Outcome State Fault Refusal := .next (s.atomicOp (.atn o m) .nbr o m)
/-- 09 R250, R253, 16 R415: `ath`. -/
def execAth (o : Op) (m : AtMods) (s : State) : Outcome State Fault Refusal := .next (s.atomicOp (.ath o m) .host o m)

/-! ### Answers from outside the package -/

/-- A lane of a request with its place. -/
def IoReq.ref (r : IoReq) (lane : Nat) (p : Place) : LaneRef := { cap := (r.caps.find? fun c => c.lane == lane).getD { lane := lane, a := 0, b := 0, c := 0 }, place := p }

/-- 03 R101: a line of a peer's versioned page fetched again: its clean bytes and its tag. -/
def State.refetch (s : State) (p : Place) : State :=
  match p with
  | .mem k (some i) =>
    if isPeer k then
      let tag := s.stepOf (homeOf k) i
      { s with rdc := updWhere (fun l => l.at_ s.die s.curPart (lineOf k)) (fun l => s.fill l tag) s.rdc }
    else s
  | _ => s

/-- A request no longer waits for a lane. -/
def IoReq.without (r : IoReq) (lane : Nat) : IoReq := { r with waits := r.waits.filter fun x => x.1 != lane }

/-- A lane of a request has its value. -/
def IoReq.gain (r : IoReq) (lane : Nat) (got : List (Nat × Option Nat)) : IoReq := { r.without lane with got := got ++ r.got }

/-- A lane of a request has failed. -/
def IoReq.fail (r : IoReq) (lane code : Nat) : IoReq := { r.without lane with bad := (lane, code) :: r.bad }

/-- The address that a lane's access named. -/
def ioAddr (r : IoReq) (c : Cap) : Nat :=
  match r.instr with
  | .ldg .. | .ldh .. | .ldv .. => effAddr true c
  | _ => c.a

/-- A request that no lane waits for: the gang goes on, acting for the issue that asked. -/
def State.unblock (s : State) (r : IoReq) : State :=
  { s with
    io := s.io.filter fun x => x.id != r.id
    threads := updWhere (fun t => t.block == .io r.id) (fun t => { t with block := .none }) s.threads }

/-- What a request whose every lane has its value does. -/
def State.ioDone (s : State) (r : IoReq) : State :=
  match r.instr with
  | .ldg o w | .ldh o w | .ldv o w => s.loadDone o w r.got
  | .gld o _ => s.gldDone o r.got
  | .atg o m | .ath o m => (s.atomicReturn o m r.caps r.got).advance
  | _ => s.advance

/-- 16 R414, R416: a `.nr` atomic has gone on when its request completes with an error, and raises 0x20. -/
def State.ioLate (s : State) (r : IoReq) (caps : List Cap) : State :=
  if caps.isEmpty then s
  else
    let lane := lowest (lanesOf caps)
    let tn := match s.issued.find? fun t => t.lane == lane with
      | some t => s.tnumOf t
      | none => 0
    let addr := match caps.find? fun c => c.lane == lane with
      | some c => BitVec.ofNat 64 (ioAddr r c)
      | none => 0
    s.addPending r.issue.wg r.issue.gang
      { cause := 0x20, pc := r.issue.pc, mask := lanesOf caps, addr := addr, tnum := tn, entry := s.curEntry (lanesOf caps) caps 0x20 true }

/-- 16 R414 to R416: what a request of which lanes have failed does. A load raises the lowest cause precisely, and none of its lanes has a value. The
lanes of an atomic whose requests completed have had their effects, and get what they return; those that failed are the trap's. -/
def State.ioFailed (s : State) (r : IoReq) : State :=
  let fault (l : List Cap) : Option (Nat × List Nat × DWord) :=
    lowestFault (l.filterMap fun c => (laneVal r.bad c.lane).map fun k => (c.lane, k, BitVec.ofNat 64 (ioAddr r c)))
  match r.instr with
  | .atg o m | .ath o m =>
    let failed := r.caps.filter fun c => (laneVal r.bad c.lane).isSome
    let late := failed.filter fun c => m.nr && laneVal r.bad c.lane == some 0x15
    let now := failed.filter fun c => !late.contains c
    let s1 := (s.atomicReturn o m r.caps r.got).ioLate r late
    (match fault now with
     | some f => s1.faultLanes now f
     | none => s1.advance)
  | _ => match fault r.caps with
    | some f => s.faultLanes r.caps f
    | none => s.advance

/-- A request as an answer has left it: kept while a lane waits, else carried out. -/
def State.ioNext (s : State) (r : IoReq) : State :=
  if !r.waits.isEmpty then { s with io := updWhere (fun x => x.id == r.id) (fun _ => r) s.io }
  else
    let s1 := s.unblock r
    (if r.bad.isEmpty then s1.ioDone r else s1.ioFailed r).afterIssue r.issue.wg r.issue.gang

/-- 16 R415: whether an `ath` is carried as a CAS loop of the host-port atomic unit. -/
def loops : Instr → Bool
  | .ath o m => !isNative o m
  | _ => false

/-- 09 R252, R253: the atomic event of a lane at a peer's ingress unit or at the host: its release first, if it writes. While that cannot be completed
the answer changes nothing else, and may come again. -/
def State.remoteAtomic (s : State) (r : IoReq) (o : Op) (m : AtMods) (x : LaneRef) : State :=
  let (s1, ok) := if s.atomicWrites o m [x] then s.released m.order m.scope else (s, true)
  if !ok then s1
  else
    let (s2, got) := s1.atomicEvents o m [x]
    s2.ioNext (r.gain x.cap.lane got)

/-- 16 R415: one request of a lane's CAS loop: the read of the container, or a CAS of it, which succeeds where the host has not changed it. -/
def State.casLoop (s : State) (r : IoReq) (o : Op) (m : AtMods) (x : LaneRef) : State :=
  let lane := x.cap.lane
  let seen := match x.place with
    | .win i off host => s.numAt (.win i (off / 8 * 8) host) 8
    | _ => 0
  match laneVal r.tries lane with
  | none => s.ioNext { r with tries := (lane, seen, 0) :: r.tries }
  | some (old, fails) =>
    if seen == old then s.remoteAtomic r o m x
    else if fails + 1 == Config.casRetries then s.ioNext (r.fail lane 0x1E)
    else s.ioNext { r with tries := (lane, seen, fails + 1) :: r.tries.filter fun t => t.1 != lane }

/-- 16 R416: whether a request to a place cannot be answered: no path reaches the device. -/
def State.noAnswer (s : State) (p : Place) : Bool :=
  match p with
  | .mem k _ => s.unreachable k
  | _ => false

/-- What the answer of a lane's request does; the answer to a load fills its line (03 R96). -/
def State.answered (s0 : State) (r : IoReq) (x : LaneRef) : State :=
  let s1 := { s0 with cur := r.issue }
  let s := match r.instr with
    | .atg .. | .ath .. => s1
    | _ => s1.fillPlace x.place
  let lane := x.cap.lane
  match r.instr with
  | .ldg _ w => let (s1, got) := State.loadLane .glb w (s, []) x; s1.ioNext (r.gain lane got)
  | .ldh _ w => let (s1, got) := State.loadLane .host w (s, []) x; s1.ioNext (r.gain lane got)
  | .ldv _ w => let (s1, got) := State.loadLane .ver w (s.refetch x.place, []) x; s1.ioNext (r.gain lane got)
  | .gld o _ => let (s1, got) := State.gldLane o (s, []) x; s1.ioNext (r.gain lane got)
  | .atg o m => s.remoteAtomic r o m x
  | .ath o m => if isNative o m then s.remoteAtomic r o m x else s.casLoop r o m x
  | _ => s.ioNext (r.without lane)

/-- 09 R246, 16 R414 to R416: the answer to a lane's request. One that no lane waits for changes nothing, and a device that no path reaches answers with
an error. -/
def execLoadReturn (req : ReqLane) (answer : Answer) (s : State) : Outcome State Fault Refusal :=
  .next (match s.io.find? fun r => r.id == req.id with
    | none => s
    | some r => match laneVal r.waits req.lane with
      | none => s
      | some p =>
        if answer == .error || s.noAnswer p then { s with cur := r.issue }.ioNext (r.fail req.lane 0x15)
        else s.answered r (r.ref req.lane p))

/-- Whether a place is in host memory. -/
def Place.isHost : Place → Bool
  | .win .. => true
  | _ => false

/-- 16 R414: a completion timeout on the host link is an error. -/
def execPcieCompletionTimeout (req : ReqLane) (s : State) : Outcome State Fault Refusal :=
  .next (match s.io.find? fun r => r.id == req.id with
    | none => s
    | some r => match laneVal r.waits req.lane with
      | none => s
      | some p => if p.isHost then { s with cur := r.issue }.ioNext (r.fail req.lane 0x15) else s)

end Sys2Proof.Machine
end

