-- ==== Sys2Proof/Machine/Sync.lean ====
section
/-! DEFINITION. Fences, phase instructions, versions and publication (spec/09 R261 to R267, R271, R272; spec/03 R98, R103;
spec/04 R123, R130). -/

namespace Sys2Proof.Machine

open Host (Outcome)

/-- 04 R119, R123: what a fence of lanes makes of the writes after it and of the reads before it; one at `.t` makes nothing. -/
def State.fenceSync (s : State) (order : Order) (scope : Scope) (lanes : List Nat) : State :=
  let k := scopeRank scope
  if k == 0 then s
  else
    let s1 := if isAcquire order then s.fenceAcqLanes s.cur.wg s.cur.gang k lanes else s
    let s2 := if order == .acqRel then { s1 with hb := lanes.foldl (fun h l => h.fullFence (s.me l) k) s1.hb } else s1
    if isRelease order then s2.fenceRelLanes s.cur.wg s.cur.gang k lanes else s2

/-- 09 R261, R262: `fence`. -/
def execFence (g : Guard) (order : Order) (scope : Scope) (s : State) : Outcome State Fault Refusal :=
  let caps := s.capture g {} (.v 0) (.v 0) (.v 0)
  .next (s.checked caps fun s =>
    s.releasing order scope (lanesOf caps) fun s =>
      ((s.acquiring order scope (lanesOf caps)).fenceSync order scope (lanesOf caps)).advance)

/-- The phase object at a place. -/
def phaseRefOf : Place → PhaseRef
  | .loc w off => .loc w off
  | .mem k (some i) => .ver (homeOf k) i
  | .mem k none => .glb k
  | .win .. => .glb 0

/-- The object that a phase instruction of a space names: a versioned page counts as such only in the versioned space (03 R100). -/
def objRef (sp : Space) (p : Place) : PhaseRef :=
  match sp, p with
  | .ver, p => phaseRefOf p
  | _, .mem k _ => .glb k
  | _, p => phaseRefOf p

/-- 09 R263: the object of a lane, checked: 16-byte alignment, and a home in this package. -/
def State.placeObj (s : State) (sp : Space) (acc : Acc) (a : Nat) : Except Nat Place :=
  match s.place sp acc s.cur.wg a 16 with
  | .ok (.mem k v) => if isPeer k then .error 0x32 else .ok (.mem k v)
  | r => r

/-- 09 R263: the objects of the lanes checked; events on versioned pages raise 0x1C (03 R103). DESIGN CHOICE: that cause comes before the checks of
the lane's address, among which the spec gives it no place (notes/assumptions/58.md). -/
def State.withObjs (s : State) (sp : Space) (acc : Acc) (caps : List Cap) (k : State → List LaneRef → State) : State :=
  let f := fun (c : Cap) => if sp == .ver && acc == .write then Except.error 0x1C else s.placeObj sp acc c.a
  match lowestFault (failed f (fun c => c.a) caps) with
  | some e => (s.recallLanes sp (fun c => c.a) caps).faultLanes caps e
  | none => k (s.cacheLanes sp (fun c => c.a) caps) (placed f caps)

/-- The kinds of the sources of a phase instruction. -/
def phaseKinds (sp : Space) : Kinds := { a := if wideSpace sp then .n64 else .n32, b := .n32, c := .n32 }

/-- 03 R107: the `phi` of a lane is recorded as an event too, with which a later store may race; a store that raced with it leaves the object undefined. -/
def State.phiLane (sp : Space) (raced : LaneRef → Bool) (s : State) (r : LaneRef) : State :=
  let s1 := s.hbAdd s.cur.wg s.cur.gang [r.cap.lane] (.event (objRef sp r.place))
  if raced r then s1.wildObj (objRef sp r.place) else s1

/-- 09 R264: `phi`: an ordinary write of the 16 bytes, which clears a poison (03 R89). -/
def execPhi (o : Op) (sp : Space) (s : State) : Outcome State Fault Refusal :=
  let caps := s.captureOp (phaseKinds sp) o
  let image (c : Cap) : Cap := { c with c := phaseToNum (phaseInit c.b c.c) }
  .next (s.acting caps (pair := s.pairOp (phaseKinds sp) o) fun s =>
    s.withObjs sp .write caps fun s all =>
      let refs := (all.filter fun r => (s.effective caps).contains r.cap).map fun r => { r with cap := image r.cap }
      let raced (r : LaneRef) : Bool := s.hb.storeRace (objRef sp r.place) (s.knownBy r.cap.lane)
      let events (t : State) : State := refs.foldl (State.phiLane sp raced) t
      if sp == .glb then
        (if refs.isEmpty then s.advance
         else s.withRoom (16 * refs.length) fun s =>
           (events (s.storeIssued.storeBuffered 16 (fun c => c.a) refs (undef := raced))).advance)
      else (events (s.storeLocal 16 refs)).advance)

/-- 09 R265: the arrivals of an issue, one event per lane in a free order, with the phase each counted toward. An object that an engine operation races with is
undefined as its lane finds it (04 R127). -/
def State.arriveLanes (s : State) (sp : Space) (refs : List LaneRef) : State × List (Nat × Nat) :=
  (s.freeOrder 2 (fun r => r.cap.lane) refs).foldl (fun x r =>
    let t := x.1.raceObj (x.1.me r.cap.lane) (objRef sp r.place)
    let e := t.phaseEvent (objRef sp r.place) r.cap.b r.cap.c (t.me r.cap.lane, t.knownBy r.cap.lane) true
    (e.st, (r.cap.lane, e.phase.toNat) :: x.2)) (s, [])

/-- The values that lanes get, in both copies of a shadow thread (15 R397), written to the destination. -/
def State.returnTo (s : State) (o : Op) (words : Nat) (res : List (Nat × Nat)) : State :=
  s.updIssue fun t =>
    match res.find? fun r => (s.copies r.1).contains t.lane with
    | some r => t.writeDst o words r.2
    | none => t

/-- 09 R265: an arrival is a release at the object's scope, and one event. -/
def State.arriveOp (s : State) (o : Op) (sp : Space) (bytes : Bool) : State :=
  let kinds := { phaseKinds sp with c := if bytes then .n32 else .unused }
  let caps := s.captureOp kinds o
  s.acting caps (pair := s.pairOp kinds o) fun s =>
    s.withObjs sp .write caps fun s all => s.unpoisoned 16 all fun s =>
      s.releasingObj (lanesOf caps) fun s =>
        let (s1, res) := s.arriveLanes sp (all.filter fun r => (s.effective caps).contains r.cap)
        (s1.returnTo o 1 res).advance

/-- 09 R265: `arv`. -/
def execArv (o : Op) (sp : Space) (s : State) : Outcome State Fault Refusal := .next (s.arriveOp o sp false)
/-- 09 R265: `arvb`. -/
def execArvb (o : Op) (sp : Space) (s : State) : Outcome State Fault Refusal := .next (s.arriveOp o sp true)

/-- 09 R266: the test of a lane. -/
def State.waitPassed (s : State) (sp : Space) (r : LaneRef) : Bool :=
  phasePassed (s.phaseBy s.cur.wg s.cur.gang r.cap.lane (objRef sp r.place)) (BitVec.ofNat 32 r.cap.b)

/-- 09 R266: lanes whose test is true acquire what the object's completions released. -/
def State.passLanes (s : State) (sp : Space) (refs : List LaneRef) : State :=
  { s with hb := refs.foldl (fun h r => h.passed (s.me r.cap.lane) (objRef sp r.place)) s.hb }

/-- 09 R266: `wph`: lanes whose test is true acquire and go on, the others become Waiting. -/
def execWph (o : Op) (sp : Space) (s : State) : Outcome State Fault Refusal :=
  let caps := s.captureOp { phaseKinds sp with c := .unused } o
  .next (s.checked caps fun s =>
    s.withObjs sp .read caps fun s refs => s.unpoisoned 16 refs fun s0 =>
      let s := refs.foldl (fun s r => s.recallAt r.place 16) s0
      let wait := refs.filter fun r => !s.waitPassed sp r
      let pass := refs.filter fun r => s.waitPassed sp r
      let at_ := s.cur.pc
      let s1 := s.passLanes sp pass
      let s2 := (s1.updIssue fun t =>
        match wait.find? fun r => r.cap.lane == t.lane with
        | some r => { t with
            st := .waiting
            wait := some { obj := objRef sp r.place, n := BitVec.ofNat 32 r.cap.b, at_ := at_, next := s.cur.next, past := s.cur.past } }
        | none => if s.cur.replay then t else t.goto s.cur.next s.cur.past).settle s.cur.wg s.cur.gang
      if wait.isEmpty then s2 else s2.endRun)

/-- 09 R266: `wph.try`. -/
def execWphTry (o : Op) (sp : Space) (s : State) : Outcome State Fault Refusal :=
  let caps := s.captureOp { phaseKinds sp with c := .unused } o
  .next (s.checked caps fun s =>
    s.withObjs sp .read caps fun s refs => s.unpoisoned 16 refs fun s0 =>
      let s := refs.foldl (fun s r => s.recallAt r.place 16) s0
      let pass := refs.filter fun r => s.waitPassed sp r
      ((s.passLanes sp pass).updIssue fun t =>
        if (lanesOf caps).contains t.lane then t.setPred o.d2 (pass.any fun r => r.cap.lane == t.lane) else t).advance)

/-! ### Versions -/

/-- 04 R119: what raises a step is a release at `.pkg`, of some accesses, by an agent. -/
def State.releaseStep (s : State) (r : PhaseRef) (who : Agent) (known : List Nat) : State :=
  { s with hb := s.hb.arrive r { by_ := who, rank := 4, pubs := known } true }

/-- 03 R102, 09 R271: one lane's `vpub` event; a record at its last step changes nothing. -/
def State.vpubLane (x : State × List (Nat × Nat) × List Nat) (r : LaneRef) : State × List (Nat × Nat) × List Nat :=
  match r.place with
  | .mem k (some i) =>
    let old := x.1.stepOf (homeOf k) i
    let l := r.cap.lane
    if old == 0xFFFFFFFF then (x.1, x.2.1, x.2.2 ++ [l])
    else (((x.1.setStep (homeOf k) i (old + 1)).releaseStep (.ver (homeOf k) i) (x.1.me l) (x.1.knownBy l)).wake (.ver (homeOf k) i), (l, (old + 1).toNat) :: x.2.1, x.2.2)
  | _ => x

/-- 09 R271: the place of a `vpub`: a versioned page homed in this package. -/
def State.placeVer (s : State) (a : Nat) : Except Nat Place :=
  match s.place .ver .write s.cur.wg a 1 with
  | .ok (.mem k v) => if isPeer k then .error 0x32 else .ok (.mem k v)
  | r => r

/-- 09 R271: `vpub`. -/
def execVpub (o : Op) (s : State) : Outcome State Fault Refusal :=
  let caps := s.captureOp { a := .n64 } o
  .next (s.acting caps (pair := s.pairOp { a := .n64 } o) fun s =>
    match lowestFault (failed (fun c => s.placeVer c.a) (fun c => c.a) caps) with
    | some e => (s.recallLanes .ver (fun c => c.a) caps).faultLanes caps e
    | none =>
      let refs := placed (fun c => s.placeVer c.a) (s.effective caps)
      (s.cacheLanes .ver (fun c => c.a) caps).releasingObj (lanesOf caps) fun s =>
        let (s1, res, full) := refs.foldl State.vpubLane (s, [], [])
        let s2 := (if res.isEmpty then s1 else s1.committed).returnTo o 1 res
        if full.isEmpty then s2.advance
        else
          let lanes := full.flatMap fun l => s.copies l
          let bad := caps.filter fun c => lanes.contains c.lane
          let va := match bad.find? fun c => c.lane == lowest full with
            | some c => BitVec.ofNat 64 c.a
            | none => 0
          s2.trapIssue 0x1D full (lanesOf bad) bad va 0)

/-! ### Publication -/

/-- 09 R272: whether a window number names no open window. -/
def State.closed (s : State) (n : Nat) : Bool := !((s.part s.curPart).windows.any fun w => w.idx == n)

/-- 09 R272: `publish`: a commit point; the write-out of each lane follows by itself. -/
def execPublish (o : Op) (s : State) : Outcome State Fault Refusal :=
  let caps := s.captureOp { a := .n32 } o
  .next (s.acting caps (pair := s.pairOp { a := .n32 } o) fun s =>
    match lowestFault ((caps.filter fun c => s.closed c.a).map fun c => (c.lane, 0x1B, BitVec.ofNat 64 c.a)) with
    | some f => s.faultLanes caps f
    | none =>
      s.releasing .rel .sys (lanesOf caps) fun s =>
        let wins := (s.effective caps).map fun c => (c.a, ({ by_ := s.me c.lane, rank := scopeRank .sys, pubs := s.knownBy c.lane } : Release))
        let s1 := s.updPart s.curPart fun q => { q with publishes := q.publishes ++ wins }
        (if wins.isEmpty then s1 else s1.committed).advance)

/-- Bytes of a window's shadow written to host memory (16 R413). -/
def writeOut (s : State) (w : Window) (m : List Host.Cell) : List Nat → List Host.Cell
  | [] => m
  | i :: r => writeOut s w (setByte m (w.haddr + i) (s.homeByte (w.shadow + i))) r

/-- 03 R98, 04 R119, R130, 16 R413: the write-out of a `publish`: the marked bytes, then the counter, whose increment releases. -/
def execPublishWriteout (part win : Nat) (s : State) : Outcome State Fault Refusal :=
  .next (match (s.part part).publishes.find? fun x => x.1 == win with
    | none => s
    | some x =>
      let w := s.window part win
      let n := w.count + 1
      let s1 := { s.unstaged part w with
        hostMem := setNum (writeOut s w s.hostMem (s.staging part w)) w.ctr 8 n.toNat
        hb := ((s.hb.cut (.host w.ctr) 8).chain s.hb (.host w.ctr) 8).tag (.host w.ctr) 8 [x.2] }
      s1.updPart part fun q => { q with
        publishes := q.publishes.erase x
        windows := updWhere (fun y => y.idx == win) (fun y => { y with count := n }) q.windows })

end Sys2Proof.Machine
end

