-- ==== Sys2Proof/Machine/Mcas.lean ====
section
/-! DEFINITION. The multi-word compare-and-swap (spec/09 R255 to R260) and circular buffers (R268 to R270, spec/03 R108, R109). -/

namespace Sys2Proof.Machine

open Host (Outcome)

/-! ### `mcas` -/

/-- 09 R256, R257: the block at an offset of a local store. -/
def State.mcasBlock (s : State) (w off : Nat) : McasBlock :=
  let h := s.lsNum w off 16
  let count := bits h 7 0
  let width := bits h 15 8
  let entry (i : Nat) : McasEntry :=
    { addr := s.lsNum w (off + 16 + 24 * i) 8, expect := s.lsNum w (off + 24 + 24 * i) 8, new := s.lsNum w (off + 32 + 24 * i) 8 }
  let es := (List.range count).map entry
  { count := count, width := width, entries := es
    ok := 1 ≤ count && count ≤ 8 && (width == 4 || width == 8) && bits h 23 16 == 4 && bits h 31 24 == 0 && bits h 127 64 == 0 &&
      (width == 8 || es.all fun e => e.expect < 2 ^ 32 && e.new < 2 ^ 32) }

/-- A failed check: cause, address, and the entry that a translation fault names. -/
structure McasFault where
  code : Nat
  addr : Nat
  entry : Nat := 0
  deriving DecidableEq, Repr, Inhabited

/-- 03 R85, 09 R273: whether an address, which is none of a global byte, lies in a host window that is open (notes/assumptions/46.md). -/
def State.inHost (s : State) (a : Nat) : Bool := 2 ^ 58 ≤ a && (s.placeWin s.cur.wg a 1).isOk

/-- The entries of a block translated in ascending order: their keys, or the first fault. An entry in a host window has no translation, and a key that is not of this
package (09 R273). -/
def State.mcasKeys (s : State) : Nat → List McasEntry → Except McasFault (List Nat)
  | _, [] => .ok []
  | i, e :: r =>
    if s.inHost e.addr then (match s.mcasKeys (i + 1) r with
      | .error f => .error f
      | .ok ks => .ok ((physSpan + e.addr) :: ks))
    else match s.xlate (unitCore s.core) s.curPart e.addr .write with
    | .error c => .error { code := c, addr := e.addr, entry := i }
    | .ok l => match s.mcasKeys (i + 1) r with
      | .error f => .error f
      | .ok ks => .ok (l.key e.addr :: ks)

/-- Whether two of some ranges of `n` bytes meet. -/
def anyOverlap (n : Nat) : List Nat → Bool
  | [] => false
  | k :: r => (r.any fun j => overlap k n j n) || anyOverlap n r

/-- 09 R258: the checks of a block at an offset that need no memory, in their order. -/
def State.mcasBlockCheck (s : State) (off : Nat) (b : McasBlock) : Except McasFault McasBlock :=
  let size := s.lsSize s.cur.wg
  if off % 16 != 0 then .error { code := 0x18, addr := off }
  else if 2 ^ 22 ≤ off || size < off + 16 || size < off + 16 + 24 * b.count then .error { code := 0x19, addr := off }
  else if !b.ok then .error { code := 0x30, addr := off }
  else match b.entries.find? fun e => e.addr % b.width != 0 with
    | some e => .error { code := 0x18, addr := e.addr }
    | none => .ok b

/-- 09 R258: the checks of the entries of a block in their order. -/
def State.mcasEntryCheck (s : State) (off : Nat) (b : McasBlock) : Except McasFault (McasBlock × List Nat) :=
  match s.mcasKeys 0 b.entries with
  | .error f => .error f
  | .ok ks =>
    match (ks.zip b.entries).find? fun x => isPeer x.1 with
    | some x => .error { code := 0x32, addr := x.2.addr }
    | none => if anyOverlap b.width ks then .error { code := 0x31, addr := off } else .ok (b, ks)

/-- 09 R258: the checks of one lane in their order; bytes of its block that race with an engine operation are undefined (04 R127). -/
def State.mcasCheck (s : State) (lane off : Nat) : Except McasFault (McasBlock × List Nat) :=
  match s.mcasBlockCheck off ((s.raceBytes (s.me lane) (.loc s.cur.wg off) 208).mcasBlock s.cur.wg off) with
  | .error f => .error f
  | .ok b => s.mcasEntryCheck off b

/-- The addresses of some entries whose translation is tried, up to the first that fails. -/
def State.mcasTried (s : State) : List McasEntry → List Nat
  | [] => []
  | e :: r =>
    if s.inHost e.addr then s.mcasTried r
    else e.addr :: (match s.xlate (unitCore s.core) s.curPart e.addr .write with
      | .error _ => []
      | .ok _ => s.mcasTried r)

/-- 09 R258: the comparison bits of one lane with what it observed. -/
def mcasMask : Nat → List McasEntry → List Nat → Nat
  | _, [], _ => 0
  | _, _, [] => 0
  | i, e :: es, o :: os => (if o == e.expect then 0 else 2 ^ i) + mcasMask (i + 1) es os

/-- The bytes of a lane's block. -/
def McasLane.size (m : McasLane) : Nat := 16 + 24 * m.blk.count

/-- The observed values written back into a block (09 R258). -/
def State.putExpects (s : State) (lane w : Nat) : Nat → List Nat → State
  | _, [] => s
  | at_, x :: r => (s.laneWrite .rlx .t lane w at_ (toBytesLE x 8)).putExpects lane w (at_ + 24) r

/-- 09 R258, 04 R133: one lane's event on memory: its mask and what it observed. Its release is on its writes, its acquire on its reads. -/
def State.mcasEvent (s : State) (order : Order) (m : McasLane) : State × Nat × List Nat :=
  let n := m.blk.width
  let s := m.keys.foldl (fun s k => s.recall k n) s
  let obs := m.keys.map fun k => s.numBy m.lane (.mem k none) n
  let mask := mcasMask 0 m.blk.entries obs
  let s1 := m.keys.foldl (fun s k => s.readSync s.hb.tags order .pkg m.lane (.mem k none) n) s
  (if mask == 0 then (m.keys.zip m.blk.entries).foldl (fun s e => s.putRmw order .pkg m.lane (.mem e.1 none) n e.2.new) s1.committed else s1, mask, obs)

/-- 09 R258: the writes of a lane to its block, after its event. -/
def State.mcasBlockWrites (s : State) (m : McasLane) (mask : Nat) (obs : List Nat) : State :=
  let w := s.cur.wg
  (if mask == 0 then s else s.putExpects m.lane w (m.off + 24) obs).laneWrite .rlx .t m.lane w (m.off + 4)
    (toBytesLE (2 ^ 31 + (if mask == 0 then 2 ^ 8 else 0) + mask) 4)

/-- 09 R260: the fields of a block that several lanes name become undefined. -/
def State.mcasShared (s : State) (m : McasLane) : State :=
  s.updWg s.cur.wg fun x => (List.range m.blk.count).foldl (fun x i => x.wildLs (m.off + 24 + 24 * i) 8) (x.wildLs (m.off + 4) 4)

/-- 09 R260: the other lanes of an issue whose block has a byte of a lane's, at another offset. -/
def mcasMeets (ms : List McasLane) (m : McasLane) : Bool := ms.any fun x => x.off != m.off && overlap x.off x.size m.off m.size

/-- 09 R258, R260: one lane's event and its writes to its block. A block that another lane names too is left with undefined fields; a block that another
lane's writes reach at another offset, or that has been written since the `mcas` issued, is left undefined, and so are the result and the predicate, each by
itself. -/
def State.mcasLane (order : Order) (ms : List McasLane) (x : State × List (Nat × Nat × Bool)) (m : McasLane) : State × List (Nat × Nat × Bool) :=
  let (s1, mask, obs) := x.1.mcasEvent order m
  let s2 := s1.mcasBlockWrites m mask obs
  if m.spoiled || mcasMeets ms m then
    (s2.updWg s2.cur.wg fun y => y.wildLs m.off m.size,
      (m.lane, (s2.free [10, m.lane, 0]).toNat % 2 ^ 32, (s2.free [10, m.lane, 1]).getLsbD 0) :: x.2)
  else (if ms.any fun y => y.lane != m.lane && y.off == m.off then s2.mcasShared m else s2, (m.lane, mask, mask == 0) :: x.2)

/-- 09 R258: the events of an issue and their results. -/
def State.mcasEvents (s : State) (order : Order) (ms : List McasLane) : State × List (Nat × Nat × Bool) :=
  (s.freeOrder 3 (fun m => m.lane) ms).foldl (State.mcasLane order ms) (s, [])

/-- 04 R133: whether one of the events of an issue succeeds: the release of one that fails synchronises with nothing. -/
def State.mcasWrites (s : State) (order : Order) (ms : List McasLane) : Bool :=
  ((s.freeOrder 3 (fun m => m.lane) ms).foldl (fun (x : State × Bool) m =>
    let (s1, mask, obs) := x.1.mcasEvent order m
    (s1.mcasBlockWrites m mask obs, x.2 || mask == 0)) (s, false)).2

/-- 09 R258: the events of an issue carried out. -/
def State.mcasNow (s : State) (o : Op) (order : Order) (ms : List McasLane) : State :=
  let (s1, res) := s.mcasEvents order ms
  ((s1.acquiring order .pkg (ms.map fun m => m.lane)).updIssue fun t =>
    match res.find? fun r => (s.copies r.1).contains t.lane with
    | some r => (t.writeDst o 1 r.2.1).setPred o.d2 r.2.2
    | none => t).advance

/-- Whether a waiting `mcas` is the one at which the current issue stands. -/
def State.mcasHere (s : State) (x : McasWait) : Bool := x.pc == s.cur.pc && x.replay == s.cur.replay

/-- The lanes of the current issue that wait in its `mcas` since an earlier issue. -/
def State.mcasKept (s : State) : List McasLane :=
  (((s.gang s.cur.wg s.cur.gang).mcas.filter s.mcasHere).flatMap fun x => x.lanes).filter fun m => s.cur.lanes.contains m.lane

/-- 09 R260: the lanes of the current issue wait in its `mcas`, or, with none, wait no more; those of other issues go on waiting. -/
def State.mcasKeep (s : State) (ms : List McasLane) : State :=
  let others := (((s.gang s.cur.wg s.cur.gang).mcas.filter s.mcasHere).flatMap fun x => x.lanes).filter fun m => !s.cur.lanes.contains m.lane
  if ms.isEmpty && (s.gang s.cur.wg s.cur.gang).mcas.isEmpty then s
  else s.updGang s.cur.wg s.cur.gang fun g =>
    { g with mcas := (if (ms ++ others).isEmpty then [] else [{ pc := s.cur.pc, replay := s.cur.replay, lanes := ms ++ others }]) ++
        g.mcas.filter fun x => !s.mcasHere x }

/-- 09 R255, R258: the lanes of an `mcas` that have passed their checks: the buffered stores to its containers come first, for which it waits with the blocks
that it has (R260); then its events. -/
def State.mcasRun (s : State) (o : Op) (order : Order) (caps : List Cap) (ms : List McasLane) : State :=
  let ranges := ms.flatMap fun m => m.keys.map fun k => (k, m.blk.width)
  let s1 := ranges.foldl (fun s r => s.commitRange s.cur.wg (.mem r.1) r.2) s
  if !(ranges.all fun r => s1.rangeClear s1.cur.wg (.mem r.1) r.2) then s1.waitHere.mcasKeep ms
  else if !s1.mcasWrites order ms then (s1.mcasKeep []).mcasNow o order ms
  else
    let (s2, ok) := if caps.isEmpty then (s1, true) else s1.released order .pkg
    if ok then (s2.mcasKeep []).mcasNow o order ms else s2.waitHere.mcasKeep ms

/-- 09 R258, R260: the checks of a lane: one that waits has its block, and translates its entries again (16 R405); another reads its block. -/
def State.mcasLaneCheck (s : State) (c : Cap) : Except McasFault McasLane :=
  match s.mcasKept.find? fun m => m.lane == c.lane with
  | some m => (match s.mcasEntryCheck m.off m.blk with
    | .error f => .error f
    | .ok (_, ks) => .ok { m with keys := ks })
  | none => match s.mcasCheck c.lane c.a with
    | .error f => .error f
    | .ok (b, ks) => .ok { lane := c.lane, off := c.a, blk := b, keys := ks }

/-- 16 R403, R417: the walks of a lane's translations, kept where they succeed. -/
def State.mcasTouch (s : State) (c : Cap) : State :=
  let b := match s.mcasKept.find? fun m => m.lane == c.lane with
    | some m => some m.blk
    | none => (s.mcasBlockCheck c.a ((s.raceBytes (s.me c.lane) (.loc s.cur.wg c.a) 208).mcasBlock s.cur.wg c.a)).toOption
  match b with
  | some b => (s.mcasTried b.entries).foldl (fun s a => s.cache (unitCore s.core) s.curPart a) s
  | none => s

/-- 09 R255 to R260: `mcas`. A block that holds an uncorrectable word passes its checks before it kills (notes/assumptions/45.md). A lane that waits has been
checked, but for its translations. -/
def execMcas (o : Op) (order : Order) (s : State) : Outcome State Fault Refusal :=
  let caps := s.captureOp { a := .n32 } o
  .next (s.acting caps (pair := s.pairOp { a := .n32 } o) fun s =>
    let fs := caps.filterMap fun c => match s.mcasLaneCheck c with
      | .error f => some (c.lane, f)
      | .ok _ => none
    let touched := caps.foldl State.mcasTouch s
    match lowestFault (fs.map fun x => (x.1, x.2.code, BitVec.ofNat 64 x.2.addr)) with
    | some f =>
      let info := match laneVal fs (lowest f.2.1) with
        | some x => x.entry
        | none => 0
      touched.faultLanes caps f info
    | none =>
      let ms := (s.effective caps).filterMap fun c => (s.mcasLaneCheck c).toOption
      if ms.any fun m => (s.wg s.cur.wg).lsBad m.off m.size then s.kill s.cur.wg 0x52
      else touched.mcasRun o order caps ms)

/-! ### Circular buffers -/

/-- A circular-buffer descriptor (03 R108). -/
structure Cbuf where
  base : Nat
  slotsz : Nat
  nslot : Nat
  fillph : Nat
  freeph : Nat
  putseq : Nat
  getseq : Nat
  filled : Nat
  freed : Nat
  zeros : Bool
  deriving DecidableEq, Repr, Inhabited

/-- 03 R108: the fields of 64 bytes. -/
def cbufOf (x : Nat) : Cbuf :=
  { base := bits x 21 0, slotsz := bits x 77 64, nslot := bits x 102 96, fillph := bits x 149 128, freeph := bits x 181 160
    putseq := bits x 223 192, getseq := bits x 255 224, filled := bits x 287 256, freed := bits x 319 288
    zeros := bits x 63 22 == 0 && bits x 95 78 == 0 && bits x 127 103 == 0 && bits x 159 150 == 0 && bits x 191 182 == 0 &&
      bits x 511 320 == 0 }

/-- 09 R270: whether a descriptor's fields keep 03 R108 in an allocation of `size` bytes. -/
def Cbuf.ok (d : Cbuf) (size : Nat) : Bool :=
  1 ≤ d.nslot && d.nslot ≤ 64 && 1 ≤ d.slotsz && d.slotsz ≤ 8192 && d.zeros && d.base % 128 == 0 && d.fillph % 16 == 0 &&
  d.freeph % 16 == 0 && d.base + 128 * d.slotsz * d.nslot ≤ size && d.fillph + 16 * d.nslot ≤ size && d.freeph + 16 * d.nslot ≤ size

/-- The descriptor at an offset of a workgroup's local store. -/
def State.cbufAt (s : State) (w off : Nat) : Cbuf := cbufOf (s.lsNum w off 64)

/-- 09 R270: the checks of a descriptor: the cause of the first that fails. -/
def State.cbufCheck (s : State) (w off : Nat) : Option Nat :=
  if off % 64 != 0 then some 0x18
  else if 2 ^ 22 ≤ off || s.lsSize w < off + 64 then some 0x19
  else if !(s.cbufAt w off).ok (s.lsSize w) then some 0x34
  else none

/-- One 32-bit field of a descriptor written; blocks and sources of commands in flight that hold it are spoiled (10 R277, R304). -/
def State.setCbuf (s : State) (w off word x : Nat) : State :=
  (s.lsWrite w (off + 4 * word) (toBytesLE x 4)).unitSpoil (.loc w (off + 4 * word)) 4 s.uid

/-- 04 R127: the descriptors of lanes as their accesses meet them: bytes of an engine operation whose completion a lane has not acquired are undefined. -/
def State.raceCbufs (s : State) (caps : List Cap) : State := caps.foldl (fun s c => s.raceBytes (s.me c.lane) (.loc s.cur.wg c.a) 64) s

/-- The checks of all lanes of `cbget` or `cbput`. A descriptor that holds an uncorrectable word passes them before it kills
(notes/assumptions/45.md); `reads` says what else of the local store a lane reads. -/
def State.withCbufs (s : State) (caps : List Cap) (bad : Cap → Bool) (reads : Cap → List (Nat × Nat)) (k : State → State) : State :=
  let w := s.cur.wg
  let fault (c : Cap) : Option Nat := match (s.raceCbufs [c]).cbufCheck w c.a with
    | some x => some x
    | none => if bad c then some 0x34 else none
  match lowestFault (caps.filterMap fun c => (fault c).map fun x => (c.lane, x, BitVec.ofNat 64 c.a)) with
  | some f => s.faultLanes caps f
  | none => if caps.any fun c => ((c.a, 64) :: reads c).any fun r => (s.wg w).lsBad r.1 r.2 then s.kill w 0x52 else k (s.raceCbufs caps)

/-- Whether a slot count keeps its slots when a sequence number wraps (09 R268). -/
def slotsWrap (n : Nat) : Bool := 2 ^ 32 % n == 0

/-- 09 R268: one lane's `cbget`: slot, lap and fill phase. After 2^32 gets a slot count that is no power of two leaves the counters undefined. -/
def State.cbgetLane (x : State × List (Nat × Nat × Nat)) (c : Cap) : State × List (Nat × Nat × Nat) :=
  let s := x.1
  let w := s.cur.wg
  let d := s.cbufAt w c.a
  let q := d.getseq
  let i := q % d.nslot
  let s1 := s.setCbuf w c.a 7 ((q + 1) % 2 ^ 32)
  (if q + 1 == 2 ^ 32 && !slotsWrap d.nslot then s1.updWg w fun y => y.wildLs (c.a + 24) 16 else s1,
    (c.lane, i + 2 ^ 32 * (q / d.nslot), d.fillph + 16 * i) :: x.2)

/-- 09 R268: `cbget`. -/
def execCbget (o : Op) (s : State) : Outcome State Fault Refusal :=
  let caps := s.captureOp { a := .n32 } o
  .next (s.acting caps (pair := s.pairOp { a := .n32 } o) fun s =>
    s.withCbufs caps (fun _ => false) (fun _ => []) fun s =>
      let (s1, res) := (s.freeOrder 4 (fun c : Cap => c.lane) (s.effective caps)).foldl State.cbgetLane (s, [])
      (s1.updIssue fun t =>
        match res.find? fun r => (s.copies r.1).contains t.lane with
        | some r =>
          let u := t.writeDst o 2 r.2.1
          if o.d2 == 0 then u else u.setV o.d2 (BitVec.ofNat 32 r.2.2)
        | none => t).advance)

/-- 03 R109: the completion of a free phase: `FREE` and `FILLED` in the same event. -/
def State.slotFreed (s : State) (w off : Nat) : State :=
  let d := s.cbufAt w off
  (s.setCbuf w off 9 ((d.freed + 1) % 2 ^ 32)).setCbuf w off 8 ((d.filled + 2 ^ 32 - 1) % 2 ^ 32)

/-- 09 R269: `FREE`, `FILLED` and a slot's bytes become undefined. -/
def State.slotLost (s : State) (w off i : Nat) : State :=
  let d := s.cbufAt w off
  s.updWg w fun x => (x.wildLs (off + 32) 8).wildLs (d.base + 128 * d.slotsz * i) (128 * d.slotsz)

/-- Whether a count of laps of a slot is ahead of another; sequence numbers wrap (09 R268). -/
def lapAhead (n a b : Nat) : Bool :=
  let m := 2 ^ 32 / n
  let d := (a % m + m - b % m) % m
  0 < d && d < m / 2

/-- 09 R269: whether a slot is in no lap that its free phase has not released: none that a producer has claimed, a reader has taken, or a fill has
completed (notes/assumptions/47.md). -/
def State.slotIdle (s : State) (w off i : Nat) : Bool :=
  let d := s.cbufAt w off
  let laps (q : Nat) : Nat := (q + d.nslot - 1 - i) / d.nslot
  let free := (s.phaseAt (.loc w (d.freeph + 16 * i))).toNat
  !lapAhead d.nslot (laps d.putseq) free && !lapAhead d.nslot (laps d.getseq) free &&
    !lapAhead d.nslot (s.phaseAt (.loc w (d.fillph + 16 * i))).toNat free

/-- 09 R269: one lane's `cbput`: one arrival on the free phase of its slot. -/
def State.cbputLane (s : State) (c : Cap) : State :=
  let w := s.cur.wg
  let d := s.cbufAt w c.a
  let excess := s.slotIdle w c.a c.b
  let obj := PhaseRef.loc w (d.freeph + 16 * c.b)
  let e := (s.raceObj (s.me c.lane) obj).phaseEvent obj 1 0 (s.me c.lane, s.knownBy c.lane) true
  if excess then e.st.slotLost w c.a c.b else if e.done then e.st.slotFreed w c.a else e.st

/-- 09 R269: `cbput`. -/
def execCbput (o : Op) (s : State) : Outcome State Fault Refusal :=
  let caps := s.captureOp { a := .n32, b := .n32 } o
  .next (s.acting caps (pair := s.pairOp { a := .n32, b := .n32 } o) fun s =>
    let w := s.cur.wg
    let d (c : Cap) : Cbuf := (s.raceCbufs [c]).cbufAt w c.a
    s.withCbufs caps (fun c => (d c).nslot ≤ c.b) (fun c => [((d c).freeph + 16 * c.b, 16)]) fun s =>
      s.releasingObj (lanesOf caps) fun s =>
        ((s.freeOrder 5 (fun c : Cap => c.lane) (s.effective caps)).foldl State.cbputLane s).advance)

end Sys2Proof.Machine
end

