-- ==== Sys2Proof/Machine/Engine.lean ====
section
/-! DEFINITION. What every engine command shares (spec/10 R274 to R280): the block and its checks, acceptance lane by lane under the limit of
R276, stops, writes to the block, completion arrivals, and the engines' own accesses to memory. -/

namespace Sys2Proof.Machine

open Host (Outcome)

/-- 10 R277: a block of `n` bytes in a workgroup's local store. -/
def State.blockAt (s : State) (w off n : Nat) : Nat := s.lsNum w off n

/-- 10 R277: alignment, then the allocation, then the fields. -/
def State.blockCheck (s : State) (w off al n : Nat) (fields : Nat → Option Nat) : Option Nat :=
  if off % al != 0 then some 0x18
  else if 2 ^ 22 ≤ off || s.lsSize w < off + n then some 0x19
  else fields (s.blockAt w off n)

/-- 10 R277: a range inside an allocation. -/
def State.inAlloc (s : State) (w a n : Nat) : Bool := a < 2 ^ 22 && a + n ≤ s.lsSize w

/-- The lowest of two causes (15 R379). -/
def lowerCode : Option Nat → Option Nat → Option Nat
  | none, y => y
  | x, none => x
  | some x, some y => some (min x y)

/-- A cause raised when a test fails. -/
def need (ok : Bool) (code : Nat) : Option Nat := if ok then none else some code

/-- 10 R284, 03 R104: the completion object of a block: misaligned 0x18, outside 0x19. -/
def State.complCheck (s : State) (w off : Nat) : Option Nat :=
  if off % 16 != 0 then some 0x18 else need (s.inAlloc w off 16) 0x19

/-- The captures of an engine command with one block offset. -/
def State.captureBlk (s : State) (o : Op) : List Cap := s.captureOp { a := .n32 } o

/-- 10 R277: every lane's block checked; a failure traps precisely. Reading a poisoned block kills the cluster before its fields are
checked, and a poisoned word of what else the checks read kills it after them (03 R89; notes/assumptions/45.md). `touch` says what the checks of a lane translate
(16 R403, R417). -/
def State.withBlocks (s : State) (caps : List Cap) (al n : Nat) (check : Cap → Option Nat) (k : State → State)
    (more : Cap → List (Nat × Nat) := fun _ => []) (touch : State → Cap → State := fun s _ => s) : State :=
  let w := s.cur.wg
  if (caps.all fun c => c.a % al == 0 && s.inAlloc w c.a n) && caps.any (fun c => (s.wg w).lsBad c.a n) then s.kill w 0x52
  else match lowestFault (caps.filterMap fun c => (check c).map fun x => (c.lane, x, BitVec.ofNat 64 c.a)) with
    | some f => (caps.foldl touch s).faultLanes caps f
    | none => if caps.any fun c => (more c).any fun r => (s.wg w).lsBad r.1 r.2 then s.kill w 0x52 else k (caps.foldl touch s)

/-- 10 R275: the lanes that an engine could not take stay at the instruction; the others advance. -/
def State.advanceBut (s : State) (later : List Cap) : State :=
  if later.isEmpty then s.advance
  else
    let lanes := later.flatMap fun c => s.copies c.lane
    if s.cur.replay then
      s.updGang s.cur.wg s.cur.gang fun g =>
        { g with reinject := s.curEntry lanes (s.cur.caps.filter fun c => lanes.contains c.lane) 0 false :: g.reinject }
    else (s.updIssue fun t => if lanes.contains t.lane then t else t.goto s.cur.next s.cur.past).settle s.cur.wg s.cur.gang

/-- 10 R276: the operations of a workgroup that its engines have accepted and not completed. -/
def State.engineLoad (s : State) (w : Nat) : Nat := (s.eops.filter fun o => o.wg == w).length

/-- Who a lane of the current issue is, as an engine records it. -/
def State.issuer (s : State) (lane : Nat) : Issuer :=
  let tn := match s.threads.find? fun t => t.wg == s.cur.wg && t.gang == s.cur.gang && t.lane == lane with
    | some t => s.tnumOf t
    | none => 0
  { wg := s.cur.wg, gang := s.cur.gang, lane := lane, tnum := tn, pc := s.cur.pc, word := s.cur.word }

/-- 10 R277: whether the current issue puts back the command of an operation whose block has been written since it was issued first. -/
def State.againBad (s : State) : Bool := match s.cur.kind with
  | .command _ _ _ bad => bad
  | _ => false

/-- A new operation of a lane of the current issue, with what its completion releases (04 R127), and what an `mma` is sure to read (04 R128). Issued again
after its block was written, its effect is undefined (10 R277). -/
def State.newOp (s : State) (kind : EKind) (c : Cap) (n : Nat) : EOp :=
  let b := s.issuer c.lane
  { uid := s.uid, kind := kind, wg := b.wg, gang := b.gang, lane := b.lane, tnum := b.tnum, pc := b.pc, word := b.word, blk := c.a
    block := s.blockAt s.cur.wg c.a n
    pubs := s.uid :: s.knownBy c.lane
    sees := (s.hb.view (s.me c.lane)).ofence
    born := (match s.cur.kind with | .command _ first .. => first | _ => s.uid)
    again := (match s.cur.kind with | .command .. => true | _ => false)
    undef := s.againBad }

/-- What an operation's completion knows and releases, in its thread's name (04 R118, R127). -/
def State.opEvent (s : State) (o : EOp) : Agent × List Nat := (s.agent o.wg o.gang o.lane, o.pubs)

/-- 10 R277: another command names the block of one in flight: its own writes into it, by which that block's fields are undefined, begin. -/
def State.reuse (s : State) (a : SyncAt) (n : Nat) (uid : Nat) : State := s.spoilBlocks a n (some uid)

/-- 10 R277: whether a block of `n` bytes is one of a command in flight. -/
def State.inFlight (s : State) (w blk n : Nat) : Bool :=
  let a := SyncAt.loc w blk
  (s.eops.any fun x => x.holds a n) || (s.sends.any fun x => a.inBlock n x.by_.wg x.send.blk) || (s.contribs.any fun x => a.inBlock n x.by_.wg x.blk) ||
  (s.seals.any fun x => a.hits n [(.loc x.by_.wg x.blk, 128)]) || s.parts.any fun q => q.armed.any fun x => a.inBlock n x.by_.wg x.send.blk

/-- 10 R277: a command names a block. Where that has bytes of the block of another in flight, the fields of both are undefined, which is answered. -/
def State.claimBlock (s : State) (w blk n uid : Nat) : State × Bool :=
  if s.inFlight w blk n then (s.reuse (.loc w blk) n uid, true) else (s, false)

/-- An operation enters its engine: its accesses are recorded, in the place of those of the operation that it resumes (10 R279). -/
def State.addOp (s : State) (o : EOp) (bytes : List (SyncAt × Nat)) (tiles : List (Nat × Nat)) : State :=
  let (s1, meets) := s.claimBlock o.wg o.blk o.kind.blockBytes o.uid
  let h := match s.cur.kind with
    | .command old .. => s.hb.resume old o.uid
    | _ => s.hb
  { s1 with
    uid := s.uid + 1
    eops := s1.eops ++ [{ o with spoiled := meets || s.againBad }]
    hb := { h with pend := { uid := o.uid, what := .op o.kind bytes tiles, wg := o.wg, gang := o.gang } :: h.pend } }

/-- 10 R275 to R277, 04 R127: THE issue of a gouge, `mma` or `drain` command: checks of every lane, and acceptance in ascending lane order up to the
limit. -/
def State.engineOp (s : State) (o : Op) (al n : Nat) (check : State → Nat → Option Nat) (accept : State → Cap → State)
    (more : State → Nat → List (Nat × Nat) := fun _ _ => []) : State :=
  let caps := s.captureBlk o
  s.acting caps (pair := s.pairOp { a := .n32 } o) fun s =>
    s.withBlocks caps al n (fun c => check s c.a) (more := fun c => more s c.a) fun s =>
      let all := s.effective caps
      let room := Config.maxEngineOps - s.engineLoad s.cur.wg
      if !all.isEmpty && room == 0 then s.waitHere
      else ((all.take room).foldl accept s).advanceBut (all.drop room)

/-! ### Operations at work -/

/-- An operation in flight. -/
def State.eop (s : State) (u : Nat) : Option EOp := s.eops.find? fun o => o.uid == u

/-- Whether the workgroup of an operation is on its core. -/
def State.opRuns (s : State) (o : EOp) : Bool := (s.wg o.wg).st == .resident || (s.wg o.wg).st == .draining

/-- An operation replaced. -/
def State.updOp (s : State) (u : Nat) (f : EOp → EOp) : State := { s with eops := updWhere (fun o => o.uid == u) f s.eops }

/-- An operation leaves its engine. -/
def State.dropOp (s : State) (u : Nat) : State := { s with eops := s.eops.filter fun o => o.uid != u }

/-- 10 R279, R306: an asynchronous engine trap made pending for the gang that issued a command: its entry holds the command's sources, the block and, of
an armed send, the counter and the threshold. -/
def State.postEngine (s : State) (b : Issuer) (blk ctr thr : Nat) (kind : EntryKind) (code addr : Nat) : State :=
  s.addPending b.wg b.gang
    { exited := s.laneExited b.wg b.gang b.lane, cause := code, pc := b.pc, mask := [b.lane], addr := BitVec.ofNat 64 addr, tnum := b.tnum
      entry := { kind := kind, faulted := true, code := code, pc := b.pc, mask := [b.lane], word := b.word
                 caps := [{ lane := b.lane, a := blk, b := ctr, c := thr }] } }

/-- The issuer of an operation. -/
def EOp.by_ (o : EOp) : Issuer := { wg := o.wg, gang := o.gang, lane := o.lane, tnum := o.tnum, pc := o.pc, word := o.word }

/-- 10 R279: an operation stops: it leaves its engine and its trap is pending. -/
def State.stopOp (s : State) (o : EOp) (code addr : Nat) : State :=
  (s.dropOp o.uid).postEngine o.by_ o.blk 0 0 (.command o.uid o.born o.kind.blockBytes o.spoiled) code addr

/-- A 32-bit field that an engine writes into the block of a command of some number; blocks of other commands that hold it are spoiled (10 R277). -/
def State.putField (s : State) (w off : Nat) (x : Nat) (uid : Nat) : State := (s.lsWrite w off (toBytesLE x 4)).spoilBlocks (.loc w off) 4 (some uid)

/-- 10 R277: a field that an engine writes to the block of an operation; in a block written meanwhile it is undefined. -/
def State.opField (s : State) (o : EOp) (off x : Nat) : State :=
  let s1 := s.putField o.wg (o.blk + off) x o.uid
  if o.spoiled then s1.wildAt (.loc o.wg (o.blk + off)) 4 else s1

/-- 04 R128, 10 R277, R304, R307: bytes that an operation writes to the local store of its workgroup, under its own number or that of a part of its work; blocks and
sources of commands in flight that hold them are spoiled. -/
def State.opPut (s : State) (o : EOp) (off : Nat) (bs : List Byte) (item : Nat := o.uid) : State :=
  (s.lsWrite o.wg off bs (some item)).unitSpoil (.loc o.wg off) bs.length item

/-- 10 R285, 04 R127: such bytes; those of an operation whose result is undefined are. -/
def State.opWrite (s : State) (o : EOp) (off : Nat) (bs : List Byte) (item : Nat := o.uid) : State :=
  if o.undef then (s.opPut o off bs item).wildAt (.loc o.wg off) bs.length else s.opPut o off bs item

/-- 03 R105, R89: arrivals or byte credits at a local phase object by an engine; an uncorrectable one kills the cluster. -/
def State.engineArrive (s : State) (w off cnt bytes : Nat) (ev : Agent × List Nat) : PhaseOut :=
  if (s.wg w).lsBad off 16 then { st := s.kill w 0x52, phase := 0, done := false }
  else s.phaseEvent (.loc w off) cnt bytes ev

/-! ### Engine accesses to global memory -/

/-- 10 R285, R294: bytes of global memory read through the issuing workgroup's store buffer: the keys of a range, or the cause and address
of the first fault; 0x15 where no path reaches a peer, 0x3E for uncorrectable memory. -/
def State.engineKeys (s : State) (unit w : Nat) (acc : Acc) (a n : Nat) : Except (Nat × Nat) (List (Nat × Nat)) :=
  match s.xlateRange unit (s.partOf w) acc (a % 2 ^ 64) n with
  | .error f => .error f
  | .ok l =>
    if l.any fun k => s.unreachable k.1 then .error (0x15, a % 2 ^ 64)
    else if acc == .read && l.any fun k => s.bad k.1 k.2 then .error (0x3E, a % 2 ^ 64)
    else .ok l

/-- The bytes of global memory that a range is translated to; none where it faults. -/
def State.globalSpan (s : State) (unit w a n : Nat) : List (SyncAt × Nat) :=
  match s.xlateRange unit (s.partOf w) .read (a % 2 ^ 64) n with
  | .error _ => []
  | .ok l => l.map fun k => (.mem k.1, k.2)

/-- 16 R403, R417: a unit keeps the translations of a range that it accesses, and the held words of its lines are recalled. -/
def State.engineTouch (s : State) (unit p a n : Nat) : State :=
  let s1 := s.cacheRange unit p (a % 2 ^ 64) n
  if s1.hot.isEmpty then s1
  else match s1.xlateRange unit p .read (a % 2 ^ 64) n with
    | .error _ => s1
    | .ok l => l.foldl (fun s k => s.recall k.1 k.2) s1

/-- Bytes of global memory as an engine of a workgroup reads them. -/
def State.engineRead (s : State) (unit w a n : Nat) : Except (Nat × Nat) (List Byte) :=
  match s.engineKeys unit w .read a n with
  | .error f => .error f
  | .ok l => .ok (l.flatMap fun k => s.readThrough w k.1 k.2)

/-- Bytes written at their ordering points, by a recorded access or another: at a peer's home after this package's dirty bytes of those lines, whose copies
go. -/
def State.globalWrite (s : State) (k : Nat) (bs : List Byte) (item : Option Nat := none) : State :=
  if isPeer k then
    let hit (l : RdcLine) : Bool := lineOf k ≤ l.line && l.line ≤ lineOf (k + bs.length - 1)
    let s1 := s.rdcWriteBack hit
    let s2 := { s1 with rdc := s1.rdc.filter fun l => !hit l }.writeMem k bs item
    { s2 with hb := s2.hb.written (.mem k) bs.length item }
  else s.homeWrite k bs item

/-- A write that a unit of the package makes, recorded under a number. -/
def State.unitItem (s : State) : State × Nat := (s.hbAdd 0 0 [] .store, s.uid)

/-- 03 R107, 04 R119, R120, R128: a store of the host or of a peer to memory, at its ordering point: a phase object on which an event races with it is undefined, and what
sends and contributions have not read of the bytes is (10 R304, R307). -/
def State.outerWrite (s : State) (who : Agent) (k : Nat) (bs : List Byte) : State :=
  let (s1, item) := s.noteItem who .outer
  let s2 := (((s1.recall k bs.length).writeMem k bs item).wildObjs (s.hb.known who) (.mem k) bs.length).spoilReads (.mem k) bs.length s.uid
  { s2 with hb := s2.outerTags (s2.hb.written (.mem k) bs.length item) who (.mem k) bs.length item }

/-- Bytes written over translated pieces. -/
def State.writePieces (s : State) (l : List (Nat × Nat)) (bs : List Byte) (item : Option Nat := none) : State :=
  match l with
  | [] => s
  | (k, n) :: r => (s.globalWrite k (bs.take n) item).writePieces r (bs.drop n) item

/-- Bytes that an access, recorded under a number, of an engine writes over translated pieces; sources of commands in flight that hold them are spoiled (10 R304, R307). -/
def State.storePieces (s : State) (l : List (Nat × Nat)) (bs : List Byte) (item : Nat) : State :=
  l.foldl (fun s k => s.spoilReads (.mem k.1) k.2 item) (s.writePieces l bs (some item))

/-- Bytes that an operation writes over translated pieces (04 R127). -/
def State.opPieces (s : State) (o : EOp) (l : List (Nat × Nat)) (bs : List Byte) : State :=
  let s1 := s.storePieces l bs o.uid
  if o.undef then s1.wildAll (l.map fun k => (.mem k.1, k.2)) else s1

/-- 04 R122, 10 R299: a workgroup's buffered stores to translated pieces applied first. -/
def State.applyPieces (s : State) (w : Nat) (l : List (Nat × Nat)) : State := l.foldl (fun s k => s.commitRange w (.mem k.1) k.2) s

/-- Whether none of them is left. -/
def State.piecesClear (s : State) (w : Nat) (l : List (Nat × Nat)) : Bool := l.all fun k => s.rangeClear w (.mem k.1) k.2

/-- 10 R280, 15 R391: the workgroup has committed. -/
def State.commitWg (s : State) (w : Nat) : State := s.updWg w fun x => { x with committed := true }

end Sys2Proof.Machine
end

