-- ==== Sys2Proof/Machine/Gouge.lean ====
section
/-! DEFINITION. The gouge (spec/10 R281 to R289): blocks and their checks, expansion (spec/02 R57 to R64), compression (R73, R288), bit planes,
and the events of an operation at work. -/

namespace Sys2Proof.Machine

open Host (Outcome)

/-- A gouge block (10 R281). -/
structure GBlock where
  gaddr : Nat
  gscale : Nat
  size0 : Nat
  size1 : Nat
  size2 : Nat
  size3 : Nat
  stride1 : Nat
  stride2 : Nat
  stride3 : Nat
  lpitch : Nat
  laddr : Nat
  sfmt : Nat
  lfmt : Nat
  swz : Nat
  scen : Bool
  lscale : Nat
  nplane : Nat
  compl : Nat
  cmode : Bool
  rnd : Nat
  progress : Nat
  status : Nat
  seq : Nat
  zeros : Bool
  deriving DecidableEq, Repr, Inhabited

/-- 10 R281: the fields of 64 bytes. -/
def gblockOf (x : Nat) : GBlock :=
  { gaddr := bits x 63 0, gscale := bits x 127 64, size0 := bits x 143 128, size1 := bits x 159 144, size2 := bits x 175 160
    size3 := bits x 191 176, stride1 := bits x 223 192, stride2 := bits x 255 224, stride3 := bits x 287 256
    lpitch := bits x 307 288, laddr := bits x 341 320, sfmt := bits x 345 342, lfmt := bits x 348 346, swz := bits x 350 349
    scen := bitAt x 351, lscale := bits x 373 352, nplane := bits x 377 374, compl := bits x 405 384, cmode := bitAt x 406
    rnd := bits x 408 407, progress := bits x 447 416, status := bits x 479 448, seq := bits x 511 480
    zeros := bits x 319 308 == 0 && bits x 383 378 == 0 && bits x 415 409 == 0 }

/-- 10 R283: rows. -/
def GBlock.rows (b : GBlock) : Nat := b.size1 * b.size2 * b.size3

/-- 10 R282: bits of an element on the local side. -/
def localBits (k : EKind) (lfmt : Nat) : Nat :=
  match k, lfmt with
  | .gst, 1 => 16
  | .gst, _ => 32
  | .gpl, _ => 8
  | _, 2 => 4
  | _, 1 | _, 4 | _, 5 => 16
  | _, _ => 8

/-- 10 R282: bits of an element in its storage format. -/
def storeBits (sfmt : Nat) : Nat :=
  match sfmt with
  | 0 | 7 => 4
  | 1 | 2 => 6
  | 3 | 4 | 8 => 8
  | 5 | 6 | 11 => 16
  | 10 | 12 => 32
  | _ => 1

/-- 10 R283: bytes of a local row. -/
def GBlock.rowBytes (b : GBlock) (k : EKind) : Nat := b.size0 * localBits k b.lfmt / 8

/-- 10 R283: chunks of a swizzle period. -/
def swzPeriod (swz : Nat) : Nat := if swz == 0 then 1 else 2 ^ (swz + 1)

/-- 10 R283: where byte `o` of local row `r` lies in the row; the map is its own inverse. -/
def swzByte (swz r o : Nat) : Nat := if swz == 0 then o else 16 * ((o / 16) ^^^ (r % swzPeriod swz)) + o % 16

/-- 10 R283: bytes of a row moved between element order and place. -/
def swizzle (swz r : Nat) (bs : List Byte) : List Byte := if swz == 0 then bs else (List.range bs.length).map fun o => (bs[swzByte swz r o]?).getD 0

/-- 10 R283: the global address of a row. -/
def GBlock.row (b : GBlock) (r : Nat) : Nat :=
  b.gaddr + r % b.size1 * b.stride1 + r / b.size1 % b.size2 * b.stride2 + r / b.size1 / b.size2 * b.stride3

/-- 02 R57: bytes of a plane. -/
def GBlock.plane (b : GBlock) : Nat := 128 * ((b.size0 * b.rows + 1023) / 1024)

/-! ### Checks -/

/-- 02 R61, 10 R284: the pairs of `gcp`. -/
def gcpPair (b : GBlock) : Bool :=
  match b.sfmt with
  | 0 => b.lfmt == 0 || b.lfmt == 1
  | 1 | 2 | 3 | 4 => b.lfmt == 1
  | 5 => b.lfmt == 4
  | 6 => b.lfmt == 5
  | 7 => b.lfmt == 2 || b.lfmt == 3
  | 8 => b.lfmt == 3
  | 9 => (b.lfmt == 2 && 2 ≤ b.nplane && b.nplane ≤ 4) || (b.lfmt == 3 && 5 ≤ b.nplane && b.nplane ≤ 8)
  | _ => false

/-- 10 R284: the size and alignment conditions of both directions. -/
def GBlock.shape (b : GBlock) (s4 : Bool) : Bool :=
  1 ≤ b.size0 && 1 ≤ b.size1 && 1 ≤ b.size2 && 1 ≤ b.size3 &&
  (!(b.sfmt == 0 || b.sfmt == 7 || s4) || b.size0 % 2 == 0) &&
  (!(b.sfmt == 1 || b.sfmt == 2) || b.size0 % 4 == 0) &&
  (!(b.sfmt == 5 || b.sfmt == 6) || (b.gaddr % 2 == 0 && b.stride1 % 2 == 0 && b.stride2 % 2 == 0 && b.stride3 % 2 == 0)) &&
  b.zeros

/-- 10 R284, R289: a linear bit-plane tensor. -/
def GBlock.linear (b : GBlock) : Bool := b.stride1 == 0 && b.stride2 == 0 && b.stride3 == 0 && b.gscale == 0 && b.gaddr % 128 == 0

/-- 10 R284: storage formats that take a block scale. -/
def scaled (sfmt : Nat) : Bool := sfmt ≤ 4

/-- 10 R284: the local side within `bound` bytes. -/
def GBlock.localOk (b : GBlock) (k : EKind) (bound : Nat) : Bool :=
  let rb := b.rowBytes k
  let m := swzPeriod b.swz
  b.laddr % 16 == 0 && b.lpitch % 16 == 0 && rb ≤ b.lpitch && (b.swz == 0 || (b.lpitch % (16 * m) == 0 && rb % (16 * m) == 0)) &&
  b.laddr + (b.rows - 1) * b.lpitch + rb ≤ bound && (!b.scen || b.lscale + b.rows * (b.size0 / 32) ≤ bound)

/-- 10 R284: the conditions of `gcp` that no other object enters. -/
def GBlock.gcpOk (b : GBlock) : Bool :=
  gcpPair b && b.shape (b.lfmt == 2) &&
  (b.gscale == 0 || (scaled b.sfmt && b.scen)) && (!b.scen || b.size0 % 32 == 0) &&
  (if b.sfmt == 9 then b.linear else b.nplane == 0) && b.rnd == 0 && b.progress ≤ b.rows

/-- 10 R287: whether `gst` converts a local format into a storage format. -/
def gstPair (b : GBlock) : Bool :=
  let float := b.sfmt ≤ 6 || b.sfmt == 10
  (b.lfmt ≤ 1 && float) || (b.lfmt == 2 && (float || b.sfmt == 7 || b.sfmt == 8 || b.sfmt == 11 || b.sfmt == 12))

/-- 10 R287: the conditions of `gst`. -/
def GBlock.gstOk (b : GBlock) : Bool :=
  gstPair b && b.shape false && b.rnd ≤ 2 && !b.cmode && b.nplane == 0 && !b.scen &&
  (b.gscale == 0 || (scaled b.sfmt && b.size0 % 32 == 0)) && b.progress ≤ b.rows

/-- 10 R289: the conditions of `gpl`; a `PROGRESS` above the planes fails too (notes/assumptions/48.md). -/
def GBlock.gplOk (b : GBlock) : Bool :=
  b.sfmt == 9 && b.lfmt == 3 && 1 ≤ b.nplane && b.nplane ≤ 8 && b.linear && !b.scen && b.swz == 0 && !b.cmode && b.rnd == 0 &&
  b.shape false && b.progress ≤ b.nplane

/-- 10 R284: the whole check of a block of an engine command; where several conditions fail the lowest code is raised
(notes/assumptions/15.md). -/
def State.gougeFields (s : State) (k : EKind) (w x : Nat) : Option Nat :=
  let b := gblockOf x
  let ok := match k with
    | .gst => b.gstOk
    | .gpl => b.gplOk
    | _ => b.gcpOk
  if k == .gcp && b.cmode then
    match s.cbufCheck w b.compl with
    | some c => lowerCode (some c) (need ok 0x33)
    | none => need (ok && b.localOk k (128 * (s.cbufAt w b.compl).slotsz)) 0x33
  else lowerCode (s.complCheck w b.compl) (need (ok && b.localOk k (s.lsSize w)) 0x33)

/-- 10 R283: the bytes of the rows of a block in a local store, from a base on. -/
def GBlock.localRows (b : GBlock) (k : EKind) (w base : Nat) : List (SyncAt × Nat) :=
  (List.range b.rows).map fun r => (.loc w (base + b.laddr + r * b.lpitch), b.rowBytes k)

/-- 10 R283: the scale bytes of a block in a local store, from a base on. -/
def GBlock.localScales (b : GBlock) (w base : Nat) : List (SyncAt × Nat) :=
  if b.scen then [(.loc w (base + b.lscale), b.rows * (b.size0 / 32))] else []

/-- 10 R283: the bytes of a block in global memory: rows and scales, or planes. -/
def State.globalRows (s : State) (k : EKind) (b : GBlock) : List (SyncAt × Nat) :=
  let span := s.globalSpan (unitGouge s.core) s.cur.wg
  if b.sfmt == 9 || k == .gpl then (List.range b.nplane).flatMap fun j => span (b.gaddr + j * b.plane) b.plane
  else ((List.range b.rows).flatMap fun r => span (b.row r) (b.size0 * storeBits b.sfmt / 8)) ++
    (if b.gscale == 0 then [] else span b.gscale (b.rows * (b.size0 / 32)))

/-- 10 R283: the local bytes of one row of a `gcp`, from a base on, and of its scales. -/
def GBlock.rowDest (b : GBlock) (w base r : Nat) : List (SyncAt × Nat) :=
  (.loc w (base + b.laddr + r * b.lpitch), b.rowBytes .gcp) ::
    (if b.scen then [(.loc w (base + b.lscale + r * (b.size0 / 32)), b.size0 / 32)] else [])

/-- 10 R285: the base that a `gcp` adds to its local addresses, and the phase it credits. -/
def GBlock.target (b : GBlock) (d : Cbuf) (seq : Nat) : Nat × Nat :=
  if b.cmode then
    let i := seq % d.nslot
    (d.base + 128 * d.slotsz * i, d.fillph + 16 * i)
  else (0, b.compl)

/-- The local bytes that a `gcp` writes: the rows and scales of its block, or the slot that it has claimed. -/
def GBlock.gcpDest (b : GBlock) (d : Cbuf) (w seq : Nat) (claimed : Bool) : List (SyncAt × Nat) :=
  if !b.cmode then b.localRows .gcp w 0 ++ b.localScales w 0
  else if claimed then [(.loc w (d.base + 128 * d.slotsz * (seq % d.nslot)), 128 * d.slotsz)] else []

/-- 04 R127, 10 R286: those of the local bytes that a `gcp` has still to credit. -/
def GBlock.gcpRest (b : GBlock) (d : Cbuf) (w seq : Nat) (claimed : Bool) : List (SyncAt × Nat) :=
  let base := (b.target d seq).1
  ((List.range b.progress).flatMap fun r => b.rowDest w base r).foldl (fun l r => cutPlaces l r.1 r.2) (b.gcpDest d w seq claimed)

/-- A gouge command accepted: the bytes that it writes, and those of its operands (04 R127). -/
def State.acceptGouge (k : EKind) (s : State) (c : Cap) : State :=
  let o := s.newOp k c 64
  let b := gblockOf o.block
  let w := s.cur.wg
  let dest := match k with
    | .gcp => b.gcpDest (s.cbufAt w b.compl) w b.seq (bitAt b.status 30)
    | _ => s.globalRows k b
  let src := match k with
    | .gcp => s.globalRows k b
    | _ => b.localRows k w 0
  let rest := match k with
    | .gcp => b.gcpRest (s.cbufAt w b.compl) w b.seq (bitAt b.status 30)
    | _ => dest
  s.addOp { o with progress := b.progress, status := b.status, seq := b.seq, dest := dest, span := dest ++ src } rest []

/-- 09 R270: the descriptor that the checks of a `gcp` read. -/
def State.gcpReads (s : State) (a : Nat) : List (Nat × Nat) :=
  let b := gblockOf (s.blockAt s.cur.wg a 64)
  if b.cmode then [(b.compl, 64)] else []

/-- 10 R281, R284: `gcp`. -/
def execGcp (o : Op) (s : State) : Outcome State Fault Refusal :=
  .next (s.engineOp o 64 64 (fun s a => s.blockCheck s.cur.wg a 64 64 (s.gougeFields .gcp s.cur.wg)) (State.acceptGouge .gcp)
    (more := State.gcpReads))
/-- 10 R281, R287: `gst`. -/
def execGst (o : Op) (s : State) : Outcome State Fault Refusal :=
  .next (s.engineOp o 64 64 (fun s a => s.blockCheck s.cur.wg a 64 64 (s.gougeFields .gst s.cur.wg)) (State.acceptGouge .gst))
/-- 10 R281, R289: `gpl`. -/
def execGpl (o : Op) (s : State) : Outcome State Fault Refusal :=
  .next (s.engineOp o 64 64 (fun s a => s.blockCheck s.cur.wg a 64 64 (s.gougeFields .gpl s.cur.wg)) (State.acceptGouge .gpl))

/-! ### `gcp` -/

/-- Element `i` of a packed array (02 R51). -/
def packed (x n i : Nat) : Nat := x / 2 ^ (n * i) % 2 ^ n

/-- Elements packed in order (02 R51). -/
def packElems (n : Nat) : List Nat → Nat
  | [] => 0
  | x :: r => x % 2 ^ n + 2 ^ n * packElems n r

/-- 10 R282: the floating-point storage formats. -/
def sfmtFloat (sfmt : Nat) : Option Fmt :=
  match sfmt with
  | 0 => some .fp4
  | 1 => some .fp6e2
  | 2 => some .fp6e3
  | 3 => some .fp8e4
  | 4 => some .fp8e5
  | 5 => some .bf16
  | 6 => some .f16
  | 10 => some .f32
  | _ => none

/-- 02 R62: fp4 to k6: of the data of 11 R321, 1, 2 and 6 become 0x01, 0x02 and 0x0C. -/
def k6OfFp4 (x : Nat) : Nat := (([0x00, 0x01, 0x02, 0x03, 0x04, 0x06, 0x0C, 0x0E] : List Nat)[x % 8]?).getD 0 + 32 * (x / 8 % 2)

/-- 10 R285, 02 R61 to R64, 11 R321: one element expanded; `nan` says that its block scale is 0xFF. -/
def expandElem (sfmt lfmt : Nat) (nan : Bool) (x : Nat) : Nat :=
  match sfmt, lfmt with
  | 0, 0 => k6OfFp4 x
  | 7, 3 => zext (sext x 4) 8
  | 5, _ => (Fmt.bf16.ofVal .rn (Fmt.bf16.decode x)).bits
  | 6, _ => (Fmt.f16.ofVal .rn (Fmt.f16.decode x)).bits
  | _, 1 => if nan then Fmt.k12.nan else match sfmtFloat sfmt with
    | some F => (Fmt.k12.ofVal .rn (F.decode x)).bits
    | none => 0
  | _, _ => x

/-- 02 R58: element `i` of a bit-plane tensor from the bytes of its planes, each starting at element `base`'s byte. -/
def planeElem (planes : List (List Byte)) (base i : Nat) : Int :=
  let k := planes.length
  let x := planes.foldl (fun a p => 2 * a + (bitAt ((p[i / 8 - base / 8]?).getD 0).toNat (i % 8)).toNat) 0
  sext x k

/-- The bytes of each plane that hold a row's elements. -/
def State.planeBytes (s : State) (unit w : Nat) (b : GBlock) (i n : Nat) : Nat → Except (Nat × Nat) (List (List Byte))
  | 0 => .ok []
  | k + 1 =>
    match s.planeBytes unit w b i n k with
    | .error f => .error f
    | .ok l => match s.engineRead unit w (b.gaddr + k * b.plane + i / 8) ((i + n - 1) / 8 - i / 8 + 1) with
      | .error f => .error f
      | .ok p => .ok (l ++ [p])

/-- What a `gcp` row writes: its row bytes in element order, and its scale bytes, those of an MX source as they are (11 R321). -/
def State.gcpRow (s : State) (unit w : Nat) (b : GBlock) (r : Nat) : Except (Nat × Nat) (List Byte × List Byte) :=
  let n := b.size0
  let lb := localBits .gcp b.lfmt
  let ng := n / 32
  let scales : Except (Nat × Nat) (List Byte) :=
    if !b.scen then .ok []
    else if b.sfmt == 9 then .ok (List.replicate ng (BitVec.ofNat 8 (135 - b.nplane)))
    else if b.gscale == 0 then .ok (List.replicate ng 0x7F)
    else s.engineRead unit w (b.gscale + r * ng) ng
  if b.sfmt == 9 then
    match s.planeBytes unit w b (n * r) n b.nplane, scales with
    | .ok ps, .ok sc => .ok (toBytesLE (packElems lb ((List.range n).map fun i => zext (planeElem ps (n * r) (n * r + i)) lb)) (b.rowBytes .gcp), sc)
    | .error f, _ => .error f
    | _, .error f => .error f
  else
    match s.engineRead unit w (b.row r) (n * storeBits b.sfmt / 8), scales with
    | .ok bs, .ok sc =>
      let x := ofBytesLE bs
      let nan (i : Nat) : Bool := sc[i / 32]? == some 0xFF
      .ok (toBytesLE (packElems lb ((List.range n).map fun i => expandElem b.sfmt b.lfmt (nan i) (packed x (storeBits b.sfmt) i))) (b.rowBytes .gcp), sc)
    | .error f, _ => .error f
    | _, .error f => .error f

/-- 10 R285: the base that a `gcp` adds to its local addresses, and the phase it credits. -/
def State.gcpTarget (s : State) (o : EOp) (b : GBlock) : Nat × Nat := b.target (s.cbufAt o.wg b.compl) o.seq

/-- 03 R109: `CBUF_PRODUCER_CLAIM`: the gouge claims a slot once `FREE` is above zero. -/
def State.claim (s : State) (o : EOp) : State :=
  let b := gblockOf o.block
  let d := s.cbufAt o.wg b.compl
  if (s.wg o.wg).lsBad b.compl 64 then s.kill o.wg 0x52
  else if d.freed == 0 then s
  else
    let s1 := (s.setCbuf o.wg b.compl 9 (d.freed - 1)).setCbuf o.wg b.compl 6 ((d.putseq + 1) % 2 ^ 32)
    let st := o.status ||| 2 ^ 30
    let dest := b.gcpDest d o.wg d.putseq true
    let s2 := ((s1.opField o 60 d.putseq).opField o 56 st).updOp o.uid fun o =>
      { o with seq := d.putseq, status := st, dest := dest, span := dest ++ o.span }
    { s2 with hb := { s2.hb with pend := updWhere (fun u => u.uid == o.uid) (fun u => { u with what := .op .gcp (b.gcpRest d o.wg d.putseq true) [] }) s2.hb.pend } }

/-- Whether a `gcp` still has to claim its slot (10 R285). -/
def EOp.unclaimed (o : EOp) : Bool := o.kind == .gcp && (gblockOf o.block).cmode && !bitAt o.status 30

/-- 03 R109, 10 R285: the producer claim of an operation; it stalls with no effect while `FREE` is 0. -/
def execCbufProducerClaim (op : Nat) (s : State) : Outcome State Fault Refusal :=
  .next (match s.eop op with
    | some o => if s.opRuns o && o.unclaimed then s.claim o else s
    | none => s)

/-- Blocks of a gouge: `PROGRESS` and `STATUS` written (10 R281). -/
def State.putGouge (s : State) (o : EOp) (progress status : Nat) : State :=
  (s.opField o 52 progress).opField o 56 status

/-- 10 R285: a row credited: the phase, by an event, and on a fill phase's completion `FILLED` (03 R109). -/
def State.credit (s : State) (o : EOp) (b : GBlock) (ph n : Nat) (ev : Agent × List Nat) : State :=
  let e := s.engineArrive o.wg ph 0 n ev
  if e.done && b.cmode then
    if (e.st.wg o.wg).lsBad b.compl 64 then e.st.kill o.wg 0x52 else
    let d := e.st.cbufAt o.wg b.compl
    e.st.setCbuf o.wg b.compl 8 ((d.filled + 1) % 2 ^ 32)
  else e.st

/-- 10 R285: the last row of a `gcp` is done: `STATUS` and `PROGRESS`, then the operation leaves the gouge. -/
def State.gcpEnd (s : State) (o : EOp) (b : GBlock) : State := (s.putGouge o b.rows (o.status ||| 2 ^ 31)).dropOp o.uid

/-- 16 R403, R417: a gouge keeps the translations that the next row or plane of an operation uses, and held words of the lines that it reads are
recalled. -/
def State.gougeTouch (s : State) (o : EOp) (b : GBlock) : State :=
  let touch (a n : Nat) (s : State) : State := s.engineTouch (unitGouge (s.wg o.wg).core) (s.partOf o.wg) a n
  let r := o.progress
  let n := b.size0
  if o.kind == .gpl then touch (b.gaddr + r * b.plane) b.plane s
  else
    let s1 := if b.sfmt == 9 then (List.range b.nplane).foldl (fun s k => touch (b.gaddr + k * b.plane + n * r / 8) ((n * r + n - 1) / 8 - n * r / 8 + 1) s) s
      else touch (b.row r) (n * storeBits b.sfmt / 8) s
    if b.gscale == 0 then s1 else touch (b.gscale + r * (n / 32)) (n / 32) s1

/-- 10 R285: one row of a `gcp`. A descriptor that reads uncorrectable kills the cluster (03 R89). The credit of a row releases it and the rows before it, that of the
last one the operation (04 R127). -/
def State.gcpStep (s : State) (o : EOp) (b : GBlock) : State :=
  let (base, ph) := s.gcpTarget o b
  if b.rows ≤ o.progress then s.gcpEnd o b
  else if b.cmode && (s.wg o.wg).lsBad b.compl 64 then s.kill o.wg 0x52
  else
    match s.gcpRow (unitGouge (s.wg o.wg).core) o.wg b o.progress with
    | .error _ => s
    | .ok (row, sc) =>
      let r := o.progress
      let s0 := s.gougeTouch o b
      let u := s0.uid
      let s1 := (s0.landPart o.uid .gcp o.wg o.gang (b.rowDest o.wg base r)).opWrite o (base + b.laddr + r * b.lpitch) (swizzle b.swz r row) u
      let s2 := s1.opWrite o (base + b.lscale + r * sc.length) sc u
      let pubs := u :: o.pubs
      let last := r + 1 == b.rows
      let s3 := if last then s2.gcpEnd o b else s2.updOp o.uid fun o => { o with progress := r + 1, pubs := pubs }
      s3.credit o b ph (row.length + sc.length) ((s.opEvent o).1, if last then pubs else pubs.filter fun x => x != o.uid)

/-- 10 R285: `GOUGE_ROW_DONE`: the next row of a `gcp` is written and credited. Where the row meets a fault the operation stops instead
(`ENGINE_STOP`). -/
def execGougeRowDone (op : Nat) (s : State) : Outcome State Fault Refusal :=
  .next (match s.eop op with
    | some o => if s.opRuns o && o.kind == .gcp && !o.unclaimed then s.gcpStep o (gblockOf o.block) else s
    | none => s)

/-! ### `gst` -/

/-- 10 R281: `RND` of `gst`. -/
def gougeRnd (x : Nat) : Rnd := if x == 1 then .rz else if x == 2 then .ro else .rn

/-- 10 R288: a local element as a value. -/
def gstVal (lfmt x : Nat) : Val :=
  match lfmt with
  | 0 => Fmt.f32.decode x
  | 1 => Fmt.bf16.decode x
  | _ => Val.ofInt (sext x 32)

/-- A converted element with its `SAT` and `INVALID` indications (10 R288). -/
structure GElem where
  d : Nat
  sat : Bool := false
  invalid : Bool := false
  deriving DecidableEq, Repr, Inhabited

/-- 10 R288: one element converted alone. A NaN into fp8e4 sets `INVALID`, which R288 lists by name (notes/assumptions/22.md). -/
def gstElem (sfmt lfmt rnd x : Nat) : GElem :=
  match sfmtFloat sfmt with
  | some F =>
    let c := cvtToFloat F (gougeRnd rnd) (gstVal lfmt x)
    { d := c.d, invalid := c.invalid || (sfmt == 3 && gstVal lfmt x == .nan) }
  | none =>
    let n := storeBits sfmt
    let y := clampInt true n (sext x 32)
    { d := zext y n, sat := y != sext x 32 }

/-- A value divided by a power of two. -/
def unscale (k : Int) : Val → Val
  | .fin n m e => .fin n m (e - k)
  | v => v

/-- 02 R73: the exponent of the largest value of an element format. -/
def emaxOf (sfmt : Nat) : Int := if sfmt == 4 then 15 else if sfmt == 3 then 8 else if sfmt == 2 then 4 else 2

/-- floor(log2 |v|) of the largest finite nonzero magnitude. -/
def topLog : List Val → Option Int
  | [] => none
  | .fin _ m e :: r =>
    if m == 0 then topLog r
    else match topLog r with
      | some x => some (max x (e + (Nat.log2 m : Int)))
      | none => some (e + (Nat.log2 m : Int))
  | _ :: r => topLog r

/-- 02 R73, 10 R288: a block of 32 values compressed: its scale, its elements, and whether `INVALID` is set. -/
def mxBlock (sfmt rnd : Nat) (vs : List Val) : Nat × List Nat × Bool :=
  match sfmtFloat sfmt with
  | none => (0x7F, [], false)
  | some F =>
    let isInf (v : Val) : Bool := match v with
      | .inf _ => true
      | _ => false
    if vs.any fun v => v == .nan || (isInf v && F.kind != .ieee) then (0xFF, vs.map fun _ => 0, true)
    else match topLog vs with
      | none => (0x7F, vs.map fun v => (F.ofVal .rn v).bits, false)
      | some t =>
        let c : Nat := (t - emaxOf sfmt + 127).toNat
        let one (v : Val) : Nat × Bool :=
          match unscale ((c : Int) - 127) v with
          | .fin n m e =>
            if m == 0 then (F.signBit n, false)
            else
              let r := F.round (gougeRnd rnd) n m e
              if F.maxCode < r.bits % 2 ^ (F.e + F.f) then (F.signBit n + F.maxCode, true) else (r.bits, r.clamped)
          | u => ((F.ofVal .rn u).bits, false)
        (c, vs.map fun v => (one v).1, (vs.map fun v => (one v).2).any id)

/-- Values in blocks of 32. -/
def blocksOf {α : Type} : Nat → List α → List (List α)
  | 0, _ => []
  | k + 1, l => l.take 32 :: blocksOf k (l.drop 32)

/-- What a `gst` row writes: its bytes, its scale bytes, and the status bits it sets. -/
def gstRow (b : GBlock) (row : List Byte) : List Byte × List Byte × Nat :=
  let n := b.size0
  let lb := localBits .gst b.lfmt
  let sb := storeBits b.sfmt
  let x := ofBytesLE row
  let len := n * sb / 8
  if b.gscale == 0 then
    let es := (List.range n).map fun i => gstElem b.sfmt b.lfmt b.rnd (packed x lb i)
    (toBytesLE (packElems sb (es.map (·.d))) len, [], (if es.any (·.sat) then 2 else 0) + (if es.any (·.invalid) then 1 else 0))
  else
    let vs := (List.range n).map fun i => gstVal b.lfmt (packed x lb i)
    let ms := (blocksOf (n / 32) vs).map (mxBlock b.sfmt b.rnd)
    (toBytesLE (packElems sb (ms.flatMap (·.2.1))) len, ms.map (fun m => BitVec.ofNat 8 m.1), if ms.any (·.2.2) then 1 else 0)

/-- 10 R288: the pieces of a row's bytes and of its scales, translated for writing. -/
def State.gstKeys (s : State) (o : EOp) (b : GBlock) (r : Nat) : Except (Nat × Nat) (List (Nat × Nat) × List (Nat × Nat)) :=
  let u := unitGouge (s.wg o.wg).core
  match s.engineKeys u o.wg .write (b.row r) (b.size0 * storeBits b.sfmt / 8) with
  | .error f => .error f
  | .ok l =>
    if b.gscale == 0 then .ok (l, [])
    else match s.engineKeys u o.wg .write (b.gscale + r * (b.size0 / 32)) (b.size0 / 32) with
      | .error f => .error f
      | .ok m => .ok (l, m)

/-- 10 R288, R289: the end of a `gst` or `gpl`: status, progress, and one arrival on `COMPL`. -/
def State.gstEnd (s : State) (o : EOp) (b : GBlock) (total status : Nat) : State :=
  ((s.putGouge o total (status ||| 2 ^ 31)).dropOp o.uid).engineArrive o.wg b.compl 1 0 (s.opEvent o) |>.st

/-- 10 R288: one row of a `gst`. -/
def State.gstStep (s : State) (o : EOp) (b : GBlock) : State :=
  let r := o.progress
  let off := b.laddr + r * b.lpitch
  let n := b.rowBytes .gst
  if b.rows ≤ r then s.gstEnd o b b.rows o.status
  else if (s.wg o.wg).lsBad off n then s.kill o.wg 0x52
  else match s.gstKeys o b r with
    | .error _ => s
    | .ok (l, m) =>
      let s1 := (s.gougeTouch o b).applyPieces o.wg (l ++ m)
      if !s1.piecesClear o.wg (l ++ m) then s1
      else
        let (bs, sc, st) := gstRow b (swizzle b.swz r (s1.lsRead o.wg off n))
        let s2 := ((s1.opPieces o l bs).opPieces o m sc).commitWg o.wg
        let st := o.status ||| st
        if r + 1 == b.rows then s2.gstEnd o b b.rows st else s2.updOp o.uid fun o => { o with progress := r + 1, status := st }

/-- 10 R288: `GST_ROW_DONE`: the next row of a `gst` is converted and written; after the last the completion arrival is made. -/
def execGstRowDone (op : Nat) (s : State) : Outcome State Fault Refusal :=
  .next (match s.eop op with
    | some o => if s.opRuns o && o.kind == .gst then s.gstStep o (gblockOf o.block) else s
    | none => s)

/-! ### `gpl` -/

/-- The s8 elements of the tensor on the local side, row after row (10 R283). -/
def State.gplElems (s : State) (w : Nat) (b : GBlock) : List Byte :=
  (List.range b.rows).flatMap fun r => s.lsRead w (b.laddr + r * b.lpitch) b.size0

/-- 02 R57, 10 R289: the bytes of a plane of elements. -/
def gplBytes (xs : List Byte) (b : GBlock) (j : Nat) : List Byte :=
  (List.range b.plane).map fun k =>
    BitVec.ofNat 8 ((List.range 8).foldl (fun a i => a + (if bitAt ((xs[8 * k + i]?).getD 0).toNat (7 - j) then 2 ^ i else 0)) 0)

/-- 10 R289: one plane of a `gpl`. -/
def State.gplStep (s : State) (o : EOp) (b : GBlock) : State :=
  let j := o.progress
  if b.nplane ≤ j then s.gstEnd o b b.nplane o.status
  else if (List.range b.rows).any fun r => (s.wg o.wg).lsBad (b.laddr + r * b.lpitch) b.size0 then s.kill o.wg 0x52
  else match s.engineKeys (unitGouge (s.wg o.wg).core) o.wg .write (b.gaddr + j * b.plane) b.plane with
    | .error _ => s
    | .ok l =>
      let s1 := (s.gougeTouch o b).applyPieces o.wg l
      if !s1.piecesClear o.wg l then s1
      else
        let s2 := (s1.opPieces o l (gplBytes (s1.gplElems o.wg b) b j)).commitWg o.wg
        if j + 1 == b.nplane then s2.gstEnd o b b.nplane o.status else s2.updOp o.uid fun o => { o with progress := j + 1 }

/-- 10 R289: `GPL_PLANE_DONE`: the next plane of a `gpl` is written; after the last the completion arrival is made. -/
def execGplPlaneDone (op : Nat) (s : State) : Outcome State Fault Refusal :=
  .next (match s.eop op with
    | some o => if s.opRuns o && o.kind == .gpl then s.gplStep o (gblockOf o.block) else s
    | none => s)

/-- 10 R286, R288, R289: the fault that the next row or plane of a gouge operation meets: cause and address. -/
def State.gougeFault (s : State) (o : EOp) : Option (Nat × Nat) :=
  let b := gblockOf o.block
  let u := unitGouge (s.wg o.wg).core
  match o.kind with
  | .gcp => if o.unclaimed || b.rows ≤ o.progress then none else match s.gcpRow u o.wg b o.progress with
    | .error f => some f
    | .ok _ => none
  | .gst => if b.rows ≤ o.progress then none else match s.gstKeys o b o.progress with
    | .error f => some f
    | .ok _ => none
  | .gpl => if b.nplane ≤ o.progress then none else match s.engineKeys u o.wg .write (b.gaddr + o.progress * b.plane) b.plane with
    | .error f => some f
    | .ok _ => none
  | _ => none

/-- 10 R279, R286: a gouge operation stops at its row or plane boundary; an uncorrectable read sets `DATAERR`. -/
def State.gougeStop (s : State) (o : EOp) (f : Nat × Nat) : State :=
  ((s.gougeTouch o (gblockOf o.block)).putGouge o o.progress (if f.1 == 0x3E then o.status ||| 4 else o.status)).stopOp o f.1 f.2

end Sys2Proof.Machine
end

