-- ==== Sys2Proof/Machine/Health.lean ====
section
/-! DEFINITION. The health monitor (spec/17 R433, R434) and checker mismatches (spec/15 R395). -/

namespace Sys2Proof.Machine

open Host (Outcome)

/-- 17 R433: the partition whose `HMW` gives the weights. -/
def State.hmPart (s : State) : Part := (s.parts.find? fun q => q.st != .unconfigured).getD default

/-- 17 R433: the weight of a kind of event. -/
def State.hmWeight (s : State) (k : Nat) : Nat := (s.hmPart.csrWord 0x2C2).toNat / 2 ^ (8 * k) % 2 ^ 8

/-- 17 R433: the arrival on a partition's risk object, where it is an object of this package. -/
def State.hmArrive (s : State) (p : Nat) : State :=
  let a := (s.part p).csrPair 0x2C3 0x2C4
  if a % 16 != 0 then s
  else match s.xlate unitHead p a .write with
    | .ok e => if isPeer (e.key a) then s.cache unitHead p a else (s.cache unitHead p a).arrive (.glb (e.key a)) 1 0 (.unit, (s.part p).hmPubs)
    | .error _ => s.cache unitHead p a

/-- 17 R433: one partition's monitor after a change of `RISK`. -/
def State.hmTest (s : State) (p : Nat) : State :=
  let q := s.part p
  let thr := (q.csrWord 0x2C1).toNat % 2 ^ 16
  let armed := (q.csrWord 0x2C5).getLsbD 0
  if q.st == .unconfigured || q.csrPair 0x2C3 0x2C4 == 0 then s
  else if armed && thr ≤ s.risk && thr != 0xFFFF then
    (s.updPart p fun q => q.setCsr 0x2C5 ((q.csrWord 0x2C5 &&& ~~~1) ||| 2)).hmArrive p
  else if !armed && s.risk < thr / 2 then s.updPart p fun q => q.setCsr 0x2C5 (q.csrWord 0x2C5 ||| 1)
  else s

/-- 17 R433: a change of `RISK`. -/
def State.setRisk (s : State) (x : Nat) : State := (List.range 12).foldl State.hmTest { s with risk := min 65535 x }

/-- 17 R433: an event of a kind. -/
def State.riskEvent (s : State) (k : Nat) : State := s.setRisk (s.risk + s.hmWeight k)

/-- 15 R395, 17 R433, R434: checker mismatches met by a partition's issue or lathe. -/
def State.mismatch (s : State) (p n : Nat) : State :=
  (List.range n).foldl (fun s _ =>
    ({ s with mismatches := s.mismatches + 1 }.updPart p fun q => q.setCsr 0x113 (q.csrWord 0x113 + 1)).riskEvent 0) s

/-- 17 R433, R434: `HM_EVENT`: a corrected error, a droop or a link retrain; hot samples are `HM_TEMP_SAMPLE`'s. -/
def execHmEvent (kind : Nat) (s : State) : Outcome State Fault Refusal :=
  .next (match kind with
    | 0 => { s with corrected := s.corrected + 1 }.riskEvent 0
    | 1 => { s with droops := s.droops + 1 }.riskEvent 1
    | 3 => { s with retrains := s.retrains + 1 }.riskEvent 3
    | _ => s)

/-- 17 R433: `HM_DECAY`: every 2^20 monitor clocks; `monClk` counts those since the last one. -/
def execHmDecay (s : State) : Outcome State Fault Refusal :=
  .next (if 2 ^ 20 ≤ s.monClk then { s with monClk := s.monClk - 2 ^ 20 }.setRisk (s.risk - s.risk / 16) else s)

/-- 17 R433, R434: `HM_TEMP_SAMPLE`: every 2^20 monitor clocks, which `sampleClk` counts since the last one, the hottest die in units of 1/8 degree; above 95 degrees it is
an event. -/
def execHmTempSample (temp : Nat) (s : State) : Outcome State Fault Refusal :=
  .next (
    if s.sampleClk < 2 ^ 20 then s
    else
      let s1 := { s with hottest := temp, sampleClk := s.sampleClk - 2 ^ 20 }
      if 8 * 95 < temp then s1.riskEvent 2 else s1)

/-- 17 R434: the figures of `hm.rd`. -/
def State.figure (s : State) (i : Nat) : Nat :=
  match i with
  | 0 => s.risk
  | 1 => s.corrected.toNat
  | 2 => s.droops.toNat
  | 3 => s.retrains.toNat
  | 4 => s.mismatches.toNat
  | 5 => s.hottest % 2 ^ 32
  | 6 => s.powerW % 2 ^ 32
  | 7 => s.energy % 2 ^ 32
  | _ => 0

/-- 17 R434: `hm.rd`. -/
def execHmRd (o : Op) (s : State) : Outcome State Fault Refusal :=
  .next (s.alu o { a := .n32 } false fun i _ _ => (s.figure i, false))

end Sys2Proof.Machine
end

