-- ==== Sys2Proof/Machine/Lathe.lean ====
section
/-! DEFINITION. The lathes and the drain path (spec/10 R290 to R299): blocks, group arithmetic (spec/02 R75 to R80), burst timing (R297),
and the stop of every counted engine operation. -/

namespace Sys2Proof.Machine

open Host (Outcome)

/-! ### The matrix block -/

/-- An operand descriptor (10 R291). -/
structure MDesc where
  form : Nat
  swz : Nat
  glb : Bool
  scglb : Bool
  scen : Bool
  pitch : Nat
  scpitch : Nat
  addr : Nat
  scaddr : Nat
  zeros : Bool
  deriving DecidableEq, Repr, Inhabited

/-- 10 R291: the fields of 32 bytes. -/
def mdescOf (x : Nat) : MDesc :=
  { form := bits x 2 0, swz := bits x 4 3, glb := bitAt x 5, scglb := bitAt x 6, scen := bitAt x 7, pitch := bits x 111 92
    scpitch := bits x 127 112, addr := bits x 191 128, scaddr := bits x 255 192, zeros := bits x 91 8 == 0 }

/-- A matrix block (10 R291). -/
structure MBlock where
  a : MDesc
  b : MDesc
  k : Nat
  lathe : Nat
  tile : Nat
  mode : Bool
  compl : Nat
  progress : Nat
  status : Nat
  zeros : Bool
  deriving DecidableEq, Repr, Inhabited

/-- 10 R291: the fields of 128 bytes. -/
def mblockOf (x : Nat) : MBlock :=
  let c := x / 2 ^ 512
  { a := mdescOf (x % 2 ^ 256), b := mdescOf (x / 2 ^ 256 % 2 ^ 256), k := bits c 12 0, lathe := bits c 18 16, tile := bits c 20 19
    mode := bitAt c 21, compl := bits c 53 32, progress := bits c 95 64, status := bits c 127 96
    zeros := bits c 15 13 == 0 && bits c 31 22 == 0 && bits c 63 54 == 0 && bits c 511 128 == 0 }

/-- 10 R282, R291: bits of an element of a form. -/
def formBits (f : Nat) : Nat := if f == 2 then 4 else if f == 0 || f == 3 then 8 else 16

/-- 02 R65: the operand pairs. -/
def mmaPair (f g : Nat) : Bool := (f ≤ 1 && g ≤ 1) || ((f == 2 || f == 3) && (g == 2 || g == 3)) || ((f == 4 || f == 5) && (g == 4 || g == 5))

/-- 02 R65, 10 R297: clocks of a K group. -/
def groupClocks (f g : Nat) : Nat := if 4 ≤ f then 64 else if f == g && (f == 0 || f == 2) then 16 else 32

/-- 03 R94: whether a launch's accumulator mask names a tile. -/
def Launch.hasTile (l : Launch) (lathe tile : Nat) : Bool := bitAt l.accmask (4 * lathe + tile)

/-- 10 R293: an operand descriptor checked. -/
def State.mdescOk (s : State) (w k : Nat) (d : MDesc) : Bool :=
  let rb := k * formBits d.form / 8
  let m := swzPeriod d.swz
  d.zeros && d.pitch % 16 == 0 && rb ≤ d.pitch && (d.swz == 0 || (d.pitch % (16 * m) == 0 && rb % (16 * m) == 0)) &&
  (if d.glb then d.addr % 16 == 0 else s.inAlloc w d.addr (127 * d.pitch + rb)) && (d.scglb || d.scaddr < 2 ^ 22) &&
  (!d.scen || (k / 32 ≤ d.scpitch && (d.scglb || s.inAlloc w d.scaddr (127 * d.scpitch + k / 32))))

/-- 10 R293: a matrix block checked. The test of the tile is on `LATHE`; with `PROGRESS` above 0 the lathe that R294 takes from `STATUS` is not
tested (notes/assumptions/49.md). -/
def State.mmaFields (s : State) (w x : Nat) : Option Nat :=
  let b := mblockOf x
  let l := s.launchOf w
  let tileOk :=
    if b.lathe == 7 then (List.range 4).any fun i => l.hasTile i b.tile
    else b.lathe ≤ 3 && l.hasTile b.lathe b.tile
  need (b.zeros && mmaPair b.a.form b.b.form && 32 ≤ b.k && b.k ≤ 4096 && b.k % 32 == 0 && tileOk && !(b.lathe == 7 && b.mode) &&
    s.mdescOk w b.k b.a && s.mdescOk w b.k b.b && b.compl % 16 == 0 && s.inAlloc w b.compl 16 && b.progress < b.k / 32) 0x35

/-! ### Burst timing (10 R297) -/

/-- The core of an operation. -/
def State.opCore (s : State) (o : EOp) : Nat := (s.wg o.wg).core

/-- 10 R294: the queued commands of a lathe, in arrival order. -/
def State.latheQueue (s : State) (core l : Nat) : List EOp :=
  s.eops.filter fun o => (o.kind == .mma || o.kind == .drain) && o.lathe == l && s.opRuns o && s.opCore o == core

/-- A lathe of a core. -/
def State.lathe (s : State) (core l : Nat) : Lathe := (s.lathes.find? fun x => x.core == core && x.idx == l).getD { core := core, idx := l }

/-- A lathe replaced. -/
def State.setLathe (s : State) (x : Lathe) : State :=
  { s with lathes := x :: s.lathes.filter fun y => !(y.core == x.core && y.idx == x.idx) }

/-- The `mma` that a lathe computes, or computes next. -/
def State.latheHead (s : State) (core l : Nat) : Option EOp := (s.latheQueue core l).find? fun o => o.kind == .mma

/-- What the clock of a lathe has counted (00 R8). -/
def State.latheClk (s : State) (core l : Nat) : Nat := s.clockOf s.sliceClk (clockLathe core l)

/-- 10 R297: an idle lathe with an `mma` ramps up; a ready one starts to compute its next group. -/
def State.latheGo (s : State) (core l : Nat) : State :=
  let x := s.lathe core l
  match s.latheHead core l with
  | none => s
  | some o =>
    if x.phase == .idle then s.setLathe { x with phase := .rampUp, due := s.latheClk core l + 64 }
    else if x.phase == .ready && o.due.isNone then
      let b := mblockOf o.block
      s.updOp o.uid fun o => { o with due := some (s.latheClk core l + groupClocks b.a.form b.b.form) }
    else s

/-- 10 R297: a ready lathe whose queue is empty and whose hint is over starts its ramp-down. -/
def State.latheRest (s : State) (core l : Nat) : State :=
  let x := s.lathe core l
  let over_ := match x.h with
    | none => true
    | some h => h ≤ s.latheClk core l
  if x.phase == .ready && (s.latheQueue core l).isEmpty && over_ then
    s.setLathe { x with phase := .rampDown, due := s.latheClk core l + 32, h := none }
  else s

/-- 10 R297: a hint of `n` clocks reaches a lathe. One whose only queued commands are drains is busy, and from then on ready
(notes/assumptions/17.md). -/
def State.hint (s : State) (core l n : Nat) : State :=
  let x := s.lathe core l
  let c := s.latheClk core l
  if n == 0 then s
  else match x.phase with
    | .idle => if (s.latheQueue core l).isEmpty then s.setLathe { x with phase := .rampUp, due := c + 64, h := some (c + 64 + n) }
               else s.setLathe { x with phase := .ready, h := some (c + n) }
    | .rampDown => (s.setLathe { x with phase := .ready, h := some (c + n) }).latheGo core l
    | _ => s.setLathe { x with h := some (max (x.h.getD 0) (c + n)) }

/-- 10 R297: `LATHE_RAMP_UP_END`. -/
def execLatheRampUpEnd (core lathe : Nat) (s : State) : Outcome State Fault Refusal :=
  .next (
    let x := s.lathe core lathe
    if x.phase == .rampUp && x.due ≤ s.latheClk core lathe then ((s.setLathe { x with phase := .ready }).latheGo core lathe).latheRest core lathe else s)

/-- 10 R297: `LATHE_RAMP_DOWN_END`: the lathe is idle, and ramps up again for commands that arrived meanwhile. -/
def execLatheRampDownEnd (core lathe : Nat) (s : State) : Outcome State Fault Refusal :=
  .next (
    let x := s.lathe core lathe
    if x.phase == .rampDown && x.due ≤ s.latheClk core lathe then (s.setLathe { x with phase := .idle }).latheGo core lathe else s)

/-- 10 R297: `LATHE_HINT_EXPIRY`: the ready time H has passed, and a lathe with nothing queued starts its ramp-down. -/
def execLatheHintExpiry (core lathe : Nat) (s : State) : Outcome State Fault Refusal :=
  .next (match (s.lathe core lathe).h with
    | none => s
    | some h => if h ≤ s.latheClk core lathe then s.latheRest core lathe else s)

/-- 10 R290, 04 R128: `ofence` orders and does not wait. -/
def execOfence (g : Guard) (s : State) : Outcome State Fault Refusal :=
  let caps := s.captureNone g
  .next (s.checked caps fun s =>
    { s with hb := (lanesOf caps).foldl (fun h l => h.ofenced (s.me l)) s.hb }.advance)

/-- 10 R297: the lathes that a `lat` names. -/
def hinted (l : Launch) (lat : Nat) : List Nat :=
  if lat == 7 then (List.range 4).filter fun i => (List.range 4).any fun t => l.hasTile i t
  else if lat ≤ 3 then [lat] else []

/-- 10 R297: `mhint`. -/
def execMhint (o : Op) (s : State) : Outcome State Fault Refusal :=
  let caps := s.captureOp { a := .n32, b := .n32 } o
  .next (s.checked caps fun s =>
    ((s.effective caps).foldl (fun s c => (hinted s.launch c.a).foldl (fun s l => s.hint s.core l c.b) s) s).advance)

/-! ### Issue of `mma` -/

/-- 10 R294: the free lathe that an `mma` takes: fewest queued commands, then lowest number. -/
def State.freeLathe (s : State) (w tile : Nat) : Nat :=
  let core := (s.wg w).core
  let ls := (List.range 4).filter fun i => (s.launchOf w).hasTile i tile
  ls.foldl (fun a i => if (s.latheQueue core i).length < (s.latheQueue core a).length then i else a) ((ls.head?).getD 0)

/-- 10 R292: the bytes of an operand of an `mma` and of its scales: those of its rows in a local store, or what they are translated to. -/
def State.operandBytes (s : State) (u w k : Nat) (d : MDesc) : List (SyncAt × Nat) :=
  let rows (glb : Bool) (a pitch n : Nat) : List (SyncAt × Nat) :=
    (List.range 128).flatMap fun r => if glb then s.globalSpan u w (a + r * pitch) n else [(.loc w (a + r * pitch), n)]
  rows d.glb d.addr d.pitch (k * formBits d.form / 8) ++ (if d.scen then rows d.scglb d.scaddr d.scpitch (k / 32) else [])

/-- 10 R294: an `mma` accepted by its lathe: no thread may touch its operands, scales and tile before its completion (04 R127). One issued again that has
done no group chooses its lathe anew; on another than it stopped on it starts anew (02 R79, 10 R296). -/
def State.acceptMma (s : State) (c : Cap) : State :=
  let o := s.newOp .mma c 128
  let b := mblockOf o.block
  let l := if b.progress != 0 then bits b.status 5 4 else if b.lathe == 7 then s.freeLathe s.cur.wg b.tile else b.lathe
  let bytes := s.operandBytes (unitLathe s.core l) s.cur.wg b.k b.a ++ s.operandBytes (unitLathe s.core l) s.cur.wg b.k b.b
  (s.addOp { o with progress := b.progress, status := b.status % 4, lathe := l, span := bytes, again := o.again && l == bits b.status 5 4 } bytes [(l, b.tile)]).latheGo s.core l

/-- 10 R291 to R294: `mma`. -/
def execMma (o : Op) (s : State) : Outcome State Fault Refusal :=
  .next (s.engineOp o 64 128 (fun s a => s.blockCheck s.cur.wg a 64 128 (s.mmaFields s.cur.wg)) State.acceptMma)

/-! ### Group arithmetic (02 R75 to R78) -/

/-- 02 R59, R60, R65: an operand element of a floating-point form as a value. -/
def formVal (f x : Nat) : Val :=
  match f with
  | 0 => .fin (bitAt x 5) (x % 8) ((x / 8 % 4 : Nat) - 1)
  | 1 => Fmt.k12.decode (x % 2 ^ 12)
  | 4 => Fmt.bf16.decode (x % 2 ^ 16)
  | _ => Fmt.f16.decode (x % 2 ^ 16)

/-- The exact sum of finite values as an integer and its exponent; special values count as nothing. -/
def exactSum (q : Int) (ps : List Val) : Int := (ps.map fun v => match v with
  | .fin n m e => units n m e q
  | _ => 0).sum

/-- The least exponent of finite values. -/
def leastExp (ps : List Val) : Int := ps.foldl (fun a v => match v with
  | .fin _ _ e => min a e
  | _ => a) 0

/-- A magnitude truncated toward zero to a multiple of 2^q. -/
def truncTo (q : Int) : Val → Int
  | .fin n m e =>
    let k : Nat := if q ≤ e then m * 2 ^ (e - q).toNat else m / 2 ^ (q - e).toNat
    if n then -(k : Int) else k
  | _ => 0

/-- 02 R76, R77: the group sum of finite products; `window` selects the 96-bit window of bf16 and fp16. -/
def groupSum (window : Bool) (ps : List Val) : Val :=
  let make (t q : Int) : Val := .fin (t < 0) t.natAbs q
  if window then
    match topLog ps with
    | none => .fin false 0 0
    | some e => make ((ps.map (truncTo (e - 88))).sum) (e - 88)
  else make (exactSum (leastExp ps) ps) (leastExp ps)

/-- 02 R76: the group value G of 32 products and two scale codes. -/
def groupVal (window : Bool) (ps : List Val) (sa sb : Nat) : Val :=
  let has (v : Val) : Bool := ps.contains v
  if sa == 0xFF || sb == 0xFF || has .nan || (has (.inf false) && has (.inf true)) then .nan
  else if has (.inf false) then .inf false
  else if has (.inf true) then .inf true
  else unscale (254 - (sa : Int) - sb) (groupSum window ps)

/-- 02 R76: `FloatGroup`. -/
def floatGroup (window : Bool) (acc : Nat) (ps : List Val) (sa sb : Nat) : Nat :=
  match groupVal window ps sa sb with
  | .fin n m e => if m == 0 && Fmt.f32.decode acc != .nan then acc else Fmt.f32.addVal .rn (Fmt.f32.decode acc) (.fin n m e)
  | v => Fmt.f32.addVal .rn (Fmt.f32.decode acc) v

/-- An s32 group result with its sticky bits (02 R78). -/
structure IntOut where
  acc : Nat
  overflow : Bool
  invscale : Bool
  deriving DecidableEq, Repr, Inhabited

/-- 02 R78: `IntGroup`. -/
def intGroup (acc : Nat) (ps : List Int) (sa sb : Nat) : IntOut :=
  let bad := sa < 0x7F || sb < 0x7F || sa == 0xFF || sb == 0xFF
  let t : Int := sext acc 32 + (if bad then 0 else ps.sum * ((2 ^ (sa + sb - 254) : Nat) : Int))
  { acc := zext t 32, overflow := t < -2147483648 || 2147483647 < t, invscale := bad }

/-- What an operand gives to a group: for each of 128 rows its 32 codes, and its scale code. -/
structure GroupIn where
  rows : List (List Nat)
  scales : List Nat
  deriving DecidableEq, Repr, Inhabited

/-- 02 R75: one element of the tile after a group. -/
def mmaElem (fa fb : Nat) (A B : GroupIn) (old i j : Nat) : IntOut :=
  let a := (A.rows[i]?).getD []
  let b := (B.rows[j]?).getD []
  let sa := (A.scales[i]?).getD 0x7F
  let sb := (B.scales[j]?).getD 0x7F
  if fa == 2 || fa == 3 then intGroup old ((a.zip b).map fun x => sext x.1 (formBits fa) * sext x.2 (formBits fb)) sa sb
  else
    { acc := floatGroup (decide (4 ≤ fa)) old ((a.zip b).map fun x => (formVal fa x.1).mul (formVal fb x.2)) sa sb
      overflow := false, invscale := false }

/-! ### Operand reads -/

/-- 04 R115, R128: the values that an operation may read in a byte: those of the writes that it is not sure to see, from the newest, and the one under them; of
global memory, through the buffer of its workgroup. -/
def State.operandVals (s : State) (o : EOp) (x : SyncAt) (home : Byte) : List Byte :=
  let sb := match x with
    | .mem k => ((s.wg o.wg).sb.reverse.filter fun (e : SbEntry) => e.touches (.mem k) 1)
    | _ => []
  let value (e : SbEntry) : Byte := match e.dest with
    | .mem a => (e.bytes[x.space.2 - a]?).getD 0
    | .win .. => 0
  let young := sb.takeWhile fun (e : SbEntry) => s.hb.open_ o.sees (some e.item)
  match sb[young.length]? with
  | some e => young.map value ++ [value e]
  | none => young.map value ++ home :: s.hb.before o.sees x

/-- 10 R294, 04 R128: bytes of an operand as a lathe reads them for an operation: at a byte whose last writes the operation is not sure to see, an old or
the new value. -/
def State.operandRead (s : State) (u : Nat) (o : EOp) (glb : Bool) (a n : Nat) : Except (Nat × Nat) (List Byte) :=
  let pick (x : SyncAt) (home : Byte) (i : Nat) : Byte :=
    match s.operandVals o x home with
    | [b] => b
    | l => (l[(s.free [26, o.uid, x.space.2, i]).toNat % l.length]?).getD 0
  let mark (x : SyncAt) (bs : List Byte) : List Byte :=
    if s.hb.pend.isEmpty then bs else bs.zipIdx.map fun (b, i) => pick (x.shift i) b i
  let through (k m : Nat) : List Byte :=
    if s.hb.pend.isEmpty then s.readThrough o.wg k m else mark (.mem k) (s.readKey (s.opCore o / 16) (s.partOf o.wg) k m)
  if !glb then .ok (mark (.loc o.wg a) (s.lsRead o.wg a n))
  else match s.engineKeys u o.wg .read a n with
    | .error f => .error f
    | .ok l => .ok (l.flatMap fun k => through k.1 k.2)

/-- The bytes of one 16-byte chunk after another of an operand row (10 R283, R292): global chunks through the load pipe. -/
def State.chunks (s : State) (u : Nat) (o : EOp) (d : MDesc) (r : Nat) : List Nat → Except (Nat × Nat) (List Byte)
  | [] => .ok []
  | c :: cs =>
    match s.operandRead u o d.glb (d.addr + r * d.pitch + swzByte d.swz r (16 * c)) 16, s.chunks u o d r cs with
    | .ok x, .ok y => .ok (x ++ y)
    | .error f, _ => .error f
    | _, .error f => .error f

/-- The 32 codes of group `g` of an operand row. -/
def State.groupRow (s : State) (u : Nat) (o : EOp) (d : MDesc) (r g : Nat) : Except (Nat × Nat) (List Nat) :=
  let n := formBits d.form
  let per := n / 4
  match s.chunks u o d r ((List.range per).map fun i => per * g + i) with
  | .error f => .error f
  | .ok bs => .ok ((List.range 32).map fun t => packed (ofBytesLE bs) n t)

/-- The scale code of group `g` of an operand row (10 R292). -/
def State.groupScale (s : State) (u : Nat) (o : EOp) (d : MDesc) (r g : Nat) : Except (Nat × Nat) Nat :=
  if !d.scen then .ok 0x7F
  else match s.operandRead u o d.scglb (d.scaddr + r * d.scpitch + g) 1 with
    | .error f => .error f
    | .ok bs => .ok (ofBytesLE bs)

/-- What an operand gives to a group, rows `128 - n` on. -/
def State.groupRows (s : State) (u : Nat) (o : EOp) (d : MDesc) (g : Nat) : Nat → Except (Nat × Nat) GroupIn
  | 0 => .ok { rows := [], scales := [] }
  | n + 1 =>
    match s.groupRow u o d (127 - n) g, s.groupScale u o d (127 - n) g, s.groupRows u o d g n with
    | .ok row, .ok sc, .ok x => .ok { rows := row :: x.rows, scales := sc :: x.scales }
    | .error f, _, _ => .error f
    | _, .error f, _ => .error f
    | _, _, .error f => .error f

/-- Both operands of the next group of an `mma`. -/
def State.groupOps (s : State) (o : EOp) (b : MBlock) : Except (Nat × Nat) (GroupIn × GroupIn) :=
  let u := unitLathe (s.opCore o) o.lathe
  match s.groupRows u o b.a o.progress 128, s.groupRows u o b.b o.progress 128 with
  | .ok x, .ok y => .ok (x, y)
  | .error f, _ => .error f
  | _, .error f => .error f

/-- 16 R403, R417: a lathe's load pipe keeps the translations that a group uses, and held words of the lines that it reads are recalled. -/
def State.groupTouch (s : State) (o : EOp) (d : MDesc) : State :=
  let touch (s : State) (a n : Nat) : State := s.engineTouch (unitLathe (s.opCore o) o.lathe) (s.partOf o.wg) a n
  let per := formBits d.form / 4
  let s1 := if d.glb then (List.range 128).foldl (fun s r =>
      (List.range per).foldl (fun s i => touch s (d.addr + r * d.pitch + swzByte d.swz r (16 * (per * o.progress + i))) 16) s) s else s
  if d.scen && d.scglb then (List.range 128).foldl (fun s r => touch s (d.scaddr + r * d.scpitch + o.progress) 1) s1 else s1

/-- 03 R89: whether a local operand of a group touches an uncorrectable word. -/
def State.groupBad (s : State) (w g : Nat) (d : MDesc) : Bool :=
  let per := formBits d.form / 4
  (List.range 128).any fun r =>
    (!d.glb && (List.range per).any fun i => (s.wg w).lsBad (d.addr + r * d.pitch + swzByte d.swz r (16 * (per * g + i))) 16) ||
    (d.scen && !d.scglb && (s.wg w).lsBad (d.scaddr + r * d.scpitch + g) 1)

/-! ### The tile -/

/-- The elements of a tile; one that nothing has written holds undefined values (03 R94). -/
def State.tileOf (s : State) (w lathe tile : Nat) : List Word :=
  match (s.wg w).tiles.find? fun t => t.lathe == lathe && t.tile == tile with
  | some t => t.elems
  | none => (List.range 16384).map fun i => (s.free [17, w, lathe, tile, i]).truncate 32

/-- A tile replaced. -/
def State.setTile (s : State) (w lathe tile : Nat) (es : List Word) : State :=
  s.updWg w fun x => { x with
    tiles := { lathe := lathe, tile := tile, elems := es } :: x.tiles.filter fun t => !(t.lathe == lathe && t.tile == tile) }

/-- 00 R7: the elements of a tile become undefined. -/
def State.loseTile (s : State) (w lathe tile : Nat) : State :=
  s.updWg w fun x => { x with tiles := x.tiles.filter fun t => !(t.lathe == lathe && t.tile == tile) }

/-- 10 R294, R296: the tile that the next group of an `mma` adds to: zero where the operation starts in mode 0, and has not been issued again. -/
def State.startTile (s : State) (o : EOp) (b : MBlock) : List Word :=
  if o.progress == 0 && !b.mode && !o.again then List.replicate 16384 0 else s.tileOf o.wg o.lathe b.tile

/-- 10 R291: `PROGRESS` and `STATUS` of a matrix block written. -/
def State.putMma (s : State) (o : EOp) (progress status : Nat) : State :=
  (s.opField o 72 progress).opField o 76 status

/-- 10 R295: whether an earlier command on the same tile is still in flight. -/
def State.tileBusy (s : State) (o : EOp) (tile : Nat) : Bool :=
  (s.latheQueue (s.opCore o) o.lathe).any fun p => p.uid < o.uid && p.wg == o.wg &&
    (if p.kind == .mma then (mblockOf p.block).tile else bits p.block 196 195) == tile

/-- 10 R294, R297: whether the lathe has computed the next group of an `mma`. -/
def State.groupDue (s : State) (o : EOp) (b : MBlock) : Bool :=
  s.opRuns o && (s.lathe (s.opCore o) o.lathe).phase == .ready && s.latheHead (s.opCore o) o.lathe == some o &&
  !s.tileBusy o b.tile && (match o.due with
    | some d => d ≤ s.latheClk (s.opCore o) o.lathe
    | none => false)

/-- 10 R294: one group of an `mma`. -/
def State.mmaStep (s : State) (o : EOp) (b : MBlock) : State :=
  let core := s.opCore o
  if s.groupBad o.wg o.progress b.a || s.groupBad o.wg o.progress b.b then s.kill o.wg 0x52
  else match s.groupOps o b with
    | .error _ => s
    | .ok (A, B) =>
      let outs := (s.startTile o b).zipIdx.map fun (x, k) => mmaElem b.a.form b.b.form A B x.toNat (k / 128) (k % 128)
      let st := o.status ||| (if outs.any (·.overflow) then 1 else 0) ||| (if outs.any (·.invscale) then 2 else 0)
      let s0 := (s.groupTouch o b.a).groupTouch o b.b
      let s1 := if o.undef then s0.loseTile o.wg o.lathe b.tile else s0.setTile o.wg o.lathe b.tile (outs.map fun x => BitVec.ofNat 32 x.acc)
      if o.progress + 1 == b.k / 32 then
        let s2 := (s1.putMma o (b.k / 32) (2 ^ 31 + 16 * o.lathe + st)).dropOp o.uid
        ((s2.engineArrive o.wg b.compl 1 0 (s.opEvent o)).st.latheGo core o.lathe).latheRest core o.lathe
      else (s1.updOp o.uid fun o => { o with progress := o.progress + 1, status := st, due := none, retried := false }).latheGo core o.lathe

/-- 10 R296, R279: an `mma` stops after the last group completed for the whole tile. -/
def State.mmaStop (s : State) (o : EOp) (b : MBlock) (f : Nat × Nat) : State :=
  let core := s.opCore o
  let s0 := (s.groupTouch o b.a).groupTouch o b.b
  let s1 := if o.undef then s0.loseTile o.wg o.lathe b.tile
    else if o.progress == 0 && !b.mode && !o.again then s0.setTile o.wg o.lathe b.tile (s.startTile o b) else s0
  (((s1.putMma o o.progress (16 * o.lathe + o.status)).stopOp o f.1 f.2).latheGo core o.lathe).latheRest core o.lathe

/-- 15 R395: a checker of a lathe mismatches in a group: its addition is discarded and the group computed again; a second mismatch stops the `mma`
with 0x50, `PROGRESS` at the group. -/
def State.groupMismatch (s : State) (o : EOp) (b : MBlock) : State :=
  let s1 := s.mismatch (s.partOf o.wg) 1
  if o.retried then s1.mmaStop o b (0x50, 0)
  else (s1.updOp o.uid fun o => { o with due := none, retried := true }).latheGo (s.opCore o) o.lathe

/-- 10 R294, 15 R395: `LATHE_GROUP_DONE`: a K group is added to the whole tile; after the last, status and the completion arrival. `mism` above 0 says that
a checker mismatched. -/
def execLatheGroupDone (group : GroupEnd) (s : State) : Outcome State Fault Refusal :=
  .next (match s.eop group.op with
    | some o =>
      let b := mblockOf o.block
      if o.kind == .mma && s.groupDue o b then (if group.mism == 0 then s.mmaStep o b else s.groupMismatch o b) else s
    | none => s)

/-! ### The drain path -/

/-- A drain block (10 R298). -/
structure DBlock where
  daddr : Nat
  amax : Nat
  dpitch : Nat
  compl : Nat
  lathe : Nat
  tile : Nat
  fmt : Nat
  add : Bool
  dglb : Bool
  amen : Bool
  aglb : Bool
  zeros : Bool
  deriving DecidableEq, Repr, Inhabited

/-- 10 R298: the fields of 64 bytes. -/
def dblockOf (x : Nat) : DBlock :=
  { daddr := bits x 63 0, amax := bits x 127 64, dpitch := bits x 147 128, compl := bits x 181 160, lathe := bits x 194 192
    tile := bits x 196 195, fmt := bits x 198 197, add := bitAt x 199, dglb := bitAt x 200, amen := bitAt x 201, aglb := bitAt x 202
    zeros := bits x 159 148 == 0 && bits x 191 182 == 0 && bits x 511 203 == 0 }

/-- 10 R298: bytes of a destination element. -/
def DBlock.esize (b : DBlock) : Nat := if b.fmt == 1 then 2 else 4

/-- 10 R298: a drain block checked. -/
def State.drainFields (s : State) (w x : Nat) : Option Nat :=
  let b := dblockOf x
  let e := b.esize
  need (b.zeros && b.lathe ≤ 3 && (s.launchOf w).hasTile b.lathe b.tile && b.fmt != 3 && b.daddr % e == 0 && b.dpitch % e == 0 &&
    128 * e ≤ b.dpitch && (b.dglb || s.inAlloc w b.daddr (127 * b.dpitch + 128 * e)) &&
    (!b.amen || (b.fmt ≤ 1 && b.amax % 4 == 0 && (b.aglb || s.inAlloc w b.amax 4))) &&
    b.compl % 16 == 0 && s.inAlloc w b.compl 16) 0x35

/-- 10 R299: the bytes of a drain's destination tile, row by row. -/
def State.drainBytes (s : State) (u w : Nat) (b : DBlock) : List (SyncAt × Nat) :=
  (List.range 128).flatMap fun i =>
    let a := b.daddr + i * b.dpitch
    if b.dglb then s.globalSpan u w a (128 * b.esize) else [(.loc w a, 128 * b.esize)]

/-- 10 R298: a drain accepted. Where its thread has not acquired the completion of an `mma` on its tile, what it reads is undefined (04 R127). -/
def State.acceptDrain (s : State) (c : Cap) : State :=
  let o := s.newOp .drain c 64
  let b := dblockOf o.block
  let open_ := s.hb.tileRacing (s.me c.lane) s.cur.wg (b.lathe, b.tile)
  s.addOp { o with lathe := b.lathe, undef := o.undef || open_, dest := s.drainBytes (unitLathe s.core b.lathe) s.cur.wg b } [] []

/-- 10 R298, R299: `drain`. -/
def execDrain (o : Op) (s : State) : Outcome State Fault Refusal :=
  .next (s.engineOp o 64 64 (fun s a => s.blockCheck s.cur.wg a 64 64 (s.drainFields s.cur.wg)) State.acceptDrain)

/-- 10 R299: the pieces of destination rows `128 - n` on, translated for writing: homed in this package, else 0x35; with `ADD` an
uncorrectable destination is 0x3E. -/
def State.drainRows (s : State) (o : EOp) (b : DBlock) : Nat → Except (Nat × Nat) (List (List (Nat × Nat)))
  | 0 => .ok []
  | n + 1 =>
    let a := b.daddr + (127 - n) * b.dpitch
    match s.xlateRange (unitLathe (s.opCore o) o.lathe) (s.partOf o.wg) .write (a % 2 ^ 64) (128 * b.esize) with
    | .error f => .error f
    | .ok l =>
      if l.any fun k => isPeer k.1 then .error (0x35, a % 2 ^ 64)
      else if b.add && l.any fun k => s.bad k.1 k.2 then .error (0x3E, a % 2 ^ 64)
      else match s.drainRows o b n with
        | .error f => .error f
        | .ok r => .ok (l :: r)

/-- 10 R299: the destination rows and the amax word of a drain, translated together. -/
def State.drainKeys (s : State) (o : EOp) (b : DBlock) : Except (Nat × Nat) (List (List (Nat × Nat)) × List (Nat × Nat)) :=
  let rows := if b.dglb then s.drainRows o b 128 else .ok []
  match rows with
  | .error f => .error f
  | .ok r =>
    if b.amen && b.aglb then
      match s.xlateRange (unitLathe (s.opCore o) o.lathe) (s.partOf o.wg) .write b.amax 4 with
      | .error f => .error f
      | .ok m => .ok (r, m)
    else .ok (r, [])

/-- 10 R299, 02 R80: one destination element. -/
def drainElem (b : DBlock) (d a : Nat) : Nat :=
  match b.fmt with
  | 0 => if b.add then Fmt.f32.add .rn d a else a
  | 1 => if b.add then Fmt.bf16.addVal .rn (Fmt.bf16.decode d) (Fmt.f32.decode a) else (Fmt.bf16.ofVal .rn (Fmt.f32.decode a)).bits
  | _ => if b.add then (d + a) % 2 ^ 32 else a

/-- A destination row computed from its old bytes and its tile elements. -/
def drainRow (b : DBlock) (old : List Byte) (es : List Word) : List Byte :=
  let n := 8 * b.esize
  toBytesLE (packElems n (es.zipIdx.map fun (a, j) => drainElem b (packed (ofBytesLE old) n j) a.toNat)) (128 * b.esize)

/-- 10 R299: rows `i` on of a drain to the local store. -/
def State.drainLocal (s : State) (o : EOp) (b : DBlock) (es : List Word) : State :=
  (List.range 128).foldl (fun s i =>
    let off := b.daddr + i * b.dpitch
    s.opPut o off (drainRow b (s.lsRead o.wg off (128 * b.esize)) ((es.drop (128 * i)).take 128))) s

/-- 10 R299: the rows of a drain to global memory, at their homes. -/
def State.drainGlobal (s : State) (o : EOp) (b : DBlock) (es : List Word) (rows : List (List (Nat × Nat))) : State :=
  rows.zipIdx.foldl (fun s (l, i) =>
    let old := l.flatMap fun k => (List.range k.2).map fun j => s.homeByte (k.1 + j)
    s.storePieces l (drainRow b old ((es.drop (128 * i)).take 128)) o.uid) s

/-- 02 R80, R83: the largest magnitude of a tile. -/
def tileAmax (es : List Word) : Nat :=
  es.foldl (fun a x => Fmt.f32.extremum true a (Fmt.f32.abs x.toNat)) 0

/-- 10 R299: a failure that the amax merge meets after translation: the imprecise trap 0x20, with nothing to put back. -/
def State.amaxFailed (s : State) (o : EOp) (b : DBlock) : State :=
  s.addPending o.wg o.gang
    { exited := s.laneExited o.wg o.gang o.lane, cause := 0x20, pc := o.pc, mask := [o.lane], addr := BitVec.ofNat 64 b.amax, tnum := o.tnum
      entry := { kind := .command o.uid o.born o.kind.blockBytes false, action := 1, faulted := true, code := 0x20, pc := o.pc, mask := [o.lane], word := o.word
                 caps := [{ lane := o.lane, a := o.blk, b := 0, c := 0 }] } }

/-- 10 R299, 02 R80: the amax merge: an f32 atomic max, a read-modify-write that continues the release chains of its word (04 R120), after this package's dirty bytes
of a peer's container (04 R124), and seen by the copies of the die (04 R115). -/
def State.amaxMerge (s : State) (o : EOp) (b : DBlock) (m : List (Nat × Nat)) (x : Nat) : State :=
  let chained (t : State) (a : SyncAt) : State := { t with hb := t.hb.chain s.hb a 4 }
  if !b.amen then s
  else if !b.aglb then
    chained (s.opPut o b.amax (toBytesLE (Fmt.f32.extremum true (s.lsNum o.wg b.amax 4) x) 4)) (.loc o.wg b.amax)
  else match m with
    | [] => s
    | (k, _) :: _ =>
      if s.unreachable k || s.bad k 4 then s.amaxFailed o b
      else
        let s1 := s.ownDirty (.mem k none) 4
        let s2 := s1.putAt (.mem k none) 4 (Fmt.f32.extremum true (s1.numAt (.mem k none) 4) x) o.uid
        let s3 := ({ s2 with hb := s2.hb.chain s1.hb (.mem k) 4 }.spoilReads (.mem k) 4 o.uid).commitWg o.wg
        if isPeer k then s3.rdcPatch (s.opCore o / 16) k (s3.homeBytes k 4) else s3

/-- Clusters of one node that were dispatched before a cluster (01 R44, R45: dispatch follows the curve). -/
def State.earlier (s : State) (c : Cluster) : List Cluster := s.clusters.filter fun d => d.node == c.node && d.uid < c.uid

/-- 01 R45: whether two drains update one destination tile, or parts of one. -/
def EOp.sameTile (o p : EOp) : Bool := p.kind == .drain && o.dest.any fun r => r.1.hits r.2 p.dest

/-- What a gang may still put back: the entries of its pending traps, of its frame, and of an `iret` under way (15 R385). -/
def Gang.entries (g : Gang) : List Entry := g.pend.map (fun p => p.entry) ++ g.frame.queue ++ g.reinject ++ g.later

/-- 01 R45: whether a workgroup can issue no further drain, and has none in flight to a drain's destination: it has no live thread, no handler to run, and nothing
to put back. -/
def State.drained (s : State) (o : EOp) (w : Wg) : Bool :=
  w.st == .draining && (s.gangs.all fun g => g.wg != w.uid || (g.entries.isEmpty && !g.handler)) &&
  !(s.threads.any fun t => t.wg == w.uid && t.live) && !(s.eops.any fun p => p.wg == w.uid && o.sameTile p)

/-- The addresses from the first byte to the last of a drain's destination. -/
def DBlock.reach (b : DBlock) : Nat × Nat := (b.daddr, 127 * b.dpitch + 128 * b.esize)

/-- 01 R45: whether an entry is a drain that a fault has stopped, of an operation's thread and before it in program order, with a destination in the addresses of the
operation's. An amax merge that failed (10 R299) is none. -/
def State.stoppedBefore (s : State) (o : EOp) (e : Entry) : Bool :=
  match e.kind with
  | .command u first .. =>
    let there := (dblockOf o.block).reach
    first < o.born && e.code != 0x20 && (s.hb.pend.any fun x => x.uid == u && x.what == .op .drain [] []) && e.caps.any fun c =>
      let here := (dblockOf (s.blockAt o.wg c.a 64)).reach
      c.lane == o.lane && overlap here.1 here.2 there.1 there.2
  | _ => false

/-- 01 R45: whether the workgroups of a cluster can update a drain's destination no more. -/
def State.quiet (s : State) (o : EOp) (c : Cluster) : Bool :=
  c.st == .retired || c.st == .ended || c.st == .freed || (c.st == .resident && (s.clusterWgs c.uid).all (s.drained o))

/-- 01 R45: whether a drain of a deterministic launch has its turn among those to its destination: those of its own thread go in program order, one that a fault
stopped and that is to be issued again among them, and a global destination is left to workgroups before its own that may still drain there. Between threads of one workgroup any order may come (R45; notes/assumptions/50.md). -/
def State.drainTurn (s : State) (o : EOp) : Bool :=
  let b := dblockOf o.block
  !(s.launchOf o.wg).det ||
  (let w := s.wg o.wg
   let c := s.cluster w.cluster
   (!b.dglb || ((s.earlier c).all (s.quiet o) && (s.clusterWgs c.uid).all (fun x => w.rank ≤ x.rank || s.drained o x))) &&
   !(s.eops.any fun p => p.wg == o.wg && p.gang == o.gang && p.lane == o.lane && p.born < o.born && o.sameTile p) &&
   !((s.gang o.wg o.gang).entries.any (s.stoppedBefore o)))

/-- 16 R403: a lathe's load pipe keeps the translations of a drain's destination. -/
def State.drainTouch (s : State) (o : EOp) (b : DBlock) : State :=
  let touch (s : State) (a n : Nat) : State := s.cacheRange (unitLathe (s.opCore o) o.lathe) (s.partOf o.wg) (a % 2 ^ 64) n
  let s1 := if b.dglb then (List.range 128).foldl (fun s i => touch s (b.daddr + i * b.dpitch) (128 * b.esize)) s else s
  if b.amen && b.aglb then touch s1 b.amax 4 else s1

/-- 10 R299: the tile that a drain reads. -/
def State.drainTile (s : State) (o : EOp) (b : DBlock) : List Word :=
  if o.undef then (List.range 16384).map fun i => (s.free [18, o.uid, i]).truncate 32 else s.tileOf o.wg b.lathe b.tile

/-- Whether a drain's local destination, amax word or object is uncorrectable where it is read (03 R89). -/
def State.drainBad (s : State) (o : EOp) (b : DBlock) : Bool :=
  let w := s.wg o.wg
  (b.add && !b.dglb && (List.range 128).any fun i => w.lsBad (b.daddr + i * b.dpitch) (128 * b.esize)) ||
  (b.amen && !b.aglb && w.lsBad b.amax 4) || w.lsBad b.compl 16

/-- 10 R299: the tile event of a drain, the amax merge, the completion arrival. -/
def State.drainStep (s : State) (o : EOp) (b : DBlock) : State :=
  let core := s.opCore o
  if s.drainBad o b then s.kill o.wg 0x52
  else match s.drainKeys o b with
    | .error _ => s
    | .ok (rows, m) =>
      let all := rows.flatten ++ m
      let s1 := (s.drainTouch o b).applyPieces o.wg all
      if !s1.piecesClear o.wg all then s1
      else
        let es := s1.drainTile o b
        let s2 := if b.dglb then (s1.drainGlobal o b es rows).commitWg o.wg else s1.drainLocal o b es
        let s3 := s2.amaxMerge o b m (tileAmax es)
        let s4 := ((s3.dropOp o.uid).engineArrive o.wg b.compl 1 0 (s.opEvent o)).st
        (s4.latheGo core o.lathe).latheRest core o.lathe

/-- 10 R299: `DRAIN_TILE_EVENT`. -/
def execDrainTileEvent (op : Nat) (s : State) : Outcome State Fault Refusal :=
  .next (match s.eop op with
    | some o =>
      if o.kind == .drain && s.opRuns o && !s.tileBusy o (dblockOf o.block).tile && s.drainTurn o then s.drainStep o (dblockOf o.block) else s
    | none => s)

/-! ### Stops -/

/-- The fault that keeps an operation from its next row, plane, group or event. -/
def State.opFault (s : State) (o : EOp) : Option (Nat × Nat) :=
  match o.kind with
  | .mma => if s.groupDue o (mblockOf o.block) then match s.groupOps o (mblockOf o.block) with
      | .error f => some f
      | .ok _ => none
    else none
  | .drain => if !s.tileBusy o (dblockOf o.block).tile && s.drainTurn o then match s.drainKeys o (dblockOf o.block) with
      | .error f => some f
      | .ok _ => none
    else none
  | _ => s.gougeFault o

/-- 10 R279: an operation that meets a fault stops at its boundary. -/
def State.engineStop (s : State) (o : EOp) (f : Nat × Nat) : State :=
  match o.kind with
  | .mma => s.mmaStop o (mblockOf o.block) f
  | .drain => (((s.drainTouch o (dblockOf o.block)).stopOp o f.1 f.2).latheGo (s.opCore o) o.lathe).latheRest (s.opCore o) o.lathe
  | _ => s.gougeStop o f

end Sys2Proof.Machine
end

