-- ==== Sys2Proof/Machine/Progress.lean ====
section
/-! DEFINITION. The training group's progress table, gates and announcements (spec/05 R139 to R144, spec/10 R308, R309). -/

namespace Sys2Proof.Machine

open Host (Outcome)

/-- 13 R348: `NRANK`. -/
def Part.nrank (q : Part) : Nat := (q.csrWord 0x010).toNat % 2 ^ 13
/-- 13 R348: `QUIETMAX`. -/
def Part.quietMax (q : Part) : Nat := (q.csrWord 0x012).toNat % 2 ^ 30

/-- 05 R140: an entry of the table; entries at or above `NRANK` read as zero. -/
def Part.entry (q : Part) (i : Nat) : ProgEntry := if i < q.nrank then (q.prog[i]?).getD {} else {}

/-- 05 R140: the 8 bytes of an entry. -/
def ProgEntry.num (e : ProgEntry) : Nat := 2 ^ 32 * e.step.toNat + 2 ^ 30 * (e.state % 4) + e.quiet % 2 ^ 30

/-- 05 R141: one entry changed. -/
def Part.setEntry (q : Part) (i : Nat) (e : ProgEntry) : Part := { q with prog := q.prog.set i e }

/-- 05 R143: M, by unsigned comparison (notes/assumptions/59.md). -/
def Part.minStep (q : Part) : Word :=
  let es := q.prog.take q.nrank
  let live := (es.filter fun e => e.state < 2).map fun e => e.step.toNat
  let all := es.map fun e => e.step.toNat
  if live.isEmpty then BitVec.ofNat 32 (all.foldl max 0) else BitVec.ofNat 32 (live.foldl min ((live.head?).getD 0))

/-- 05 R143: the allowance A, computed modulo 2^32. -/
def Part.allowance (q : Part) : Word :=
  let m := q.minStep.toNat + (q.csrWord 0x011).toNat % 2 ^ 8
  let k := (q.csrWord 0x013).toNat % 2 ^ 16
  BitVec.ofNat 32 (if k == 0 then m else min m (q.sealedC.toNat + k))

/-- 03 R89: whether the table reads an uncorrectable word in a gate, and the workgroup whose local store holds it. -/
def State.gateBad (s : State) (r : PhaseRef) : Option Nat :=
  match r with
  | .loc w off => if (s.wg w).lsBad off 16 then some w else none
  | _ => none

/-- Whether an object is there: one in a local store goes with its workgroup. -/
def State.objThere (s : State) (r : PhaseRef) : Bool :=
  match r with
  | .loc w _ => s.wgs.any fun x => x.uid == w
  | _ => true

/-- 05 R143: a gate's `PHASE` advanced to A where A lies ahead of it, as a completion event. Reading an uncorrectable gate kills its cluster (03 R89). DESIGN
CHOICE: a gate whose granule has been taken from the partition (13 R344) stays as it is (notes/assumptions/57.md). -/
def State.raiseGate (s : State) (p : Nat) (a : Word) (g : Gate) : State :=
  let x := s.phaseNum g.obj
  if !(s.objThere g.obj && s.objOwned p g.obj) then s
  else if (s.gateBad g.obj).isSome then s.kill ((s.gateBad g.obj).getD 0) 0x52
  else if phasePassed a (BitVec.ofNat 32 x) then s.eventAt g.obj (x - x % 2 ^ 32 + a.toNat) true (g.by_, g.pubs) else s

/-- 05 R143: every gate of a partition compared with A. -/
def State.raiseGates (s : State) (p : Nat) : State :=
  let q := s.part p
  q.gates.foldl (fun s g => s.raiseGate p q.allowance g) s

/-- 05 R143: what an event leaves: where it has changed M or C of a partition, from what another state has, that is compared with every gate. -/
def State.gatesAfter (s t : State) (p : Nat) : State :=
  if (t.part p).minStep == (s.part p).minStep && (t.part p).sealedC == (s.part p).sealedC then t else t.raiseGates p

/-- 05 R143: what a step leaves: the gates of every partition follow, whatever has changed M or C: an announcement, an absence, a seal, a write of a training-group CSR
(13 R350) or the fall of `BOUND` (05 R140) (notes/assumptions/42.md). -/
def State.settleGates (s t : State) : State :=
  t.parts.foldl (fun u q => if q.gates.isEmpty then u else s.gatesAfter u q.idx) t

/-- 05 R141: an announcement of a rank applied. DESIGN CHOICE: `STEP` below the announced step compares them as unsigned numbers, and so do the minimum and the
maximum of `Part.minStep`; the spec does not say how they compare once steps wrap past 2^32 (notes/assumptions/59.md). -/
def State.announced (s : State) (p rank : Nat) (step : Word) : State :=
  let e := (s.part p).entry rank
  let e' : ProgEntry := { step := if e.step < step then step else e.step, state := 1, quiet := 0 }
  s.gatesAfter (s.updPart p fun q => q.setEntry rank e') p

/-- 13 R349: the entry of a rank in the rank table: the device that it names, and whether that is reached over Ultra Ethernet. DESIGN CHOICE: it is read at each
use, so that a change made while `BOUND` is 1 takes effect at once; the spec leaves that moment unspecified (notes/assumptions/60.md). -/
def State.rankEntry (s : State) (p rank : Nat) : Option (Nat × Bool) :=
  let q := s.part p
  let base := q.csrPair 0x014 0x015
  let e := ofBytesLE (s.homeBytes (base + 4 * rank) 4)
  if rank < q.nrank && base % 4 == 0 && s.ownsRange p base (4 * q.nrank) && bitAt e 31 then some (bits e 9 0, bitAt e 30) else none

/-- 13 R349: the devices that announcements go to: those of the valid entries of the other ranks, each with how it is reached; one named more than once, and this
package, only once and not. -/
def State.rankDevs (s : State) (p rank : Nat) : List (Nat × Bool) :=
  let others := (List.range (s.part p).nrank).filterMap fun i => if i == rank then none else s.rankEntry p i
  (others.filter fun d => d.1 != s.devNum).eraseDups

/-- 16 R417: the held words of the lines of the rank table, given back before it is read. -/
def State.rankTouch (s : State) (p : Nat) : State :=
  let q := s.part p
  let base := q.csrPair 0x014 0x015
  if s.ownsRange p base (4 * q.nrank) then s.recall base (4 * q.nrank) else s

/-- 16 R418 to R420: whether a device is reached: this one; over Ultra Ethernet one whose `EPMAP` entry names an endpoint; over UALink one to which a path
is left. -/
def State.reachesDev (s : State) (d : Nat) (eth : Bool) : Bool :=
  d == s.devNum || (if eth then lookupD s.epmap d 0 != 0 else !s.linksDown.contains d)

/-- 16 R420: whether the announcements of a rank are heard: those of one that is reached over Ethernet through an entry that names no endpoint are not. -/
def State.hears (s : State) (p rank : Nat) : Bool :=
  match s.rankEntry p rank with
  | some (d, eth) => !eth || s.reachesDev d eth
  | none => true

/-- 05 R141, 16 R420: `ANNOUNCEMENT_RECEIVED`: applied whenever the partition has a training group that holds the rank, and the rank is heard. -/
def execAnnouncementReceived (part rank : Nat) (step : BitVec 32) (s : State) : Outcome State Fault Refusal :=
  .next (s.incoming fun s => if rank < (s.part part).nrank && s.hears part rank then s.announced part rank step else s)

/-- 05 R141: `QUIET_EXPIRY`: a rank whose `QUIET` has reached `QUIETMAX` becomes absent. -/
def execQuietExpiry (part rank : Nat) (s : State) : Outcome State Fault Refusal :=
  .next (
    let q := s.part part
    let e := q.entry rank
    if q.bound && rank < q.nrank && e.state < 2 && q.quietMax ≤ e.quiet then
      s.gatesAfter (s.updPart part fun q => q.setEntry rank { e with state := 2 }) part
    else s)

/-- 10 R308, 05 R142: one lane's `step.adv`: the rank's next step applied here, with the gate that it had, and sent to the others; then the gate recorded and
advanced. -/
def State.stepAdvLane (sp : Space) (x : State × List (Nat × Nat)) (r : LaneRef) : State × List (Nat × Nat) :=
  let s := x.1
  let p := s.curPart
  let rank := s.launch.rank
  let new := ((s.part p).entry rank).step + 1
  let obj := objRef sp r.place
  let gate : Gate := { rank := rank, obj := obj, by_ := s.me r.cap.lane, pubs := s.knownBy r.cap.lane }
  let s0 := s.rankTouch p
  let s1 := { s0 with outbox := s0.outbox ++ [Msg.announce p rank new (s.rankDevs p rank)] }.announced p rank new
  let s2 := s1.updPart p fun q => { q with gates := gate :: q.gates.filter fun g => g.rank != rank }
  ((s2.raceObj (s2.me r.cap.lane) obj).raiseGate p (s2.part p).allowance gate, (r.cap.lane, new.toNat) :: x.2)

/-- 10 R308: `step.adv`. What the workgroup has stored to a global gate comes first, and the instruction waits while a fault holds that (04 R124, R125, 15 R388). -/
def execStepAdv (o : Op) (sp : Space) (s : State) : Outcome State Fault Refusal :=
  let kinds : Kinds := { a := if wideSpace sp then .n64 else .n32 }
  let caps := s.captureOp kinds o
  .next (s.acting caps (pair := s.pairOp kinds o) fun s =>
    s.withObjs sp .write caps fun s all =>
      if !caps.isEmpty && !s.launch.tgb then s.faultLanes caps (0x37, lanesOf caps, 0)
      else s.unpoisoned 16 all fun s =>
        let refs := all.filter fun r => (s.effective caps).contains r.cap
        s.containersApplied 16 refs fun s =>
          let (s1, res) := refs.foldl (State.stepAdvLane sp) (s, [])
          (s1.returnTo o 1 res).advance)

/-- 10 R309: the faults and the values of a `step.get`. -/
def State.stepGetOp (s : State) (o : Op) (caps : List Cap) (bad : Cap → Bool) (value : Cap → Nat) : State :=
  s.checked caps fun s =>
    match lowestFault (caps.filterMap fun c => if !s.launch.tgb || bad c then some (c.lane, 0x37, (0 : DWord)) else none) with
    | some f => s.faultLanes caps f
    | none => (s.writeLanes (caps.map fun c => (c.lane, value c, false)) fun t x _ => t.writeDst o 2 x).advance

/-- 10 R309: `step.get`. -/
def execStepGet (o : Op) (s : State) : Outcome State Fault Refusal :=
  .next (s.stepGetOp o (s.captureOp { a := .n32 } o) (fun c => 4095 < c.a) fun c => ((s.part s.curPart).entry c.a).num)

/-- 10 R309: `step.get.lim`. -/
def execStepGetLim (o : Op) (s : State) : Outcome State Fault Refusal :=
  let q := s.part s.curPart
  .next (s.stepGetOp o (s.captureOp {} o) (fun _ => false) fun _ => q.minStep.toNat + 2 ^ 32 * q.allowance.toNat)

end Sys2Proof.Machine
end

