-- ==== Sys2Proof/Machine/Spindle.lean ====
section
/-! DEFINITION. The spindles (spec/10 R300 to R307): bindings, sends, receive counters, armed sends, contributions, and `ENGINE_STOP`. -/

namespace Sys2Proof.Machine

open Host (Outcome)

/-- The translation cache of the spindle that serves a handle (10 R300). -/
def unitHandle (h : Nat) : Nat := unitSpindle (h % 4)

/-- 13 R349: the device that the rank table names for a rank. -/
def State.rankDev (s : State) (p rank : Nat) : Option Nat := (s.rankEntry p rank).map (·.1)

/-- A bound handle of a partition. -/
def State.handle (s : State) (p h : Nat) : Option Handle := (s.part p).handles.find? fun x => x.idx == h

/-! ### Counters and armed sends -/

/-- 10 R300: a receive counter. -/
def State.ctr (s : State) (p c : Nat) : Word := lookupD (s.part p).ctrs c 0

/-- Bytes of global memory as a spindle reads them for the workgroup of an issuer: through its store buffer, and, where it has gone, the RDC of its die. -/
def State.bytesFor (s : State) (p : Nat) (b : Issuer) (k n : Nat) : List Byte :=
  if s.wgs.any fun x => x.uid == b.wg then s.readThrough b.wg k n else s.readKey b.die p k n

/-- Global or local bytes as a spindle reads them for a workgroup; a fault is its cause and address. -/
def State.spindleRead (s : State) (h p : Nat) (b : Issuer) (glb : Bool) (a n : Nat) : Except (Nat × Nat) (List Byte) :=
  if !glb then .ok (s.lsRead b.wg a n)
  else match s.xlateRange (unitHandle h) p .read a n with
    | .error f => .error f
    | .ok l =>
      if l.any fun k => s.unreachable k.1 then .error (0x15, a)
      else if l.any fun k => s.bad k.1 k.2 then .error (0x3E, a)
      else .ok (l.flatMap fun k => s.bytesFor p b k.1 k.2)

/-- 10 R303: whether a send's destination is memory of its peer. -/
def State.sendTarget (s : State) (p : Nat) (b : SendBlk) : Option Nat :=
  match s.handle p b.handle with
  | some { bind := .p2p peer _, .. } =>
    (match s.rankDev p peer, s.xlateRange (unitHandle b.handle) p .write b.dst b.len with
     | some d, .ok l =>
       if (pages b.dst b.len).all fun x => match s.xlate (unitHandle b.handle) p x.1 .write with
         | .ok e => (match e.dev with
           | some (k, _) => k == d
           | none => s.devNum == d)
         | .error _ => false
       then (l.head?).map (fun _ => d) else none
     | _, _ => none)
  | _ => none

/-- 10 R304, 16 R416: where the bytes of a send land: the peer's partition, and the physical pieces with their bytes. -/
def State.sendPieces (s : State) (u p : Nat) : List (Nat × Nat) → List Byte → Nat × List (Nat × List Byte)
  | [], _ => (p, [])
  | (a, n) :: r, bs =>
    match s.xlate u p a .write with
    | .ok e => ((e.dev.map (·.2)).getD p, (e.key a % physSpan, bs.take n) :: (s.sendPieces u p r (bs.drop n)).2)
    | .error _ => s.sendPieces u p r (bs.drop n)

/-- Whether a workgroup is on a core. -/
def State.onCore (s : State) (w : Nat) : Bool := (s.wg w).st == .resident || (s.wg w).st == .draining

/-- 10 R303: the fault that keeps a send from starting: 0x36 for a destination that is not the peer's, or that of its source. -/
def State.sendFault (s : State) (x : Send) : Option (Nat × Nat) :=
  match s.sendTarget x.part x.send with
  | none => some (0x36, x.send.dst)
  | some _ => match s.spindleRead x.send.handle x.part x.by_ x.send.glb x.send.src x.send.len with
    | .error f => some f
    | .ok _ => none

/-- One send replaced. -/
def State.updSend (s : State) (u : Nat) (f : Send → Send) : State := { s with sends := updWhere (fun x => x.uid == u) f s.sends }

/-- 04 R127, 16 R416: the bytes of a spindle's source of a workgroup: those of a local store, or what a range is translated to. -/
def State.sourceSpan (s : State) (h w : Nat) (glb : Bool) (a n : Nat) : List (SyncAt × Nat) :=
  if glb then s.globalSpan (unitHandle h) w a n else [(.loc w a, n)]

/-- 04 R127: the bytes that a spindle has read, free where they are undefined. -/
def State.sourceBytes (s : State) (uid : Nat) (undef : Bool) (bs : List Byte) : List Byte :=
  if undef then bs.zipIdx.map fun x => (s.free [27, uid, x.2]).truncate 8 else bs

/-- 10 R304: the receive counter that a handle's peer increments. -/
def rctrOf : Binding → Nat
  | .p2p _ c => c
  | _ => 0

/-- 16 R405: the leaves that a range is translated by. -/
def State.leafSpans (s : State) (u p a n : Nat) : List (Nat × Nat) :=
  (pages a n).filterMap fun x => match s.leaf u p x.1 with
    | .ok e => some (e.va, e.span)
    | .error _ => none

/-- 04 R118, R127: what a spindle command's local event releases, in its thread's name. -/
def State.sender (s : State) (b : Issuer) (pubs : List Nat) : Agent × List Nat := (s.agent b.wg b.gang b.lane, pubs)

/-- 10 R304, R306: a send reads its source, makes its source-read arrival and moves. One whose workgroup is switched out, or
whose partition is Stopped (13 R340), waits, and one that meets a fault waits for `ENGINE_STOP`. -/
def State.startSend (s : State) (u : Nat) : State :=
  match s.sends.find? fun x => x.uid == u && !x.read with
  | none => s
  | some x =>
    let w := x.by_.wg
    let b := x.send
    if ((!b.glb || b.rden) && !s.onCore w) || (s.part x.part).st == .stopped then s
    else match s.sendTarget x.part b, s.spindleRead b.handle x.part x.by_ b.glb b.src b.len with
      | some d, .ok src =>
        if !b.glb && (s.wg w).lsBad b.src b.len then s.kill w 0x52
        else
          let bs := s.sourceBytes u x.undef src
          let c := match s.handle x.part b.handle with
            | some h => rctrOf h.bind
            | none => 0
          let u1 := unitHandle b.handle
          let s0 := (if b.glb then s.engineTouch u1 x.part b.src b.len else s).rankTouch x.part
          let s1 := ((s0.cacheRange u1 x.part b.dst b.len).commitWg w).updSend u fun x => { x with
            read := true, bytes := bs, leaves := s.leafSpans u1 x.part b.dst b.len }
          let (pp, pieces) := s.sendPieces u1 x.part (pages b.dst b.len) bs
          let s2 := { s1 with outbox := s1.outbox ++ [Msg.send u pp d c pieces] }
          if b.rden then (s2.engineArrive w b.rdone 1 0 (s.sender x.by_ x.pubs)).st else s2
      | _, _ => s

/-- 10 R306: whether a counter meets a threshold. -/
def reached (v t : Word) : Bool := 0 ≤ (v - t).toInt

/-- 10 R304, R306: a send enters its spindle, which reads its source when it comes to it (`Action.source`). Issued again after its block was written, its
effect is undefined (10 R277). -/
def State.launchSend (s : State) (p : Nat) (b : Issuer) (x : SendBlk) (armed : Option (Nat × Word)) (pubs : List Nat) (undef : Bool := false)
    (spoiled : Bool := false) : State :=
  let y : Send :=
    { uid := s.uid, part := p, by_ := b, send := x, armed := armed, undef := undef, spoiled := spoiled
      span := s.sourceSpan x.handle b.wg x.glb x.src x.len, pubs := pubs }
  { s with uid := s.uid + 1, sends := s.sends ++ [y] }

/-- 10 R306: the armed sends that a counter event makes true fire in the order in which they were armed; of an increment, they see what it brought. -/
def State.fire (s : State) (p c : Nat) (brought : List Nat := []) : State :=
  let v := s.ctr p c
  let go := (s.part p).armed.filter fun a => a.ctr == c && reached v a.thr
  let s1 := s.updPart p fun q => { q with armed := q.armed.filter fun a => !(a.ctr == c && reached v a.thr) }
  go.foldl (fun s a => s.launchSend p a.by_ a.send (some (a.ctr, a.thr)) (brought ++ a.pubs) a.undef a.spoiled) s1

/-- 10 R305: a counter set to a value, and its armed sends tested. -/
def State.setCtr (s : State) (p c : Nat) (v : Word) : State :=
  (s.updPart p fun q => { q with ctrs := Machine.store q.ctrs c v }).fire p c

/-- 10 R304: a counter incremented, by what brought some accesses: the arrival on its linked object, then the armed sends. DESIGN CHOICE: an object whose granule
has been taken from the partition (13 R337, R344) gets no arrival (notes/assumptions/57.md). -/
def State.bumpCtr (s : State) (p c : Nat) (brought : List Nat := []) : State :=
  let s1 := s.updPart p fun q => { q with ctrs := Machine.store q.ctrs c (s.ctr p c + 1) }
  let s2 := match (s1.part p).links.find? fun l => l.ctr == c with
    | some l => if s1.objOwned p (.glb l.obj) then s1.arrive (.glb l.obj) 1 0 (.unit, brought ++ l.pubs) else s1
    | none => s1
  s2.fire p c brought

/-! ### `cx.bind` -/

/-- A bind block (10 R301). -/
structure BindBlk where
  handle : Nat
  kind : Nat
  peer : Nat
  rctr : Nat
  redid : Nat
  params : RedParams
  slotBase : Nat
  slotLog : Nat
  dest : Nat
  resobj : Nat
  statrec : Nat
  zeros : Bool
  p2pZero : Bool
  redZero : Bool
  deriving DecidableEq, Repr, Inhabited

/-- 10 R301: the fields of 128 bytes. -/
def bindOf (x : Nat) : BindBlk :=
  { handle := bits x 7 0, kind := bits x 9 8, peer := bits x 27 16, rctr := bits x 39 32, redid := bits x 95 64
    params := { e := bits x 154 128, n := bits x 172 160, q := bits x 188 176, t := bits x 223 192, k := bits x 225 224
                d := bits x 230 228, first := BitVec.ofNat 32 (bits x 127 96) }
    slotBase := bits x 243 232, slotLog := bits x 247 244, dest := bits x 319 256, resobj := bits x 383 320, statrec := bits x 447 384
    zeros := bits x 15 10 == 0 && bits x 31 28 == 0 && bits x 63 40 == 0 && bits x 159 155 == 0 && bits x 175 173 == 0 &&
      bits x 191 189 == 0 && bits x 227 226 == 0 && bits x 231 231 == 0 && bits x 255 248 == 0 && bits x 1023 448 == 0
    p2pZero := bits x 27 16 == 0 && bits x 39 32 == 0, redZero := bits x 447 64 == 0 }

/-- 10 R302, 05 R145: the reduce fields. -/
def BindBlk.reduceOk (b : BindBlk) : Bool :=
  let r := b.params
  1 ≤ r.e && r.e ≤ 2 ^ 26 && 1 ≤ r.n && r.n ≤ 4096 && 1 ≤ r.q && r.q ≤ r.n && b.slotLog ≤ 12 && b.slotBase % 2 ^ b.slotLog == 0 &&
  b.dest % 16 == 0 && b.statrec % 16 == 0

/-- 10 R302: an address of a reduce binding: its translation fault, or 0x32 where a page of its range is not homed in this package. Whether the
pages may be written shows at each delivery (05 R451). DESIGN CHOICE: a later page that has no translation at the bind, for which R302 gives no code, does not keep the
binding from being accepted, and shows at the delivery too (notes/assumptions/34.md). -/
def State.homedHere (s : State) (u p a n : Nat) : Option Nat :=
  match s.xlate u p a .read with
  | .error c => some c
  | .ok _ => need ((pages a n).all fun x => match s.xlate u p x.1 .read with
    | .ok e => !isPeer (e.key x.1)
    | .error _ => true) 0x32

/-- 10 R275, R302: whether a handle is unbound once some blocks have acted on it, one after the other. -/
def State.handleFree (s : State) (lower : List BindBlk) (h : Nat) : Bool :=
  lower.foldl (fun free b => if b.handle == h then b.kind == 0 else free) (s.handle s.curPart h).isNone

/-- 10 R302: a bind block checked; `lower` are the blocks of the lower lanes of the issue. A misaligned `RESOBJ`, a phase object that the block names, raises 0x18
(03 R104). -/
def State.bindFields (s : State) (lower : List BindBlk) (x : Nat) : Option Nat :=
  let b := bindOf x
  let p := s.curPart
  if !(b.zeros && b.handle ≤ 63 && b.kind ≤ 2) then some 0x36
  else if b.kind == 0 then need (b.p2pZero && b.redZero) 0x36
  else if !(s.handleFree lower b.handle && s.launch.tgb) then some 0x36
  else if b.kind == 1 then need (b.redZero && b.peer < (s.part p).nrank) 0x36
  else if !(b.p2pZero && b.reduceOk && b.resobj % 16 == 0) then lowerCode (need (b.resobj % 16 == 0) 0x18) (need (b.p2pZero && b.reduceOk) 0x36)
  else
    let u := unitHandle b.handle
    lowerCode (lowerCode (s.homedHere u p b.dest (4 * b.params.e)) (s.homedHere u p b.resobj 16)) (s.homedHere u p b.statrec 16)

/-- The reduction that this device roots for a partition. -/
def State.reduction (s : State) (p : Nat) (redid : Word) : Option Reduction := s.reds.find? fun r => r.part == p && r.redid == redid

/-- One reduction replaced. -/
def State.updRed (s : State) (p : Nat) (redid : Word) (f : Reduction → Reduction) : State :=
  { s with reds := updWhere (fun r => r.part == p && r.redid == redid) f s.reds }

/-- 05 R145: a notice compared with the root's parameters. -/
def Reduction.compare (r : Reduction) (n : Notice) : Reduction :=
  if n.params == r.params then
    { r with receivers := if r.receivers.contains n.dev then r.receivers else r.receivers ++ [n.dev], refused := r.refused.erase n.dev }
  else { r with refused := if r.refused.contains n.dev then r.refused else r.refused ++ [n.dev], receivers := r.receivers.erase n.dev }

/-- 05 R145, 12 R324: a notice reaches the root: compared, or held until the root binds. -/
def State.noticed (s : State) (n : Notice) : State :=
  match s.reduction n.part n.redid with
  | some _ => s.updRed n.part n.redid fun r => r.compare n
  | none => { s with heldNotices := s.heldNotices ++ [n] }

/-- 05 R145, 10 R302: a reduce handle bound: the root, which owns slot 0, opens the reduction and compares what it held; another device
sends its notice. -/
def State.bindReduce (s : State) (p : Nat) (b : BindBlk) : State :=
  let id : Word := BitVec.ofNat 32 b.redid
  let n : Notice := { part := p, redid := id, dev := none, params := b.params }
  if b.slotBase != 0 then { s with outbox := s.outbox ++ [Msg.notice n] }
  else
    let s1 := if (s.reduction p id).isSome then s
      else { s with reds := { part := p, redid := id, params := b.params, low := b.params.first, gone := s.linksDown } :: s.reds }
    let mine (m : Notice) : Bool := m.part == p && m.redid == id
    let s2 := (s1.heldNotices.filter mine).foldl (fun s m => s.updRed p id fun r => r.compare m) (s1.updRed p id fun r => r.compare n)
    { s2 with heldNotices := s2.heldNotices.filter fun m => !mine m }

/-- 10 R302: operations in flight on a handle. -/
def State.handleBusy (s : State) (p h : Nat) : Bool :=
  (s.sends.any fun x => x.part == p && x.send.handle == h) || (s.contribs.any fun c => c.part == p && c.handle == h && c.sent) ||
  (match s.handle p h with
   | some { bind := .reduce id .., .. } =>
     (s.results.any fun r => r.msg.part == p && r.msg.redid == id) || s.landing.any fun l => l.msg.part == p && l.msg.redid == id
   | _ => false)

/-- 10 R302, R306, 12 R324: a handle unbound: its armed sends and its held contributions go, and the root closes its reduction. DESIGN CHOICE: a contribution
that waits for the window of 05 R146 alone is one held unread, and goes too; R324 names those that wait for the root's binding (notes/assumptions/62.md). -/
def State.unbind (s : State) (p h : Nat) : State :=
  let s1 := match s.handle p h with
    | some { bind := .reduce id _ _ _ 0 .., .. } => { s with reds := s.reds.filter fun r => !(r.part == p && r.redid == id) }
    | _ => s
  let s2 := { s1 with contribs := s1.contribs.filter fun c => !(c.part == p && c.handle == h && !c.sent) }
  s2.updPart p fun q => { q with
    handles := q.handles.filter fun x => x.idx != h
    armed := q.armed.filter fun a => a.send.handle != h }

/-- 10 R302: one lane's `cx.bind`, which knows some accesses. -/
def State.bindLane (s : State) (b : BindBlk) (known : List Nat := []) : State :=
  let p := s.curPart
  let put (x : Binding) : State := s.updPart p fun q => { q with handles := { idx := b.handle, bind := x, pubs := known } :: q.handles }
  if b.kind == 0 then s.unbind p b.handle
  else if b.kind == 1 then put (.p2p b.peer b.rctr)
  else
    (put (.reduce (BitVec.ofNat 32 b.redid) b.dest b.resobj b.statrec b.slotBase b.slotLog b.params.first b.params.e b.params.n)).bindReduce p b

/-- The block of a lane's `cx.bind`. -/
def State.bindAt (s : State) (c : Cap) : BindBlk := bindOf (s.blockAt s.cur.wg c.a 128)

/-- 16 R403, R417: what the checks of a lane's reduce binding translate. -/
def State.bindTouch (s : State) (c : Cap) : State :=
  let b := s.bindAt c
  let touch (s : State) (a n : Nat) : State := s.cacheRange (unitHandle b.handle) s.curPart a n
  if c.a % 64 == 0 && s.inAlloc s.cur.wg c.a 128 && b.zeros && b.handle ≤ 63 && b.kind == 2 && s.launch.tgb && b.p2pZero && b.reduceOk && b.resobj % 16 == 0 then
    touch (touch (touch s b.dest (4 * b.params.e)) b.resobj 16) b.statrec 16
  else s

/-- 10 R301, R302: `cx.bind`. An unbinding whose handle has operations in flight waits at the instruction (R275). -/
def execCxBind (o : Op) (s : State) : Outcome State Fault Refusal :=
  let caps := s.captureBlk o
  .next (s.acting caps (pair := s.pairOp { a := .n32 } o) fun s =>
    let lower (c : Cap) : List BindBlk := ((s.effective caps).filter fun d => d.lane < c.lane % s.launch.maskW).map s.bindAt
    s.withBlocks caps 64 128 (fun c => s.blockCheck s.cur.wg c.a 64 128 (s.bindFields (lower c))) (touch := State.bindTouch) fun s =>
      if (s.effective caps).any fun c => (s.bindAt c).kind == 0 && s.handleBusy s.curPart (s.bindAt c).handle then s.waitHere
      else ((s.effective caps).foldl (fun s c => s.bindLane (s.bindAt c) (s.knownBy c.lane)) s).advance)

/-! ### `cx.send` and `cx.arm` -/

/-- 10 R303: the fields of a 32-byte send block, with whether its zero fields are zero and its sizes in range. -/
def sendOf (blk x : Nat) : SendBlk × Bool :=
  let b : SendBlk :=
    { blk := blk, src := bits x 63 0, dst := bits x 127 64, len := bits x 152 128, handle := bits x 167 160, glb := bitAt x 168
      rden := bitAt x 169, rdone := bits x 191 170 }
  (b, bits x 159 153 == 0 && bits x 255 224 == 0 && 16 ≤ b.len && b.len ≤ 2 ^ 24 && b.len % 16 == 0 && b.src % 16 == 0 && b.dst % 16 == 0)

/-- 10 R303: a send block checked. -/
def State.sendFields (s : State) (w x : Nat) : Option Nat :=
  let (b, ok) := sendOf 0 x
  let bound := match s.handle s.curPart b.handle with
    | some { bind := .p2p .., .. } => true
    | _ => false
  need (ok && bound && (b.glb || s.inAlloc w b.src b.len) && (!b.rden || (b.rdone % 16 == 0 && s.inAlloc w b.rdone 16))) 0x36

/-- The send block of a lane. -/
def State.sendAt (s : State) (c : Cap) : SendBlk := (sendOf c.a (s.blockAt s.cur.wg c.a 32)).1

/-- 10 R303, R304: one lane's `cx.send`. -/
def State.sendLane (s : State) (c : Cap) : State :=
  let (s1, meets) := s.claimBlock s.cur.wg c.a 32 s.uid
  s1.launchSend s.curPart (s.issuer c.lane) (s.sendAt c) none (s.knownBy c.lane) s.againBad (meets || s.againBad)

/-- 10 R303, R304: `cx.send`. -/
def execCxSend (o : Op) (s : State) : Outcome State Fault Refusal :=
  let caps := s.captureBlk o
  .next (s.acting caps (pair := s.pairOp { a := .n32 } o) fun s =>
    s.withBlocks caps 32 32 (fun c => s.blockCheck s.cur.wg c.a 32 32 (s.sendFields s.cur.wg)) fun s =>
      ((s.effective caps).foldl State.sendLane s).advance)

/-- 10 R306: whether an armed send would fire at once. -/
def State.firesNow (s : State) (c : Cap) : Bool := reached (s.ctr s.curPart c.b) (BitVec.ofNat 32 c.c)

/-- 10 R306: one lane's `cx.arm`. -/
def State.armLane (s : State) (c : Cap) : State :=
  let p := s.curPart
  let (s1, meets) := s.claimBlock s.cur.wg c.a 32 s.uid
  if s.firesNow c then s1.launchSend p (s.issuer c.lane) (s.sendAt c) (some (c.b, BitVec.ofNat 32 c.c)) (s.knownBy c.lane) s.againBad
    (meets || s.againBad)
  else
    let a : Armed :=
      { uid := s.uid, by_ := s.issuer c.lane, send := s.sendAt c, ctr := c.b, thr := BitVec.ofNat 32 c.c, pubs := s.knownBy c.lane
        spoiled := meets || s.againBad, undef := s.againBad }
    { s1.updPart p (fun q => { q with armed := q.armed ++ [a] }) with uid := s.uid + 1 }

/-- The kinds of the sources of `cx.arm`. -/
def armKinds : Kinds := { a := .n32, b := .n32, c := .n32 }

/-- 10 R306: `cx.arm`. -/
def execCxArm (o : Op) (s : State) : Outcome State Fault Refusal :=
  let caps := s.captureOp armKinds o
  .next (s.acting caps (pair := s.pairOp armKinds o) fun s =>
    let used (c : Cap) : Nat := (s.part s.curPart).armed.length + ((s.effective caps).filter fun d => d.lane < c.lane && !s.firesNow d).length
    let full (c : Cap) : Bool := (s.effective caps).contains c && 64 ≤ used c
    s.withBlocks caps 32 32 (fun c => s.blockCheck s.cur.wg c.a 32 32 fun x =>
        lowerCode (s.sendFields s.cur.wg x) (need (c.b ≤ 255 && !full c) 0x36)) fun s =>
      ((s.effective caps).foldl State.armLane s).advance)

/-! ### `cx.ctr` -/

/-- 10 R305: a counter index above 255 raises 0x36. -/
def State.withCtrs (s : State) (caps : List Cap) (k : State → State) : State :=
  match lowestFault (caps.filterMap fun c => if 255 < c.a then some (c.lane, 0x36, (0 : DWord)) else none) with
  | some f => s.faultLanes caps f
  | none => k s

/-- 10 R305: `cx.ctr.get`: a relaxed read. -/
def execCxCtrGet (o : Op) (s : State) : Outcome State Fault Refusal :=
  let caps := s.captureOp { a := .n32 } o
  .next (s.acting caps (pair := s.pairOp { a := .n32 } o) fun s => s.withCtrs caps fun s =>
    (s.returnTo o 1 ((s.effective caps).map fun c => (c.lane, (s.ctr s.curPart c.a).toNat))).advance)

/-- 10 R305: `cx.ctr.set`. -/
def execCxCtrSet (o : Op) (s : State) : Outcome State Fault Refusal :=
  let caps := s.captureOp { a := .n32, b := .n32 } o
  .next (s.acting caps (pair := s.pairOp { a := .n32, b := .n32 } o) fun s => s.withCtrs caps fun s =>
    ((s.effective caps).foldl (fun s c => s.setCtr s.curPart c.a (BitVec.ofNat 32 c.b)) s).advance)

/-- The object of a lane's `cx.ctr.link`, checked: alignment, translation, and a home in this package. DESIGN CHOICE: of a lane whose counter is above 255 too, the
0x36 comes first; the spec gives no order (notes/assumptions/15.md). -/
def State.linkObj (s : State) (c : Cap) : Except Nat Place := if 255 < c.a then .error 0x36 else s.placeObj .glb .write c.b

/-- 10 R305: `cx.ctr.link`. -/
def execCxCtrLink (o : Op) (s : State) : Outcome State Fault Refusal :=
  let caps := s.captureOp { a := .n32, b := .n64 } o
  .next (s.acting caps (pair := s.pairOp { a := .n32, b := .n64 } o) fun s =>
    match lowestFault (failed s.linkObj (fun c => c.b) caps) with
    | some f => (s.recallLanes .glb (fun c => c.b) (caps.filter fun c => c.a ≤ 255)).faultLanes caps f
    | none =>
      ((placed s.linkObj (s.effective caps)).foldl (fun s r => match r.place with
        | .mem k _ => s.updPart s.curPart fun q => { q with
            links := { ctr := r.cap.a, obj := k, pubs := s.knownBy r.cap.lane } :: q.links.filter fun l => l.ctr != r.cap.a }
        | _ => s) (s.cacheLanes .glb (fun c => c.b) caps)).advance)

/-- 10 R305: `cx.ctr.unlink`. -/
def execCxCtrUnlink (o : Op) (s : State) : Outcome State Fault Refusal :=
  let caps := s.captureOp { a := .n32 } o
  .next (s.acting caps (pair := s.pairOp { a := .n32 } o) fun s => s.withCtrs caps fun s =>
    ((s.effective caps).foldl (fun s c => s.updPart s.curPart fun q => { q with links := q.links.filter fun l => l.ctr != c.a }) s).advance)

/-! ### Events of sends -/

/-- 16 R416, R418 to R420: whether the peer of a send is reached. -/
def State.sendReaches (s : State) (x : Send) : Bool :=
  match s.handle x.part x.send.handle with
  | some { bind := .p2p peer _, .. } => (match s.rankEntry x.part peer with
    | some (d, eth) => s.reachesDev d eth
    | none => false)
  | _ => false

/-- 05 R149: `CHUNK_ACK`: the next hop acknowledges one more chunk of a send or of a contribution; a contribution to another root whose
every chunk is acknowledged is complete. -/
def execChunkAck (id : Nat) (s : State) : Outcome State Fault Refusal :=
  let bump (c : Contrib) : Contrib := { c with acked := c.acked + 1 }
  let over_ (c : Contrib) : Bool := c.uid == id && c.sent && chunkCount (4 * c.words.length) ≤ c.acked
  .next (
    let s1 := s.updSend id fun x => if x.read && x.acked < chunkCount x.send.len && s.sendReaches x then { x with acked := x.acked + 1 } else x
    { s1 with contribs := (updWhere (fun c => c.uid == id && c.sent && (s.reduction c.part c.redid).isNone) bump s1.contribs).filter fun c => !over_ c })

/-- 05 R149: a transfer of a step re-forms around a failed link to a device: one that holds a contribution of it. -/
def RStep.relink (x : RStep) (dev : Nat) : RStep := { x with restart := x.restart || (x.ontime ++ x.folded).any fun l => l.dev == some dev }

/-- 05 R148, R149: the status of a closed step whose result is still to be delivered, after a link to a device has failed: `LINKRESTART`, and `FAILED` where no
path is left to a device that holds an included contribution. -/
def Closed.relink (c : Closed) (dev : Nat) (path : Bool) : Closed :=
  if !c.devs.contains dev then c
  else { c with msg := { c.msg with status := c.msg.status ||| 2 ||| (if path then 0 else 8) } }

/-- 05 R149: a result that is landing takes the status of its closed step. -/
def Landing.follow (l : Landing) (cs : List Closed) : Landing :=
  match cs.find? fun c => c.msg.part == l.msg.part && c.msg.redid == l.msg.redid && c.msg.step == l.msg.step with
  | some c => { l with msg := c.msg }
  | none => l

/-- 05 R149, 16 R418: `LINK_FAILURE`: a link to a device fails; while a path is left, transfers re-form over the remaining links and resend from the first
unacknowledged chunk. Which device that is stands in the event (notes/assumptions/16.md). -/
def execLinkFailure (link : LinkLoss) (s : State) : Outcome State Fault Refusal :=
  let closed := s.results.map fun c => c.relink link.dev link.path
  .next { s with
    linksDown := if link.path || s.linksDown.contains link.dev then s.linksDown else link.dev :: s.linksDown
    reds := s.reds.map fun r => { r with
      steps := r.steps.map fun x => x.relink link.dev
      gone := if link.path || r.gone.contains link.dev then r.gone else link.dev :: r.gone }
    results := closed
    landing := s.landing.map fun l => l.follow closed }

/-- Bytes that it writes at their home; sources of commands in flight that hold them are spoiled (10 R304, R307). -/
def State.unitWrite (s : State) (k : Nat) (bs : List Byte) (item : Nat) : State := (s.homeWrite k bs (some item)).spoilReads (.mem k) bs.length item

/-- 10 R304, 16 R416: `SEND_LANDING`: on this package as the peer: the bytes at their ordering points, then the counter event. -/
def execSendLanding (part ctr : Nat) (pieces : List (Nat × List (BitVec 8))) (s : State) : Outcome State Fault Refusal :=
  .next (s.incoming fun s =>
    let q := s.part part
    if (q.st == .running || q.st == .stopped) && ctr ≤ 255 && pieces.all (fun x => s.ownsRange part x.1 x.2.length) then
      let (s1, item) := s.unitItem
      (pieces.foldl (fun s x => s.unitWrite x.1 x.2 item) s1).bumpCtr part ctr [item]
    else s)

/-- 10 R303, R277: the `STATUS` of a send written; in a block written meanwhile it is undefined. -/
def State.putStatus (s : State) (x : Send) (v : Nat) : State :=
  let s1 := s.putField x.by_.wg (x.send.blk + 24) v x.uid
  if x.spoiled then s1.wildAt (.loc x.by_.wg (x.send.blk + 24)) 4 else s1

/-- 10 R304, R306: `SEND_ACK`: a send is acknowledged once every chunk is, or found without a path where none is left; `STATUS` is written when its
workgroup is not switched out. -/
def execSendAck (id : Nat) (path : Bool) (s : State) : Outcome State Fault Refusal :=
  .next (match s.sends.find? fun x => x.uid == id with
    | none => s
    | some x =>
      let w := x.by_.wg
      if !x.read || (s.wg w).st == .switchedOut || (if path then x.acked != chunkCount x.send.len else s.sendReaches x) then s
      else
        let s1 := { s with sends := s.sends.filter fun y => y.uid != id }
        if s.onCore w then s1.putStatus x (if path then 0x80000000 else 0x80000001) else s1)

/-! ### Contributions -/

/-- 10 R307: the fields of a 32-byte contribution block: handle, slot, step, buffer, its space, and the buffer-read arrival. -/
structure RedBlk where
  buf : Nat
  step : Nat
  slot : Nat
  handle : Nat
  glb : Bool
  rden : Bool
  rdone : Nat
  zeros : Bool
  deriving DecidableEq, Repr, Inhabited

/-- 10 R307. -/
def redOf (x : Nat) : RedBlk :=
  { buf := bits x 63 0, step := bits x 95 64, slot := bits x 107 96, handle := bits x 119 112, glb := bitAt x 120, rden := bitAt x 121
    rdone := bits x 143 122, zeros := bits x 111 108 == 0 && bits x 255 144 == 0 }

/-- 10 R307: a contribution block checked. -/
def State.redFields (s : State) (w x : Nat) : Option Nat :=
  let b := redOf x
  match s.handle s.curPart b.handle with
  | some { bind := .reduce _ _ _ _ base log _ e n, .. } =>
    need (b.zeros && base ≤ b.slot && b.slot < base + 2 ^ log && b.slot < n && b.buf % 16 == 0 && (b.glb || s.inAlloc w b.buf (4 * e)) &&
      (!b.rden || (b.rdone % 16 == 0 && s.inAlloc w b.rdone 16))) 0x36
  | _ => some 0x36

/-- Elements of a contribution through a handle (05 R145). -/
def State.handleElems (s : State) (p h : Nat) : Nat :=
  match s.handle p h with
  | some { bind := .reduce _ _ _ _ _ _ _ e _, .. } => e
  | _ => 0

/-- 10 R307: one lane's contribution enters its spindle, unread. -/
def State.redLane (s : State) (c : Cap) : State :=
  let b := redOf (s.blockAt s.cur.wg c.a 32)
  let p := s.curPart
  let id : Word := match s.handle p b.handle with
    | some { bind := .reduce id .., .. } => id
    | _ => 0
  let (s1, meets) := s.claimBlock s.cur.wg c.a 32 s.uid
  let x : Contrib :=
    { uid := s.uid, by_ := s.issuer c.lane, part := p, redid := id, handle := b.handle, slot := b.slot, step := BitVec.ofNat 32 b.step
      buf := b.buf, glb := b.glb, rden := b.rden, rdone := b.rdone, blk := c.a, undef := s.againBad, spoiled := meets || s.againBad
      span := s.sourceSpan b.handle s.cur.wg b.glb b.buf (4 * s.handleElems p b.handle), pubs := s.knownBy c.lane }
  { s1 with uid := s.uid + 1, contribs := s1.contribs ++ [x] }

/-- 10 R307: `cx.red`. -/
def execCxRed (o : Op) (s : State) : Outcome State Fault Refusal :=
  let caps := s.captureBlk o
  .next (s.acting caps (pair := s.pairOp { a := .n32 } o) fun s =>
    s.withBlocks caps 32 32 (fun c => s.blockCheck s.cur.wg c.a 32 32 (s.redFields s.cur.wg)) fun s =>
      ((s.effective caps).foldl State.redLane s).advance)

/-- 05 R145: whether this device is the root of a contribution: its handle owns slot 0. -/
def State.rootHere (s : State) (c : Contrib) : Bool :=
  match s.handle c.part c.handle with
  | some { bind := .reduce _ _ _ _ 0 .., .. } => true
  | _ => false

/-- 10 R302: what another root has been found to make of the parameters of a contribution's handle. -/
def State.verdict (s : State) (c : Contrib) : Option Bool := (s.handle c.part c.handle).bind fun h => h.verdict

/-- 10 R302: the first contribution of a handle that reaches another root shows what it makes of the handle's parameters, which stands until the handle is unbound. -/
def State.judge (s : State) (c : Contrib) (ok : Bool) : State :=
  if s.rootHere c then s
  else s.updPart c.part fun q => { q with handles := updWhere (fun h => h.idx == c.handle) (fun h => { h with verdict := some ok }) q.handles }

/-- 05 R146: whether the root's window admits a contribution; another root's admission is the event itself, which none of a refused handle comes to (10 R302). -/
def State.admits (s : State) (c : Contrib) : Bool :=
  if !s.rootHere c then s.verdict c != some false
  else match s.reduction c.part c.redid with
    | some r => (c.step - r.low).toInt ≤ 7
    | none => false

/-- Elements of a contribution (05 R145). -/
def State.redElems (s : State) (c : Contrib) : Nat := s.handleElems c.part c.handle

/-- The little-endian words of bytes. -/
def wordsOf (bs : List Byte) : Nat → List Word
  | 0 => []
  | n + 1 => BitVec.ofNat 32 (ofBytesLE (bs.take 4)) :: wordsOf (bs.drop 4) n

/-- 05 R146, 10 R307: `CONTRIBUTION_ADMISSION`: the root admits a contribution: its spindle reads the whole buffer, makes the buffer-read
arrival and sends the notice. A read that meets a fault stops instead (`ENGINE_STOP`). -/
def execContributionAdmission (id : Nat) (s : State) : Outcome State Fault Refusal :=
  .next (match s.contribs.find? fun c => c.uid == id && !c.sent with
    | none => s
    | some c =>
      let w := c.by_.wg
      let n := s.redElems c
      if !s.admits c || ((!c.glb || c.rden) && !s.onCore w) then s
      else match s.spindleRead c.handle c.part c.by_ c.glb c.buf (4 * n) with
        | .error _ => s
        | .ok bs =>
          if !c.glb && (s.wg w).lsBad c.buf (4 * n) then s.kill w 0x52
          else
            let ws := wordsOf (s.sourceBytes c.uid c.undef bs) n
            let s0 := if c.glb then s.engineTouch (unitHandle c.handle) c.part c.buf (4 * n) else s
            let a : Arrival := { part := c.part, redid := c.redid, dev := none, slot := c.slot, step := c.step, words := ws }
            let s1 := { s0.commitWg w with contribs := updWhere (fun x => x.uid == id) (fun x => { x with sent := true, words := ws }) s.contribs }
            let s2 := if s.rootHere c then s1
              else { (s1.judge c true).updPart c.part (fun q => { q with
                  handles := updWhere (fun h => h.idx == c.handle) (fun h => { h with subs := (c.step, c.pubs) :: h.subs }) q.handles }) with
                outbox := s1.outbox ++ [Msg.contribution a] }
            if c.rden then (s2.engineArrive w c.rdone 1 0 (s.sender c.by_ c.pubs)).st else s2)

/-! ### `ENGINE_STOP` -/

/-- 10 R279, R302, R307: a contribution that an admitted read finds at fault stops. At another root the stop of one that can be read is that root's refusal, the first or,
of a handle that it has refused one of, a further one; a handle that it has admitted one of is not refused. -/
def State.contribStop (s : State) (c : Contrib) : State :=
  let n := 4 * s.redElems c
  let stop (t : State) (code addr : Nat) : State :=
    { t with contribs := t.contribs.filter fun x => x.uid != c.uid }.postEngine c.by_ c.blk 0 0 (.command c.uid c.uid 32 c.spoiled) code addr
  if !s.rootHere c && s.verdict c == some false then stop s 0x36 c.blk
  else match s.spindleRead c.handle c.part c.by_ c.glb c.buf n with
    | .error f => if s.admits c then stop ((s.engineTouch (unitHandle c.handle) c.part c.buf n).judge c true) f.1 f.2 else s
    | .ok _ => if s.rootHere c || s.verdict c == some true then s else stop (s.judge c false) 0x36 c.blk

/-- 16 R403, R417: what a send that stops has translated: its destination, and, where that is the peer's, its source. -/
def State.sendTouch (s : State) (x : Send) : State :=
  let b := x.send
  let s1 := s.cacheRange (unitHandle b.handle) x.part b.dst b.len
  if b.glb && (s.sendTarget x.part b).isSome then s1.engineTouch (unitHandle b.handle) x.part b.src b.len else s1

/-- 10 R279, R306: a send that cannot start stops, with a `STATUS` of zero, as the send is not done, once its workgroup is on a core; the entry of one that was
armed holds its counter and its threshold. -/
def State.sendStop (s : State) (x : Send) : State :=
  match s.sendFault x with
  | some f =>
    if !s.onCore x.by_.wg then s else
    let t := s.sendTouch x
    let s1 := { t with sends := t.sends.filter fun y => y.uid != x.uid }.putStatus x 0
    let ct := x.armed.getD (0, 0)
    s1.postEngine x.by_ x.send.blk ct.1 ct.2.toNat (.command x.uid x.uid 32 x.spoiled) f.1 f.2
  | none => s

/-- 10 R279: `ENGINE_STOP`: where the next part of an engine operation, a send or a contribution meets a fault, it stops and its trap is
pending for the gang that issued it. -/
def execEngineStop (op : Nat) (s : State) : Outcome State Fault Refusal :=
  .next (match s.eop op, s.sends.find? (fun x => x.uid == op && !x.read), s.contribs.find? (fun c => c.uid == op && !c.sent) with
    | some o, _, _ => if s.opRuns o then match s.opFault o with
        | some f => s.engineStop o f
        | none => s
      else s
    | none, some x, _ => s.sendStop x
    | none, none, some c => s.contribStop c
    | none, none, none => s)

end Sys2Proof.Machine
end

