-- ==== Sys2Proof/Machine/Reduce.lean ====
section
/-! DEFINITION. Quorum reductions at their root and at the receiving devices (spec/05 R145 to R149, R451, R138; spec/12 R324). -/

namespace Sys2Proof.Machine

open Host (Outcome)

/-- 05 R145: `BINDING_NOTICE_ARRIVAL`: a peer's notice reaches the root and is compared with the root's parameters, or held. -/
def execBindingNoticeArrival (n : Notice) (s : State) : Outcome State Fault Refusal := .next (s.incoming fun s => s.noticed n)

/-- f32 addition, nearest even. -/
def addF (x y : Word) : Word := BitVec.ofNat 32 (Fmt.f32.add .rn x.toNat y.toNat)
/-- f32 multiplication, nearest even. -/
def mulF (x y : Word) : Word := BitVec.ofNat 32 (Fmt.f32.mul .rn x.toNat y.toNat)

/-- 05 R146, R147: the weight 2^(-k lag) as FP32. -/
def weightF (k lag : Nat) : Word := BitVec.ofNat 32 (2 ^ 23 * (127 - k * lag))

/-- 05 R147: a folded contribution added to a leaf. -/
def foldLeaf (w : Word) (l h : List Word) : List Word := (l.zip h).map fun x => addF x.1 (mulF w x.2)

/-- The lag of a folded leaf in a step (05 R146). -/
def Leaf.lag (l : Leaf) (step : Word) : Nat := (step - l.src).toNat

/-- The late contributions of a slot, in ascending source step (05 R147): by falling lag. The spec gives two of one source step no order; they
stay in that of their arrival (notes/assumptions/51.md). -/
def RStep.lates (x : RStep) (slot : Nat) : List Leaf :=
  (List.range 8).reverse.flatMap fun lag => x.folded.filter fun l => l.slot == slot && l.lag x.step == lag

/-- 05 R147: the leaf of a slot for `e` elements, or none where nothing is included. -/
def RStep.leaf (x : RStep) (k e slot : Nat) : Option (List Word) :=
  let on := x.ontime.find? fun l => l.slot == slot
  let late := x.lates slot
  if on.isNone && late.isEmpty then none
  else
    let base := match on with
      | some l => l.words
      | none => List.replicate e 0
    some (late.foldl (fun a l => foldLeaf (weightF k (l.lag x.step)) a l.words) base)

/-- 05 R147: the sum of the weights in units of 2^-24. -/
def RStep.weight (x : RStep) (k : Nat) : Nat :=
  x.ontime.length * 2 ^ 24 + (x.folded.map fun l => 2 ^ (24 - k * l.lag x.step)).sum

/-- 05 R147: one level of the pairwise tree. -/
def pairSums : List Word → List Word
  | a :: b :: r => addF a b :: pairSums r
  | [a] => [a]
  | [] => []

/-- 05 R147: the tree over 4096 leaves. -/
def treeSum : Nat → List Word → Word
  | 0, l => (l.head?).getD 0
  | n + 1, l => treeSum n (pairSums l)

/-- 05 R147: RNE(N / ΣW), with the weight in units of 2^-24. -/
def scaleF (n w : Nat) : Word :=
  let x := n * 2 ^ 84
  BitVec.ofNat 32 (Fmt.f32.round .rn false (x / w) (-60) (x % w != 0)).bits

/-- 05 R147: the result array of a step. -/
def RStep.result (x : RStep) (p : RedParams) : List Word :=
  let w := x.weight p.k
  let leaves := (List.range 4096).map fun i => if i < p.n then x.leaf p.k p.e i else none
  (List.range p.e).map fun j =>
    if w == 0 then 0
    else mulF (treeSum 12 (leaves.map fun l => match l with
      | some ws => (ws[j]?).getD 0
      | none => 0)) (scaleF p.n w)

/-- 05 R148: the status record of a step. DESIGN CHOICE: `FOLDED`, which late duplicates can bring above 65,535, then reads 0xFFFF; the spec states saturation for `DROPPED`
alone (notes/assumptions/51.md). -/
def Reduction.status (r : Reduction) (x : RStep) : BitVec 128 :=
  let w := x.weight r.params.k
  let lost := (x.ontime ++ x.folded).any fun l => match l.dev with
    | some d => r.gone.contains d
    | none => false
  let flag (b : Bool) (n : Nat) : Nat := if b then 2 ^ n else 0
  BitVec.ofNat 128 (2 ^ 64 * w + 2 ^ 48 * min x.ontime.length 0xFFFF + 2 ^ 32 * min x.folded.length 0xFFFF + 2 ^ 16 * min r.dropped 0xFFFF +
    flag lost 3 + flag (w == 0) 2 + flag x.restart 1 + flag x.expired 0)

/-- The step record of a reduction, new where nothing has arrived. -/
def Reduction.stepOf (r : Reduction) (n : Word) : RStep := (r.steps.find? fun x => x.step == n).getD { step := n }

/-- One step record replaced. -/
def Reduction.putStep (r : Reduction) (x : RStep) : Reduction := { r with steps := x :: r.steps.filter fun y => y.step != x.step }

/-- 05 R146: whether the lowest unclosed step's condition is met. -/
def Reduction.closes (r : Reduction) : Bool := let x := r.stepOf r.low; r.params.q ≤ x.ontime.length || x.expired

/-- 05 R146 to R148: the lowest unclosed step closes, and its result goes to every receiving device. -/
def State.closeStep (s : State) (r : Reduction) : State :=
  let x := r.stepOf r.low
  let all := x.ontime ++ x.folded
  let m : ResultMsg := { part := r.part, redid := r.redid, step := r.low, words := x.result r.params, status := r.status x }
  let s1 := s.updRed r.part r.redid fun r =>
    { r with low := r.low + 1, steps := r.steps.filter fun y => y.step != r.low, dropped := 0 }
  r.receivers.foldl (fun s d => match d with
    | none => { s with results := s.results ++ [{ msg := m, devs := all.filterMap fun l => l.dev, pubs := (all.flatMap fun l => l.pubs).eraseDups }] }
    | some d => { s with outbox := s.outbox ++ [Msg.result d m] }) s1

/-- 05 R146: steps close in order while their conditions are met; a step met early closes at its predecessor's close. -/
def State.closeSteps (s : State) (p : Nat) (redid : Word) : Nat → State
  | 0 => s
  | n + 1 => match s.reduction p redid with
    | none => s
    | some r => if r.closes then (s.closeStep r).closeSteps p redid n else s

/-- 05 R146: an arrival applied: on time, folded, or dropped; `pubs` are the accesses that happen-before one of this device. -/
def Reduction.arrive (r : Reduction) (a : Arrival) (clk : Nat) (pubs : List Nat := []) : Reduction :=
  let lag := (r.low - a.step).toInt
  if 0 < lag then
    if lag ≤ (r.params.d : Int) then
      let x := r.stepOf r.low
      r.putStep { x with folded := x.folded ++ [{ slot := a.slot, src := a.step, dev := a.dev, words := a.words, pubs := pubs }] }
    else { r with dropped := r.dropped + 1 }
  else
    let x := r.stepOf a.step
    if x.ontime.any fun l => l.slot == a.slot then { r with dropped := r.dropped + 1 }
    else
      let t := if r.params.t == 0 || !x.ontime.isEmpty then x.timer else some (clk + r.params.t)
      r.putStep { x with ontime := x.ontime ++ [{ slot := a.slot, src := a.step, dev := a.dev, words := a.words, pubs := pubs }], timer := t }

/-- 05 R146, R149: whether the root takes an arrival: of an open reduction, with the right length, admitted, and neither from a device whose
parameters differ nor from one that no path reaches. DESIGN CHOICE: it takes one from a device whose binding notice it has not compared yet; no rule orders the two
messages (R145, 12 R328; notes/assumptions/51.md). -/
def Reduction.takes (r : Reduction) (a : Arrival) : Bool :=
  a.words.length == r.params.e && a.slot < r.params.n && (a.step - r.low).toInt ≤ 7 && !r.refused.contains a.dev && (match a.dev with
    | some d => !r.gone.contains d
    | none => true)

/-- The clock of the spindle that roots a reduction (10 R300). -/
def State.redUnit (s : State) (p : Nat) (redid : Word) : Nat :=
  clockSpindle (((s.part p).handles.find? fun h => match h.bind with
    | .reduce id _ _ _ 0 .. => id == redid
    | _ => false).map (fun h => h.idx % 4) |>.getD 0)

/-- What that clock has counted (00 R8). -/
def State.redClk (s : State) (p : Nat) (redid : Word) : Nat := s.clockOf s.spindleClk (s.redUnit p redid)

/-- 05 R146: the timers whose clock c0 + T has ended: steps that no quorum has closed by then close by the timer. -/
def State.expireTimers (s : State) (p : Nat) (redid : Word) : State :=
  match s.reduction p redid with
  | none => s
  | some r =>
    let due (x : RStep) : Bool := match x.timer with
      | some t => t < s.redClk p redid
      | none => false
    if r.steps.any due then
      (s.updRed p redid fun r' =>
        { r' with steps := updWhere due (fun x => { x with timer := none, expired := x.expired || x.ontime.length < r.params.q }) r'.steps }).closeSteps
          p redid 8
    else s

/-- 05 R146: `CONTRIBUTION_ARRIVAL`: a notice reaches the root, after the timers whose clock has ended. One of this device's own is a contribution whose
notice is under way. -/
def execContributionArrival (a : Arrival) (s0 : State) : Outcome State Fault Refusal :=
  let s := s0.expireTimers a.part a.redid
  let mine (c : Contrib) : Bool := c.sent && c.part == a.part && c.redid == a.redid && c.slot == a.slot && c.step == a.step && c.words == a.words
  .next (match s.reduction a.part a.redid with
    | none => s
    | some r =>
      if !r.takes a || (if a.dev.isNone then !s.contribs.any mine else !s.linksOpen) then s
      else
        let (s1, pubs) := match a.dev, s.contribs.find? mine with
          | none, some c => ({ s with contribs := s.contribs.filter fun x => x.uid != c.uid }, c.pubs)
          | _, _ => (s, [])
        (s1.updRed a.part a.redid fun r => r.arrive a (s.redClk a.part a.redid) pubs).closeSteps a.part a.redid 8)

/-- 05 R146: `REDUCTION_TIMER_EXPIRY`: the clock c0 + T of a step that no quorum has closed ends. -/
def execReductionTimerExpiry (part : Nat) (redid : BitVec 32) (s : State) : Outcome State Fault Refusal := .next (s.expireTimers part redid)

/-! ### Delivery (05 R148, R138, R451) -/

/-- The reduce handle of a reduction. -/
def Part.reduceHandle (q : Part) (redid : Word) : Option Handle :=
  q.handles.find? fun h => match h.bind with
    | .reduce id .. => id == redid
    | _ => false

/-- 05 R138: an install's step on a page set, as a release at `.pkg` of what the install wrote, and the threads that wait for it woken. -/
def State.installStep (s : State) (die idx : Nat) (c : Word) (pubs : List Nat := []) : State :=
  if s.stepOf die idx < c then ((s.setStep die idx c).releaseStep (.ver die idx) .unit pubs).wake (.ver die idx) else s

/-- The bytes of words. -/
def bytesOfWords (ws : List Word) : List Byte := ws.flatMap fun w => toBytesLE w.toNat 4

/-- 05 R138, R451: where a piece of a result goes: its key, and the version record of its page; none where it cannot be written. -/
def State.pieceKey (s : State) (u p a n : Nat) : Option (Nat × Option Nat) :=
  match s.xlate u p a .write with
  | .error _ => none
  | .ok e => if isPeer (e.key a) || s.badPart (e.key a) n then none else some (e.key a, e.vers)

/-- 05 R138: whether an install on a page is stale. -/
def State.stale (s : State) (k : Nat) (vers : Option Nat) (c : Word) : Bool := match vers with
  | some i => c ≤ s.stepOf (homeOf k) i
  | none => false

/-- 05 R138: while bytes are landing, each is old or new. -/
def State.mixBytes (s : State) (k : Nat) (bs : List Byte) : List Byte :=
  bs.zipIdx.map fun (b, i) => if (s.free [28, k + i]).getLsbD 0 then b else s.homeByte (k + i)

/-- 05 R148: the bytes of a result on their way to a page, as a recorded write: those of one that could not be delivered are undefined. -/
def State.putResult (s : State) (status : BitVec 128) (k : Nat) (bs : List Byte) (item : Nat) : State :=
  let s1 := s.unitWrite k bs item
  if status.getLsbD 3 then s1.wildMem k bs.length else s1

/-- 04 R127: the accesses that happen-before a result's completion: those of its handle's binding, those of this device's contributions in it, and the writes
of its bytes. -/
def State.resultPubs (s : State) (h : Handle) (l : Landing) : List Nat :=
  let r := l.msg
  let mine := match s.results.find? fun c => c.msg.part == r.part && c.msg.redid == r.redid && c.msg.step == r.step with
    | some c => c.pubs
    | none => (h.subs.filter fun x => 0 ≤ (r.step - x.1).toInt).flatMap fun x => x.2
  (l.items ++ h.pubs ++ mine).eraseDups

/-- The destination pieces that a landing has not reached, where they can be written and are not stale. -/
def State.restOf (s : State) (h : Handle) (l : Landing) (dest : Nat) : List (Nat × Nat) :=
  ((pages dest (4 * l.msg.words.length)).drop l.done).filterMap fun x => match s.pieceKey (unitHandle h.idx) l.msg.part x.1 x.2 with
    | some (k, v) => if s.stale k v (l.msg.step + 1) then none else some (k, x.2)
    | none => none

/-- 05 R148, R451: the end of a delivery: the status record, and one arrival on the result object, wherever these can be made; `ok` says that the
whole array was written. The bytes of a result that is `FAILED` are undefined. -/
def State.endResult (s : State) (h : Handle) (l : Landing) (dest resobj statrec : Nat) (ok : Bool) : State :=
  let r := l.msg
  let u := unitHandle h.idx
  let fail (s : State) (b : Bool) : State := if b then s else s.updPart r.part fun q => q.setCsr 0x206 (q.csrWord 0x206 ||| 4)
  let home (s : State) (a : Nat) : Option Nat := match s.xlate u r.part a .write with
    | .ok e => if isPeer (e.key a) then none else some (e.key a)
    | .error _ => none
  let pubs := s.resultPubs h l
  let s0 := if ok && !r.status.getLsbD 3 then s else (l.wrote ++ s.restOf h l dest).foldl (fun s x => s.wildMem x.1 x.2) s
  let after (x : Handle) : Handle := { x with last := some r.step, subs := x.subs.filter fun y => !(0 ≤ (r.step - y.1).toInt) }
  let sh := s0.updPart r.part fun q => { q with handles := updWhere (fun x => x.idx == h.idx) after q.handles }
  let s1 := fail { sh with
    landing := sh.landing.filter fun x => !(x.msg.part == r.part && x.msg.redid == r.redid)
    results := sh.results.eraseP fun c => c.msg.part == r.part && c.msg.redid == r.redid && c.msg.step == r.step } ok
  let (s1, item) := s1.unitItem
  let s2 := match home s1 statrec with
    | some k => (s1.cacheRange u r.part statrec 16).unitWrite k (toBytesLE (if ok then r.status else r.status ||| 8).toNat 16) item
    | none => fail s1 false
  match home s2 resobj with
  | some k => if s2.bad k 16 then fail s2 false else (s2.cacheRange u r.part resobj 16).arrive (.glb k) 1 0 (.unit, item :: pubs)
  | none => fail s2 false

/-- A landing put in the place of the one of its reduction. -/
def State.putLanding (s : State) (l : Landing) : State :=
  { s with landing := l :: s.landing.filter fun x => !(x.msg.part == l.msg.part && x.msg.redid == l.msg.redid) }

/-- 05 R138: whether an install on a page must let another go first: one that has begun there, or one of a lower step that comes to it next. -/
def State.pageTaken (s : State) (l : Landing) (k : Nat) (vers : Option Nat) : Bool :=
  let other (x : Landing) : Bool := !(x.msg.part == l.msg.part && x.msg.redid == l.msg.redid)
  let same (k' : Nat) (v : Option Nat) : Bool := vers.isSome && v == vers && homeOf k' == homeOf k
  s.landing.any fun x => other x && match x.begun with
    | some (k', v) => same k' v
    | none => x.msg.step < l.msg.step && (match (s.part x.msg.part).handles.find? fun h => match h.bind with
        | .reduce id .. => id == x.msg.redid
        | _ => false with
      | some h => (match h.bind with
        | .reduce _ dest .. => (match (pages dest (4 * x.msg.words.length))[x.done]? with
          | some (a, n) => (match s.pieceKey (unitHandle h.idx) x.msg.part a n with
            | some (k', v) => same k' v
            | none => false)
          | none => false)
        | _ => false)
      | none => false)

/-- 05 R138: the end of a piece that has begun: written whole, and its page's step set. -/
def State.landEnd (s : State) (h : Handle) (l : Landing) (k : Nat) (vers : Option Nat) (bs : List Byte) : State :=
  let (s1, item) := s.unitItem
  let s2 := s1.putResult l.msg.status k bs item
  let l2 := { l with done := l.done + 1, begun := none, wrote := (k, bs.length) :: l.wrote, items := item :: l.items }
  (match vers with
   | some i => s2.installStep (homeOf k) i (l.msg.step + 1) (item :: s.resultPubs h l)
   | none => s2).putLanding l2

/-- 05 R138, R148, R451: the next part of a delivery: bytes of the next piece land, or that piece, once it has begun, is written whole; after the last
piece, or at one that cannot be written, the status record and the arrival. A stale install writes nothing. -/
def State.landStep (s : State) (h : Handle) (l : Landing) (dest resobj statrec : Nat) : State :=
  let r := l.msg
  match (pages dest (4 * r.words.length))[l.done]? with
  | none => s.endResult h l dest resobj statrec true
  | some (a, n) =>
    let bs := ((bytesOfWords r.words).drop (a - dest)).take n
    match l.begun, s.pieceKey (unitHandle h.idx) r.part a n with
    | some (k, vers), _ => s.landEnd h l k vers bs
    | none, none => s.endResult h l dest resobj statrec false
    | none, some (k, vers) =>
      let s1 := s.cacheRange (unitHandle h.idx) r.part a n
      if s1.stale k vers (r.step + 1) then s1.putLanding { l with done := l.done + 1 }
      else if s1.pageTaken l k vers then s
      else
        let (s2, item) := s1.unitItem
        (s2.putResult r.status k (s2.mixBytes k bs) item).putLanding { l with
        begun := some (k, vers), items := item :: l.items, leaf := ((s.leafSpans (unitHandle h.idx) r.part a n).head?).getD (0, 0) }

/-- 05 R148, R138: whether a receiving device may begin to deliver a result: at the root the oldest that waits, elsewhere the one whose step follows the last. -/
def State.mayDeliver (s : State) (h : Handle) (base e : Nat) (r : ResultMsg) : Bool :=
  r.words.length == e && (if base == 0 then (s.results.find? fun c => c.msg.part == r.part && c.msg.redid == r.redid).any fun c => c.msg == r
    else s.linksOpen && (match h.last with
      | some x => r.step == x + 1
      | none => true))

/-- 05 R148: `RESULT_DELIVERY`: the spindle of a receiving device writes a result, part by part; one result of a reduction at a time. -/
def execResultDelivery (r : ResultMsg) (s : State) : Outcome State Fault Refusal :=
  .next (match (s.part r.part).reduceHandle r.redid with
    | none => s
    | some h =>
      match h.bind with
      | .reduce _ dest resobj statrec base _ _ e _ =>
        (match s.landing.find? fun l => l.msg.part == r.part && l.msg.redid == r.redid with
         | some l => if l.msg == r then s.landStep h l dest resobj statrec else s
         | none => if s.mayDeliver h base e r then s.landStep h { msg := r } dest resobj statrec else s)
      | .p2p .. => s)

end Sys2Proof.Machine
end

