-- ==== Sys2Proof/Machine/Launch.lean ====
section
/-! DEFINITION. Launch records and graph objects (spec/14 R357 to R362): their fields, what makes them valid, and the headstock's own
reads of memory. -/

namespace Sys2Proof.Machine

/-! ### What the headstock reads -/

/-- Bytes that the headstock reads through a partition's translation: a fault is its cause, 0x15 where no path reaches a peer, 0x3E for uncorrectable
memory. -/
def State.headRead (s : State) (p a n : Nat) : Except Nat Nat :=
  match s.xlateRange unitHead p .read a n with
  | .error f => .error f.1
  | .ok l =>
    if l.any fun k => s.unreachable k.1 then .error 0x15
    else if l.any fun k => s.bad k.1 k.2 then .error 0x3E
    else .ok (ofBytesLE (l.flatMap fun k => s.homeBytes k.1 k.2))

/-- Whether the headstock can read a range. -/
def State.headReads (s : State) (p a n : Nat) : Bool :=
  match s.xlateRange unitHead p .read a n with
  | .error _ => false
  | .ok l => !(l.any fun k => s.unreachable k.1 || s.bad k.1 k.2)

/-- 16 R403, R417: what a read of the headstock leaves: its translations are kept, and the held words of its lines are recalled. -/
def State.headTouch (s : State) (p a n : Nat) : State := if n == 0 then s else s.engineTouch unitHead p a n

/-! ### Where the gang contexts of a workgroup go (01 R33, 14 R368) -/

/-- 01 R33: the rows that a gang context takes in each of its columns. -/
def Launch.rows (l : Launch) : Nat := if l.gw == 64 then 2 * l.vregs else l.vregs

/-- 01 R33, R25: the lane columns that a gang context takes, in groups of eight: as many as its width, at a multiple of it (notes/assumptions/17.md). -/
def Launch.cols (l : Launch) : Nat := min l.gw 32 / 8

/-- 01 R24, 15 R396: the gangs of a stage. -/
def Launch.stageGangs (l : Launch) (g : Stage) : Nat := (g.nx * g.ny * g.nz + l.maskW - 1) / l.maskW

/-- 01 R24: the gang contexts of a workgroup in ascending (stage, gang) order. -/
def Launch.contexts (l : Launch) : List (Nat × Nat) :=
  l.stages.zipIdx.flatMap fun x => (List.range (l.stageGangs x.1)).map fun j => (x.2, j)

/-- The contexts of a slice, and the rows taken in each group of eight lane columns (01 R33). -/
structure SliceLoad where
  count : Nat := 0
  used : List Nat := [0, 0, 0, 0]
  deriving DecidableEq, Repr, Inhabited

/-- The rows taken in the fullest of some groups of columns. -/
def SliceLoad.rowsAt (x : SliceLoad) (col n : Nat) : Nat := ((x.used.drop col).take n).foldl max 0

/-- 14 R368: the groups of columns of a slice with the most free rows for a context of `n` groups, the lowest on a tie. -/
def SliceLoad.best (x : SliceLoad) (n : Nat) : Nat :=
  ((List.range (4 / max n 1)).map fun i => i * n).foldl (fun a c => if x.rowsAt c n < x.rowsAt a n then c else a) 0

/-- A slice with one more context. -/
def SliceLoad.put (x : SliceLoad) (col n rows : Nat) : SliceLoad :=
  { count := x.count + 1, used := x.used.zipIdx.map fun u => if col ≤ u.2 && u.2 < col + n then u.1 + rows else u.1 }

/-- 14 R368: the slice with the most free rows in its best columns among those with fewer than 16 contexts, the lowest on a tie. -/
def bestSlice (loads : List SliceLoad) (n : Nat) : Option (Nat × Nat) :=
  ((loads.zipIdx.filter fun x => x.1.count < 16).foldl (fun a x =>
    let c := x.1.best n
    let u := x.1.rowsAt c n
    match a with
    | none => some (u, x.2, c)
    | some b => if u < b.1 then some (u, x.2, c) else some b) (none : Option (Nat × Nat × Nat))).map fun b => b.2

/-- 14 R368: contexts given slices and columns one by one; none when one does not fit. -/
def assignSlices (n rows : Nat) : Nat → List SliceLoad → Option (List (Nat × Nat))
  | 0, _ => some []
  | k + 1, loads =>
    match bestSlice loads n with
    | none => none
    | some (i, c) =>
      let x := (loads[i]?).getD {}
      if 1024 < x.rowsAt c n + rows then none
      else (assignSlices n rows k (loads.set i (x.put c n rows))).map fun r => (i, c) :: r

/-- 14 R368: the contexts of a workgroup given slices and columns. -/
def Launch.assign (l : Launch) (loads : List SliceLoad) : Option (List (Nat × Nat)) := assignSlices l.cols l.rows l.contexts.length loads

/-- The slices of an empty core. -/
def emptyLoads : List SliceLoad := List.replicate Config.slices {}

/-! ### Launch records -/

/-- 14 R360: a stage word. -/
def stageOf (x : Nat) : Stage :=
  { nx := bits x 41 32 + 1, ny := bits x 51 42 + 1, nz := bits x 61 52 + 1, eline := bits x 19 0, eslot := bits x 22 20 }

/-- 14 R360: stage word `i` of a record. -/
def stageWord (x i : Nat) : Nat := bits x (64 * i + 319) (64 * i + 256)

/-- 14 R360: the fields of a launch record. -/
def launchRec (x : Nat) : Launch :=
  let n := bits x 585 584 + 1
  { text := bits x 63 0, ctab := bits x 127 64, init := bits x 191 128, seed := BitVec.ofNat 64 (bits x 255 192)
    stages := (List.range n).map fun i => stageOf (stageWord x i)
    nwx := bits x 527 512, nwy := bits x 543 528, nwz := bits x 559 544
    cwx := bits x 561 560 + 1, cwy := bits x 563 562 + 1, cwz := bits x 565 564 + 1
    gw := 2 ^ (bits x 577 576 + 3), vregs := 8 * (bits x 583 578 + 1), nconst := bits x 592 586
    det := bitAt x 593, shadow := bitAt x 594, idem := bitAt x 595, tgb := bitAt x 596
    accmask := bits x 623 608, lskib := bits x 652 640, rank := bits x 667 656 }

/-- 14 R361: the zero fields of a record are zero. -/
def recZeros (x : Nat) : Bool :=
  let n := bits x 585 584 + 1
  bits x 1023 668 == 0 && bits x 655 653 == 0 && bits x 639 624 == 0 && bits x 607 597 == 0 && bits x 575 566 == 0 &&
  (bitAt x 596 || bits x 667 656 == 0) &&
  (List.range 4).all fun i => let w := stageWord x i
    if i < n then bits w 63 62 == 0 && bits w 31 23 == 0 else w == 0

/-- Threads of a stage. -/
def Stage.threads (g : Stage) : Nat := g.nx * g.ny * g.nz

/-- 14 R361, 01 R13: the values of a record that do not need memory. -/
def Launch.fieldsOk (l : Launch) : Bool :=
  l.nconst ≤ 96 && l.lskib ≤ 4096 && l.vregs ≤ 256 && l.ctab % 4 == 0 && (l.nconst != 0 || l.ctab == 0) && l.text % 64 == 0 &&
  1 ≤ l.nwx && 1 ≤ l.nwy && 1 ≤ l.nwz && l.clsize ≤ 4 && l.nwx % l.cwx == 0 && l.nwy % l.cwy == 0 && l.nwz % l.cwz == 0 &&
  (l.stages.all fun g => g.eslot ≤ 4 && g.threads ≤ 1024) && (l.stages.map Stage.threads).sum ≤ 1024 &&
  (l.assign emptyLoads).isSome

/-- 14 R360: the entry slot of a stage. -/
def Launch.entry (l : Launch) (g : Stage) : DWord := BitVec.ofNat 64 (l.text + 64 * g.eline + 12 * g.eslot)

/-- 14 R361: the headstock reads the line word of each entry slot and finds `TGT` set. -/
def State.entryOk (s : State) (p : Nat) (l : Launch) (g : Stage) : Bool :=
  match s.headRead p ((l.text + 64 * g.eline + 60) % 2 ^ 64) 4 with
  | .ok w => bitAt w (5 + g.eslot)
  | .error _ => false

/-- 14 R361: a record checked: the launch, or none. -/
def State.checkedRec (s : State) (p x : Nat) : Option Launch :=
  let l := launchRec x
  if recZeros x && l.fieldsOk && l.stages.all (s.entryOk p l) then some l else none

/-- 13 R349, 14 R361: the training-group check of a launch. -/
def State.groupOk (s : State) (p : Nat) (l : Launch) : Bool := !l.tgb || s.rankDev p l.rank == some s.devNum

/-- 14 R362: the constant table of a launch, read by the headstock. -/
def State.constTable (s : State) (p : Nat) (l : Launch) : Except Nat (List Word) :=
  if l.nconst == 0 then .ok []
  else match s.headRead p l.ctab (4 * l.nconst) with
    | .error c => .error c
    | .ok x => .ok ((List.range l.nconst).map fun i => BitVec.ofNat 32 (x / 2 ^ (32 * i)))

/-- What reading the constant table of a launch leaves. -/
def State.constTouch (s : State) (p : Nat) (l : Launch) : State := s.headTouch p l.ctab (4 * l.nconst)

/-- What looking at the entry slots of a launch leaves: their line words have been read (14 R361). -/
def State.entryTouch (s : State) (p : Nat) (l : Launch) : State :=
  l.stages.foldl (fun s g => s.headTouch p ((l.text + 64 * g.eline + 60) % 2 ^ 64) 4) s

/-- What checking a launch record leaves: its entry slots are looked at where its fields are valid. -/
def State.recTouch (s : State) (p x : Nat) : State := if recZeros x && (launchRec x).fieldsOk then s.entryTouch p (launchRec x) else s

/-- A constant image with one word patched. -/
def patchWord (image : List Word) (x : Nat × Word) : List Word := image.set x.1 x.2

/-! ### Graph objects -/

/-- 14 R358: the header of a graph object. -/
structure GHeader where
  nnode : Nat
  nlrec : Nat
  nregion : Nat
  npslot : Nat
  nodeOff : Nat
  lrecOff : Nat
  regOff : Nat
  pslotOff : Nat
  deriving DecidableEq, Repr, Inhabited

/-- 14 R358: the fields of a header. -/
def headerOf (x : Nat) : GHeader :=
  { nnode := bits x 47 32, nlrec := bits x 63 48, nregion := bits x 79 64, npslot := bits x 111 96
    nodeOff := bits x 159 128, lrecOff := bits x 191 160, regOff := bits x 223 192, pslotOff := bits x 255 224 }

/-- 14 R358: the tables of an object: offset and bytes. -/
def GHeader.tables (h : GHeader) : List (Nat × Nat) :=
  [(h.nodeOff, 16 * h.nnode), (h.lrecOff, 128 * h.nlrec), (h.regOff, 32 * h.nregion), (h.pslotOff, 4 * h.npslot)]

/-- Whether no two tables with an extent overlap. -/
def tablesApart : List (Nat × Nat) → Bool
  | [] => true
  | (a, n) :: r => (r.all fun x => !overlap a n x.1 x.2) && tablesApart r

/-- 14 R358: a header that breaks nothing. -/
def headerOk (x : Nat) : Bool :=
  let h := headerOf x
  bits x 31 0 == 0x4D474F42 && bits x 95 80 == 0 && bits x 127 112 == 0 && bits x 511 256 == 0 &&
  1 ≤ h.nnode && h.nnode ≤ 1024 && 1 ≤ h.nlrec && h.nlrec ≤ 1024 && h.npslot ≤ 4096 && h.lrecOff % 64 == 0 &&
  (h.tables.all fun t => t.1 % 16 == 0 && (t.2 == 0 || 64 ≤ t.1)) && tablesApart h.tables

/-- 14 R358: the bytes of the object, to the end of its last table. -/
def GHeader.size (h : GHeader) : Nat := (h.tables.map fun t => if t.2 == 0 then 0 else t.1 + t.2).foldl max 64

/-- A table entry of `n` bytes. -/
def entryAt (x n i : Nat) : Nat := x / 2 ^ (8 * n * i) % 2 ^ (8 * n)

/-- 14 R359: a region entry. -/
def regionOf (x : Nat) : Option Region :=
  if bits x 255 130 == 0 && bits x 129 128 != 0 then some { kind := bits x 129 128, base := bits x 63 0, len := bits x 127 64 } else none

/-- Every element, or none. -/
def allSome {α : Type} : List (Option α) → Option (List α)
  | [] => some []
  | none :: _ => none
  | some x :: r => (allSome r).map fun l => x :: l

/-- What a load gives: the error code with the node or record concerned, or the graph. -/
abbrev GLoad := Except (Nat × Nat) (List GNode × List (Nat × Nat))

/-- 14 R359: a node entry under the records and the regions. -/
def nodeOfEntry (recs : List Launch) (regs : List Region) (x : Nat) : Option GNode :=
  let first := bits x 63 32
  let n := bits x 79 64
  match recs[bits x 15 0]? with
  | none => none
  | some l =>
    if bits x 127 80 == 0 && bits x 31 16 == 0 && (n == 0 || first + n ≤ regs.length) then some { launch := l, regions := (regs.drop first).take n }
    else none

/-- 14 R359: a patch-slot entry under the nodes. -/
def patchOfEntry (nodes : List GNode) (x : Nat) : Option (Nat × Nat) :=
  match nodes[bits x 15 0]? with
  | none => none
  | some n => if bits x 31 23 == 0 && bits x 22 16 < n.launch.nconst then some (bits x 15 0, bits x 22 16) else none

/-- The index of the first element that is missing. -/
def firstNone {α : Type} (l : List (Option α)) : Nat := l.findIdx fun x => x.isNone

/-- 14 R359, R361, R365: the tables of a readable object validated: records 0x04, everything else 0x03; the node concerned by an invalid patch slot is the slot's `NODE`.
DESIGN CHOICE: of an object with an invalid record and an invalid entry of another table, the record's 0x04; the spec gives no order (notes/assumptions/63.md). -/
def State.graphTables (s : State) (p : Nat) (h : GHeader) (nt lt rt pt : Nat) : GLoad :=
  let recs := (List.range h.nlrec).map fun i => s.checkedRec p (entryAt lt 128 i)
  match allSome recs with
  | none => .error (0x04, firstNone recs)
  | some rs =>
    match allSome ((List.range h.nregion).map fun i => regionOf (entryAt rt 32 i)) with
    | none => .error (0x03, 0)
    | some gs =>
      let nodes := (List.range h.nnode).map fun i => nodeOfEntry rs gs (entryAt nt 16 i)
      match allSome nodes with
      | none => .error (0x03, firstNone nodes)
      | some ns =>
        let slots := (List.range h.npslot).map fun i => patchOfEntry ns (entryAt pt 4 i)
        match allSome slots with
        | none => .error (0x03, bits (entryAt pt 4 (firstNone slots)) 15 0)
        | some ps => .ok (ns, ps)

/-- The number that a table of an object holds; zero for a table without extent. -/
def State.tableAt (s : State) (p base : Nat) (t : Nat × Nat) : Nat :=
  if t.2 == 0 then 0
  else match s.headRead p (base + t.1) t.2 with
    | .ok x => x
    | .error _ => 0

/-- 14 R357 to R361: a graph object read and validated. One that cannot be read is an invalid object, error 0x03 (16 R410). -/
def State.graphAt (s : State) (p base : Nat) : GLoad :=
  match s.headRead p base 64 with
  | .error _ => .error (0x03, 0)
  | .ok x =>
    let h := headerOf x
    if !headerOk x || !s.headReads p base h.size then .error (0x03, 0)
    else s.graphTables p h (s.tableAt p base (h.nodeOff, 16 * h.nnode)) (s.tableAt p base (h.lrecOff, 128 * h.nlrec))
      (s.tableAt p base (h.regOff, 32 * h.nregion)) (s.tableAt p base (h.pslotOff, 4 * h.npslot))

/-- What reading a graph object leaves. -/
def State.graphTouch (s : State) (p base : Nat) : State :=
  match s.headRead p base 64 with
  | .error _ => s.headTouch p base 64
  | .ok x =>
    let h := headerOf x
    if !headerOk x then s.headTouch p base 64
    else if !s.headReads p base h.size then s.headTouch p base h.size
    else
      let t := s.tableAt p base (h.lrecOff, 128 * h.nlrec)
      (List.range h.nlrec).foldl (fun s i => s.recTouch p (entryAt t 128 i)) (s.headTouch p base h.size)

end Sys2Proof.Machine
end

