-- ==== Sys2Proof/Machine/Kick.lean ====
section
/-! DEFINITION. Kicks, graph slots and `fork` (spec/14 R355 to R365, R376; spec/13 R340; spec/10 R310, R311). -/

namespace Sys2Proof.Machine

open Host (Outcome)

/-! ### Functions of the host link -/

/-- 17 R427, R442, R443: whether the host link takes requests: from its ready bit on, until the hold-up sequence closes it. -/
def State.hostOpen (s : State) : Bool := s.ready.contains 0 && s.linksOpen

/-- 13 R343: the partition of a virtual function whose entry is valid, and whether it may administer it. -/
def State.vfPart (s : State) (vf : Nat) : Option (Nat × Bool) :=
  if !s.hostOpen then none
  else match s.vfmap.find? fun v => v.idx == vf with
  | some v => if v.valid then some (v.part, v.admin) else none
  | none => none

/-! ### Graph slots -/

/-- A graph slot. -/
def State.slot (s : State) (p i : Nat) : GSlot := ((s.part p).slots[i]?).getD {}

/-- A graph slot updated. -/
def State.updSlot (s : State) (p i : Nat) (f : GSlot → GSlot) : State :=
  s.updPart p fun q => { q with slots := q.slots.zipIdx.map fun x => if x.2 == i then f x.1 else x.1 }

/-- 14 R365: an error recorded in a slot's `GSTAT`. -/
def State.slotError (s : State) (p i code node : Nat) : State :=
  s.updSlot p i fun x => { x with errv := true, err := code, errnode := node % 256 }

/-- 14 R363: the kicks of a slot. -/
def State.slotKicks (s : State) (p i : Nat) : List Kick := s.kicks.filter fun k => k.part == p && k.slot == i

/-- 14 R357: a slot emptied. -/
def GSlot.emptied (x : GSlot) : GSlot := { x with loaded := false, loading := false, nodes := [], patches := [] }

/-- 14 R357: why a write of `GLOAD` is refused at once: an invalid field, or a kick of its slot. DESIGN CHOICE: of both, the invalid field; the spec gives no order
(notes/assumptions/63.md). -/
def State.gloadRefused (s : State) (p v : Nat) : Option Nat :=
  if bits v 15 5 != 0 || (bitAt v 4 && bits v 63 16 != 0) then some 0x03
  else if !(s.slotKicks p (bits v 3 0)).isEmpty then some 0x02
  else none

/-- 14 R357: a write of `GLOAD`: the load or unload of its slot, whole. -/
def State.gloadWrite (s : State) (p v : Nat) : State :=
  let i := bits v 3 0
  let obj := 64 * bits v 63 16
  match s.gloadRefused p v with
  | some c => s.slotError p i c 0
  | none =>
    if bitAt v 4 then s.updSlot p i GSlot.emptied
    else match s.graphAt p obj with
      | .ok (ns, ps) => (s.graphTouch p obj).updSlot p i fun x => { x with loaded := true, loading := false, nodes := ns, patches := ps }
      | .error (c, n) => ((s.graphTouch p obj).updSlot p i GSlot.emptied).slotError p i c n

/-- 14 R357, R376: a load has begun that the write's own event will end (notes/assumptions/52.md), for the partition that the function is bound to now: until
then its slot is being loaded. -/
def State.gloadBegin (s : State) (vf v : Nat) : State :=
  match s.vfPart vf with
  | some (p, true) =>
    if (s.gloadRefused p v).isNone && !bitAt v 4 then
      { s.updSlot p (bits v 3 0) (fun x => { x with loading := true }) with gloads := s.gloads ++ [{ vf := vf, value := v, part := p }] }
    else s
  | _ => s

/-- 14 R355: `GLOAD` is written by a function with `ADMIN`. One that has begun to load ends as it began, whatever its function's entry says now (13 R343). -/
def State.gloadBy (s : State) (vf v : Nat) : State :=
  let mine (x : Loading) : Bool := x.vf == vf && x.value == v
  match s.gloads.find? mine with
  | some x => { s with gloads := s.gloads.eraseP mine }.gloadWrite x.part v
  | none => match s.vfPart vf with
    | some (p, true) => s.gloadWrite p v
    | _ => s

/-- 14 R355, R357: `GLOAD`. -/
def execGload (vf : Nat) (value : BitVec 64) (s : State) : Outcome State Fault Refusal := .next (s.gloadBy vf value.toNat)

/-- 14 R355, R357: `GLOAD` with `UNLOAD`. -/
def execGloadUnload (vf : Nat) (value : BitVec 64) (s : State) : Outcome State Fault Refusal := .next (s.gloadBy vf value.toNat)

/-! ### Kicks -/

/-- 14 R362: one entry of a patch table checked against the slot's patch slots: node, constant index and value. -/
def patchEntry (slots : List (Nat × Nat)) (e : Nat) : Except (Nat × Nat) (Nat × Nat × Word) :=
  let node := bits e 15 0
  let idx := bits e 22 16
  if bits e 31 23 != 0 then .error (0x03, node)
  else if !slots.contains (node, idx) then .error (0x05, node)
  else .ok (node, idx, BitVec.ofNat 32 (bits e 63 32))

/-- 14 R362: the entries of a patch table. DESIGN CHOICE: of several that fail, the first in the order of the table refuses the kick, and of one that fails twice the
nonzero field, 0x03; the spec gives no order (notes/assumptions/63.md). -/
def patchEntries (slots : List (Nat × Nat)) : List Nat → Except (Nat × Nat) (List (Nat × Nat × Word))
  | [] => .ok []
  | e :: r =>
    match patchEntry slots e with
    | .error x => .error x
    | .ok p => match patchEntries slots r with
      | .error x => .error x
      | .ok l => .ok (p :: l)

/-- 14 R362 steps 1 and 2: the patch table of a kick. -/
def State.patchTable (s : State) (p ptab : Nat) (slots : List (Nat × Nat)) : Except (Nat × Nat) (List (Nat × Nat × Word)) :=
  if ptab == 0 then .ok []
  else match s.headRead p ptab 8 with
    | .error _ => .error (0x06, 0)
    | .ok w =>
      let n := bits w 12 0
      if bits w 63 13 != 0 || 4096 < n then .error (0x03, 0)
      else match s.headRead p (ptab + 8) (8 * n) with
        | .error _ => .error (0x06, 0)
        | .ok t => patchEntries slots ((List.range n).map (entryAt t 8))

/-- 14 R362 step 3: the patched constant image of each node; of two entries for one pair the later applies. -/
def State.images (s : State) (p : Nat) (patches : List (Nat × Nat × Word)) : List (GNode × Nat) → Except (Nat × Nat) (List (List Word))
  | [] => .ok []
  | (n, i) :: r =>
    match s.constTable p n.launch with
    | .error _ => .error (0x06, i)
    | .ok t => match s.images p patches r with
      | .error x => .error x
      | .ok l => .ok ((patches.filter fun x => x.1 == i).foldl (fun t x => patchWord t x.2) t :: l)

/-- 16 R409, 14 R363: the accesses that happen-before the nodes of a kick: what the host has written, and, as it is not this package's to know whether the host has
read and acquired the counts of the kicks that ended, perhaps all that these released (notes/assumptions/65.md). -/
def State.hostKnown (s : State) : List Nat :=
  let own (u : HbItem) : Bool := u.what == .outer && u.seen.contains .host
  if (s.free [41]).getLsbD 0 then s.hb.known .host else (s.hb.pend.filter own).map fun u => u.uid

/-- 14 R361 to R363: an accepted kick enters its nodes. -/
def State.enterKick (s : State) (p slot prio : Nat) (g : List GNode) (images : List (List Word)) : State :=
  let k : Kick := { uid := s.uid, part := p, slot := slot, prio := prio }
  let nodes := (g.zip images).zipIdx.map fun ((n, im), i) =>
    ({ uid := s.uid + 1 + i, part := p, kick := some s.uid, idx := i, launch := n.launch, image := im, regions := n.regions, prio := prio
       level := prio, pubs := s.hostKnown } : Node)
  let s1 := { s with uid := s.uid + 1 + g.length, kicks := s.kicks ++ [k], nodes := s.nodes ++ nodes }
  (s1.updateBound p).startKick p slot

/-- What reading a patch table leaves. -/
def State.patchTouch (s : State) (p ptab : Nat) : State :=
  if ptab == 0 then s
  else match s.headRead p ptab 8 with
    | .error _ => s.headTouch p ptab 8
    | .ok w => s.headTouch p ptab (if bits w 63 13 != 0 || 4096 < bits w 12 0 then 8 else 8 + 8 * bits w 12 0)

/-- What reading the constant tables of some nodes leaves, up to the first that cannot be read. -/
def State.constsTouch (s : State) (p : Nat) : List GNode → State
  | [] => s
  | x :: r => match s.constTable p x.launch with
    | .error _ => s.constTouch p x.launch
    | .ok _ => (s.constTouch p x.launch).constsTouch p r

/-- 14 R362: what reading the patch table, the constant tables and the rank table for a kick leaves. -/
def State.kickTouch (s : State) (p ptab : Nat) (x : GSlot) : State :=
  let s1 := s.patchTouch p ptab
  match s.patchTable p ptab x.patches with
  | .error _ => s1
  | .ok ps =>
    let s2 := s1.constsTouch p x.nodes
    match s.images p ps x.nodes.zipIdx with
    | .error _ => s2
    | .ok _ => if x.nodes.any fun n => n.launch.tgb then s2.rankTouch p else s2

/-- 14 R356, R361 to R363, R376: a write of `KICK` to a running partition. DESIGN CHOICE: of several refusals the first of these is recorded: an invalid field
0x03, no graph 0x01, a full slot 0x08, then those of its tables in the order of R362's steps, and the training group's 0x07; the spec gives no order
(notes/assumptions/63.md). -/
def State.kickWrite (s : State) (p v : Nat) : State :=
  let i := bits v 3 0
  let ptab := 64 * bits v 63 16
  let x := s.slot p i
  if bits v 15 6 != 0 || 2 ^ 52 ≤ ptab then s.slotError p i 0x03 0
  else if !x.loaded || x.loading then s.slotError p i 0x01 0
  else if 4 ≤ (s.slotKicks p i).length then s.slotError p i 0x08 0
  else
    let t := s.kickTouch p ptab x
    match s.patchTable p ptab x.patches with
    | .error e => t.slotError p i e.1 e.2
    | .ok ps => match s.images p ps x.nodes.zipIdx with
      | .error e => t.slotError p i e.1 e.2
      | .ok ims =>
        let bad := x.nodes.findIdx fun n => !s.groupOk p n.launch
        if bad < x.nodes.length then t.slotError p i 0x07 bad
        else t.enterKick p i (bits v 5 4) x.nodes ims

/-- 14 R355, 13 R340: `KICK` is written by any function of the partition; to one that is not Running it only sets `KREF`. -/
def State.kickBy (s : State) (vf v : Nat) : State :=
  match s.vfPart vf with
  | none => s
  | some (p, _) => if (s.part p).st == .running then s.kickWrite p v else s.updPart p fun q => q.setCsr 0x002 (q.csrWord 0x002 ||| 4)

/-- 14 R355, R362, 13 R340: `KICK`. -/
def execKick (vf : Nat) (value : BitVec 64) (s : State) : Outcome State Fault Refusal := .next (s.kickBy vf value.toNat)

/-! ### `fork` -/

/-- 10 R310: a `fork` block. -/
structure ForkBlk where
  lrec : Nat
  join : Nat
  npatch : Nat
  prio : Nat
  patches : List (Nat × Word)
  deriving DecidableEq, Repr, Inhabited

/-- 10 R310: patch `i` of a block. -/
def forkPatch (x i : Nat) : Nat := bits x (64 * i + 255) (64 * i + 192)

/-- 10 R310: the fields of a block. -/
def forkOf (x : Nat) : ForkBlk :=
  { lrec := bits x 63 0, join := bits x 127 64, npatch := bits x 135 128, prio := bits x 137 136
    patches := (List.range (bits x 135 128)).map fun i => (bits (forkPatch x i) 38 32, BitVec.ofNat 32 (forkPatch x i)) }

/-- 10 R310, R311: what a block must be beside its join object. -/
def forkOk (x : Nat) : Bool :=
  let b := forkOf x
  bits x 511 448 == 0 && bits x 191 144 == 0 && bits x 143 138 == 0 && b.npatch ≤ 4 && b.lrec % 64 == 0 &&
  (List.range 4).all fun i =>
    if i < b.npatch then bits (forkPatch x i) 63 39 == 0 && bits (forkPatch x i) 38 32 ≤ 95 else forkPatch x i == 0

/-- 10 R311: the join object of a block: alignment 0x18, translation, home 0x32. -/
def State.joinObj (s : State) (a : Nat) : Except Nat Nat :=
  if a % 16 != 0 then .error 0x18
  else match s.xlate unitHead s.curPart a .write with
    | .error c => .error c
    | .ok e => if isPeer (e.key a) then .error 0x32 else .ok (e.key a)

/-- 10 R311: a block checked. -/
def State.forkFields (s : State) (x : Nat) : Option Nat :=
  lowerCode (match s.joinObj (forkOf x).join with
    | .error c => some c
    | .ok _ => none) (need (forkOk x) 0x38)

/-- 10 R311, 14 R361: the child that a block names: its launch and its patched image, or the cause. A patch names a word of the child's
constant table (notes/assumptions/18.md). -/
def State.forkChild (s : State) (b : ForkBlk) : Except Nat (Launch × List Word) :=
  match s.headRead s.curPart b.lrec 128 with
  | .error c => .error c
  | .ok x => match s.checkedRec s.curPart x with
    | none => .error 0x38
    | some l =>
      if !s.groupOk s.curPart l || b.patches.any (fun q => l.nconst ≤ q.1) then .error 0x38
      else match s.constTable s.curPart l with
        | .error c => .error c
        | .ok t => .ok (l, b.patches.foldl patchWord t)

/-- 10 R311: children of a partition that are pending: accepted and not yet dispatched. -/
def State.pendingChildren (s : State) (p : Nat) : Nat := (s.nodes.filter fun n => n.part == p && n.pendingChild).length

/-- What the headstock's reading of a child leaves. -/
def State.forkTouch (s : State) (b : ForkBlk) : State :=
  let p := s.curPart
  let s1 := s.headTouch p b.lrec 128
  match s.headRead p b.lrec 128 with
  | .error _ => s1
  | .ok x =>
    let s2 := s1.recTouch p x
    match s.checkedRec p x with
    | none => s2
    | some l =>
      let s3 := if l.tgb then s2.rankTouch p else s2
      if !s.groupOk p l || b.patches.any (fun q => l.nconst ≤ q.1) then s3 else s3.constTouch p l

/-- The `fork` block of a lane. -/
def State.forkAt (s : State) (c : Cap) : ForkBlk := forkOf (s.blockAt s.cur.wg c.a 64)

/-- 16 R403, R417: what the check of a lane's join object translates. -/
def State.joinTouch (s : State) (c : Cap) : State :=
  let a := (s.forkAt c).join
  if c.a % 64 == 0 && s.inAlloc s.cur.wg c.a 64 && a % 16 == 0 then s.cache unitHead s.curPart a else s

/-- 10 R311, 14 R366: one lane's `fork`: the child enters the pending-child queue, with what happens-before the release (01 R42), or is turned away by a
full one. -/
def State.forkLane (x : State × List Nat) (c : Cap) : State × List Nat :=
  let s := x.1
  let p := s.curPart
  let b := s.forkAt c
  if 256 ≤ s.pendingChildren p then x
  else match s.forkChild b, s.joinObj b.join with
    | .ok (l, im), .ok j =>
      let n : Node := { uid := s.uid, part := p, launch := l, image := im, join := some j, prio := b.prio, level := b.prio, eligible := true
                        pendingChild := true, waitFrom := s.headClk, pubs := s.knownBy c.lane }
      let s1 := { s.forkTouch b with uid := s.uid + 1, nodes := s.nodes ++ [n] }
      ((s1.commitWg s.cur.wg).updateBound p, c.lane :: x.2)
    | _, _ => x

/-- 10 R310, R311: `fork`. -/
def execFork (o : Op) (s : State) : Outcome State Fault Refusal :=
  let caps := s.captureBlk o
  .next (s.acting caps (pair := s.pairOp { a := .n32 } o) fun s =>
    s.withBlocks caps 64 64 (fun c => s.blockCheck s.cur.wg c.a 64 64 s.forkFields) (touch := State.joinTouch) fun s =>
      s.releasingObj (lanesOf caps) fun s =>
        match lowestFault ((s.effective caps).filterMap fun c => match s.forkChild (s.forkAt c) with
          | .error k => some (c.lane, k, BitVec.ofNat 64 c.a)
          | .ok _ => none) with
        | some f => ((s.effective caps).foldl (fun s c => s.forkTouch (s.forkAt c)) s).faultLanes caps f
        | none =>
          let (s1, took) := (s.effective caps).foldl State.forkLane (s, [])
          let yes := took.flatMap fun l => s.copies l
          (s1.updIssue fun t => if (lanesOf caps).contains t.lane then t.setPred o.d2 (yes.contains t.lane) else t).advance)

end Sys2Proof.Machine
end

