-- ==== Sys2Proof/Machine/System.lean ====
section
/-! DEFINITION. The handler instructions: CSR access (spec/13 R351 to R353), the replay queue and `iret` (spec/15 R381 to R385), and
translation shootdown (spec/16 R404, R405). -/

namespace Sys2Proof.Machine

open Host (Outcome)

/-! ### CSR access -/

/-- The low or high half of a 64-bit number. -/
def halfOf (x : Nat) (hi : Bool) : Word := BitVec.ofNat 32 (if hi then x / 2 ^ 32 else x)

/-- 15 R381: the trap CSRs of a gang. -/
def Frame.csr (f : Frame) (n : Nat) : Word :=
  match n with
  | 0x100 => BitVec.ofNat 32 (f.exited.toNat * 2 ^ 31 + f.async.toNat * 2 ^ 30 + f.info % 256 * 2 ^ 16 + f.queue.length * 2 ^ 8 + f.cause % 256)
  | 0x101 => halfOf f.tpc.toNat false
  | 0x102 => halfOf f.tpc.toNat true
  | 0x103 => halfOf (laneBits f.tmask) false
  | 0x104 => halfOf (laneBits f.tmask) true
  | 0x105 => halfOf f.taddr.toNat false
  | 0x106 => halfOf f.taddr.toNat true
  | 0x107 => BitVec.ofNat 32 (f.stage * 2 ^ 30 + f.tnum % 2 ^ 10)
  | 0x108 => BitVec.ofNat 32 f.twg
  | _ => 0

/-- 13 R353: what the current gang reads in a CSR. -/
def State.csrGang (s : State) (n : Nat) : Word :=
  if 0x100 ≤ n && n ≤ 0x108 then (s.gang s.cur.wg s.cur.gang).frame.csr n else s.csrRead s.curPart n

/-- 17 R433, 03 R107: a lane that names the risk object of its partition: what happens-before that. -/
def State.namesRisk (s : State) (n lane : Nat) : State :=
  if n == 0x2C3 || n == 0x2C4 then s.updPart s.curPart fun q => { q with hmPubs := s.knownBy lane } else s

/-- 13 R353: `csrw` of each lane in ascending order, with the old values. -/
def State.csrLane (n : Nat) (op : CsrOp) (x : State × List (Nat × Nat)) (c : Cap) : State × List (Nat × Nat) :=
  ((x.1.csrWrite x.1.curPart n op (BitVec.ofNat 32 c.a)).namesRisk n c.lane, (c.lane, (x.1.csrGang n).toNat) :: x.2)

/-- 13 R352, R353: a CSR write. -/
def State.csrOp (s : State) (o : Op) (n : Nat) (op : CsrOp) : State :=
  let caps := s.captureOp { a := .n32 } o
  s.checked caps fun s =>
    let (s1, res) := (s.effective caps).foldl (State.csrLane n op) (s, [])
    (s1.returnTo o 1 res).advance

/-- 13 R352, R353: `csrr`. -/
def execCsrr (o : Op) (csr : Nat) (s : State) : Outcome State Fault Refusal :=
  .next (s.aluBy o (fun t => { lane := t.lane, a := (s.csrGang csr).toNat, b := 0, c := 0 }) false (fun a _ _ => (a, false)) (writeBoth o))
/-- 13 R352, R353: `csrw`. -/
def execCsrw (o : Op) (csr : Nat) (s : State) : Outcome State Fault Refusal := .next (s.csrOp o csr .write)
/-- 13 R352, R353: `csrw.set`. -/
def execCsrwSet (o : Op) (csr : Nat) (s : State) : Outcome State Fault Refusal := .next (s.csrOp o csr .set)
/-- 13 R352, R353: `csrw.clr`. -/
def execCsrwClr (o : Op) (csr : Nat) (s : State) : Outcome State Fault Refusal := .next (s.csrOp o csr .clr)

/-! ### The replay queue -/

/-- 15 R383: the `KIND` of an entry. -/
def EntryKind.code : EntryKind → Nat
  | .instr => 0
  | .command .. => 1
  | .store _ => 2

/-- A source of a capture: 0 to 2. -/
def Cap.src (c : Cap) (k : Nat) : Nat := if k == 0 then c.a else if k == 1 then c.b else c.c

/-- A source of a capture replaced. -/
def Cap.setSrc (c : Cap) (k x : Nat) : Cap := if k == 0 then { c with a := x } else if k == 1 then { c with b := x } else { c with c := x }

/-- One half of a 64-bit word of a wider number replaced. -/
def setHalf (old x : Nat) (hi : Bool) : Nat :=
  if hi then old % 2 ^ 32 + 2 ^ 32 * (x % 2 ^ 32) + 2 ^ 64 * (old / 2 ^ 64) else x % 2 ^ 32 + 2 ^ 32 * (old / 2 ^ 32)

/-- 15 R383: a word of a replay-queue entry. -/
def Entry.rd (e : Entry) (w : Nat) : Word :=
  if w == 0 then BitVec.ofNat 32 (e.kind.code * 2 ^ 30 + e.action % 4 * 2 ^ 28 + e.faulted.toNat * 2 ^ 8 + e.code % 256)
  else if w ≤ 2 then halfOf e.pc.toNat (w == 2)
  else if w ≤ 4 then halfOf (laneBits e.mask) (w == 4)
  else if w ≤ 7 then BitVec.ofNat 32 (e.word / 2 ^ (32 * (w - 5)))
  else if w < 392 then
    match e.caps.find? fun c => c.lane == (w - 8) / 6 with
    | some c => halfOf (c.src ((w - 8) % 6 / 2)) ((w - 8) % 2 == 1)
    | none => 0
  else 0

/-- 15 R383: a word of a replay-queue entry written, under its access. -/
def Entry.wr (e : Entry) (w : Nat) (v : Word) : Entry :=
  if w == 0 then { e with action := bits v.toNat 29 28 }
  else if w ≤ 2 then e
  else if w ≤ 4 then
    { e with mask := e.mask.filter fun l => !(l / 32 == w - 3) || v.getLsbD (l % 32) }
  else if w ≤ 7 then
    { e with word := e.word % 2 ^ (32 * (w - 5)) + 2 ^ (32 * (w - 5)) * v.toNat + 2 ^ (32 * (w - 4)) * (e.word / 2 ^ (32 * (w - 4))) }
  else if w < 392 then
    let lane := (w - 8) / 6
    let k := (w - 8) % 6 / 2
    let put (c : Cap) : Cap := c.setSrc k (setHalf (c.src k) v.toNat ((w - 8) % 2 == 1))
    if e.caps.any fun c => c.lane == lane then { e with caps := updWhere (fun c => c.lane == lane) put e.caps }
    else { e with caps := e.caps ++ [put { lane := lane, a := 0, b := 0, c := 0 }] }
  else e

/-- 01 R16: the number of a thread state. -/
def TState.code : TState → Nat
  | .unlaunched => 0 | .ready => 1 | .held => 2 | .sync => 3 | .waiting => 4 | .exited => 5

/-- 15 R383: a word of record 16. -/
def SaveRow.rd (r : SaveRow) (k : Nat) : Word := if k < 4 then (r.v[k]?).getD 0 else BitVec.ofNat 32 (2 * r.p.toNat)

/-- 15 R383: a word of record 16 written. -/
def SaveRow.wr (r : SaveRow) (k : Nat) (v : Word) : SaveRow :=
  if k < 4 then { r with v := r.v.set k v } else { r with p := v.extractLsb' 1 3 }

/-- 15 R383: a word of record 17. -/
def ResumeRow.rd (r : ResumeRow) (k : Nat) : Word :=
  if k < 2 then halfOf r.pc.toNat (k == 1) else if k < 4 then halfOf r.mt.toNat (k == 3) else BitVec.ofNat 32 r.st.code

/-- 15 R383: a word of record 17 written. -/
def ResumeRow.wr (r : ResumeRow) (k : Nat) (v : Word) : ResumeRow :=
  if k < 2 then { r with pc := BitVec.ofNat 64 (setHalf r.pc.toNat v.toNat (k == 1)), past := false }
  else if k < 4 then { r with mt := BitVec.ofNat 64 (setHalf r.mt.toNat v.toNat (k == 3)) }
  else r

/-- 15 R383: a word of a record of a frame. DESIGN CHOICE: the words of records 16 and 17 for a lane that had no live thread at handler entry read 0, but for an exited
thread's state (notes/assumptions/67.md). -/
def Frame.rd (f : Frame) (e w : Nat) : Word :=
  if e < 16 then
    match f.queue[e]? with
    | some x => x.rd w
    | none => 0
  else if 320 ≤ w then 0
  else if e == 16 then
    match f.save.find? fun r => r.lane == w / 5 with
    | some r => r.rd (w % 5)
    | none => 0
  else if e == 17 then
    match f.resume.find? fun r => r.lane == w / 5 with
    | some r => r.rd (w % 5)
    | none => if w % 5 == 4 && f.gone.contains (w / 5) then BitVec.ofNat 32 TState.exited.code else 0
  else 0

/-- 15 R383: a word of a record of a frame written. -/
def Frame.wr (f : Frame) (e w : Nat) (v : Word) : Frame :=
  if e < 16 then { f with queue := f.queue.zipIdx.map fun x => if x.2 == e then x.1.wr w v else x.1 }
  else if 320 ≤ w then f
  else if e == 16 then { f with save := updWhere (fun r => r.lane == w / 5) (fun r => r.wr (w % 5) v) f.save }
  else if e == 17 then { f with resume := updWhere (fun r => r.lane == w / 5) (fun r => r.wr (w % 5) v) f.resume }
  else f

/-- 15 R384: `rq.rd`. -/
def execRqRd (o : Op) (s : State) : Outcome State Fault Refusal :=
  let f := (s.gang s.cur.wg s.cur.gang).frame
  .next (s.alu o { a := .n32, b := .n32 } false fun e w _ => ((f.rd e w).toNat, false))

/-- 15 R384: `rq.wr`, in ascending lane order. -/
def execRqWr (o : Op) (s : State) : Outcome State Fault Refusal :=
  let caps := s.captureOp { a := .n32, b := .n32, c := .n32 } o
  .next (s.checked caps fun s =>
    (caps.foldl (fun s c => s.updGang s.cur.wg s.cur.gang fun g => { g with frame := g.frame.wr c.a c.b (BitVec.ofNat 32 c.c) }) s).advance)

/-! ### Return from a trap -/

/-- 15 R383, R385: whether an entry puts nothing back: it is discarded, or no lane is left in its mask. DESIGN CHOICE: the values 2 and 3 of `ACTION`, to which the spec
gives no meaning, discard as 1 does (notes/assumptions/67.md). -/
def Entry.idle (e : Entry) : Bool := e.action != 0 || e.mask.isEmpty

/-- 15 R385, R388, 10 R279: a discarded entry has no effect: a buffered store leaves the buffer, an engine operation is abandoned. -/
def State.discard (s : State) (w : Nat) (e : Entry) : State :=
  match e.kind with
  | .instr => s
  | .store u => s.updWg w fun x => { x with sb := x.sb.filter fun y => y.uid != u }
  | .command u .. => { s with hb := { s.hb with pend := s.hb.pend.filter fun x => x.uid != u } }

/-- 15 R385: a thread restored from records 16 and 17: the device resumes it at its resume program counter, where a breakpoint
matches only after its operation has issued once (R382). -/
def restoreThread (f : Frame) (t : Thread) : Thread :=
  match f.resume.find? fun r => r.lane == t.lane with
  | none => t
  | some r =>
    let row := (f.save.find? fun x => x.lane == t.lane).getD default
    let t1 := { t with v := row.v ++ t.v.drop 4, pc := r.pc, past := r.past, block := .none, line := none, skipBkpt := true
                       mt := if r.mt.getLsbD 63 then some (r.mt &&& 0x7FFFFFFFFFFFFFFF) else none
                       st := r.st, sync := r.sync, wait := r.wait }
    let t2 := ((t1.setPred 1 (row.p.getLsbD 0)).setPred 2 (row.p.getLsbD 1)).setPred 3 (row.p.getLsbD 2)
    match r.st, r.sync with
    | .sync, some x => if x.at_ == r.pc then t2 else { t2 with st := .ready, sync := none }
    | _, _ => t2

/-- 15 R385: THE return from a trap: registers, `mt` and state from records 16 and 17, kernel level, and the entries to put back, those that a full
queue had no place for after them. Pending traps and re-injection come next, and the last step after those (`State.finishReturn`). -/
def State.returnTrap (s : State) (w g : Nat) : State :=
  let f := (s.gang w g).frame
  let mine (t : Thread) : Bool := t.wg == w && t.gang == g
  let s1 := s.updThreads mine (restoreThread f)
  let s2 := (f.queue.filter Entry.idle).foldl (fun s e => s.discard w e) s1
  let back (later : List Entry) : List Entry := (f.queue.filter fun e => !e.idle) ++ later
  (s2.updGang w g fun x => { x with
    handler := false, fresh := false, frame := {}, reinject := back x.later, later := [], returning := true
    mcas := x.mcas.filter fun y => !y.replay || (back x.later).any fun e => e.pc == y.pc }).dropLatches w g

/-- 15 R381: the cause that a kill by `iret.kill` is reported with: that of the lowest-numbered gang context of the workgroup that carries `.kill`. -/
def State.killCause (s : State) (w : Nat) : Nat :=
  let carries (g : Gang) : Bool := g.wg == w && s.threads.any fun t => t.wg == w && t.gang == g.idx && t.live && t.block == .iret true
  (s.gang w (lowest ((s.gangs.filter carries).map fun g => g.idx))).frame.cause

/-- 15 R385: `iret`: the live threads of the gang meet; with `.kill` from any of them the cluster is killed. -/
def State.iretOp (s : State) (g : Guard) (kill : Bool) : State :=
  let caps := s.captureNone g
  s.checked caps fun s =>
    let w := s.cur.wg
    let gi := s.cur.gang
    let s1 := s.updIssue fun t =>
      if (lanesOf caps).contains t.lane then { t with block := .iret kill } else t.goto s.cur.next s.cur.past
    let live := (s1.gangThreads w gi).filter Thread.live
    if live.all fun t => match t.block with | .iret _ => true | _ => false then
      if live.any fun t => t.block == .iret true then s1.kill w (s1.killCause w) else s1.returnTrap w gi
    else s1.settle w gi

/-- 15 R385: `iret`. -/
def execIret (g : Guard) (s : State) : Outcome State Fault Refusal := .next (s.iretOp g false)
/-- 15 R385: `iret.kill`. -/
def execIretKill (g : Guard) (s : State) : Outcome State Fault Refusal := .next (s.iretOp g true)

/-! ### Shootdown -/

/-- 16 R404, R405: the shootdowns of an issue: a commit point, then each lane waits at the instruction. -/
def State.shootdown (s : State) (caps : List Cap) (range : Cap → Nat × Nat) : State :=
  s.checked caps fun s =>
    s.releasingObj (lanesOf caps) fun s =>
      if caps.isEmpty then s.advance
      else
        let s1 := caps.foldl (fun s c =>
          let (lo, hi) := range c
          let r : Shootdown := { id := s.uid, wg := s.cur.wg, gang := s.cur.gang, lane := c.lane, part := s.curPart, lo := lo, hi := hi }
          let here (t : Thread) : Bool := t.wg == s.cur.wg && t.gang == s.cur.gang && t.lane == c.lane
          { s with
            uid := s.uid + 1
            shoots := s.shoots ++ [r]
            threads := updWhere here (fun t => { t with block := .shoot r.id }) s.threads }) s
        (s1.updIssue fun t => if (lanesOf caps).contains t.lane then t else t.goto s.cur.next s.cur.past).settle s.cur.wg s.cur.gang

/-- 16 R404: `tlbsd.all`. -/
def execTlbsdAll (g : Guard) (s : State) : Outcome State Fault Refusal :=
  .next (s.shootdown (s.captureNone g) fun _ => (0, 2 ^ 52))
/-- 16 R404: `tlbsd.va`. -/
def execTlbsdVa (o : Op) (s : State) : Outcome State Fault Refusal :=
  .next (s.shootdown (s.captureOp { a := .n64, b := .n32 } o) fun c =>
    let lo := c.a / 65536 * 65536
    (lo, min (2 ^ 52) (lo + 65536 * c.b)))

/-- 16 R405: whether a shootdown removes the translation of a leaf. -/
def Shootdown.removes (r : Shootdown) (leaf : Nat × Nat) : Bool := overlap leaf.1 leaf.2 r.lo (r.hi - r.lo)

/-- 16 R405: whether a buffered store carries a translation that a shootdown removes. -/
def Shootdown.holds (r : Shootdown) (e : SbEntry) : Bool :=
  match e.dest with
  | .mem _ => r.removes e.leaf
  | .win .. => false

/-- 16 R405: the buffered stores of a partition that carry a removed translation applied. -/
def State.shootStores (s : State) (r : Shootdown) : State :=
  (s.wgs.filter fun w => s.partOf w.uid == r.part).foldl (fun s w =>
    let upTo := ((s.wg w.uid).sb.reverse.dropWhile fun e => !r.holds e).reverse
    if s.sbHeld w.uid then s else s.sbApplyList w.uid upTo) s

/-- 16 R405: whether nothing translated with a removed translation is left: a buffered store, a request, a send whose chunks are not all acknowledged, or a piece
of a result that has begun to land. An `mcas` that waits translates its entries again whenever it is tried. -/
def State.shootDrained (s : State) (r : Shootdown) : Bool :=
  (s.sends.all fun x => !(x.part == r.part && x.read && x.acked < chunkCount x.send.len && x.leaves.any r.removes)) &&
  (s.landing.all fun x => !(x.msg.part == r.part && x.begun.isSome && r.removes x.leaf)) &&
  (s.wgs.all fun w => !(s.partOf w.uid == r.part && w.sb.any r.holds)) &&
  (s.io.all fun q => !(s.partOf q.issue.wg == r.part && q.spans.any r.removes))

/-- 16 R405: a shootdown completes: the stores it names are applied, the translations removed, and its thread goes on. It waits while
a held store or a request is outstanding, and for the shootdowns that lower lanes of its gang made before it. -/
def execShootdownComplete (id : Nat) (s : State) : Outcome State Fault Refusal :=
  .next (match s.shoots.find? fun r => r.id == id with
    | none => s
    | some r =>
      if s.shoots.any fun q => q.wg == r.wg && q.gang == r.gang && q.id < r.id then s
      else
        let s1 := s.shootStores r
        if !s1.shootDrained r then s1
        else
          let s2 := { s1 with
            shoots := s1.shoots.filter fun q => q.id != id
            tlb := s1.tlb.filter fun e => !(e.part == r.part && r.removes (e.va, e.span)) }
          let go (t : Thread) : Thread :=
            let last := match t.line with
              | some l => l.last
              | none => false
            let (pc, past) := nextAddr t.pc 12 last
            { t.goto pc past with block := .none }
          ((s2.updThreads (fun t => t.block == .shoot id) go).settle r.wg r.gang).afterIssue r.wg r.gang)

end Sys2Proof.Machine
end

