-- ==== Sys2Proof/Machine/Place.lean ====
section
/-! DEFINITION. Placement and the life of clusters (spec/14 R366 to R374, spec/01 R36 to R47, spec/15 R389, R390): the queue, the fit on a
quad, creation, switch-out and return, retirement. -/

namespace Sys2Proof.Machine

open Host (Outcome)

/-! ### The curve and the coordinates of a cluster (01 R39, R44) -/

/-- 01 R44: the Hilbert index of a point: `k` bits to go, square of side `n`. -/
def hilbertGo (n : Nat) : Nat → Nat → Nat → Nat → Nat
  | 0, _, _, d => d
  | k + 1, x, y, d =>
    let rx := x / 2 ^ k % 2
    let ry := y / 2 ^ k % 2
    let d := d + 2 ^ k * 2 ^ k * ((3 * rx) ^^^ ry)
    if ry == 0 then
      (if rx == 1 then hilbertGo n k (n - 1 - y) (n - 1 - x) d else hilbertGo n k y x d)
    else hilbertGo n k x y d

/-- The bits of the smallest power of two that is at least `m`. -/
def ceilLog (m : Nat) : Nat := if m ≤ 1 then 0 else Nat.log2 (m - 1) + 1

/-- 01 R44: H(x, y) on a slab of `nx` by `ny` clusters. -/
def hilbert (nx ny x y : Nat) : Nat :=
  let b := ceilLog (max nx ny)
  hilbertGo (2 ^ b) b x y 0

/-- A point put into a list that rises by its index. -/
def insertByIndex (f : Nat × Nat → Nat) (p : Nat × Nat) : List (Nat × Nat) → List (Nat × Nat)
  | [] => [p]
  | q :: r => if f p < f q then p :: q :: r else q :: insertByIndex f p r

/-- 01 R44: the points of a slab in curve order. -/
def curve (nx ny : Nat) : List (Nat × Nat) :=
  ((List.range ny).flatMap fun y => (List.range nx).map fun x => (x, y)).foldl (fun l p => insertByIndex (fun q => hilbert nx ny q.1 q.2) p l) []

/-- 01 R39: the cluster grid. -/
def Launch.grid (l : Launch) : Nat × Nat × Nat := (l.nwx / l.cwx, l.nwy / l.cwy, l.nwz / l.cwz)

/-- 01 R41, R45: the coordinates of the `i`-th cluster to be dispatched. -/
def Launch.nth (l : Launch) (i : Nat) : Nat × Nat × Nat :=
  let (nx, ny, _) := l.grid
  if l.det then
    let (x, y) := ((curve nx ny)[i % (nx * ny)]?).getD (0, 0)
    (x, y, i / (nx * ny))
  else (i % nx, i / nx % ny, i / (nx * ny))

/-! ### The fit on a core (14 R367, R368) -/

/-- The slices of a core. -/
def State.coreLoads (s : State) (gone : List Nat) (core : Nat) : List SliceLoad :=
  (s.coreWgs gone core).foldl (fun loads w =>
    (s.gangs.filter fun g => g.wg == w.uid).foldl (fun loads g =>
      let x := (loads[g.slice]?).getD {}
      loads.set g.slice (x.put g.col (s.launchOf w.uid).cols (s.launchOf w.uid).rows)) loads) emptyLoads

/-- 14 R367, 15 R393: the local-store ranges of a core that cannot be given: those of its workgroups, and withheld blocks. -/
def State.takenLs (s : State) (p : Nat) (gone : List Nat) (core : Nat) : List (Nat × Nat) :=
  ((s.coreWgs gone core).map fun w => (w.lsBase, (s.launchOf w.uid).lskib * 1024)) ++
  (((s.part p).withheld.filter fun x => x.1 == core).map fun x => (1024 * x.2, 1024))

/-- 14 R367: the lowest offset of a free range. Every such offset is 0 or the end of a taken range. -/
def firstFit (taken : List (Nat × Nat)) (size total : Nat) : Option Nat :=
  let free (a : Nat) : Bool := a + size ≤ total && taken.all fun t => !overlap t.1 t.2 a size
  (((0 :: taken.map fun t => t.1 + t.2).filter free).foldl (fun a x => match a with
    | none => some x
    | some y => some (min x y)) none)

/-- Where a workgroup goes on a core: local-store base, and the slices and columns of its contexts. -/
structure CorePlan where
  core : Nat
  base : Nat
  slices : List (Nat × Nat)
  deriving DecidableEq, Repr, Inhabited

/-- 14 R367: the fit of one workgroup of a launch on a core. -/
def State.planCore (s : State) (p : Nat) (gone : List Nat) (l : Launch) (core : Nat) : Option CorePlan :=
  if (s.coreWgs gone core).any fun w => (s.launchOf w.uid).accmask &&& l.accmask != 0 then none
  else match firstFit (s.takenLs p gone core) (l.lskib * 1024) (2 ^ 22), l.assign (s.coreLoads gone core) with
    | some b, some sl => some { core := core, base := b, slices := sl }
    | _, _ => none

/-- 13 R342, 14 R375: the quads that placement may use. -/
def Part.quads (q : Part) : Nat := match q.resizeTo with
  | some m => q.qact &&& m
  | none => q.qact

/-- 14 R374, R376: whether a core takes clusters of a level: a held core none below `VLEVEL`, none that keeps off held cores (of no level here), and none while it is being
freed. DESIGN CHOICE: a cluster that `VACATE` switched out keeps off held cores, also one at or above `VLEVEL` once `DONE` is set (notes/assumptions/68.md). -/
def Part.coreOpen (q : Part) (level : Option Nat) (core : Nat) : Bool := !q.heldCores.contains core || (q.vdone && level.any fun x => q.vlevel ≤ x)

/-- 14 R367: the lowest quad on which a cluster of a launch fits, on its lowest cores. -/
def State.fit (s : State) (p : Nat) (gone : List Nat) (l : Launch) (level : Option Nat) : Option (List CorePlan) :=
  let q := s.part p
  ((List.range 16).filter fun i => bitAt q.quads i).findSome? fun i =>
    let plans := ((List.range 4).map fun j => 4 * i + j).filterMap fun c =>
      if q.coreOpen level c then s.planCore p gone l c else none
    if l.clsize ≤ plans.length then some (plans.take l.clsize) else none

/-! ### The queue (14 R366) -/

/-- A cluster that waits: one that has a record (switched out, or relaunched after a kill), or the next of a node. -/
inductive Waiting where
  | old (cluster : Nat)
  | new (node : Nat)
  deriving DecidableEq, Repr, Inhabited

/-- Elements in rising order of a key, equal ones as they stand. -/
def insertBy {α : Type} (f : α → Nat) (x : α) : List α → List α
  | [] => [x]
  | y :: r => if f x < f y then x :: y :: r else y :: insertBy f x r

/-- A list in rising order of a key. -/
def sortBy {α : Type} (f : α → Nat) (l : List α) : List α := l.foldl (fun acc x => insertBy f x acc) []

/-- The partition that a cluster belongs to. -/
def State.clusterPart (s : State) (c : Cluster) : Nat := (s.node c.node).part

/-- 14 R366: what waits at a level of a partition: clusters with a record first, in the order in which they came back; then the eligible
nodes by their turns. -/
def State.waitingAt (s : State) (p level : Nat) : List Waiting :=
  let old := s.clusters.filter fun c => s.clusterPart c == p && c.level == level && (c.st == .switchedOut || c.st == .queued)
  let new := s.nodes.filter fun n => n.part == p && n.level == level && n.eligible && !n.failed && n.next < n.launch.clusters
  (sortBy (·.front) old).map (fun c => .old c.uid) ++ (sortBy (·.turn) new).map (fun n => .new n.uid)

/-- The launch of what waits, and the level by which it may go to held cores (14 R374). -/
def State.waitingLaunch (s : State) : Waiting → Launch × Option Nat
  | .old c => ((s.node (s.cluster c).node).launch, if (s.cluster c).away then none else some (s.cluster c).level)
  | .new n => ((s.node n).launch, some (s.node n).level)

/-- The waiting clusters of a partition, the highest level first. -/
def State.waiting (s : State) (p : Nat) : List Waiting := [3, 2, 1, 0].flatMap fun l => s.waitingAt p l

/-! ### Creation (01 R15, R36; 14 R360; 06 R181; 07 R220) -/

/-- 14 R360: the entries of an initialisation table from an address on: offsets and bytes, or the code that `KERR` records. -/
def State.initGo (s : State) (p size : Nat) : Nat → Nat → Except Nat (List (Nat × List Byte))
  | 0, _ => .ok []
  | k + 1, a =>
    match s.headRead p a 8 with
    | .error c => .error c
    | .ok e =>
      let off := bits e 21 0
      let n := bits e 63 32
      if bits e 31 22 != 0 then .error 0x19
      else if n == 0 then .ok []
      else if size < off + n then .error 0x19
      else match s.headRead p (a + 8) n with
        | .error c => .error c
        | .ok x => match s.initGo p size k (a + 8 + alignUp n 8) with
          | .error c => .error c
          | .ok r => .ok ((off, toBytesLE x n) :: r)

/-- 14 R360: the initialisation table of a launch. An entry takes at least 16 bytes of an address space of 2^52. -/
def State.initTable (s : State) (p : Nat) (l : Launch) : Except Nat (List (Nat × List Byte)) :=
  if l.init == 0 then .ok [] else s.initGo p (l.lskib * 1024) (2 ^ 48) l.init

/-- What reading the entries of an initialisation table from an address on leaves, to the last or the first that ends it (16 R403, R417). -/
def State.initWalk (p size : Nat) : Nat → Nat → State → State
  | 0, _, s => s
  | k + 1, a, s0 =>
    let s := s0.headTouch p a 8
    match s.headRead p a 8 with
    | .error _ => s
    | .ok e =>
      let n := bits e 63 32
      if bits e 31 22 != 0 || n == 0 || size < bits e 21 0 + n then s
      else match s.headRead p (a + 8) n with
        | .error _ => s.headTouch p (a + 8) n
        | .ok _ => State.initWalk p size k (a + 8 + alignUp n 8) (s.headTouch p (a + 8) n)

/-- What reading the initialisation table of a launch leaves. -/
def State.initTouch (s : State) (p : Nat) (l : Launch) : State :=
  if l.init == 0 then s else State.initWalk p (l.lskib * 1024) (2 ^ 48) l.init s

/-- 07 R220: the generator state of a thread at creation. -/
def rngStart (l : Launch) (num stage tnum : Nat) : DWord := rngJump l.seed (BitVec.ofNat 64 (num * 2 ^ 40 + (1024 * stage + tnum) * 2 ^ 28))

/-- 01 R15, R24, 15 R396: a lane of a gang at creation. -/
def newThread (l : Launch) (w num : Nat) (g : Stage) (idx stage gang lane : Nat) : Thread :=
  let tnum := gang * l.maskW + lane % l.maskW
  if tnum < g.threads then
    { wg := w, gang := idx, lane := lane, pc := l.entry g, st := .ready, v := List.replicate l.vregs 0, rng := rngStart l num stage tnum }
  else { wg := w, gang := idx, lane := lane, pc := 0 }

/-- 01 R36: the gangs of a workgroup at creation. -/
def newGangs (l : Launch) (w : Nat) (slices : List (Nat × Nat)) : List Gang :=
  (l.contexts.zip slices).zipIdx.map fun ((c, sl), i) => { wg := w, idx := i, stage := c.1, num := c.2, slice := sl.1, col := sl.2 }

/-- 01 R36: the threads of a workgroup at creation. -/
def newThreads (l : Launch) (w num : Nat) : List Thread :=
  l.contexts.zipIdx.flatMap fun (c, i) => (List.range l.gw).map fun lane =>
    newThread l w num ((l.stages[c.1]?).getD default) i c.1 c.2 lane

/-- 01 R36, R39: a workgroup of a cluster at creation. What its initialisation table does not give of its local store is undefined (01 R15). -/
def newWg (l : Launch) (image : List Word) (table : List (Nat × List Byte)) (c : Cluster) (uid rank : Nat) (plan : CorePlan) (now : Nat) : Wg :=
  let x := c.cx * l.cwx + rank % l.cwx
  let y := c.cy * l.cwy + rank / l.cwx % l.cwy
  let z := c.cz * l.cwz + rank / (l.cwx * l.cwy)
  { uid := uid, cluster := c.uid, rank := rank, x := x, y := y, z := z, num := x + l.nwx * (y + l.nwy * z), st := .resident
    core := plan.core, lsBase := plan.base, g := (image ++ List.replicate 96 0).take 96
    ls := table.foldl (fun m e => setBytes m e.1 e.2) []
    undef := table.foldl (fun u e => cutRange u e.1 e.2.length) (addRange [] 0 (l.lskib * 1024)), residentSince := now }

/-- 01 R36: a cluster created whole on its cores. Its threads know what a `fork` released to them (01 R42). -/
def State.createCluster (s : State) (c : Cluster) (table : List (Nat × List Byte)) (plans : List CorePlan) : State :=
  let n := s.node c.node
  let l := n.launch
  let ws := plans.zipIdx.map fun (p, k) => newWg l n.image table c (s.uid + k) k p s.sliceClk
  let ts := ws.flatMap fun w => newThreads l w.uid w.num
  { s with
    uid := s.uid + plans.length
    wgs := s.wgs ++ ws
    gangs := s.gangs ++ (ws.zip plans).flatMap fun (w, p) => newGangs l w.uid p.slices
    threads := s.threads ++ ts
    hb := if n.pubs.isEmpty then s.hb else ts.foldl (fun h t => h.see (.thread c.uid t.wg t.gang t.lane) 4 n.pubs) s.hb }

/-! ### Return from a switch-out (01 R43, 14 R371) -/

/-- A switched-out workgroup put back on a core. The die's clean copies of peers' lines go, as they may be older than what the workgroup has read and
written elsewhere (04 R115, R122). -/
def State.returnWg (s0 : State) (w : Wg) (plan : CorePlan) : State :=
  let s := s0.rdcAcquire (plan.core / 16)
  { s with
    wgs := updWhere (fun x => x.uid == w.uid) (fun x => { x with
      st := .resident, core := plan.core, lsBase := plan.base, residentSince := s.sliceClk, idle := none, qualifies := none, saveAt := none }) s.wgs
    gangs := s.gangs.map fun g => if g.wg == w.uid then { g with slice := ((plan.slices[g.idx]?).getD (0, 0)).1, col := ((plan.slices[g.idx]?).getD (0, 0)).2 } else g
    saves := s.saves.filter fun x => x.wg != w.uid }

/-- 00 R7: a thread of undefined state: its program counter, meeting address, thread state and registers. -/
def scrambleThread (f : List Nat → DWord) (t : Thread) : Thread :=
  let x (k : Nat) : DWord := f [t.gang, t.lane, k]
  { t with
    pc := x 0, past := (x 1).getLsbD 0, mt := if (x 2).getLsbD 63 then some (x 2 &&& 0x7FFFFFFFFFFFFFFF) else none
    st := ([TState.unlaunched, .ready, .held, .sync, .waiting, .exited][(x 3).toNat % 6]?).getD t.st
    rng := x 4
    p := (x 5).setWidth 96 ||| ((x 6).setWidth 96 <<< 64)
    v := (List.range t.v.length).map fun i => (x (16 + i)).truncate 32
    ret := t.ret.zipIdx.map fun r => (x (512 + r.2), r.1.2) }

/-- 00 R7: a replay-queue entry of undefined contents: its address, mask, word, cause and captured sources. -/
def scrambleEntry (f : List Nat → DWord) (e : Entry × Nat) : Entry :=
  let x (k : Nat) : DWord := f [e.2, k]
  { e.1 with
    action := (x 0).toNat % 4, faulted := (x 1).getLsbD 0, code := (x 2).toNat % 256, pc := x 3
    mask := (List.range 64).filter fun l => (x 4).getLsbD l
    word := (x 5).toNat + 2 ^ 64 * ((x 6).toNat % 2 ^ 32)
    caps := (List.range 64).map fun l => { lane := l, a := (f [e.2, 7, l]).toNat, b := (f [e.2, 8, l]).toNat, c := (f [e.2, 9, l]).toNat } }

/-- 00 R7: a replay queue of undefined length and contents. -/
def scrambleQueue (f : List Nat → DWord) (q : List Entry) : List Entry :=
  (List.range ((f []).toNat % 17)).map fun i => scrambleEntry f ((q[i]?).getD {}, i)

/-- 00 R7: a frame of undefined contents. -/
def scrambleFrame (f : List Nat → DWord) (x : Frame) : Frame :=
  { x with
    exited := (f [0]).getLsbD 0, async := (f [0]).getLsbD 1, stage := (f [0]).toNat / 4 % 4, tnum := (f [0]).toNat / 16 % 1024
    twg := (f [11]).toNat % 2 ^ 32, word := if (f [0]).getLsbD 63 then some ((f [12]).toNat + 2 ^ 64 * ((f [13]).toNat % 2 ^ 32)) else none
    cause := (f [1]).toNat % 256, info := (f [2]).toNat % 256, tpc := f [3], taddr := f [4]
    tmask := (List.range 64).filter fun l => (f [5]).getLsbD l
    queue := scrambleQueue (fun k => f (6 :: k)) x.queue
    save := x.save.map fun r => { r with
      v := (List.range 4).map fun i => (f [7, r.lane, i]).truncate 32
      p := (f [8, r.lane]).truncate 3 }
    resume := x.resume.map fun r => { r with pc := f [9, r.lane], mt := f [10, r.lane] } }

/-- 00 R7: a buffered store of undefined address and data: it goes where its workgroup's translation takes the address, if anywhere. -/
def State.scrambleStore (s : State) (w : Nat) (f : List Nat → DWord) (e : SbEntry) : SbEntry :=
  let va := f [0]
  { e with
    va := va, pc := f [1], word := (f [2]).toNat + 2 ^ 64 * ((f [3]).toNat % 2 ^ 32), tnum := (f [4]).toNat % 1024
    dest := match s.xlate (unitCore (s.wg w).core) (s.partOf w) va.toNat .write with
      | .ok x => .mem (x.key va.toNat)
      | .error _ => e.dest
    bytes := (List.range e.bytes.length).map fun i => (f [5, i]).truncate 8 }

/-- 15 R389: a workgroup whose part of the save area has been written comes back with undefined state: its threads, its uniform registers, local store and
tiles, its gangs' frames and pending traps, whether it has committed, its held stores, and what its engine operations go on to write. -/
def State.scramble (s : State) (w : Nat) : State :=
  let f (k : List Nat) : DWord := s.free (29 :: w :: k)
  { s with
    threads := updWhere (fun t => t.wg == w) (scrambleThread fun k => f (0 :: k)) s.threads
    gangs := updWhere (fun g => g.wg == w) (fun g => { g with
      handler := (f [1, g.idx, 0]).getLsbD 0
      frame := scrambleFrame (fun k => f (1 :: g.idx :: k)) g.frame
      pend := g.pend.zipIdx.map fun p => { p.1 with
        exited := (f [4, g.idx, p.2, 3]).getLsbD 0, tnum := (f [4, g.idx, p.2, 3]).toNat / 2 % 1024
        mask := (List.range 64).filter fun l => (f [4, g.idx, p.2, 4]).getLsbD l
        cause := (f [4, g.idx, p.2, 0]).toNat % 256, pc := f [4, g.idx, p.2, 1], addr := f [4, g.idx, p.2, 2]
        entry := scrambleEntry (fun k => f (5 :: g.idx :: k)) (p.1.entry, p.2) }
      reinject := g.reinject.zipIdx.map (scrambleEntry fun k => f (6 :: g.idx :: k))
      later := g.later.zipIdx.map (scrambleEntry fun k => f (7 :: g.idx :: k)) }) s.gangs
    eops := updWhere (fun o => o.wg == w) (fun o => { o with undef := true, spoiled := true }) s.eops
    wgs := updWhere (fun x => x.uid == w) (fun x => { x.wildLs 0 (s.lsSize w) with
      g := (List.range 96).map fun i => (f [2, i]).truncate 32
      tiles := x.tiles.map fun t => { t with elems := (List.range t.elems.length).map fun i => (f [3, t.lathe, t.tile, i]).truncate 32 }
      committed := (f [9]).getLsbD 0
      sb := x.sb.map fun e => s.scrambleStore w (fun k => f (8 :: e.uid :: k)) e }) s.wgs }

/-- 01 R43, 09 R266, 10 R297: what goes on when a workgroup is back: waiting threads are tested, meetings and exchanges evaluated, its lathe commands
taken up. -/
def State.resumeWg (s : State) (w : Nat) : State :=
  let gs := (s.gangs.filter fun g => g.wg == w).map (·.idx)
  let s1 := s.testAgain fun t => t.wg == w
  let s2 := gs.foldl (fun s g => (s.settle w g).resolveSync w g) s1
  (List.range 4).foldl (fun s i => s.latheGo (s.wg w).core i) s2

/-- 14 R371: a switched-out cluster returns. -/
def State.returnCluster (s : State) (c : Cluster) (plans : List CorePlan) : State :=
  let ws := sortBy (·.rank) (s.clusterWgs c.uid)
  let s0 := (ws.filter fun w => s.saves.any fun x => x.wg == w.uid && x.bad).foldl (fun s w => s.scramble w.uid) s
  let s1 := (ws.zip plans).foldl (fun s x => s.returnWg x.1 x.2) s0
  ws.foldl (fun s w => s.resumeWg w.uid) s1

/-! ### A cluster placed -/

/-- The record of the next cluster of a node, and the node's turn taken (14 R366). -/
def State.dispatch (s : State) (n : Node) : State × Cluster :=
  let (x, y, z) := n.launch.nth n.next
  let (nx, ny, _) := n.launch.grid
  let c : Cluster := { uid := s.uid, node := n.uid, clid := x + nx * (y + ny * z), cx := x, cy := y, cz := z, level := n.level }
  ({ s with
     uid := s.uid + 1
     clusters := s.clusters ++ [c]
     nodes := updWhere (fun m => m.uid == n.uid) (fun m => { m with next := m.next + 1, turn := s.uid, pendingChild := false }) s.nodes }, c)

/-- 01 R36, 14 R360: a cluster placed: created, unless its table fails and its node ends with reason 5, or brought back. -/
def State.placeCluster (s : State) (c : Cluster) (plans : List CorePlan) : State :=
  let here := s.updCluster c.uid fun x => { x with st := .resident, gave := none, away := false, quad := ((plans.head?).map fun p => p.core / 4).getD 0 }
  if c.st == .switchedOut then here.returnCluster c plans
  else
    let n := s.node c.node
    match s.initTable n.part n.launch with
    | .ok t => (here.initTouch n.part n.launch).createCluster c t plans
    | .error k =>
      let l := n.launch
      (s.recordError n.part 5 k (c.cx * l.cwx + l.nwx * (c.cy * l.cwy + l.nwy * (c.cz * l.cwz)))).failNode n.uid

/-! ### Switch-out -/

/-- 01 R47: whether a thread keeps its gang from nothing: it is Waiting, or Held or Synchronising at a point that waits for a Waiting thread. -/
def threadIdle (ts : List Thread) (mw : Nat) (t : Thread) : Bool :=
  match t.st with
  | .waiting => true
  | .held => ts.any fun u => u.live && u.mt == t.mt && u.pc != t.pc && u.st == .waiting
  | .sync => (match t.sync with
    | some r => (List.range mw).any fun j => bitAt r.mask j && ts.any fun u => u.lane == t.lane - t.lane % mw + j && u.st == .waiting
    | none => false)
  | _ => false

/-- 01 R47: whether every live thread of a resident workgroup waits. -/
def State.wgIdle (s : State) (w : Wg) : Bool :=
  w.st == .resident && (s.threads.filter fun t => t.wg == w.uid && t.live).all fun t =>
    threadIdle (s.gangThreads w.uid t.gang) (s.launchOf w.uid).maskW t

/-- 01 R47: slice clocks after which a waiting workgroup qualifies. -/
def yieldClocks : Nat := 2 ^ 20

/-- 01 R47: `YIELD_THRESHOLD`: a workgroup that has waited long enough, Resident, qualifies. -/
def execYieldThreshold (wg : Nat) (s : State) : Outcome State Fault Refusal :=
  .next (
    let w := s.wg wg
    match w.idle with
    | some t => if s.wgIdle w && max t w.residentSince + yieldClocks ≤ s.sliceClk && w.qualifies.isNone then
        s.updWg wg fun x => { x with qualifies := some s.sliceClk }
      else s
    | none => s)

/-- An image of a workgroup's save: its length, the bytes of it that have a place (from offsets), and the ranges of those that are undefined. -/
structure Image where
  size : Nat
  parts : List (Nat × List Byte) := []
  undef : List (Nat × Nat) := []
  deriving DecidableEq, Repr, Inhabited

/-- Numbers of some bytes each, one after another. -/
def packLE (l : List (Nat × Nat)) : List Byte := l.flatMap fun x => toBytesLE x.1 x.2

/-- 15 R389: the image of a thread. -/
def threadImage (t : Thread) : List Byte :=
  let mt := match t.mt with
    | some a => a.toNat % 2 ^ 63 + 2 ^ 63
    | none => 0
  packLE ([(t.pc.toNat, 8), (mt, 8), (t.st.code, 4), (t.p.toNat, 12)] ++
    (List.range 16).map (fun i => (((t.ret[i]?).getD (0, false)).1.toNat, 8)) ++ [(t.rng.toNat, 8)])

/-- 15 R389, R383: the image of a gang's replay queue: records 0 to 17, word by word. -/
def Frame.image (f : Frame) : List Byte :=
  ((List.range 18).flatMap fun e => (List.range (if e < 16 then 392 else 320)).map fun w => f.rd e w).flatMap fun x => toBytesLE x.toNat 4

/-- 03 R109: the slot that a `gcp` has claimed. -/
def State.claimedSlot (s : State) (o : EOp) : Nat :=
  let b := gblockOf o.block
  if o.kind == .gcp && b.cmode && !o.unclaimed then o.seq % (s.cbufAt o.wg b.compl).nslot else 0

/-- 15 R389, R277: the image of an engine operation: its command word, which holds the offset of its block and the issuing thread's `%stage` and `%tnum`, its block, and its
own fields (notes/assumptions/37.md). -/
def State.opImage (s : State) (o : EOp) : List Byte :=
  packLE [(o.blk, 4), ((s.gang o.wg o.gang).stage, 2), (o.tnum, 2), (o.block, 128), (o.status, 4), (o.progress, 4), (o.seq, 4), (s.claimedSlot o, 4), (o.lathe, 4)]

/-- The engine operations of a workgroup that its header lists (10 R276). -/
def State.savedOps (s : State) (w : Nat) : List EOp := s.eops.filter fun o => o.wg == w

/-- The gangs of a workgroup at handler level. -/
def State.handlerGangs (s : State) (w : Nat) : List Gang := s.gangs.filter fun g => g.wg == w && g.handler

/-- 15 R389: the images of a workgroup: threads, vector registers, replay queues, local store, accumulator tiles and engine records. What is laid out in
the order of its list alone stands there without gaps (notes/assumptions/37.md). -/
def State.saveImages (s : State) (w : Wg) : List Image :=
  let l := s.launchOf w.uid
  let ts := s.threads.filter fun t => t.wg == w.uid && t.st != .unlaunched
  let tiles := (List.range 16).filter fun i => bitAt l.accmask i
  let tile (i : Nat) : Image :=
    match w.tiles.find? fun t => t.lathe == i / 4 && t.tile == i % 4 with
    | some t => { size := 65536, parts := [(0, t.elems.flatMap fun x => toBytesLE x.toNat 4)] }
    | none => { size := 65536 }
  [{ size := 256 * ts.length, parts := ts.zipIdx.map fun x => (256 * x.2, threadImage x.1) },
    { size := 4 * l.vregs * ts.length, parts := [(0, ts.flatMap fun t => t.v.flatMap fun x => toBytesLE x.toNat 4)] }] ++
  (s.handlerGangs w.uid).map (fun g => { size := 27648, parts := [(0, g.frame.image)] }) ++
  [{ size := 1024 * l.lskib, parts := [(0, getBytes w.ls 0 (1024 * l.lskib))], undef := w.undef }] ++ tiles.map tile ++
  (s.savedOps w.uid).map fun o => { size := 192, parts := [(0, s.opImage o)] }

/-- 15 R389: the bytes that the header and the images of a workgroup take. -/
def State.headerBytes (s : State) (w : Wg) : Nat := 4096 + ((s.saveImages w).map fun x => x.size).sum

/-- 15 R389: the parts of a partition's save area in use. -/
def State.savedAreas (s : State) (p : Nat) : List (Nat × Nat) :=
  (s.wgs.filter fun w => w.st == .switchedOut && s.partOf w.uid == p).filterMap fun w => w.saveAt.map fun a => (a, s.headerBytes w)

/-- 15 R389: parts of the save area given one by one, or none. -/
def areasFor (total : Nat) : List Nat → List (Nat × Nat) → Option (List Nat)
  | [], _ => some []
  | n :: r, taken =>
    match firstFit taken n total with
    | none => none
    | some a => (areasFor total r ((a, n) :: taken)).map fun l => a :: l

/-- 15 R381, R389: the first address of a partition's save area. -/
def Part.saveBase (q : Part) : Nat := q.csrPair 0x120 0x121

/-- 15 R389: the memory of a part of a partition's save area: a part lies in the partition's own memory (notes/assumptions/37.md). -/
def State.saveKeys (s : State) (p off n : Nat) : Option (List (Nat × Nat)) :=
  match s.xlateRange unitHead p .write ((s.part p).saveBase + off) n with
  | .error _ => none
  | .ok l => if l.any fun k => isPeer k.1 then none else some l

/-- 15 R389: the parts of the save area that the workgroups of a cluster take. -/
def State.saveAreas (s : State) (c : Cluster) : Option (List Nat) :=
  let p := s.clusterPart c
  let sizes := (s.clusterWgs c.uid).map s.headerBytes
  match areasFor (((s.part p).csrWord 0x122).toNat % 2 ^ 16 * 2 ^ 20) sizes (s.savedAreas p) with
  | none => none
  | some l => if (l.zip sizes).all fun x => (s.saveKeys p x.1 x.2).isSome then some l else none

/-- 14 R371 step 2, 10 R276: whether the spindle still has to read the local store of a workgroup. -/
def State.spindleReads (s : State) (w : Nat) : Bool :=
  (s.sends.any fun x => x.by_.wg == w && !x.read && !x.send.glb) || (s.contribs.any fun x => x.by_.wg == w && !x.sent && !x.glb)

/-- 14 R371, 15 R390: whether a cluster can be switched out now: resident, no workgroup Draining, no request or shootdown of its threads
outstanding, none of its local stores to be read by the spindle, and room for its headers. -/
def State.canLeave (s : State) (c : Cluster) : Bool :=
  let ws := s.clusterWgs c.uid
  c.st == .resident && !ws.isEmpty && ws.all (fun w => w.st == .resident) &&
  ws.all (fun w => !(s.io.any fun r => r.issue.wg == w.uid) && !(s.shoots.any fun r => r.wg == w.uid) && !s.spindleReads w.uid) &&
  (s.saveAreas c).isSome

/-- 01 R47, 14 R370: since when a cluster qualifies: since the last of its workgroups did. -/
def State.qualified (s : State) (c : Cluster) : Option Nat :=
  let ws := s.clusterWgs c.uid
  if c.st == .resident && !ws.isEmpty && ws.all (fun w => w.qualifies.isSome && s.wgIdle w) then
    some ((ws.map fun w => w.qualifies.getD 0).foldl max 0)
  else none

/-- 14 R370: the clusters of a partition that qualify, in the order in which they would leave. -/
def State.leaving? (s : State) (p : Nat) : List Cluster :=
  let cs := s.clusters.filter fun c => s.clusterPart c == p && (s.qualified c).isSome && s.canLeave c
  sortBy (·.level) (sortBy (fun c => (s.qualified c).getD 0) cs)

/-- Whether some first part of a list of clusters, gone, lets a launch fit. -/
def State.fitsWithout (s : State) (p : Nat) (l : Launch) (level : Option Nat) (cs : List Cluster) : Bool :=
  (List.range (cs.length + 1)).any fun k => (s.fit p ((cs.take k).map (·.uid)) l level).isSome

/-- What waits, as the queue of the aging rule names it, with the number of the cluster of a node that comes next. -/
def State.turnOf (s : State) : Waiting → Queued × Nat
  | .old c => (.cluster c, 0)
  | .new n => (.node n, (s.node n).next)

/-- 14 R370: whether a cluster that yielded still stands back: what it made room for still waits, and fits, or would once more of those that qualify have left. -/
def State.standsBack (s : State) (p : Nat) (x : Waiting) : Bool :=
  match x with
  | .new _ => false
  | .old c => match (s.cluster c).gave with
    | none => false
    | some g => (s.waiting p).any fun y => s.turnOf y == g &&
        (let (l, level) := s.waitingLaunch y
         s.fitsWithout p l level (s.leaving? p))

/-- 14 R366, R370: the queue of a partition. One that made room for another comes after it. -/
def State.queue (s : State) (p : Nat) : List Waiting := (s.waiting p).filter fun x => !s.standsBack p x

/-- 14 R366: the cluster to be placed, and where: the first of the queue that fits. -/
def State.pick (s : State) (p : Nat) : Option (Waiting × List CorePlan) :=
  (s.queue p).findSome? fun x =>
    let (l, level) := s.waitingLaunch x
    (s.fit p [] l level).map fun plan => (x, plan)

/-- 14 R366, R367: `CLUSTER_PLACE`: in a running partition, the cluster of R366 goes to the quad of R367. -/
def execClusterPlace (part : Nat) (s : State) : Outcome State Fault Refusal :=
  .next (
    if (s.part part).st != .running then s
    else match s.pick part with
      | none => s
      | some (.old c, plans) => s.placeCluster (s.cluster c) plans
      | some (.new n, plans) =>
        let (s1, c) := s.dispatch (s.node n)
        s1.placeCluster c plans)

/-- 01 R47, 14 R370: what clusters of a partition yield to: the first of the queue that fits nowhere, and would if those that qualify had left. -/
def State.yieldsTo (s : State) (p : Nat) : Option Waiting :=
  let cs := s.leaving? p
  (s.queue p).find? fun x =>
    let (l, level) := s.waitingLaunch x
    (s.fit p [] l level).isNone && s.fitsWithout p l level cs

/-- 14 R370: whether a cluster leaves for yield: something is to be made room for, and this is the first to go. -/
def State.yields (s : State) (c : Cluster) : Bool :=
  let p := s.clusterPart c
  (s.part p).st == .running && ((s.leaving? p).head?).map (·.uid) == some c.uid && (s.yieldsTo p).isSome

/-- 14 R374: whether a core of a cluster is held and not yet freed. -/
def State.onHeld (s : State) (c : Cluster) : Bool :=
  let q := s.part (s.clusterPart c)
  !q.vdone && (s.clusterWgs c.uid).any fun w => q.heldCores.contains w.core

/-- 14 R374, R375, 13 R339: whether a cluster must leave: a core of it is held and not yet freed, its quad is being removed, or its
partition is stopping. -/
def State.vacates (s : State) (c : Cluster) : Bool :=
  let q := s.part (s.clusterPart c)
  q.st == .stopping || (match q.resizeTo with
    | some m => !bitAt m c.quad
    | none => false) || s.onHeld c

/-- The bytes from an offset of some translated pieces on. -/
def dropPieces : List (Nat × Nat) → Nat → List (Nat × Nat)
  | [], _ => []
  | (k, n) :: r, off => if off < n then (k + off, n - off) :: r else dropPieces r (off - n)

/-- Bytes written from an offset of some translated pieces on. -/
def State.putPieces (s : State) (l : List (Nat × Nat)) (off : Nat) (bs : List Byte) : State := s.writePieces (dropPieces l off) bs

/-- 15 R389, 03 R93: an image written at an offset of a part of the save area; its undefined bytes are. -/
def State.putImage (s : State) (l : List (Nat × Nat)) (off : Nat) (x : Image) : State :=
  let n := (x.parts.map fun p => p.1 + p.2.length).foldl max 0
  let put := x.parts.foldl (fun s p => s.putPieces l (off + p.1) p.2) s
  (x.undef.filter fun r => r.1 < n).foldl (fun s r => (List.range (min r.2 (n - r.1))).foldl (fun s i =>
    ((dropPieces l (off + r.1 + i)).head?).elim s fun k => s.wildMem k.1 1) s) put

/-- Images written one after another. -/
def State.putImages (s : State) (l : List (Nat × Nat)) : Nat → List Image → State
  | _, [] => s
  | off, x :: r => (s.putImage l off x).putImages l (off + x.size) r

/-- The offsets of images that stand one after another. -/
def imageOffsets : Nat → List Image → List Nat
  | _, [] => []
  | off, x :: r => off :: imageOffsets (off + x.size) r

/-- Bit `i` for each gang of a workgroup that a test holds of. -/
def gangBits (gs : List Gang) (p : Gang → Bool) : Nat := (gs.map fun g => if p g then 2 ^ g.idx else 0).sum

/-- 10 R281, R290, R298: the number that a header gives a kind of operation. -/
def EKind.code : EKind → Nat
  | .gcp => 0 | .gst => 1 | .gpl => 2 | .mma => 3 | .drain => 4

/-- 15 R389: the fixed part of a workgroup's header; the images have offsets from the header. The table gives the fields of each of its rows and no place in
the row: they stand there in its order, in words of four bytes where it gives no width; what a workgroup has none of is undefined (notes/assumptions/37.md). -/
def State.headerParts (s : State) (w : Wg) (images : List (Nat × Image)) (opAt : List Nat) : List (Nat × List Byte) :=
  let l := s.launchOf w.uid
  let n := s.nodeOf w.uid
  let gs := s.gangs.filter fun g => g.wg == w.uid
  let kick := match n.kick.bind fun k => s.kicks.find? fun x => x.uid == k with
    | some k => packLE [(k.slot, 4), (n.idx, 4)]
    | none => []
  let op (x : EOp × Nat) : Nat × List Byte :=
    (0x200 + 32 * x.2, packLE [(x.1.kind.code, 4), (if x.1.kind == .mma || x.1.kind == .drain then 1 else 0, 4), (x.1.lathe, 4), (x.1.progress, 4),
      ((opAt[x.2]?).getD 0, 4)])
  let traps := (((s.handlerGangs w.uid).flatMap fun g => (List.range 9).map fun i => ((g.frame.csr (0x100 + i)).toNat, 4)).take 128)
  let held := (w.sb.filter fun e => e.held).flatMap fun e =>
    [(e.va.toNat, 8), (e.bytes.length, 4), (ofBytesLE e.bytes, 16), (e.pc.toNat, 8), (e.word, 12), ((s.gang w.uid e.gang).stage, 4), (e.tnum, 4)]
  [(0x000, packLE [(l.text, 8), (w.x, 4), (w.y, 4), (w.z, 4), ((s.cluster w.cluster).clid, 4), (w.rank, 4), (w.num, 4)]), (0x020, kick),
   (0x040, packLE [(l.det.toNat + 2 * l.shadow.toNat + 4 * l.idem.toNat, 4), (w.committed.toNat, 4), (gangBits gs (·.handler), 24),
     (gangBits gs fun g => !g.pend.isEmpty, 24)]),
   (0x080, w.g.flatMap fun x => toBytesLE x.toNat 4)] ++
  (s.savedOps w.uid).zipIdx.map op ++
  [(0x600, (packLE (traps ++ held)).take 512), (0x800, (packLE (images.flatMap fun x => [(x.1, 4), (x.2.size, 4)])).take 2048)]

/-- 15 R389, R345: a workgroup's header and images written to its part of the save area. The images follow the header in an order that the spec leaves to the
image directory; what nothing writes is undefined (notes/assumptions/37.md). -/
def State.writeHeader (s : State) (w : Wg) (area : Nat) : State :=
  let n := s.headerBytes w
  match s.saveKeys (s.partOf w.uid) area n with
  | none => s
  | some l =>
    let known := (s.saveImages w).zipIdx.filter fun x => x.1.size != 0
    let order := s.freeOrder 30 (fun x => x.2) known
    let placed := (imageOffsets 4096 (order.map fun x => x.1)).zip order
    let first := (s.saveImages w).length - (s.savedOps w.uid).length
    let opAt := (List.range (s.savedOps w.uid).length).map fun i =>
      ((placed.find? fun x => x.2.2 == first + i).map fun x => x.1).getD 0
    let directory := sortBy (fun x => x.2.2) placed
    let s1 := (l.foldl (fun s k => (s.recall k.1 k.2).wildMem k.1 k.2) (s.headTouch (s.partOf w.uid) ((s.part (s.partOf w.uid)).saveBase + area) n)).putImages l 4096 (order.map fun x => x.1)
    let s2 := (s.headerParts w (directory.map fun x => (x.1, x.2.1)) opAt).foldl (fun s x => s.putPieces l x.1 x.2) s1
    { s2 with saves := l.map (fun k => { wg := w.uid, key := k.1, len := k.2 }) ++ s2.saves }

/-- 01 R43, 04 R115: what a partition's threads on a die have stored to peers reaches its home, and the copies of other dies. -/
def State.rdcLeave (s : State) (die p : Nat) : State :=
  let out := s.rdc.filter fun l => l.die == die && l.part == p && !l.dirty.isEmpty
  let s1 := s.rdcWriteBack fun l => l.die == die && l.part == p
  let take (m : RdcLine) : RdcLine :=
    match out.find? fun l => m.die != die && m.part == p && l.line == m.line with
    | none => m
    | some l => { m with bytes := m.bytes.zipIdx.map fun x => if l.dirty.contains x.2 && !m.dirty.contains x.2 then (l.bytes[x.2]?).getD x.1 else x.1 }
  if out.isEmpty then s1 else { s1 with rdc := s1.rdc.map take }

/-- 14 R371, 15 R390: one workgroup saved: its engines stop at a boundary, its store buffer drains, uniform writes become visible, latches go, and its header
is written. -/
def State.saveWg (s : State) (w : Nat) (area : Nat) : State :=
  let core := (s.wg w).core
  let s1 := (s.commit w).rdcLeave (core / 16) (s.partOf w)
  let s2 := ((s1.gangs.filter fun g => g.wg == w).map (·.idx)).foldl (fun s g => s.dropLatches w g) s1
  let stay (t : Thread) : Thread := { t with line := none, block := match t.block with
    | .iret _ => .none
    | b => b }
  let seen (u : HbItem) : Bool := match u.what with
    | .reg .. => u.wg == w
    | _ => false
  let s3 := s2.writeHeader (s2.wg w) area
  let s4 := { s3 with
    threads := updWhere (fun t => t.wg == w) stay s3.threads
    eops := updWhere (fun o => o.wg == w) (fun o => { o with due := none }) s3.eops
    hb := { s3.hb with pend := s3.hb.pend.filter fun u => !seen u }
    wgs := updWhere (fun x => x.uid == w) (fun x => { x with st := .switchedOut, saveAt := some area, idle := none, qualifies := none }) s3.wgs }
  (List.range 4).foldl (fun s i => (s.latheGo core i).latheRest core i) s4

/-- 14 R370, R371: a cluster switched out; of one that yields, what it makes room for. One that leaves a held core returns to none (14 R374). -/
def State.switchOut (s : State) (c : Cluster) (areas : List Nat) (gave : Option (Queued × Nat) := none) : State :=
  let s1 := ((s.clusterWgs c.uid).zip areas).foldl (fun s x => s.saveWg x.1.uid x.2) s
  let s2 := s1.updCluster c.uid fun x => { x with st := .switchedOut, front := s1.uid, waitFrom := s1.headClk, gave := gave, away := s.onHeld c }
  { s2 with uid := s2.uid + 1 }.coresFreed (s.clusterPart c)

/-- 14 R370, R371, R374: `CLUSTER_SWITCH_OUT`. -/
def execClusterSwitchOut (cluster : Nat) (s : State) : Outcome State Fault Refusal :=
  .next (
    let c := s.cluster cluster
    match s.saveAreas c with
    | some areas => 
      if s.canLeave c && (s.vacates c || s.yields c) then
        s.switchOut c areas (if s.vacates c then none else (s.yieldsTo (s.clusterPart c)).map s.turnOf)
      else s
    | none => s)

/-- 14 R366: headstock clocks after which a waiting cluster moves up. -/
def agingClocks : Nat := 2 ^ 22

/-- 14 R366: `AGING_PROMOTION`: of a cluster with a record, or of the undispatched clusters of a node, which all entered the queue together. -/
def execAgingPromotion (q : Queued) (s : State) : Outcome State Fault Refusal :=
  .next (match q with
    | .cluster u =>
      let c := s.cluster u
      if c.uid == u && (c.st == .queued || c.st == .switchedOut) && c.level < 3 && c.waitFrom + agingClocks ≤ s.headClk then
        s.updCluster u fun x => { x with level := x.level + 1, waitFrom := s.headClk }
      else s
    | .node u =>
      let n := s.node u
      if n.uid == u && n.eligible && n.next < n.launch.clusters && n.level < 3 && n.waitFrom + agingClocks ≤ s.headClk then
        s.updNode u fun x => { x with level := x.level + 1, waitFrom := s.headClk }
      else s)

/-! ### Retirement (01 R38, R42, R45; 14 R363, R364, R372) -/

/-- 01 R38, 15 R387: whether a Draining workgroup has nothing left of its own: no store, no engine operation, no spindle operation that reads its local
store, no armed send that has not completed, no trap to be delivered. -/
def State.spent (s : State) (w : Wg) : Bool :=
  w.st == .draining && w.sb.isEmpty && s.engineLoad w.uid == 0 &&
  !(s.sends.any fun x => x.by_.wg == w.uid && (x.armed.isSome || (!x.read && (!x.send.glb || x.send.rden)))) &&
  !(s.contribs.any fun x => x.by_.wg == w.uid && !x.sent && (!x.glb || x.rden)) &&
  !(s.parts.any fun q => q.armed.any fun a => a.by_.wg == w.uid) &&
  s.gangs.all fun g => g.wg != w.uid || (g.pend.isEmpty && g.reinject.isEmpty && !g.handler)

/-- 01 R38: whether the workgroups of a cluster are all Draining or Retired. -/
def State.allDrain (s : State) (c : Cluster) : Bool := (s.clusterWgs c.uid).all fun w => w.st == .draining || w.st == .retired

/-- 01 R45: whether every earlier cluster of a deterministic launch has retired. -/
def State.retireTurn (s : State) (c : Cluster) : Bool :=
  !(s.node c.node).launch.det || (s.earlier c).all fun d => d.st == .retired || d.st == .ended

/-- 14 R364, 10 R311, 13 R350: a node whose last cluster has retired: a child arrives at its join object and goes; nodes that waited become eligible,
`BOUND` follows, and a kick whose nodes are over ends. DESIGN CHOICE: a join object whose granule has been taken from the partition (13 R344) gets no arrival
(notes/assumptions/57.md). -/
def State.nodeRetired (s : State) (n : Node) : State :=
  if n.done != n.launch.clusters then (if n.failed then (s.updateBound n.part).endKicks else s)
  else if n.kick.isSome then (s.wakeNodes.settleNode.updateBound n.part).endKicks
  else
    let s1 := match n.join with
      | some j => (if s.objOwned n.part (.glb j) then s.arrive (.glb j) 1 0 (.unit, (n.gave ++ n.pubs).eraseDups) else s).settleNode
      | none => s.settleNode
    { s1 with nodes := s1.nodes.filter (fun x => x.uid != n.uid), clusters := s1.clusters.filter fun c => c.node != n.uid }.updateBound n.part

/-- 01 R37, R38: a cluster whose workgroups have all retired. -/
def State.clusterRetired (s : State) (c : Cluster) : State :=
  let s1 := ((s.dropCluster c.uid).updCluster c.uid fun x => { x with st := .retired }).updNode c.node fun n => { n with done := n.done + 1 }
  (s1.nodeRetired (s1.node c.node)).coresFreed (s.clusterPart c)

/-- 01 R38: `WORKGROUP_RETIRE`. The end of a workgroup is a commit point (04 R125). -/
def execWorkgroupRetire (wg : Nat) (s : State) : Outcome State Fault Refusal :=
  .next (
    if !(s.wgs.any fun w => w.uid == wg && w.st == .draining) then s
    else
      let s := s.commit wg
      let c := s.cluster (s.wg wg).cluster
      if s.spent (s.wg wg) && s.allDrain c && s.retireTurn c then
        let s1 := s.updWg wg fun x => { x with st := .retired }
        if (s1.clusterWgs c.uid).all fun w => w.st == .retired then s1.clusterRetired c else s1
      else s)

/-- 14 R372: `DETERMINISTIC_EARLY_FREE`: a Draining cluster that only waits its turn frees its cores and local stores. -/
def execDeterministicEarlyFree (cluster : Nat) (s : State) : Outcome State Fault Refusal :=
  .next (
    let c := s.cluster cluster
    let ws := s.clusterWgs c.uid
    if c.st == .resident && (s.node c.node).launch.det && !ws.isEmpty && ws.all s.spent && !s.retireTurn c then
      let s1 := { s with wgs := updWhere (fun w => w.cluster == c.uid) (fun w => { w with ls := [], poison := [], tiles := [] }) s.wgs }
      (s1.updCluster cluster fun x => { x with st := .freed }).coresFreed (s.clusterPart c)
    else s)

/-! ### `VACATE` (14 R373, R374) -/

/-- The cores of a quad mask, whole quads first, from the highest down. -/
def coresDown (mask : Nat) : List Nat :=
  ((List.range 16).reverse.filter fun i => bitAt mask i).flatMap fun i => (List.range 4).reverse.map fun j => 4 * i + j

/-- 14 R374: the cores that a request holds: those held before first. -/
def holdCores (old : List Nat) (mask n : Nat) : List Nat :=
  (old ++ (coresDown mask).filter fun c => !old.contains c).take n

/-- 14 R374: a write of `VACATE`. A switch-out for yield is one step of the model; whether the write still meets it, so that the cluster keeps off held cores (R376), is not the
program's to know (notes/assumptions/68.md). -/
def State.vacateWrite (s : State) (p v : Nat) : State :=
  let n := bits v 6 0
  let met (c : Cluster) : Bool := s.clusterPart c == p && c.st == .switchedOut && c.gave.isSome && (s.free [42, c.uid]).getLsbD 0
  let s1 := { s with clusters := updWhere met (fun c => { c with away := true }) s.clusters }
  (s1.updPart p fun q =>
    { q with vlevel := bits v 9 8, ncore := n, heldCores := holdCores q.heldCores q.qact n, vdone := false }).coresFreed p

/-- 14 R355: `VACATE` is written by a function with `ADMIN`. -/
def State.vacateBy (s : State) (vf v : Nat) : State :=
  match s.vfPart vf with
  | some (p, true) => s.vacateWrite p v
  | _ => s

/-- 14 R355, R374: `VACATE`. -/
def execVacate (vf : Nat) (value : BitVec 32) (s : State) : Outcome State Fault Refusal := .next (s.vacateBy vf value.toNat)

end Sys2Proof.Machine
end

