-- ==== Sys2Proof/Machine/Partition.lean ====
section
/-! DEFINITION. The operator's and the partition software's registers (spec/13 R339 to R347, R350, R351; spec/16 R402, R403, R409, R412, R420), what
peers ask of this package (spec/16 R416, R417), and the applying of buffered stores and dirty lines (spec/04 R125, spec/03 R97). -/

namespace Sys2Proof.Machine

open Host (Outcome)

/-! ### Partition commands -/

/-- 13 R341: a write of `PCMD`: discarded while a command is in progress, and reported as that one's result; else the command of a partition. -/
def State.pcmd (s : State) (part cmd : Nat) (k : State → State) : State :=
  if !s.hostOpen then s
  else if s.pcmdBusy then { s with pcmdLost := true }
  else
    let s1 := { s with pcmdBusy := true, pcmdPart := part % 16, pcmdCmd := cmd }
    if 12 ≤ part % 16 then s1.pcmdEnd 3 else k s1

/-- The quads of every partition but one. -/
def State.otherQuads (s : State) (p : Nat) : Nat := ((s.parts.filter fun q => q.idx != p).map (·.qact)).foldl (· ||| ·) 0

/-- Save units granted to every partition but one. -/
def State.otherUnits (s : State) (p : Nat) : Nat := ((s.parts.filter fun q => q.idx != p).map (·.saveu)).sum

/-- 17 R443: whether the quads of a mask are on dies whose quads are ready. -/
def State.quadsReady (s : State) (mask : Nat) : Bool := (List.range 16).all fun i => !bitAt mask i || s.ready.contains (11 + i / 4)

/-- 16 R403, R410: a partition's translations leave every cache. -/
def State.dropTlb (s : State) (p : Nat) : State := { s with tlb := s.tlb.filter fun e => e.part != p }

/-- 13 R339, R342, R345, R348: a partition as `CREATE` leaves it. -/
def Part.created (q : Part) : Part :=
  { Part.blank q.idx with
    st := .stopped, qmask := q.qmask, saveuReq := q.saveuReq, qact := q.qmask, saveu := q.saveuReq, keygen := q.keygen + 1
    meas := List.replicate 64 0, prog := freshProg }

/-- 13 R339, 17 R443: `CREATE` of a partition. -/
def State.createPart (s : State) (part : Nat) : State :=
  let q := s.part part
  if q.st != .unconfigured then s.pcmdEnd 2
  else if q.qmask &&& s.otherQuads part != 0 || Config.saveUnits < s.otherUnits part + q.saveuReq then s.pcmdEnd 3
  else if !s.quadsReady q.qmask then s.pcmdEnd 4
  else ({ s.updPart part Part.created with grants := s.grants ++ [part] }.dropTlb part).pcmdEnd 0

/-- 13 R339, R341: `CREATE`. -/
def execPcmdCreate (part : Nat) (s : State) : Outcome State Fault Refusal := .next (s.pcmd part 1 fun s => s.createPart part)

/-- 13 R339, R340, 17 R443: `START` of a partition: kept work is dispatched again. -/
def State.startPart (s : State) (part : Nat) : State :=
  let q := s.part part
  if q.st != .stopped then s.pcmdEnd 2
  else if q.qact == 0 then s.pcmdEnd 3
  else if !s.ready.contains 2 then s.pcmdEnd 4
  else (s.updPart part fun q => { q with st := .running }).pcmdEnd 0

/-- 13 R339, R341: `START`. -/
def execPcmdStart (part : Nat) (s : State) : Outcome State Fault Refusal := .next (s.pcmd part 2 fun s => s.startPart part)

/-- 13 R339: `STOP` of a partition: `BUSY` stays set until every workgroup is off its core. -/
def State.stopPart (s : State) (part : Nat) : State :=
  if (s.part part).st != .running then s.pcmdEnd 2 else s.updPart part fun q => { q with st := .stopping }

/-- 13 R339, R341: `STOP`. -/
def execPcmdStop (part : Nat) (s : State) : Outcome State Fault Refusal := .next (s.pcmd part 3 fun s => s.stopPart part)

/-- 13 R339, 16 R410: `STOP_COMPLETE`: no workgroup of a Stopping partition is on a core. -/
def execStopComplete (part : Nat) (s : State) : Outcome State Fault Refusal :=
  .next (
    let on (w : Wg) : Bool := s.partOf w.uid == part && (w.st == .resident || w.st == .draining) && (s.cluster w.cluster).st == .resident
    if (s.part part).st == .stopping && !(s.wgs.any on) then
      let s1 := (s.updPart part fun q => { q with st := .stopped }).dropTlb part
      if s1.pcmdBusy && s1.pcmdCmd == 3 && s1.pcmdPart == part then s1.pcmdEnd 0 else s1
    else s)

/-- 13 R347 steps 1 and 2: every record of a partition's work, its sends and its contributions. -/
def State.dropWork (s : State) (p : Nat) : State :=
  let ns := (s.nodes.filter fun n => n.part == p).map (·.uid)
  let cs := (s.clusters.filter fun c => ns.contains c.node).map (·.uid)
  let ws := (s.wgs.filter fun w => cs.contains w.cluster).map (·.uid)
  { s with
    kicks := s.kicks.filter fun k => k.part != p
    nodes := s.nodes.filter fun n => n.part != p
    clusters := s.clusters.filter fun c => !ns.contains c.node
    wgs := s.wgs.filter fun w => !cs.contains w.cluster
    gangs := s.gangs.filter fun g => !ws.contains g.wg
    threads := s.threads.filter fun t => !ws.contains t.wg
    eops := s.eops.filter fun o => !ws.contains o.wg
    io := s.io.filter fun r => !ws.contains r.issue.wg
    shoots := s.shoots.filter fun r => r.part != p
    sends := s.sends.filter fun x => x.part != p
    contribs := s.contribs.filter fun c => c.part != p
    seals := s.seals.filter fun j => j.part != p
    gloads := s.gloads.filter fun x => x.part != p
    saves := s.saves.filter fun x => !ws.contains x.wg
    hb := s.hb.without ws }

/-- The granules of a partition. -/
def State.granules (s : State) (p : Nat) : List Nat := (List.range 768).filter fun g => s.gmapOf g == p

/-- 13 R344: a granule goes to scrubbing; a region that covers it is dropped with its units (17 R425). `who` says what it becomes: a
partition, 0xF, or 0x10 + p for a granule that the reset of p frees. -/
def State.scrubGranule (s : State) (p who g : Nat) : State :=
  let lo := 2 ^ 30 * g
  let covers (k : Keep) : Bool := k.ranges.any fun r => overlap r.1 r.2 lo (2 ^ 30)
  let s1 := { s with gmap := Machine.store s.gmap g 0xD, scrub := Machine.store s.scrub g who }
  s1.updPart p fun q =>
    let gone := q.keeps.filter covers
    { q with keeps := q.keeps.filter (fun k => !covers k), kused := q.kused - (gone.map fun (k : Keep) => if k.must then (k.len + 65535) / 65536 else 0).sum }

/-- 13 R347, 16 R403, R417, 17 R432: the steps of a `RESET` in order, down to the scrub. What its reductions have not delivered goes with them, and no line
stays cached for the partition (R346). DESIGN CHOICE: binding notices of other devices that are held under 12 R324 stay; the rule names held contributions
(notes/assumptions/64.md). -/
def State.resetPart (s : State) (p : Nat) : State :=
  let q := s.part p
  let tag := q.hutag
  let s1 := (s.dropWork p).rdcWriteBack fun l => l.part == p
  let s2 := q.handles.foldl (fun s h => s.unbind p h.idx) s1
  let mine (w : Nat) : Bool := s.gmapOf (8 * w / 2 ^ 30) == p
  let s3 := { s2 with
    reds := s2.reds.filter fun r => r.part != p
    results := s2.results.filter fun x => x.msg.part != p
    landing := s2.landing.filter fun x => x.msg.part != p
    rdc := s2.rdc.filter fun l => l.part != p
    hot := s2.hot.filter fun w => !mine w
    store := s2.store.filter fun r => r.tag != tag
    grants := s2.grants.filter fun g => g != p }
  let s4 := (s3.granules p).foldl (fun s g => s.scrubGranule p (16 + p) g) s3
  (s4.updPart p fun q =>
    { Part.blank p with st := .resetting, qmask := q.qmask, saveuReq := q.saveuReq, qact := q.qact, keygen := q.keygen }).dropTlb p

/-- 13 R339, R347: `RESET` of a partition. -/
def State.resetCmd (s : State) (part : Nat) : State := if (s.part part).st != .stopped then s.pcmdEnd 2 else s.resetPart part

/-- 13 R339, R347: `RESET`. -/
def execPcmdReset (part : Nat) (s : State) : Outcome State Fault Refusal :=
  .next (s.pcmd part 4 fun s => s.resetCmd part)

/-- 13 R339, R347: `RESET_COMPLETE`: every granule of the partition has been scrubbed. -/
def execResetComplete (part : Nat) (s : State) : Outcome State Fault Refusal :=
  .next (
    if (s.part part).st == .resetting && !(s.scrub.any fun x => x.2 == 16 + part) then
      let s1 := s.updPart part fun q => { q with st := .unconfigured, qact := 0 }
      if s1.pcmdBusy && s1.pcmdCmd == 4 && s1.pcmdPart == part then s1.pcmdEnd 0 else s1
    else s)

/-- 13 R339, 14 R375, 17 R443: `RESIZE` of a partition: removed quads are vacated first. -/
def State.resizePart (s : State) (part : Nat) : State :=
  let q := s.part part
  if q.st != .running && q.st != .stopped then s.pcmdEnd 2
  else if q.qmask &&& s.otherQuads part != 0 || (q.st == .running && q.qmask == 0) then s.pcmdEnd 3
  else if !s.quadsReady q.qmask then s.pcmdEnd 4
  else (s.updPart part fun q => { q with resizeTo := some q.qmask }).coresFreed part

/-- 13 R339, R341: `RESIZE`. -/
def execPcmdResize (part : Nat) (s : State) : Outcome State Fault Refusal := .next (s.pcmd part 5 fun s => s.resizePart part)

/-- 13 R341: a command of `PCMD`; a number that names none has result 3. -/
def State.command (s : State) (part : Nat) : Nat → State
  | 1 => s.createPart part
  | 2 => s.startPart part
  | 3 => s.stopPart part
  | 4 => s.resetCmd part
  | 5 => s.resizePart part
  | _ => s.pcmdEnd 3

/-! ### Granules (13 R344) -/

/-- 17 R443: whether the stacks of a granule's die are ready. -/
def State.hbmReady (s : State) (g : Nat) : Bool := s.ready.contains (3 + g / 192)

/-- 13 R344, 17 R443: a write of a `GMAP` entry: a free granule is given to a partition, or a partition's is freed; every other write is discarded. -/
def State.gmapWrite (s : State) (granule value : Nat) : State :=
  let old := s.gmapOf granule
  let st (p : Nat) : PState := (s.part p).st
  if !s.hostOpen || 768 ≤ granule || !s.hbmReady granule then s
  else if old == 0xF && value < 12 && (st value == .stopped || st value == .running) then s.scrubGranule value value granule
  else if old < 12 && value == 0xF && (st old == .stopped || st old == .unconfigured) then s.scrubGranule old 0xF granule
  else s

/-- 13 R344: `GMAP_WRITE`. -/
def execGmapWrite (granule value : Nat) (s : State) : Outcome State Fault Refusal := .next (s.gmapWrite granule value)

/-- 13 R344: `GRANULE_SCRUB_DONE`: zeros have been written over a granule, and it shows its owner, or free. DESIGN CHOICE: one that was being scrubbed for a
partition when that was reset shows the partition, which is Unconfigured (notes/assumptions/64.md). -/
def execGranuleScrubDone (granule : Nat) (s : State) : Outcome State Fault Refusal :=
  .next (match s.scrub.find? fun x => x.1 == granule with
    | none => s
    | some (_, who) =>
      let lo := 2 ^ 30 * granule
      let out (a : Nat) : Bool := a < lo || lo + 2 ^ 30 ≤ a
      { s with
        mem := s.mem.filter fun c => out c.1
        wild := cutRange s.wild lo (2 ^ 30)
        saves := spoilSaves s.saves lo (2 ^ 30)
        poison := s.poison.filter fun w => out (8 * w)
        hot := s.hot.filter fun w => out (8 * w)
        scrub := s.scrub.filter fun x => x.1 != granule
        gmap := Machine.store s.gmap granule (if 16 ≤ who then 0xF else who) })

/-! ### Registers -/

/-- 13 R351: a write of a partition CSR through a function with `ADMIN`; the trap CSRs of a gang ignore it. -/
def State.vfCsr (s : State) (vf n : Nat) (x : Word) : State :=
  match s.vfPart vf with
  | some (p, true) => if 0x2FF < n || (0x100 ≤ n && n ≤ 0x108) then s else s.csrWrite p n .write x
  | _ => s

/-- 14 R355, R365: a write of `GSTAT`: a one clears `ERRV`. -/
def State.gstatWrite (s : State) (vf i : Nat) (x : Word) : State :=
  match s.vfPart vf with
  | some (p, true) => if x.getLsbD 16 then s.updSlot p i fun y => { y with errv := false } else s
  | _ => s

/-- Some bytes of a number replaced, from a byte offset on. -/
def patchNum (old off size x : Nat) : Nat :=
  old % 2 ^ (8 * off) + 2 ^ (8 * off) * (x % 2 ^ (8 * size)) + old / 2 ^ (8 * (off + size)) * 2 ^ (8 * (off + size))

/-- 13 R342: what `PCFG` of a partition reads as. -/
def Part.cfgWord (q : Part) : Nat := q.qmask % 2 ^ 16 + 2 ^ 16 * (q.qact % 2 ^ 16) + 2 ^ 32 * (q.saveuReq % 2 ^ 14) + 2 ^ 62 * q.st.code

/-- 16 R420: the entry of a device in `EPMAP`. -/
def State.epmapWord (s : State) (d : Nat) : Nat := (lookupD s.epmap d 0).toNat

/-- 13 R341 to R344, 16 R420: a write of the operator's registers: `PCMD`, `PCFG`, `GMAP`, `VFMAP` and `EPMAP`. A write of part of a 16-byte entry leaves its
other bytes. -/
def State.pfWrite (s : State) (off size x : Nat) : State :=
  if off == 0 && size == 4 then s.pcmd (bits x 11 8) (bits x 3 0) fun s => s.command (bits x 11 8) (bits x 3 0)
  else if 0x100 ≤ off && off < 0x100 + 16 * 12 && off % 16 + size ≤ 16 then
    s.updPart ((off - 0x100) / 16) fun q =>
      let y := patchNum q.cfgWord (off % 16) size x
      { q with qmask := bits y 15 0, saveuReq := bits y 45 32 }
  else if 0x400 ≤ off && off + size ≤ 0x400 + 384 && size ≤ 16 then
    (List.range size).foldl (fun s i =>
      let g := 2 * (off - 0x400 + i)
      (s.gmapWrite g (bits x (8 * i + 3) (8 * i))).gmapWrite (g + 1) (bits x (8 * i + 7) (8 * i + 4))) s
  else if 0x1000 ≤ off && off < 0x1000 + 4 * 512 && off % 4 == 0 && size == 4 then
    (if 12 ≤ bits x 3 0 then s
     else
       let v : Vf := { idx := (off - 0x1000) / 4, valid := bitAt x 31, admin := bitAt x 30, part := bits x 3 0 }
       { s with vfmap := v :: s.vfmap.filter fun y => y.idx != v.idx })
  else if 0x4000 ≤ off && off < 0x4000 + 16 * 1024 && off % 16 + size ≤ 16 then
    let d := (off - 0x4000) / 16
    { s with epmap := Machine.store s.epmap d (BitVec.ofNat 128 (patchNum (s.epmapWord d) (off % 16) size x)) }
  else s

/-- 14 R355: a write of the kick page. -/
def State.pageWrite (s : State) (vf off size x : Nat) : State :=
  if off == 0x000 && size == 8 then s.kickBy vf (x % 2 ^ 64)
  else if off == 0x008 && size == 8 then s.gloadBy vf (x % 2 ^ 64)
  else if off == 0x010 && size == 4 then s.vacateBy vf (x % 2 ^ 32)
  else if 0x40 ≤ off && off < 0x80 && off % 4 == 0 && size == 4 then s.gstatWrite vf ((off - 0x40) / 4) (BitVec.ofNat 32 x)
  else s

/-- 13 R341 to R344, R351, 14 R355, 16 R402, R420: `REGISTER_WRITE`. A request of another size completes as Unsupported Request, with no effect. -/
def execRegisterWrite (w : RegWrite) (s : State) : Outcome State Fault Refusal :=
  .next (
    if !s.hostOpen then s
    else match w.vf with
      | none => if w.bar == 0 then s.pfWrite w.off w.size w.value.toNat else s
      | some v =>
        if w.bar == 0 && 0x1000 ≤ w.off && w.off % 4 == 0 && w.size == 4 then s.vfCsr v ((w.off - 0x1000) / 4) (w.value.truncate 32)
        else if w.bar == 2 then s.pageWrite v w.off w.size w.value.toNat
        else s)

/-! ### Reads of registers -/

/-- 13 R341: what `PCMD` reads as. -/
def State.pcmdWord (s : State) : Nat :=
  s.pcmdBusy.toNat * 2 ^ 31 + s.pcmdResult % 8 * 2 ^ 28 + s.pcmdPart % 16 * 2 ^ 8 + s.pcmdCmd % 16

/-- 17 R443: what `READY` reads as. -/
def State.readyWord (s : State) : Nat :=
  ((List.range 17).map fun i => if s.ready.contains i then 2 ^ i else 0).sum + (if (List.range 17).all fun i => s.ready.contains i then 2 ^ 31 else 0)

/-- 13 R343: what a `VFMAP` entry reads as. -/
def State.vfWord (s : State) (v : Nat) : Nat :=
  match s.vfmap.find? fun x => x.idx == v with
  | some x => x.valid.toNat * 2 ^ 31 + x.admin.toNat * 2 ^ 30 + x.part % 16
  | none => 0

/-- 13 R341 to R344, 16 R420, 17 R443: a byte of the operator's registers; an offset that the spec gives none is none. -/
def State.pfByte (s : State) (off : Nat) : Option Byte :=
  let part (x i : Nat) : Option Byte := some (BitVec.ofNat 8 (x / 2 ^ (8 * i)))
  if off < 4 then part s.pcmdWord off
  else if 0x10 ≤ off && off < 0x14 then part s.readyWord (off - 0x10)
  else if 0x100 ≤ off && off < 0x100 + 16 * 12 then part (s.part ((off - 0x100) / 16)).cfgWord (off % 16)
  else if 0x400 ≤ off && off < 0x400 + 384 then
    some (BitVec.ofNat 8 (s.gmapOf (2 * (off - 0x400)) + 16 * s.gmapOf (2 * (off - 0x400) + 1)))
  else if 0x1000 ≤ off && off < 0x1000 + 4 * 512 then part (s.vfWord ((off - 0x1000) / 4)) (off % 4)
  else if 0x4000 ≤ off && off < 0x4000 + 16 * 1024 then part (s.epmapWord ((off - 0x4000) / 16)) (off % 16)
  else none

/-- What the operator reads; bytes to which the spec gives no register are free. -/
def State.pfRead (s : State) (off size : Nat) : Nat :=
  ofBytesLE ((List.range size).map fun i => (s.pfByte (off + i)).getD ((s.free [31, off + i]).truncate 8))

/-- 13 R343, R351: what a virtual function reads at its BAR0: all ones where it is bound to no partition; the partition's CSRs, of which the trap CSRs and the
unassigned numbers read as zero. -/
def State.vfRead (s : State) (vf off size : Nat) : Option Nat :=
  match s.vfPart vf with
  | none => some (2 ^ (8 * size) - 1)
  | some (p, _) =>
    let n := (off - 0x1000) / 4
    if off < 0x1000 || 0x2FF < n then some ((s.free [32, off]).toNat % 2 ^ (8 * size))
    else if size != 4 || off % 4 != 0 then none
    else some (s.csrRead p n).toNat

/-- 14 R365: what `GSTAT` of a slot reads as. -/
def State.gstatWord (s : State) (p i : Nat) : Nat :=
  let x := s.slot p i
  let ks := s.slotKicks p i
  x.loaded.toNat * 2 ^ 31 + (ks.any fun k => k.running).toNat * 2 ^ 30 + (ks.filter fun k => !k.running).length % 4 * 2 ^ 28 +
  x.errv.toNat * 2 ^ 16 + x.err % 256 * 2 ^ 8 + x.errnode % 256

/-- 14 R373: what `VACATE` reads as. -/
def Part.vacateWord (q : Part) : Nat := q.vdone.toNat * 2 ^ 31 + q.vlevel % 4 * 2 ^ 8 + q.ncore % 128

/-- 14 R355: what the kick page reads as; other sizes and offsets are an Unsupported Request. -/
def State.pageRead (s : State) (vf off size : Nat) : Option Nat :=
  match s.vfPart vf with
  | none => none
  | some (p, _) =>
    if (off == 0x000 || off == 0x008) && size == 8 then some 0
    else if size != 4 || off % 4 != 0 then none
    else if off == 0x010 then some (s.part p).vacateWord
    else if 0x40 ≤ off && off < 0x80 then some (s.gstatWord p ((off - 0x40) / 4))
    else if 0x80 ≤ off && off < 0xC0 then some (s.slot p ((off - 0x80) / 4)).kdone.toNat
    else none

/-- 13 R341 to R344, R351, 14 R355, 16 R420, 17 R443: the host reads a register. During a hold-up sequence the read completes with an error (17 R427). -/
def State.registerRead (s : State) (vf : Option Nat) (bar off size : Nat) : State :=
  if !s.ready.contains 0 then s
  else
    let x := if !s.linksOpen then none else match vf with
      | none => if bar == 0 then some (s.pfRead off size) else none
      | some v => if bar == 0 then s.vfRead v off size else if bar == 2 then s.pageRead v off size else none
    { s with outbox := s.outbox ++ [Msg.registerAnswer vf bar off x] }

/-! ### CSRs of the training group and host windows -/

/-- 13 R350, R351: `TG_CSR_WRITE`. -/
def execTgCsrWrite (vf csr : Nat) (value : BitVec 32) (s : State) : Outcome State Fault Refusal :=
  .next (if 0x010 ≤ csr && csr ≤ 0x015 then s.vfCsr vf csr value else s)

/-- Whether a window's `OPEN` bit is set. -/
def State.openBit (s : State) (p i : Nat) : Bool := ((s.part p).csrWord (if i < 32 then 0x202 else 0x203)).getLsbD (i % 32)

/-- 13 R354: what a function with `ADMIN` does to its partition; another does nothing. -/
def State.byAdmin (s : State) (vf : Nat) (k : Nat → State) : State :=
  match s.vfPart vf with
  | some (p, true) => k p
  | _ => s

/-- 16 R411, R412: `HOST_WINDOW_OPEN`: a function with `ADMIN` sets an `OPEN` bit that is clear. -/
def execHostWindowOpen (vf win : Nat) (s : State) : Outcome State Fault Refusal :=
  .next (s.byAdmin vf fun p => if win < 64 && !s.openBit p win then s.openWindow p win else s)

/-- 16 R412: `HOST_WINDOW_CLOSE`: a function with `ADMIN` clears an `OPEN` bit that is set. -/
def execHostWindowClose (vf win : Nat) (s : State) : Outcome State Fault Refusal :=
  .next (s.byAdmin vf fun p => if win < 64 && s.openBit p win then s.closeWindow p win else s)

/-! ### The memory aperture (16 R409) -/

/-- 16 R409: the physical address that a request at the aperture reaches, if it is accepted. -/
def State.aperture (s : State) (p off n : Nat) (admin : Bool) : Option Nat :=
  let g := ((s.part p).csrWord 0x207).toNat % 2 ^ 10
  if admin && s.owns p g && 1 ≤ n && off % 128 + n ≤ 128 && off + n ≤ 2 ^ 30 then some (2 ^ 30 * g + off) else none

/-- 16 R402, R409: `APERR` set. -/
def State.apErr (s : State) (p : Nat) : State := s.updPart p fun q => q.setCsr 0x206 (q.csrWord 0x206 ||| 2)

/-- 16 R409: `APERTURE_WRITE`. -/
def execApertureWrite (vf off : Nat) (bytes : List (BitVec 8)) (s : State) : Outcome State Fault Refusal :=
  .next (match s.vfPart vf with
    | none => s
    | some (p, admin) => match s.aperture p off bytes.length admin with
      | some a => s.outerWrite .host a bytes
      | none => s.apErr p)

/-- 16 R409: `APERTURE_READ`. -/
def execApertureRead (vf off len : Nat) (s : State) : Outcome State Fault Refusal :=
  .next (match s.vfPart vf with
    | none => { s with outbox := s.outbox ++ [Msg.apertureAnswer vf none] }
    | some (p, admin) => match s.aperture p off len admin with
      | some a =>
        let s1 := s.recall a len
        { s1 with outbox := s1.outbox ++ [Msg.apertureAnswer vf (some ((List.range len).map fun i => s1.homeByte (a + i)))] }
      | none => { s.apErr p with outbox := s.outbox ++ [Msg.apertureAnswer vf none] })

/-! ### Requests of peers (16 R416, R417) -/

/-- 17 R427, R442: whether the UALink ports take requests. -/
def State.fabricOpen (s : State) : Bool := s.ready.contains 15 && s.linksOpen

/-- 16 R416: whether a request of a peer passes its checks. -/
def State.fabricOk (s : State) (p a n : Nat) : Bool :=
  let q := s.part p
  s.fabricOpen && (q.st == .running || q.st == .stopped) && s.ownsRange p a n

/-- 16 R416: `FABRIC_REQUEST`: a peer's read, or its write when it brings bytes. -/
def execFabricRequest (req : FabricReq) (s : State) : Outcome State Fault Refusal :=
  .next (
    let n := if req.bytes.isEmpty then req.len else req.bytes.length
    let answer (s : State) (ok : Bool) (bs : List Byte) : State := { s with outbox := s.outbox ++ [Msg.fabricAnswer req.dev ok bs] }
    if !s.fabricOk req.part req.pa n then answer s false []
    else if req.bytes.isEmpty then
      let s1 := s.recall req.pa n
      answer s1 true ((List.range n).map fun i => s1.homeByte (req.pa + i))
    else answer (s.outerWrite .peer req.pa req.bytes) true [])

/-- 16 R417: hot words that the ingress atomic unit keeps, the last used first. -/
def maxHot : Nat := 4096

/-- 16 R417: a word taken or used by the ingress atomic unit; the least recently used goes. -/
def State.useHot (s : State) (w : Nat) : State := { s with hot := (w :: s.hot.filter fun x => x != w).take maxHot }

/-- 04 R120, R121, R128: the write of a peer's atomic: it continues the release chains of its bytes. -/
def State.peerRmw (s : State) (a n x : Nat) : State :=
  let (s1, item) := s.noteItem .peer .rmw
  let s2 := (s1.writeMem a (toBytesLE x n) item).spoilReads (.mem a) n s.uid
  { s2 with hb := s2.outerTags ((s2.hb.written (.mem a) n item).chain s.hb (.mem a) n) .peer (.mem a) n item }

/-- 16 R416, R417: `PEER_ATOMIC`. -/
def execPeerAtomic (req : PeerAtomicReq) (s : State) : Outcome State Fault Refusal :=
  .next (
    let n := req.ty.bits / 8
    let answer (s : State) (ok : Bool) (x : Nat) : State := { s with outbox := s.outbox ++ [Msg.atomicAnswer req.dev ok (BitVec.ofNat 64 x)] }
    if n == 0 || req.pa % n != 0 || !s.fabricOk req.part req.pa n then answer s false 0
    else
      let s1 := s.useHot (req.pa / 8)
      let old := ofBytesLE ((List.range n).map fun i => s1.homeByte (req.pa + i))
      let b := req.b.toNat % 2 ^ (8 * n)
      let c := req.c.toNat % 2 ^ (8 * n)
      answer (if req.op == .cas && old != b then s1 else s1.peerRmw req.pa n (atNew req.op req.ty old b c)) true old)

/-! ### Buffered stores and dirty lines -/

/-- Whether two entries store to a byte in common. -/
def SbEntry.meets (a b : SbEntry) : Bool := a.touches b.dest b.bytes.length

/-- 04 R125, 15 R387, R388: `STORE_BUFFER_APPLY`: in a launch not marked idempotent, the buffer of a workgroup applies an entry at any time:
not ahead of an older one to the same byte, and not after a held one. -/
def execStoreBufferApply (wg idx : Nat) (s : State) : Outcome State Fault Refusal :=
  .next (
    let sb := (s.wg wg).sb
    match sb[idx]? with
    | none => s
    | some e =>
      let older := sb.take idx
      if (s.launchOf wg).idem || e.held || older.any (fun x => x.held || x.meets e) || !s.onCore wg then s
      else if s.sbFails wg e then s.sbFault wg e else s.sbApply wg e)

/-- 03 R97, 16 R416: `RDC_LINE_EVICT`: the dirty bytes are written back and the line goes. A write-back that completes with an error raises
0x20 for the stores that the line held. -/
def execRdcLineEvict (die : Nat) (line : PartLine) (ok : Bool) (s : State) : Outcome State Fault Refusal :=
  .next (match s.rdcLine? die line.part line.line with
    | none => s
    | some l => s.rdcEvict l ok)

end Sys2Proof.Machine
end

