-- ==== Sys2Proof/Machine/Keep.lean ====
section
/-! DEFINITION. Must-save declarations and the records of the hold-up store (spec/17 R424 to R426, R430, R432). -/

namespace Sys2Proof.Machine

open Host (Outcome)

/-- 17 R425: save units of a length. -/
def unitsOf (len : Nat) : Nat := (len + 65535) / 65536

/-- 17 R425: the lowest free region number. -/
def Part.freeRegion (q : Part) : Nat := ((List.range 64).find? fun r => !(q.keeps.any fun k => k.r == r)).getD 0

/-- 17 R425: whether a declaration is turned away without a fault. -/
def Part.declines (q : Part) (must : Bool) (a len : Nat) : Bool :=
  len == 0 || len % 16 != 0 || a % 16 != 0 || 64 ≤ q.keeps.length || (must && q.saveu < q.kused + unitsOf len)

/-- 17 R425, 16 R400: the physical ranges of some pages of a declaration, or the fault of the first that has one, at its address; a page of a peer is 0x13. -/
def State.keepPages (s : State) : List (Nat × Nat) → Except (Nat × Nat) (List (Nat × Nat))
  | [] => .ok []
  | (a, n) :: r => match s.xlate (unitCore s.core) s.curPart a .read with
    | .error c => .error (c, a)
    | .ok e =>
      if isPeer (e.key a) then .error (0x13, a)
      else match s.keepPages r with
        | .error f => .error f
        | .ok l => .ok ((e.key a, n) :: l)

/-- 17 R425: the physical ranges of a declaration, or its fault. -/
def State.keepRanges (s : State) (a len : Nat) : Except (Nat × Nat) (List (Nat × Nat)) := s.keepPages (pages a len)

/-- 16 R403, R417: what the translations of a lane's declaration leave. -/
def State.keepTouch (must : Bool) (s : State) (c : Cap) : State :=
  if (s.part s.curPart).declines must c.a c.b then s else s.cacheRange (unitCore s.core) s.curPart c.a c.b

/-- What a declaration or a query gives a lane: its lane, its value, its predicate. -/
structure KeepOut where
  lane : Nat
  x : Nat
  ok : Bool
  deriving DecidableEq, Repr, Inhabited

/-- 17 R425: one lane's `.must` or `.best`: the state, what lanes got, and the faults met. -/
def State.declLane (must : Bool) (x : State × List KeepOut × List (Nat × Nat × DWord)) (c : Cap) : State × List KeepOut × List (Nat × Nat × DWord) :=
  let (s, outs, fs) := x
  let p := s.curPart
  let q := s.part p
  if q.declines must c.a c.b then (s, { lane := c.lane, x := 2 ^ 32 - 1, ok := false } :: outs, fs)
  else match s.keepRanges c.a c.b with
    | .error f => (s, outs, (c.lane, f.1, BitVec.ofNat 64 f.2) :: fs)
    | .ok l =>
      let r := q.freeRegion
      let k : Keep := { r := r, must := must, va := c.a, len := c.b, ranges := l }
      let s1 := (s.updPart p fun q => { q with keeps := q.keeps ++ [k], kused := q.kused + if must then unitsOf c.b else 0 }).cacheRange (unitCore s.core) p c.a c.b
      (s1, { lane := c.lane, x := r, ok := true } :: outs, fs)

/-- 17 R425: one lane's `.drop`. -/
def State.dropLane (x : State × List KeepOut) (c : Cap) : State × List KeepOut :=
  let (s, outs) := x
  let p := s.curPart
  match (s.part p).keeps.find? fun k => k.r == c.a with
  | none => (s, { lane := c.lane, x := 0, ok := false } :: outs)
  | some k =>
    (s.updPart p fun q => { q with keeps := q.keeps.filter (fun y => y.r != c.a), kused := q.kused - if k.must then unitsOf k.len else 0 },
     { lane := c.lane, x := 0, ok := true } :: outs)

/-- What lanes got, written to both copies of a shadow thread. -/
def State.keepTo (s : State) (o : Op) (outs : List KeepOut) : State :=
  s.updIssue fun t =>
    match outs.find? fun r => (s.copies r.lane).contains t.lane with
    | some r => (t.writeDst o 1 r.x).setPred o.d2 r.ok
    | none => t

/-- 17 R424, R425: a declaration. -/
def State.keepDecl (s : State) (o : Op) (must : Bool) : State :=
  let caps := s.captureOp { a := .n64, b := .n32 } o
  s.checked caps fun s =>
    let (s1, outs, fs) := (s.effective caps).foldl (State.declLane must) (s, [], [])
    match lowestFault fs with
    | some f => (((s.effective caps).foldl (State.keepTouch must) s)).faultLanes caps f
    | none => (s1.keepTo o outs).advance

/-- 17 R425: `keep.decl.must`. -/
def execKeepDeclMust (o : Op) (s : State) : Outcome State Fault Refusal := .next (s.keepDecl o true)
/-- 17 R425: `keep.decl.best`. -/
def execKeepDeclBest (o : Op) (s : State) : Outcome State Fault Refusal := .next (s.keepDecl o false)
/-- 17 R425: `keep.decl.drop`. -/
def execKeepDeclDrop (o : Op) (s : State) : Outcome State Fault Refusal :=
  let caps := s.captureOp { a := .n32 } o
  .next (s.checked caps fun s =>
    let (s1, outs) := (s.effective caps).foldl State.dropLane (s, [])
    (s1.keepTo o outs).advance)

/-! ### Records -/

/-- 17 R426, R428, R432: the record of a region of the context that the partition's `HUTAG` names, of the reported epoch. -/
def State.saved (s : State) (p r : Nat) : Option Saved :=
  s.store.find? fun x => x.tag == (s.part p).hutag && x.r == r && x.epoch == s.reported

/-- 17 R432: a word of a record. -/
def State.recordWord (s : State) (p r w : Nat) : Nat :=
  match s.saved p r with
  | none => 0
  | some x =>
    match w with
    | 0 => (if x.best then 4 else 0) + if x.whole then 2 else 1
    | 1 => x.len % 2 ^ 32
    | 2 => x.va % 2 ^ 32
    | 3 => x.va / 2 ^ 32 % 2 ^ 32
    | _ => 0

/-- 17 R426: `keep.qry.use`. -/
def execKeepQryUse (o : Op) (s : State) : Outcome State Fault Refusal :=
  let q := s.part s.curPart
  .next (s.alu o {} false fun _ _ _ => (q.saveu * 2 ^ 16 + q.kused, false))

/-- 17 R426: `keep.qry.rec`. -/
def execKeepQryRec (o : Op) (s : State) : Outcome State Fault Refusal :=
  .next (s.alu o { a := .n32, b := .n32 } false fun r w _ => (s.recordWord s.curPart r w, false))

/-- The region that a lane's `keep.qry.ld` loads: only a whole one. -/
def State.loadable (s : State) (c : Cap) : Option Saved :=
  match s.saved s.curPart c.a with
  | some x => if x.whole then some x else none
  | none => none

/-- 17 R426: one lane's copy, at its ordering points. -/
def State.keepLoadLane (s : State) (c : Cap) : State :=
  match s.loadable c with
  | none => s
  | some x => match s.engineKeys (unitCore s.core) s.cur.wg .write c.b x.len with
    | .ok l =>
      let known := s.knownBy c.lane
      let s1 := ((s.hbAdd s.cur.wg s.cur.gang [c.lane] .store).cacheRange (unitCore s.core) s.curPart c.b x.len).writePieces l x.body (some s.uid)
      (l.foldl (fun t k => (t.wildObjs known (.mem k.1) k.2).spoil (.mem k.1) k.2 s.uid) s1).commitWg s.cur.wg
    | .error _ => s

/-- 16 R403, R417: what the translations of a lane's copy leave. -/
def State.keepLoadTouch (s : State) (c : Cap) : State :=
  match s.loadable c with
  | none => s
  | some x => s.cacheRange (unitCore s.core) s.curPart c.b x.len

/-- 17 R426: `keep.qry.ld`: destinations checked, a commit point where a lane copies, then the copies. -/
def execKeepQryLd (o : Op) (s : State) : Outcome State Fault Refusal :=
  let caps := s.captureOp { a := .n32, b := .n64 } o
  .next (s.checked caps fun s =>
    let fs := (s.effective caps).filterMap fun c => match s.loadable c with
      | none => none
      | some x => match s.engineKeys (unitCore s.core) s.cur.wg .write c.b x.len with
        | .error f => some (c.lane, f.1, BitVec.ofNat 64 f.2)
        | .ok _ => none
    match lowestFault fs with
    | some f => ((s.effective caps).foldl State.keepLoadTouch s).faultLanes caps f
    | none =>
      let go := (s.effective caps).filter fun c => (s.loadable c).isSome
      s.releasingObj (lanesOf go) fun s =>
        let outs := (s.effective caps).map fun c => ({ lane := c.lane, x := 0, ok := (s.loadable c).isSome } : KeepOut)
        ((go.foldl State.keepLoadLane s).keepTo { o with dst := .none } outs).advance)

end Sys2Proof.Machine
end

