-- ==== Sys2Proof/Machine/Shake.lean ====
section
/-! DEFINITION. SHAKE256 of a string of bytes (FIPS 202), which spec/17 R437 and R438 name for measurements and peer lists. -/

namespace Sys2Proof

/-- The rotation offsets of the lanes, lane (x, y) at 5 y + x. -/
def keccakRot : List Nat := [0, 1, 62, 28, 27, 36, 44, 6, 55, 20, 3, 10, 43, 25, 39, 41, 45, 15, 21, 8, 18, 2, 61, 56, 14]

/-- The round constants. -/
def keccakRc : List DWord :=
  [0x0000000000000001, 0x0000000000008082, 0x800000000000808A, 0x8000000080008000, 0x000000000000808B, 0x0000000080000001,
   0x8000000080008081, 0x8000000000008009, 0x000000000000008A, 0x0000000000000088, 0x0000000080008009, 0x000000008000000A] ++
  [0x000000008000808B, 0x800000000000008B, 0x8000000000008089, 0x8000000000008003, 0x8000000000008002, 0x8000000000000080,
   0x000000000000800A, 0x800000008000000A, 0x8000000080008081, 0x8000000000008080, 0x0000000080000001, 0x8000000080008008]

/-- Lane (x, y) of a state. -/
def keccakLane (a : List DWord) (x y : Nat) : DWord := (a[5 * (y % 5) + x % 5]?).getD 0

/-- One round: theta, rho and pi, chi, iota. -/
def keccakRound (a : List DWord) (rc : DWord) : List DWord :=
  let c := (List.range 5).map fun x => (List.range 5).foldl (fun v y => v ^^^ keccakLane a x y) 0
  let at_ (l : List DWord) (x : Nat) : DWord := (l[x % 5]?).getD 0
  let d := (List.range 5).map fun x => at_ c (x + 4) ^^^ (at_ c (x + 1)).rotateLeft 1
  let t := (List.range 25).map fun i => keccakLane a (i % 5) (i / 5) ^^^ at_ d (i % 5)
  -- B[y, 2x + 3y] := rot(A[x, y]): lane (X, Y) of B comes from x = X + 3 Y, y = X
  let b := (List.range 25).map fun i =>
    let x := (i % 5 + 3 * (i / 5)) % 5
    let y := i % 5
    (keccakLane t x y).rotateLeft ((keccakRot[5 * y + x]?).getD 0)
  let e := (List.range 25).map fun i => keccakLane b (i % 5) (i / 5) ^^^ (~~~(keccakLane b (i % 5 + 1) (i / 5)) &&& keccakLane b (i % 5 + 2) (i / 5))
  match e with
  | [] => []
  | x :: r => (x ^^^ rc) :: r

/-- The permutation. -/
def keccakF (a : List DWord) : List DWord := keccakRc.foldl keccakRound a

/-- The rate of SHAKE256 in bytes. -/
def shakeRate : Nat := 136

/-- A block of the rate taken into a state. -/
def absorb (a : List DWord) (block : List Byte) : List DWord :=
  keccakF ((List.range 25).map fun i =>
    (a[i]?).getD 0 ^^^ (if i < 17 then BitVec.ofNat 64 (ofBytesLE ((block.drop (8 * i)).take 8)) else 0))

/-- `n` blocks absorbed. -/
def absorbAll : Nat → List DWord → List Byte → List DWord
  | 0, a, _ => a
  | n + 1, a, m => absorbAll n (absorb a (m.take shakeRate)) (m.drop shakeRate)

/-- The padding of a message. -/
def shakePad (m : List Byte) : List Byte :=
  let q := shakeRate - m.length % shakeRate
  if q == 1 then m ++ [0x9F] else m ++ [0x1F] ++ List.replicate (q - 2) 0 ++ [0x80]

/-- SHAKE256 with an output of `n` bytes, at most 136. -/
def shake256 (m : List Byte) (n : Nat) : List Byte :=
  let p := shakePad m
  let a := absorbAll (p.length / shakeRate) (List.replicate 25 0) p
  (a.flatMap fun w => toBytesLE w.toNat 8).take n

end Sys2Proof
end

