-- ==== Sys2Proof/Machine/Seal.lean ====
section
/-! DEFINITION. Sealed checkpoints (spec/17 R435 to R441). Keys, random values, signatures and certificates are readable by no principal; they
are opaque functions of Config (notes/assumptions/30.md). -/

namespace Sys2Proof.Machine

open Host (Outcome)

/-! ### Blocks and images -/

/-- 17 R436: the fields of a seal block. -/
structure SealBlk where
  lin : BitVec 128
  quorum : Nat
  npeer : Nat
  step : Nat
  tmo : Nat
  len : Nat
  peersAt : Nat
  compl : Nat
  dst : Nat
  src : Nat
  deriving DecidableEq, Repr, Inhabited

/-- 17 R436. -/
def sealOf (x : Nat) : SealBlk :=
  { lin := BitVec.ofNat 128 (bits x 575 448), quorum := bits x 447 440, npeer := bits x 439 432, step := bits x 415 384, tmo := bits x 383 352
    len := bits x 351 320, peersAt := bits x 319 256, compl := bits x 213 192, dst := bits x 127 64, src := bits x 63 0 }

/-- 17 R435, R436: a block that an operation takes: aligned, inside the allocation, zero fields zero, and the fields that the operation uses in range
(notes/assumptions/19.md). -/
def State.sealTaken (s : State) (op w off : Nat) : Bool :=
  let x := s.blockAt w off 128
  let b := sealOf x
  off % 64 == 0 && s.inAlloc w off 128 && bits x 1023 704 == 0 && bits x 431 416 == 0 && bits x 255 214 == 0 && bits x 191 128 == 0 &&
  b.compl % 16 == 0 && s.inAlloc w b.compl 16 && b.len % 16 == 0 && b.src % 16 == 0 &&
  (op == 0 || (b.npeer ≤ 64 && b.dst % 16 == 0)) && (op != 1 || b.quorum ≤ b.npeer)

/-- 17 R438: the magic number of an image. -/
def sealMagic : Nat := 0x564C4D41

/-- 17 R438: the header of an image to byte 112: magic, format, L, `LIN`, counter, `STEP`, signer, measurement. -/
def sealHead (magic len : Nat) (lin : BitVec 128) (c : DWord) (step dev : Nat) (m : List Byte) : List Byte :=
  toBytesLE magic 4 ++ toBytesLE 1 4 ++ toBytesLE len 8 ++ toBytesLE lin.toNat 16 ++ toBytesLE c.toNat 8 ++ toBytesLE step 4 ++
    toBytesLE (dev % 2 ^ 10) 4 ++ m

/-- The content key of 17 R438 with a nonce, as the opaque functions take it. -/
def sealKey (m : List Byte) (lin : BitVec 128) (c : DWord) (nonce : List Byte) : List Nat := [ofBytesLE m, lin.toNat, c.toNat, ofBytesLE nonce]

/-- Bytes under the keystream of a key: sealing and opening are the same. -/
def crypt (key : List Nat) (bs : List Byte) : List Byte := bs.zipIdx.map fun x => x.1 ^^^ Config.keystream key x.2

/-- 17 R438: the tag of a ciphertext with its associated data. -/
def sealTag (key : List Nat) (aad cipher : List Byte) : List Byte := toBytesLE (Config.gcmTag key ((aad ++ cipher).map (·.toNat))).toNat 16

/-- 17 R438: the signature of a device over bytes 0 to 255 with a signature index. -/
def xmss (dev idx : Nat) (msg : List Byte) : List Byte := (List.range 2820).map fun i => Config.xmssByte dev idx (msg.map (·.toNat)) i

/-- 17 R438: the certificate of a device. -/
def certOf (dev : Nat) : List Byte := (List.range 4096).map fun i => Config.certByte dev i

/-- 17 R438: the first 256 bytes of an image. -/
def sealFront (head nonce tag hash : List Byte) : List Byte :=
  head ++ nonce ++ List.replicate 4 0 ++ tag ++ hash ++ List.replicate 80 0

/-! ### The lineage table (17 R439) -/

/-- The entry of a lineage. -/
def State.lineageOf (s : State) (lin : BitVec 128) : Option Lineage := s.lineage.find? fun e => e.lin == lin

/-- A lineage that the table does not hold has counter 0. -/
def State.lineCounter (s : State) (lin : BitVec 128) : DWord := ((s.lineageOf lin).map (·.counter)).getD 0

/-- The counter of a lineage set, the entry created where the table has room. -/
def State.setCounter (s : State) (lin : BitVec 128) (hash : BitVec 256) (c : DWord) : State :=
  if (s.lineageOf lin).isSome then { s with lineage := updWhere (fun e => e.lin == lin) (fun e => { e with counter := c }) s.lineage }
  else if s.lineage.length < 256 then { s with lineage := s.lineage ++ [{ lin := lin, counter := c, hash := hash }] }
  else s

/-- Whether the table can hold a lineage. -/
def State.lineRoom (s : State) (lin : BitVec 128) : Bool := (s.lineageOf lin).isSome || s.lineage.length < 256

/-- A peer-list hash that no image has given: free (notes/assumptions/20.md). -/
def State.freeHash (s : State) : BitVec 256 :=
  BitVec.ofNat 256 ((s.free [20, 0]).toNat + 2 ^ 64 * (s.free [20, 1]).toNat + 2 ^ 128 * (s.free [20, 2]).toNat + 2 ^ 192 * (s.free [20, 3]).toNat)

/-! ### Jobs -/

/-- 17 R436: the counter of a job written to its block. -/
def State.putCounter (s : State) (j : SealJob) (c : DWord) : State :=
  (s.lsWrite j.by_.wg (j.blk + 72) (toBytesLE c.toNat 8)).spoilBlocks (.loc j.by_.wg (j.blk + 72)) 8 (some j.uid)

/-- 17 R435, R436, R440: a job ends: `RESULT`, `ACKS`, the counter where it is known, `DONE`, and one arrival on `COMPL`. In a block written meanwhile these
fields are undefined (10 R277). -/
def State.sealFinish (s : State) (j : SealJob) (result : Nat) (c : Option DWord) : State :=
  let w := j.by_.wg
  let spoiled := s.seals.any fun x => x.uid == j.uid && x.spoiled
  let pubs := ((s.seals.find? fun x => x.uid == j.uid).map fun x => x.pubs).getD j.pubs
  let s1 := { s with seals := s.seals.filter fun x => x.uid != j.uid }
  let s2 := match c with
    | some c => s1.putCounter j c
    | none => s1
  let s3 := (s2.putField w (j.blk + 80) j.acks.length j.uid).putField w (j.blk + 84) (2 ^ 31 + result) j.uid
  let s4 := if spoiled then s3.wildAt (.loc w (j.blk + 72)) 16 else s3
  (s4.engineArrive w (sealOf j.block).compl 1 0 (s.sender j.by_ pubs)).st

/-- A global range that the seal engine reads for a job. -/
def State.sealRead (s : State) (j : SealJob) (a n : Nat) : Option (List Byte) :=
  match s.engineRead unitHead j.by_.wg a n with
  | .ok bs => some bs
  | .error _ => none

/-- A global range that the seal engine writes for a job, as a recorded access, which the job's completion releases. -/
def State.sealWrite (s : State) (j : SealJob) (a : Nat) (bs : List Byte) : Option State :=
  match s.engineKeys unitHead j.by_.wg .write a bs.length with
  | .ok l =>
    let (s1, item) := s.unitItem
    let s2 := s1.storePieces l bs item
    some { s2 with seals := updWhere (fun x => x.uid == j.uid) (fun x => { x with pubs := item :: x.pubs }) s2.seals }
  | .error _ => none

/-- 16 R403, R417: what the seal engine's translation of a range that it writes leaves. -/
def State.sealAt (s : State) (j : SealJob) (a n : Nat) : State := s.engineTouch unitHead j.part a n

/-- 16 R403, R417: what the seal engine's reads of a job's peer list and of its source leave. -/
def State.sealTouch (s : State) (j : SealJob) (n : Nat) : State :=
  let b := sealOf j.block
  (s.engineTouch unitHead j.part b.peersAt (2 * b.npeer)).engineTouch unitHead j.part b.src n

/-- 17 R436: the designated peers of a job. -/
def State.sealPeers (s : State) (j : SealJob) : Option (List Byte × List Nat) :=
  let b := sealOf j.block
  (s.sealRead j b.peersAt (2 * b.npeer)).map fun bs => (bs, (List.range b.npeer).map fun i => ofBytesLE ((bs.drop (2 * i)).take 2))

/-- 17 R438: the hash of a peer list and its `QUORUM`. -/
def peerHash (list : List Byte) (quorum : Nat) : List Byte := shake256 (list ++ toBytesLE quorum 1) 32

/-- 17 R439: a job whose quorum has acknowledged: `MAGIC` is written, C of 05 R143 rises, and the gates follow. -/
def State.sealDone (s0 : State) (j : SealJob) : State :=
  let b := sealOf j.block
  let s := s0.sealAt j b.dst 4
  match s.sealWrite j b.dst (toBytesLE sealMagic 4) with
  | none => s.sealFinish j 8 none
  | some s1 =>
    let s2 := s1.updPart j.part fun q => { q with sealedC := BitVec.ofNat 32 (max q.sealedC.toNat b.step) }
    (s.gatesAfter s2 j.part).sealFinish j 0 none

/-- 17 R439: the image of a job with `MAGIC` 0 and no signature yet, and the front that is signed. -/
def State.sealImage (s : State) (j : SealJob) (content hash : List Byte) (c : DWord) : List Byte × List Byte :=
  let b := sealOf j.block
  let m := (s.part j.part).meas
  let nonce := (toBytesLE (s.free [21, j.uid, 0]).toNat 8 ++ toBytesLE (s.free [21, j.uid, 1]).toNat 8).take 12
  let key := sealKey m b.lin c nonce
  let cipher := crypt key content
  let head := sealHead sealMagic b.len b.lin c b.step s.devNum m
  let tag := sealTag key (head ++ nonce ++ List.replicate 4 0) cipher
  let front := sealFront head nonce tag hash
  (toBytesLE 0 4 ++ front.drop 4 ++ List.replicate 2820 0 ++ List.replicate 1020 0 ++ certOf s.devNum ++ cipher, front)

/-- 17 R439: the image signed, the counter in the block, and the requests sent. With `QUORUM` 0 nothing is waited for. -/
def State.sealSign (s : State) (j : SealJob) (front : List Byte) (c : DWord) (peers : List Nat) : State :=
  let b := sealOf j.block
  let s1 := { s.putCounter j c with xidx := s.xidx + 1 }.sealAt j (b.dst + 256) 2820
  match s1.sealWrite j (b.dst + 256) (xmss s.devNum s.xidx front) with
  | none => s1.sealFinish j 8 none
  | some s2 =>
    let due := s2.sealClk + if b.tmo == 0 then 2 ^ 32 else b.tmo
    let j2 := { j with waiting := true, c := c, peers := peers, due := due }
    let s3 := { s2 with
      outbox := s2.outbox ++ peers.map fun d => Msg.sealRequest d b.lin c (s2.part j.part).meas
      seals := updWhere (fun x => x.uid == j.uid) (fun x => { j2 with spoiled := x.spoiled, pubs := x.pubs }) s2.seals }
    if b.quorum == 0 then s3.sealDone j2 else s3

/-- 17 R439: `seal.img` up to its requests: the lineage, the signatures left, the counter, the image, the signature. -/
def State.sealImg (s : State) (j : SealJob) : State :=
  let b := sealOf j.block
  match s.sealPeers j with
  | none => s.sealFinish j 8 none
  | some (list, peers) =>
    let hash := peerHash list b.quorum
    let h : BitVec 256 := BitVec.ofNat 256 (ofBytesLE hash)
    let other := match s.lineageOf b.lin with
      | some e => e.hash != h
      | none => false
    if !s.lineRoom b.lin then s.sealFinish j 3 none
    else if other then s.sealFinish j 4 none
    else
      let s1 := s.setCounter b.lin h (s.lineCounter b.lin)
      if 2 ^ 20 ≤ s1.xidx then s1.sealFinish j 2 none
      else
        let c := s1.lineCounter b.lin + 1
        let s2 := s1.setCounter b.lin h c
        match s2.sealRead j b.src b.len with
        | none => s2.sealFinish j 8 none
        | some content =>
          let (image, front) := s2.sealImage j content hash c
          let s2 := s2.sealAt j b.dst image.length
          match s2.sealWrite j b.dst image with
          | none => s2.sealFinish j 8 none
          | some s3 => s3.sealSign j front c peers

/-- 17 R437: a measurement extended. -/
def State.sealMeas (s : State) (j : SealJob) : State :=
  let b := sealOf j.block
  match s.sealRead j b.src b.len with
  | none => s.sealFinish j 8 none
  | some bs =>
    (s.updPart j.part fun q => { q with meas := shake256 (q.meas ++ shake256 bs 64) 64 }).sealFinish j 0 none

/-- 17 R440 check 1: whether an image's front, signature and certificate are those of the device that it names. -/
def imageSigned (image : List Byte) : Bool :=
  let front := image.take 256
  let dev := ofBytesLE ((image.drop 44).take 4) % 2 ^ 10
  let sig := (image.drop 256).take 2820
  ofBytesLE (image.take 4) == sealMagic && ofBytesLE ((image.drop 4).take 4) == 1 && (image.drop 4096).take 4096 == certOf dev &&
  (List.range (2 ^ 20)).any fun i => sig == xmss dev i front

/-- 17 R440: what an attestation of a lineage, a counter and a measurement signs. -/
def attestBytes (lin : BitVec 128) (c : DWord) (m : List Byte) : List Byte := toBytesLE lin.toNat 16 ++ toBytesLE c.toNat 8 ++ m

/-- 17 R440: what follows a restore: an attestation signed with this device's key to the designated peers, for which nothing waits. Without a signature left
there is none (notes/assumptions/19.md). -/
def State.attest (s : State) (j : SealJob) (peers : List Nat) (lin : BitVec 128) (c : DWord) : State :=
  let m := (s.part j.part).meas
  if 2 ^ 20 ≤ s.xidx then s
  else { s with
    xidx := s.xidx + 1
    outbox := s.outbox ++ peers.map fun d => Msg.attestation d lin c m (xmss s.devNum s.xidx (attestBytes lin c m)) }

/-- 17 R440: an image that has passed its checks is written out. A fault on the peer list is one on a global address (R435): `RESULT` 8. -/
def State.sealRestore (s0 : State) (j : SealJob) (lin : BitVec 128) (c : DWord) (hash : BitVec 256) (content : List Byte) : State :=
  let s := s0.sealAt j (sealOf j.block).dst content.length
  match s.sealWrite j (sealOf j.block).dst content with
  | none => s.sealFinish j 8 none
  | some s1 =>
    if !s1.lineRoom lin then s1.sealFinish j 3 none
    else
      let s2 := s1.setCounter lin hash c
      match s2.sealPeers j with
      | none => s2.sealFinish j 8 (some c)
      | some (_, peers) => (s2.attest j peers lin c).sealFinish j 0 (some c)

/-- 17 R440: `seal.rst`: the checks in order. -/
def State.sealRst (s : State) (j : SealJob) : State :=
  let b := sealOf j.block
  match s.sealRead j b.src 8192 with
  | none => s.sealFinish j 8 none
  | some im =>
    let num (off n : Nat) : Nat := ofBytesLE ((im.drop off).take n)
    let len := num 8 8
    let c : DWord := BitVec.ofNat 64 (num 32 8)
    let m := (im.drop 48).take 64
    let key := sealKey m b.lin c ((im.drop 112).take 12)
    if !imageSigned im || num 16 16 != b.lin.toNat then s.sealFinish j 5 none
    else if b.len < len then s.sealFinish j 8 none
    else if m != (s.part j.part).meas then s.sealFinish j 6 none
    else if c < s.lineCounter b.lin then s.sealFinish j 7 none
    else match s.sealRead j (b.src + 8192) len with
      | none => s.sealFinish j 8 none
      | some cipher =>
        if sealTag key (im.take 128) cipher != (im.drop 128).take 16 then s.sealFinish j 5 none
        else s.sealRestore j b.lin c (BitVec.ofNat 256 (num 144 32)) (crypt key cipher)

/-! ### The instructions -/

/-- 17 R435: one lane's `seal`: a block that is not taken leaves its predicate 0; a taken one becomes a job. -/
def State.sealLane (op : Nat) (x : State × List Nat) (c : Cap) : State × List Nat :=
  let s := x.1
  let w := s.cur.wg
  if !s.sealTaken op w c.a then x
  else
    let j : SealJob := { uid := s.uid, op := op, by_ := s.issuer c.lane, part := s.curPart, blk := c.a, block := s.blockAt w c.a 128,
                          pubs := s.knownBy c.lane }
    let (s0, meets) := s.claimBlock w c.a 128 s.uid
    let s1 := { s0 with uid := s.uid + 1, seals := s0.seals ++ [{ j with spoiled := meets }] }
    (if op == 1 then (s1.sealTouch j (sealOf j.block).len).sealImg j else s1, c.lane :: x.2)

/-- 17 R435: a `seal` operation. Reading a block with an uncorrectable word kills the cluster (03 R89). -/
def State.sealOp (s : State) (o : Op) (op : Nat) : State :=
  let caps := s.captureBlk o
  s.acting caps (pair := s.pairOp { a := .n32 } o) fun s =>
    if caps.any fun c => c.a % 64 == 0 && s.inAlloc s.cur.wg c.a 128 && (s.wg s.cur.wg).lsBad c.a 128 then s.kill s.cur.wg 0x52
    else
      let (s1, took) := (s.effective caps).foldl (State.sealLane op) (s, [])
      let yes := took.flatMap fun l => s.copies l
      (s1.updIssue fun t => if (lanesOf caps).contains t.lane then t.setPred o.d2 (yes.contains t.lane) else t).advance

/-- 17 R435, R437: `seal.meas`. -/
def execSealMeas (o : Op) (s : State) : Outcome State Fault Refusal := .next (s.sealOp o 0)
/-- 17 R435, R439: `seal.img`. -/
def execSealImg (o : Op) (s : State) : Outcome State Fault Refusal := .next (s.sealOp o 1)
/-- 17 R435, R440: `seal.rst`. -/
def execSealRst (o : Op) (s : State) : Outcome State Fault Refusal := .next (s.sealOp o 2)

/-! ### The events -/

/-- A job of the seal engine. -/
def State.sealJob (s : State) (u : Nat) : Option SealJob := s.seals.find? fun j => j.uid == u

/-- 17 R435, R437, R440: `SEAL_ENGINE_DONE`: the hash of a `seal.meas`, or a restore. -/
def execSealEngineDone (job : Nat) (s : State) : Outcome State Fault Refusal :=
  .next (match s.sealJob job with
    | none => s
    | some j =>
      if j.op == 0 then (s.sealTouch j (sealOf j.block).len).sealMeas j
      else if j.op == 2 then (s.sealTouch j 8192).sealRst j
      else s)

/-- 17 R439, R442: what comes to the seal engine from a peer acts once that engine and a fabric port are ready, and while the links are open. -/
def State.sealIncoming (s : State) (k : State → State) : State :=
  if s.ready.contains 1 && (s.ready.contains 15 || s.ready.contains 16) then s.incoming k else s

/-- 17 R439: `SEAL_ACK_RECEIVED`: an acknowledgement, or a peer's counter, for a job that waits. -/
def execSealAckReceived (job dev : Nat) (counter : BitVec 64) (ack : Bool) (s : State) : Outcome State Fault Refusal :=
  .next (s.sealIncoming fun s => match s.sealJob job with
    | none => s
    | some j =>
      let b := sealOf j.block
      if !j.waiting || !j.peers.contains dev || j.acks.contains dev then s
      else if ack then
        let j1 := { j with acks := dev :: j.acks }
        let s1 := { s with seals := updWhere (fun x => x.uid == job) (fun x => { x with acks := j1.acks }) s.seals }
        if b.quorum ≤ j1.acks.length then s1.sealDone j1 else s1
      else if j.c ≤ counter then
        let c := if s.lineCounter b.lin < counter then counter else s.lineCounter b.lin
        (s.setCounter b.lin s.freeHash c).sealFinish j 7 none
      else s)

/-- 17 R439: `SEAL_TMO_EXPIRY`: no quorum within `TMO`. -/
def execSealTmoExpiry (job : Nat) (s : State) : Outcome State Fault Refusal :=
  .next (match s.sealJob job with
    | none => s
    | some j => if j.waiting && j.due ≤ s.sealClk then s.sealFinish j 1 none else s)

/-- 17 R439: `SEAL_PEER_REQUEST`: this device as a designated peer: its counter rises to a greater one and it acknowledges, or it replies with its counter.
A table without room for the lineage acknowledges nothing. -/
def execSealPeerRequest (dev : Nat) (lin : BitVec 128) (c : BitVec 64) (s : State) : Outcome State Fault Refusal :=
  .next (s.sealIncoming fun s =>
    let old := s.lineCounter lin
    let s1 := if old < c && s.lineRoom lin then s.setCounter lin s.freeHash c else s
    let m := if old < c && s.lineRoom lin then Msg.sealAck dev lin c true else Msg.sealAck dev lin old false
    { s1 with outbox := s1.outbox ++ [m] })

/-- 17 R440: `SEAL_ATTESTATION_RECEIVED`. -/
def execSealAttestationReceived (lin : BitVec 128) (c : BitVec 64) (s : State) : Outcome State Fault Refusal :=
  .next (s.sealIncoming fun s => if s.lineCounter lin < c then s.setCounter lin s.freeHash c else s)

end Sys2Proof.Machine
end

