-- ==== Sys2Proof/Machine/Holdup.lean ====
section
/-! DEFINITION. Hold-up and bring-up (spec/17 R421 to R423, R427 to R430, R442, R443). -/

namespace Sys2Proof.Machine

open Host (Outcome)

/-- 17 R422: the module goes dark: only the hold-up store, the lineage table, the XMSS index and the epoch survive, with what lies outside the
package, and the model's own fields. -/
def State.dark (s : State) : State :=
  { State.reset with
    agenda := s.agenda, tick := s.tick, uid := s.uid, supply := s.supply, energy := s.energy
    sliceClk := s.sliceClk, spindleClk := s.spindleClk, headClk := s.headClk, sealClk := s.sealClk
    devNum := s.devNum, linksDown := s.linksDown, shut := s.shut, mem := s.mem.filter fun c => isPeer c.1
    vtab := s.vtab.filter fun e => 4 ≤ e.1, powerW := s.powerW
    hostMem := s.hostMem, outbox := s.outbox
    epoch := s.epoch, reported := s.reported, store := s.store, records := s.records, lineage := s.lineage, xidx := s.xidx }

/-- 17 R421, R422, R423: a trigger: an armed controller starts the sequence and issue stops; otherwise the module goes dark with nothing saved. A
trigger during the sequence starts nothing. -/
def State.trigger (s : State) : State :=
  match s.holdup with
  | .armed => { s with holdup := .quiescing, epoch := (s.epoch + 1) % 2 ^ 32, usTrigger := 0 }
  | .off | .charging => s.dark
  | _ => s

/-- 17 R421: `SUPPLY_UNDERVOLTAGE`: the supply has been below its threshold for 2 microseconds. -/
def execSupplyUndervoltage (s : State) : Outcome State Fault Refusal := .next { s with supply := false }.trigger

/-- 17 R421: `THERMAL_TRIP`. -/
def execThermalTrip (s : State) : Outcome State Fault Refusal := .next s.trigger

/-- 17 R421, R423: the reserve that arms the controller, in mJ. -/
def armedEnergy : Nat := 3500

/-- 17 R421: `RESERVE_FAULT`: an armed controller's reserve has fallen below 3.5 J with supply present. -/
def execReserveFault (s : State) : Outcome State Fault Refusal :=
  .next (if s.holdup == .armed && s.supply && s.energy < armedEnergy then s.trigger else s)

/-- 17 R423, R443: `RESERVE_CHARGED`. -/
def execReserveCharged (s : State) : Outcome State Fault Refusal :=
  .next (if s.holdup == .charging && armedEnergy ≤ s.energy then { s with holdup := .armed, ready := s.ready ++ [2] } else s)

/-- 17 R427: every buffered store of a workgroup that can be applied, committed or not. -/
def State.flushWg (s : State) (w : Nat) : State :=
  (s.wg w).sb.foldl (fun s e => if s.sbFails w e then s else s.sbApply w e) s

/-- 17 R427: a piece of a result that has begun to land is written whole. -/
def State.finishPiece (s : State) (l : Landing) : State :=
  match l.begun, (s.part l.msg.part).reduceHandle l.msg.redid with
  | some (k, vers), some h => (match h.bind with
    | .reduce _ dest .. => (match (pages dest (4 * l.msg.words.length))[l.done]? with
      | some (a, n) => s.landEnd h l k vers (((bytesOfWords l.msg.words).drop (a - dest)).take n)
      | none => s)
    | .p2p .. => s)
  | _, _ => s

/-- 17 R427 step 1: the store buffers applied, writes that have begun finished, the engines stopped, the cores down, dirty bytes of peers' lines discarded. -/
def State.quiesce (s : State) : State :=
  let s1 := s.landing.foldl State.finishPiece ((s.wgs.map (·.uid)).foldl State.flushWg s)
  { s1 with
    wgs := [], gangs := [], threads := [], slices := [], lathes := [], eops := [], io := [], shoots := [], clusters := [], nodes := [], kicks := []
    gloads := [], rdc := [], sends := [], contribs := [], landing := [], results := [], seals := [], tlb := [], saves := [], hb := {} }

/-- Regions in ascending number. -/
def Part.regions (q : Part) (must : Bool) : List Keep := sortBy (·.r) (q.keeps.filter fun k => k.must == must)

/-- 17 R427, R428: the bytes of a region, at its ordering points. -/
def State.regionBytes (s : State) (k : Keep) : List Byte :=
  k.ranges.flatMap fun r => (List.range r.2).map fun i => s.homeByte (r.1 + i)

/-- 17 R427: the regions of a class, partitions in grant order, each one's in ascending number. -/
def State.saveList (s : State) (must : Bool) : List (List Word × Keep) :=
  s.grants.flatMap fun p => ((s.part p).regions must).map fun k => ((s.part p).hutag, k)

/-- 17 R428: a region as it is to be saved. -/
def State.savedOf (s : State) (x : List Word × Keep) : Saved :=
  { tag := x.1, epoch := s.epoch, r := x.2.r, best := !x.2.must, va := x.2.va, len := x.2.len, body := s.regionBytes x.2, whole := true }

/-- 00 R2, 17 R429: bytes that the hold-up store takes in a microsecond. -/
def storeRate : Nat := 48000

/-- 17 R423, R427, R428, R430: `QUIESCE_COMPLETE`: the bytes of every region are taken, Saving begins, and the reported epoch advances: what the store
reported before is read no more. -/
def execQuiesceComplete (s : State) : Outcome State Fault Refusal :=
  .next (
    if s.holdup == .quiescing then
      let s1 := s.quiesce
      { s1 with
        holdup := .saving, reported := s.epoch, byteStart := storeRate * s.usTrigger, store := [], records := []
        storing := (s1.saveList true ++ s1.saveList false).map s1.savedOf }
    else s)

/-- 17 R429: bytes that the store has taken, by the end of the microsecond under way, since the writing of a class of regions began; `byteStart` is that moment in the
time of a byte (notes/assumptions/36.md). -/
def State.written (s : State) : Nat := storeRate * (s.usTrigger + 1) - s.byteStart

/-- 17 R427: the regions of a class that are to be written. -/
def State.toStore (s : State) (best : Bool) : List Saved := s.storing.filter fun x => x.best == best

/-- The bytes of some regions. -/
def savedBytes (l : List Saved) : Nat := (l.map fun x => x.len).sum

/-- 17 R429: whether all must-save regions have been written, at latest in the microsecond under way. -/
def State.allWritten (s : State) : Bool := savedBytes (s.toStore false) < s.written

/-- 17 R423, R429: `GUARANTEED_SAVE_COMPLETE`: every must-save region is written whole, and the writing of the others began with the byte after them. -/
def execGuaranteedSaveComplete (s : State) : Outcome State Fault Refusal :=
  .next (
    if s.holdup == .saving && s.allWritten then
      { s with holdup := .bestEffort, byteStart := s.byteStart + savedBytes (s.toStore false), store := s.store ++ s.toStore false }
    else s)

/-- 17 R429: microseconds from the trigger at which best-effort writing stops. -/
def bestEffortEndUs : Nat := 19700

/-- 17 R429: bytes that the store has taken by then. -/
def State.bestLimit (s : State) : Nat := storeRate * bestEffortEndUs - s.byteStart

/-- 17 R428 to R430: of the regions in order, those whose end comes before a number of bytes, and the one that is under way there, torn. -/
def cutRegions : Nat → List Saved → List Saved
  | _, [] => []
  | n, x :: r => if x.len < n then x :: cutRegions (n - x.len) r else [{ x with whole := false, body := [] }]

/-- 17 R429: whether all best-effort regions have been written in time, at latest in the microsecond under way. -/
def State.bestWritten (s : State) : Bool := savedBytes (s.toStore true) < min s.written s.bestLimit

/-- 17 R423, R427, R429: `BEST_EFFORT_END`: every best-effort region is written, or 19,700 microseconds have passed: then those are whole that have ended
before that, and the next one is torn. -/
def execBestEffortEnd (s : State) : Outcome State Fault Refusal :=
  .next (
    if s.holdup == .bestEffort && (s.bestWritten || bestEffortEndUs ≤ s.usTrigger || (s.toStore true).isEmpty) then
      { s with holdup := .recording, storing := [], store := s.store ++ cutRegions s.bestLimit (s.toStore true) }
    else s)

/-- 17 R423, R427: `RESTART_RECORDS_COMPLETE`: one restart record per context that declared a region; the controller is Off and the module dark. -/
def execRestartRecordsComplete (s : State) : Outcome State Fault Refusal :=
  .next (
    if s.holdup == .recording then
      { s with records := (s.grants.filter fun p => !(s.part p).keeps.isEmpty).map fun p => (p, (s.part p).hutag) }.dark
    else s)

/-! ### Bring-up -/

/-- 17 R442: `POWER_UP`: power returns to a dark module, and bring-up starts cold. -/
def execPowerUp (s : State) : Outcome State Fault Refusal :=
  .next (if s.holdup == .off && s.ready.isEmpty then { s.dark with supply := true } else s)

/-- 17 R442: the units in order, by their `READY` bits. -/
def bringOrder : List Nat := List.range 17

/-- 17 R442: what a unit's readiness brings: the seal engine lets the hold-up controller begin to charge; the stacks of a die reserve its highest granule
(13 R344); the quads of a die start their clock counters (01 R35). -/
def State.unitUp (s : State) (u : Nat) : State :=
  let s1 := { s with ready := s.ready ++ [u] }
  if u == 1 then { s1 with holdup := .charging }
  else if 3 ≤ u && u ≤ 6 then { s1 with gmap := Machine.store s1.gmap (192 * (u - 3) + 191) 0xE }
  else if 11 ≤ u && u ≤ 14 then
    { s1 with
      clkZero := (List.range 4).foldl (fun l j => Machine.store l (4 * (u - 11) + j) s1.sliceClk) s1.clkZero
      drift := s1.drift.filter fun x => !(512 * (u - 11) ≤ x.1 && x.1 < 512 * (u - 10)) }
  else s1

/-- 17 R442, R443: `UNIT_READY`: the next unit in order is ready. The hold-up controller's bit is set by `RESERVE_CHARGED`. -/
def execUnitReady (s : State) : Outcome State Fault Refusal :=
  .next (
    if !s.supply then s
    else match bringOrder.find? fun u => !s.ready.contains u with
      | some u => if u == 2 then s else s.unitUp u
      | none => s)

end Sys2Proof.Machine
end

