-- ==== Sys2Proof/Machine/Issue.lean ====
section
/-! DEFINITION. Issue (spec/01 R18, R19, R31; spec/06 R150 to R155, R175; spec/07 R192; spec/15 R379, R382, R385, R388): which threads of a gang
issue, what comes before their instruction (pending traps, re-injected entries, line entry, decode, breakpoints), and the issue that
`exec` then acts for. -/

namespace Sys2Proof

/-- 01 R26, 07 R189: the instructions at which lanes meet. -/
def Instr.meets : Instr → Bool
  | .xperm _ | .xbc _ | .xbcFirst _ | .xred .. | .xscan .. | .xvoteAny _ | .xvoteAll _ | .xvoteBallot _ | .xmatch _ | .brpAny .. | .brpAll .. => true
  | _ => false

end Sys2Proof

namespace Sys2Proof.Machine

open Host (Outcome)

/-- 01 R37, 13 R339, 17 R423, R427: whether the gangs of a workgroup issue: it is on its core, its partition is Running or Stopping, and no
hold-up sequence is under way. -/
def State.mayIssue (s : State) (w : Nat) : Bool :=
  let x := s.wg w
  let p := (s.part (s.partOf w)).st
  (x.st == .resident || x.st == .draining) && (p == .running || p == .stopping) &&
  (s.holdup == .off || s.holdup == .charging || s.holdup == .armed)

/-- 01 R16: a thread that can issue. -/
def Thread.canIssue (t : Thread) : Bool := t.st == .ready && t.block == .none

/-- 06 R152: whether a thread has entered the line at its program counter. -/
def Thread.inLine (t : Thread) : Bool :=
  match t.line with
  | some l => l.addr == lineAddr t.pc
  | none => false

/-! ### Which gang issues -/

/-- 01 R31: whether a run goes on: some of its threads stand, Ready, in its line. While they wait there the slice issues for no other gang, but for one whose handler has
to see to a held store (15 R388; notes/assumptions/12.md). -/
def State.runGoes (s : State) (r : Run) : Bool :=
  s.mayIssue r.wg && !((r.waits || s.gangStalls r.wg r.gang) && s.storeWaits r.wg r.gang) &&
  s.threads.any fun t => t.wg == r.wg && t.gang == r.gang && r.lanes.contains t.lane && t.st == .ready && (t.block == .none || t.block.outside) &&
    !t.past && t.inLine && lineAddr t.pc == r.line

/-- 01 R31: a run of another gang that a slice must end before it issues for this one: the last that began and goes on. -/
def State.runFirst (s : State) (w g : Nat) : Option Run :=
  ((s.sliceOf w g).bind fun x => x.runs.find? s.runGoes).filter fun r => !r.of w g

/-- 07 R192: whether a gang that has yielded must let another Ready gang of its slice go first. -/
def State.yieldsNow (s : State) (w g : Nat) : Bool :=
  let core := (s.wg w).core
  let i := (s.gang w g).slice
  (match s.sliceOf w g with
   | some x => x.yielded && x.wg == w && x.gang == g
   | none => false) &&
  s.gangs.any fun x => !(x.wg == w && x.idx == g) && (s.wg x.wg).core == core && x.slice == i && s.mayIssue x.wg && !s.gangStalls x.wg x.idx &&
    s.threads.any fun t => t.wg == x.wg && t.gang == x.idx && t.canIssue

/-! ### Pending traps (15 R379) -/

/-- 15 R379: the oldest pending trap of a gang is taken; entries that an `iret` had not yet put back follow its own in the queue. -/
def State.deliverPending (s : State) (w g : Nat) : State :=
  let x := s.gang w g
  match x.pend with
  | [] => s
  | p :: r =>
    (s.updGang w g fun y => { y with pend := r, reinject := [] }).takeTrap w g
      { cause := p.cause, async := true, exited := p.exited, pc := p.pc, mask := p.mask, addr := p.addr, tnum := some p.tnum
        queue := p.entry :: x.reinject }

/-- 15 R379, R380: `TRAP_ENTRY`: a gang at kernel level takes its oldest pending trap. -/
def execTrapEntry (wg gang : Nat) (s : State) : Outcome State Fault Refusal :=
  .next (if s.mayIssue wg && !s.gangStalls wg gang && !(s.gang wg gang).handler then s.deliverPending wg gang else s)

/-- 15 R379, R385: whether the threads of a gang are next to issue: no trap is to be taken and no entry put back before them. -/
def State.threadsNext (s : State) (w g : Nat) : Bool :=
  let x := s.gang w g
  s.mayIssue w && !s.gangStalls w g && x.reinject.isEmpty && (x.handler || x.pend.isEmpty)

/-! ### Decode (06 R155) -/

/-- An operation in a line: what it is, its word, and whether that is a compact half. -/
structure Fetched where
  instr : Instr
  word : Nat
  half : Bool
  deriving DecidableEq, Repr, Inhabited

/-- 06 R150, R155: the operation at an address of a line; both halves of a paired slot are checked. -/
def Line.fetch (l : Line) (c : Ctx) (pc : DWord) : Option Fetched :=
  match slotOf pc, slotOf (pc - 6) with
  | some k, _ =>
    (match decodeSlot c (l.pair k) (l.slot k) with
     | .ok (.full i) => some { instr := i, word := l.slot k, half := false }
     | .ok (.pair lo _) => some { instr := lo, word := l.slot k % 2 ^ 48, half := true }
     | .error _ => none)
  | none, some k =>
    (match decodeSlot c (l.pair k) (l.slot k) with
     | .ok (.pair _ hi) => some { instr := hi, word := l.slot k / 2 ^ 48, half := true }
     | _ => none)
  | none, none => none

/-- 06 R150, R176: the instruction word at an address of a line: of a slot, or of the half that begins there. DESIGN CHOICE: of a paired slot that is illegal it is the 48
bits of the half at the address, also where the other half or the pairing is at fault (notes/assumptions/53.md). -/
def Line.wordAt (l : Line) (pc : DWord) : Nat :=
  match slotOf pc, slotOf (pc - 6) with
  | some k, _ => if l.pair k then l.slot k % 2 ^ 48 else l.slot k
  | none, some k => l.slot k / 2 ^ 48
  | none, none => 0

/-! ### Line entry (06 R152) -/

/-- 06 R152, 15 R378: a trap at line entry or decode: no operation of the slot has issued; `addr` is what its lowest lane faulted on. The frame of a decode
trap carries the instruction word (06 R176; notes/assumptions/53.md). -/
def State.trapBefore (s : State) (cause : Nat) (addr : DWord) (word : Option Nat := none) : State :=
  s.takeTrap s.cur.wg s.cur.gang { cause := cause, pc := s.cur.pc, mask := s.cur.lanes, addr := addr, word := word }

/-- 06 R152, R177, 16 R400: the line of the current issue as its slice reads it: its contents, or the cause and faulting address. -/
def State.readLine (s : State) : Except (Nat × DWord) Line :=
  match s.textLine s.cur.wg (lineAddr s.cur.pc) with
  | .error 0x02 => .error (0x02, 0)
  | .error c => .error (c, lineAddr s.cur.pc)
  | .ok l => if !l.parityOk then .error (0x02, 0) else if !l.zeroOk then .error (0x01, 0) else .ok l

/-- 06 R176: the word at the program counter of the current issue in a line that raises 0x01 by its line word. -/
def State.lineWord (s : State) : Option Nat :=
  match s.readLine, s.textLine s.cur.wg (lineAddr s.cur.pc) with
  | .error (0x01, _), .ok l => some (l.wordAt s.cur.pc)
  | _, _ => none

/-- 06 R152: the slice reads the line of the current issue. -/
def State.touchLine (s : State) : State := s.textTouch s.cur.wg (lineAddr s.cur.pc)

/-- 06 R152: the threads of the current issue stand in a line; the first operation of a handler is fetched (15 R386). -/
def State.enterLine (s : State) (l : Line) : State :=
  ((s.updIssue fun t => { t with line := some l }).updGang s.cur.wg s.cur.gang fun g => { g with fresh := false }).cache
    (unitCore s.core) s.curPart l.addr.toNat

/-- The issue of one set of threads at one address. -/
def issueAt (w g : Nat) (ts : List Thread) (t : Thread) (mism : Nat) : Issue :=
  { wg := w, gang := g, lanes := ts.map (·.lane), pc := t.pc, past := t.past, mism := min mism 2 }

/-- 06 R152: `LINE_ENTRY`: a thread that can issue enters the line at its program counter. -/
def execLineEntry (wg gang lane : Nat) (s : State) : Outcome State Fault Refusal :=
  .next (
    match (s.gangThreads wg gang).find? fun t => t.lane == lane && t.canIssue && !t.past && !t.inLine with
    | none => s
    | some t =>
      let s1 := { s with cur := issueAt wg gang [t] t 0 }
      if !s.threadsNext wg gang then s
      else match s1.readLine with
        | .error (c, a) => s1.touchLine.trapBefore c a s1.lineWord
        | .ok l => s1.touchLine.enterLine l)

/-- 06 R153: the bytes of an operation. -/
def Fetched.size (f : Fetched) : Nat := if f.half then 6 else 12

/-! ### Breakpoints (15 R382) -/

/-- 15 R381, R382: the number of the enabled breakpoint that matches an address. -/
def Part.breakpoint (q : Part) (pc : DWord) : Option Nat :=
  (List.range 2).find? fun k =>
    let lo := q.csrWord (0x118 + 2 * k)
    lo.getLsbD 0 && BitVec.ofNat 64 ((lo.toNat / 2) * 2 + 2 ^ 32 * (q.csrWord (0x119 + 2 * k)).toNat) == pc

/-- 15 R382: the lanes of the current issue that a breakpoint stops. -/
def State.stopped (s : State) : List Nat := (s.issued.filter fun t => !t.skipBkpt).map (·.lane)

/-- 15 R382, R379: `BREAKPOINT`: a thread that stands at a matching address raises 0x70, where the slot there raises no decode trap. -/
def execBreakpoint (wg gang lane : Nat) (s : State) : Outcome State Fault Refusal :=
  .next (
    match (s.gangThreads wg gang).find? fun t => t.lane == lane && t.canIssue && !t.past && t.inLine && !t.skipBkpt with
    | none => s
    | some t =>
      let s1 := { s with cur := issueAt wg gang [t] t 0 }
      let decodes := match t.line.bind fun l => l.fetch (s.launchOf wg).ctx t.pc with
        | some f => !f.instr.privileged || (s.gang wg gang).handler
        | none => false
      match (s.part (s.partOf wg)).breakpoint t.pc with
      | some k => if s.threadsNext wg gang && decodes then s1.trapOut 0x70 [lane] k else s
      | none => s)

/-! ### The issue of threads -/

/-- What an issue comes to: a state in which no instruction issues, or an instruction and the state in which `exec` acts for it. -/
inductive Prep where
  | done (s : State)
  | run (i : Instr) (s : State)
  deriving DecidableEq, Repr

/-- The current issue widened to every thread of its gang that stands at its address in the same line (01 R26). -/
def State.widen (s : State) (l : Line) : State :=
  let same (t : Thread) : Bool := t.canIssue && t.pc == s.cur.pc && t.past == s.cur.past && t.line == some l
  { s with cur := { s.cur with lanes := ((s.gangThreads s.cur.wg s.cur.gang).filter same).map (·.lane) } }

/-! ### Operations behind an unchecked one (15 R378) -/

/-- Where the operations behind the current one go on: an address, its line, and the results that are not there yet. -/
structure AheadAt where
  pc : DWord
  past : Bool
  line : Line
  pending : List RegName
  young : List Entry := []
  deriving DecidableEq, Repr

/-- The line of an address: the one that the threads stand in, or the next as the slice would read it. -/
def State.lineAt (s : State) (l : Line) (pc : DWord) : Option Line :=
  if l.addr == lineAddr pc then some l
  else match { s with cur := { s.cur with pc := pc } }.readLine with
    | .ok x => some x
    | .error _ => none

/-- 15 R378, R383: the next operation behind the current one issues, with the sources of the lanes whose guard is true: one that needs no result that is not
there yet, at which no breakpoint stands, and at whose address no thread of the issue is to meet (01 R21). -/
def State.aheadOne (s : State) (x : AheadAt) : Option AheadAt :=
  if x.past || ((s.part s.curPart).breakpoint x.pc).isSome || s.issued.any (fun t => t.mt == some x.pc) then none
  else match s.lineAt x.line x.pc with
    | none => none
    | some l => match l.fetch s.launch.ctx x.pc with
      | none => none
      | some f => match f.instr.plain with
        | none => none
        | some (o, k) =>
          if needs x.pending o k then none
          else
            let caps := s.captureOp k o
            let (next, past) := nextAddr x.pc f.size l.last
            some { pc := next, past := past, line := l, pending := writesOf o ++ x.pending
                   young := x.young ++ [{ pc := x.pc, mask := lanesOf caps, word := f.word, half := f.half, caps := caps }] }

/-- Up to `n` operations behind the current one. -/
def State.aheadMany (s : State) : Nat → AheadAt → AheadAt
  | 0, x => x
  | n + 1, x => match s.aheadOne x with
    | some y => s.aheadMany n y
    | none => x

/-- 15 R378: the operations that have issued behind the current one when its faults are checked: at most 15, and how many is not the program's to know. -/
def State.runAhead (s : State) (l : Line) (f : Fetched) (n : Nat) : State :=
  match f.instr.plain with
  | none => s
  | some (o, _) =>
    if n == 0 || s.launch.shadow then s
    else
      let x := s.aheadMany (min n 15) { pc := s.cur.next, past := s.cur.past, line := l, pending := writesOf o }
      { s with cur := { s.cur with young := x.young, resume := x.pc, resumePast := x.past } }

/-- 01 R31: a run without the lanes of another. -/
def Run.without (r : Run) (lanes : List Nat) : Run := { r with lanes := r.lanes.filter fun l => !lanes.contains l }

/-- 01 R30, R31, R47, 07 R192, 15 R395: the current issue takes its slice: its lanes go through their line in a run of their own, and those of other sets of the
gang go on; mismatches of its checkers are counted; its workgroup does not wait. -/
def State.takeSlice (s : State) : State :=
  let w := s.cur.wg
  let g := s.cur.gang
  let before_ := ((s.sliceOf w g).bind fun x => x.runs.find? fun r => r.of w g && r.line == lineAddr s.cur.pc && s.cur.lanes.all r.lanes.contains).map fun r => r.pushed
  let new : Run := { wg := w, gang := g, lanes := s.cur.lanes, line := lineAddr s.cur.pc, pushed := before_.getD [] }
  ((((s.ownSlice w g).updSlice w g fun x =>
    { x with yielded := false, runs := new :: ((x.runs.map fun r => if r.of w g then r.without s.cur.lanes else r).filter fun r => !r.lanes.isEmpty) }).updWg w
    fun x => { x with idle := none, qualifies := none }).mismatch s.curPart s.cur.mism)

/-- 09 R260: an `mcas` that waited and whose threads issue elsewhere waits no more. -/
def State.leaveMcas (s : State) : State :=
  let g := s.gang s.cur.wg s.cur.gang
  let left (x : McasWait) (m : McasLane) : Bool := !g.handler && !x.replay && x.pc != s.cur.pc && s.cur.lanes.contains m.lane
  if g.mcas.isEmpty then s
  else s.updGang s.cur.wg s.cur.gang fun x =>
    { x with mcas := (x.mcas.map fun y => { y with lanes := y.lanes.filter fun m => !left y m }).filter fun y => !y.lanes.isEmpty }

/-- The current issue ready for its instruction, with `ahead` operations behind it. -/
def State.begin (s : State) (l : Line) (f : Fetched) (ahead : Nat) : State :=
  let (next, past) := nextAddr s.cur.pc f.size l.last
  (({ s with cur := { s.cur with next := next, past := past, word := f.word, half := f.half } }.leaveMcas).runAhead l f ahead).takeSlice

/-- 06 R155, R175, 15 R382: decode, privilege, breakpoint, for threads in a line. -/
def State.decodeIssue (s : State) (l : Line) (ahead : Nat) : Prep :=
  match l.fetch s.launch.ctx s.cur.pc with
  | none => .done (s.trapBefore 0x01 0 (some (l.wordAt s.cur.pc)))
  | some f =>
    if f.instr.privileged && !(s.gang s.cur.wg s.cur.gang).handler then .done (s.trapBefore 0x04 0 (some f.word))
    else
      let s1 := if f.instr.meets then s.widen l else s
      match (s1.part s1.curPart).breakpoint s1.cur.pc, s1.stopped with
      | some k, _ :: _ => .done (s1.trapOut 0x70 s1.stopped k)
      | _, _ => .run f.instr (s1.begin l f ahead)

/-- The threads that a request to issue some lanes names: those that can issue with the first of them, at its address and in its line, with
the other copies in shadow mode (15 R396). -/
def State.chosen (s : State) (w g : Nat) (lanes : List Nat) (t : Thread) : List Thread :=
  let l := s.launchOf w
  let named (u : Thread) : Bool := lanes.contains u.lane || (l.shadow && lanes.any fun k => k % l.maskW == u.lane % l.maskW)
  (s.gangThreads w g).filter fun u =>
    u.canIssue && named u && u.pc == t.pc && u.past == t.past && (if t.inLine then u.line == t.line else !u.inLine)

/-- 06 R172: whether a thread stands between the halves of a compact pair. -/
def Thread.midPair (t : Thread) : Bool := t.canIssue && !t.past && (slotOf t.pc).isNone

/-- 01 R19: the addresses at which threads of a gang can issue, each with the issues of the gang since the last one there. -/
def State.waitingAges (s : State) (w g : Nat) : List (DWord × Nat) :=
  let pcs := ((s.gangThreads w g).filter fun t => t.canIssue).map fun t => t.pc
  pcs.eraseDups.map fun pc => (pc, (((s.gang w g).ages.find? fun x => x.1 == pc).map fun x => x.2).getD 0)

/-- 01 R19: the issues within which each address gets one. -/
def fairIssues : Nat := 64

/-- The address that has waited longest. -/
def oldestAge : List (DWord × Nat) → Option (DWord × Nat)
  | [] => none
  | x :: r => match oldestAge r with
    | some y => if x.2 < y.2 then some y else some x
    | none => some x

/-- 01 R19: the address that must issue now, if any: `d` addresses have come to have `d` issues left between them. -/
def dueAddress (l : List (DWord × Nat)) : Option DWord :=
  if (List.range (fairIssues + 1)).any fun d => d != 0 && d ≤ (l.filter fun x => fairIssues ≤ x.2 + d).length then (oldestAge l).map fun x => x.1
  else none

/-- The lanes that issue when some are asked for: those between the halves of a pair first (06 R172), then those of an address that must issue (01 R19). -/
def State.duePick (s : State) (w g : Nat) (lanes : List Nat) : List Nat :=
  let ts := s.gangThreads w g
  match ts.find? Thread.midPair with
  | some t => (ts.filter fun u => u.midPair && u.pc == t.pc).map fun u => u.lane
  | none => match dueAddress (s.waitingAges w g) with
    | some pc => (ts.filter fun u => u.canIssue && u.pc == pc).map fun u => u.lane
    | none => lanes

/-- 01 R19: an issue at an address counted; the second half of a pair belongs to the issue of the first. -/
def State.countIssue (s : State) (w g : Nat) (pc : DWord) : State :=
  if (slotOf pc).isNone then s
  else
    let l := s.waitingAges w g
    s.updGang w g fun x => { x with ages := l.map fun y => (y.1, if y.1 == pc then 0 else y.2 + 1) }

/-- 01 R18, 06 R152, R153: an issue of threads of a gang. -/
def State.issueThreads (s0 : State) (w g : Nat) (asked : List Nat) (mism ahead : Nat) : Prep :=
  let lanes := s0.duePick w g asked
  match (s0.gangThreads w g).find? fun t => lanes.contains t.lane && t.canIssue with
  | none => .done s0
  | some t =>
    let s := s0.countIssue w g t.pc
    let s1 := { s with cur := issueAt w g (s.chosen w g lanes t) t mism }
    if t.past then .done (s1.trapBefore 0x01 0)
    else match (if t.inLine then t.line else none) with
      | some l => s1.decodeIssue l ahead
      | none => match s1.readLine with
        | .error (c, a) => .done (s1.touchLine.trapBefore c a s1.lineWord)
        | .ok l => (s1.touchLine.enterLine l).decodeIssue l ahead

/-! ### Re-injection (15 R385, R388) -/

/-- 15 R388: a buffered store re-enters the buffer at its old place, with the address and the data of its capture; where it cannot be
translated it is held again, and its trap is pending again. -/
def State.storeAgain (s : State) (w : Nat) (e : Entry) (u : Nat) : State :=
  match (s.wg w).sb.find? (fun x => x.uid == u), e.caps.find? (fun c => e.mask.contains c.lane) with
  | some x, some c =>
    let n := x.bytes.length
    let x1 := { x with va := BitVec.ofNat 64 c.a, bytes := toBytesLE (c.b % 2 ^ 64 + 2 ^ 64 * c.c) n }
    let sp : Space := match x.dest with
      | .mem _ => .glb
      | .win .. => .host
    let put (y : SbEntry) (s : State) : State := s.updWg w fun z => { z with sb := updWhere (fun v => v.uid == u) (fun _ => y) z.sb }
    (match s.place sp .write w c.a n with
     | .ok (.mem k _) =>
       put { x1 with dest := .mem k, held := false, leaf := s.leafSpan c.a } (s.cache (unitCore (s.wg w).core) (s.partOf w) c.a)
     | .ok (.win i off _) => put { x1 with dest := .win i off, held := false } s
     | _ => (put x1 (s.recallLanes sp (fun c => c.a) [c])).sbTrap w x1)
  | _, _ => s

/-- The issue of a re-injected entry. -/
def State.replayOf (s : State) (w g : Nat) (e : Entry) (mism : Nat) : Issue :=
  let last := match s.textLine w (lineAddr e.pc) with
    | .ok l => l.last
    | .error _ => false
  let (next, past) := nextAddr e.pc (if e.half then 6 else 12) last
  { wg := w, gang := g, lanes := e.mask, pc := e.pc, next := next, past := past, word := e.word, half := e.half
    replay := true, kind := e.kind, caps := e.caps.filter fun c => e.mask.contains c.lane, mism := min mism 2 }

/-- 15 R385: an entry decoded again: its instruction, or the cause. -/
def Entry.decode (e : Entry) (c : Ctx) : Except Nat Instr :=
  match (if e.half then decodeHalf c e.word else decodeFull c e.word) with
  | .error _ => .error 0x01
  | .ok i => if i.privileged then .error 0x04 else .ok i

/-- 15 R385 step 4: the first entry that an `iret` put back. One that does not decode raises its cause, with its word (06 R176), and is gone; that trap's queue holds
those not yet put back. DESIGN CHOICE: a buffered store whose edited entry does not decode leaves the buffer, as one that is discarded does
(notes/assumptions/21.md). -/
def State.reinjectOne (s : State) (w g : Nat) (e : Entry) (rest : List Entry) (mism : Nat) : Prep :=
  let s1 := { s.updGang w g (fun x => { x with reinject := rest }) with cur := s.replayOf w g e mism }
  match e.decode (s.launchOf w).ctx with
  | .error c =>
    .done (((s1.discard w e).updGang w g fun x => { x with reinject := [] }).takeTrap w g
      { cause := c, pc := e.pc, mask := e.mask, queue := rest, word := some e.word })
  | .ok i => match e.kind with
    | .store u => .done (s1.storeAgain w e u)
    | _ => .run i s1.takeSlice

/-! ### THE issue -/

/-- 15 R379, R385: what a gang does when it issues: a pending trap first, then the re-injected entries in order, then its threads. -/
def State.issueGang (s : State) (w g : Nat) (lanes : List Nat) (mism ahead : Nat) : Prep :=
  if !s.mayIssue w || s.gangStalls w g || s.yieldsNow w g then .done s
  else
    let x := s.gang w g
    if !x.handler && !x.pend.isEmpty then .done (s.deliverPending w g)
    else match x.reinject with
      | e :: rest => s.reinjectOne w g e rest mism
      | [] => s.issueThreads w g lanes mism ahead

/-- 01 R31: the gang and the lanes that a slice issues for when it is asked to issue for some: those of a run of another gang that has not ended first. -/
def State.issuesFor (s : State) (w g : Nat) (lanes : List Nat) : Nat × Nat × List Nat :=
  match s.runFirst w g with
  | some r => (r.wg, r.gang, r.lanes)
  | none => (w, g, lanes)

end Sys2Proof.Machine
end

