-- ==== Sys2Proof/Machine/Time.lean ====
section
/-! DEFINITION. The passing of time, and what changes from outside the machine (notes/assumptions/1.md). The clock domains (00 R8) advance by
any amounts, but none passes the moment at which an event of the opcode table is due that the spec ties to a clock. -/

namespace Sys2Proof.Machine

/-! ### Deadlines -/

/-- What is left until the earliest of some moments of a clock, at most `n`. -/
def timeLeft (clk n : Nat) (due : List Nat) : Nat := due.foldl (fun a d => min a (d - clk)) n

/-- The least of some numbers of clocks, at most `n`. -/
def clocksLeft (n : Nat) (left : List (Nat × Nat)) : Nat := left.foldl (fun a x => min a x.2) n

/-- 10 R294, R297: the clocks until a lathe's ramp ends, until the hint of a resting lathe expires, or until a group has been computed, with the lathe's clock. -/
def State.latheLeft (s : State) : List (Nat × Nat) :=
  let left (core l due : Nat) : Nat × Nat := (clockLathe core l, due - s.latheClk core l)
  (s.lathes.filterMap fun x => match x.phase, x.h with
    | .rampUp, _ | .rampDown, _ => some (left x.core x.idx x.due)
    | .ready, some h => if (s.latheQueue x.core x.idx).isEmpty then some (left x.core x.idx h) else none
    | _, _ => none) ++
  s.eops.filterMap fun o => match o.due with
    | some d => if s.opRuns o && s.latheHead (s.opCore o) o.lathe == some o && !s.tileBusy o (mblockOf o.block).tile then some (left (s.opCore o) o.lathe d)
      else none
    | none => none

/-- 01 R47: the slice clocks at which a waiting workgroup qualifies. -/
def State.yieldDue (s : State) : List Nat :=
  s.wgs.filterMap fun w => match w.idle with
    | some t => if w.qualifies.isNone && s.wgIdle w then some (max t w.residentSince + yieldClocks) else none
    | none => none

/-- 05 R140, R141: whether a rank's silence is counted. -/
def ProgEntry.counts (e : ProgEntry) : Bool := e.state < 2

/-- 05 R141: the spindle clocks at which a rank's silence reaches its bound. -/
def State.quietDue (s : State) : List Nat :=
  (s.parts.filter fun q => q.bound).flatMap fun q =>
    ((q.prog.take q.nrank).filter ProgEntry.counts).map fun e => s.spindleClk + (q.quietMax - e.quiet)

/-- 05 R146: the clocks until a reduction's timer tests: when its clock has ended. -/
def State.timerLeft (s : State) : List (Nat × Nat) :=
  s.reds.flatMap fun r => r.steps.filterMap fun x => x.timer.map fun t => (s.redUnit r.part r.redid, t + 1 - s.redClk r.part r.redid)

/-- 14 R366: the headstock clocks at which a waiting cluster or node moves up. -/
def State.headDue (s : State) : List Nat :=
  (s.clusters.filter fun c => (c.st == .queued || c.st == .switchedOut) && c.level < 3).map (fun c => c.waitFrom + agingClocks) ++
  (s.nodes.filter fun n => n.eligible && n.next < n.launch.clusters && n.level < 3).map fun n => n.waitFrom + agingClocks

/-- 17 R439: the seal clocks at which a job stops waiting. -/
def State.sealDue (s : State) : List Nat := (s.seals.filter fun j => j.waiting).map fun j => j.due

/-- 17 R427, R429: microseconds from the trigger by which a state of the hold-up sequence ends. -/
def HState.bound : HState → Option Nat
  | .quiescing => some 1000
  | .saving => some 17778
  | .bestEffort => some 19700
  | .recording => some 19800
  | _ => none

/-! ### Elapse -/

/-- 05 R141: an entry's silence grows. -/
def ProgEntry.age (n : Nat) (e : ProgEntry) : ProgEntry :=
  if e.counts then { e with quiet := min (2 ^ 30 - 1) (e.quiet + n) } else e

/-- 05 R141: the silence of the ranks of a bound group grows. -/
def Part.age (q : Part) (n : Nat) : Part :=
  if q.bound then { q with prog := (q.prog.take q.nrank).map (ProgEntry.age n) ++ q.prog.drop q.nrank } else q

/-- 01 R47: since when a workgroup waits, as time begins to pass; one that waits no longer does not qualify. -/
def State.markIdle (s : State) : State :=
  { s with wgs := s.wgs.map fun w =>
      if s.wgIdle w then { w with idle := some (w.idle.getD s.sliceClk) } else { w with idle := none, qualifies := none } }

/-- 17 R427: microseconds of the hold-up sequence pass. -/
def State.holdupTime (s : State) (us : Nat) : State :=
  match s.holdup.bound with
  | some b => { s with usTrigger := s.usTrigger + min us (b - s.usTrigger) }
  | none => s

/-- Time passes in every clock domain. -/
def State.elapse (s0 : State) (slice spindle head sealer mon us : Nat) : State :=
  let s := s0.markIdle
  let dsp := clocksLeft (timeLeft s.spindleClk spindle s.quietDue) s.timerLeft
  let dm := min mon (min (2 ^ 20 - s.monClk) (2 ^ 20 - s.sampleClk))
  { s with
    sliceClk := s.sliceClk + clocksLeft (timeLeft s.sliceClk slice s.yieldDue) s.latheLeft
    spindleClk := s.spindleClk + dsp
    headClk := s.headClk + timeLeft s.headClk head s.headDue
    sealClk := s.sealClk + timeLeft s.sealClk sealer s.sealDue
    monClk := s.monClk + dm
    sampleClk := s.sampleClk + dm
    parts := s.parts.map fun (q : Part) => q.age dsp }.holdupTime us

/-- 00 R8, 01 R35: the clock of one slice, lathe or spindle counts more than the others of its domain have counted. -/
def State.driftBy (s : State) (unit n : Nat) : State :=
  let m := clocksLeft n ((s.latheLeft ++ s.timerLeft).filter fun x => x.1 == unit)
  { s with drift := Machine.store s.drift unit (lookupD s.drift unit 0 + m) }

/-! ### Changes from outside -/

/-- 16 R403: a translation leaves a unit's cache. -/
def State.evict (s : State) (unit va : Nat) : State :=
  { s with tlb := s.tlb.filter fun e => !(e.unit == unit && e.va ≤ va && va < e.va + e.span) }

/-- The host writes its own memory: its bytes hold no earlier release (04 R120). -/
def State.hostWrites (s : State) (a : Nat) (bs : List Byte) : State :=
  let (s1, item) := s.noteItem .host .outer
  { s1 with
    hostMem := setBytes s.hostMem a bs
    hb := s1.outerTags (s1.hb.written (.host a) bs.length item) .host (.host a) bs.length item }

/-- A peer writes its own memory. -/
def State.peerWrites (s : State) (k : Nat) (bs : List Byte) : State := if isPeer k then s.outerWrite .peer k bs else s

/-- 03 R89: a word of a local store becomes uncorrectable. -/
def State.poisonLs (s : State) (w word : Nat) : State :=
  s.updWg w fun x => if x.poison.contains word then x else { x with poison := word :: x.poison }

/-- 16 R400, 10 R278: a word of this package's memory becomes uncorrectable. -/
def State.poisonMem (s : State) (pa : Nat) : State :=
  if isPeer pa || s.poison.contains (pa / 8) then s else { s with poison := pa / 8 :: s.poison }

/-- 15 R393: a 1 KiB block of a local store no longer holds data. -/
def State.loseBlock (s : State) (core block : Nat) : State :=
  if s.sticky.contains (core, block) then s else { s with sticky := (core, block) :: s.sticky }

/-- 03 R103, 05 R134: system software, here or at a peer, advances a step. -/
def State.advanceStep (s : State) (die idx : Nat) (step : Word) : State := s.installStep die idx step

/-- 03 R102: system software makes a page versioned: its record gets its first step. -/
def State.makeVersioned (s : State) (die idx : Nat) (step : Word) : State := (s.setStep die idx step).wake (.ver die idx)

/-- A change from outside the machine; an issue or an event is none. -/
def State.outside (s : State) : Action → State
  | .issue .. | .event _ => s
  | .elapse a b c d e f => s.elapse a b c d e f
  | .drift unit n => s.driftBy unit n
  | .evict unit va => s.evict unit va
  | .hostWrite a bs => s.hostWrites a bs
  | .peerWrite k bs => s.peerWrites k bs
  | .poisonLocal w word => s.poisonLs w word
  | .poisonGlobal pa => s.poisonMem pa
  | .sticky core block => s.loseBlock core block
  | .setStep die idx step => s.advanceStep die idx step
  | .newVersion die idx step => s.makeVersioned die idx step
  | .power on energy watts => { s with energy := energy, supply := s.supply || on, powerW := watts }
  | .source id => s.startSend id
  | .loading vf value => s.gloadBegin vf value.toNat
  | .registerRead vf bar off size => s.registerRead vf bar off size
  | .device n => { s with devNum := n }
  | .shut l => { s with shut := l }
  | .epmap d x => { s with epmap := Machine.store s.epmap d x }

end Sys2Proof.Machine
end

