-- ==== Sys2Proof/Machine/Boot.lean ====
section
/-! DEFINITION. One instruction placed where the next step fetches (spec/06 R150, R151): a line that holds it in slot 0, and the thread, workgroup,
node and running partition that a kick would have made for it (notes/assumptions/6.md). -/

namespace Sys2Proof.Machine

/-- 06 R151: the line word of a line whose slot 0 has `TGT` set. -/
def lineWordFor (words : List Nat) (paired : Bool) : Nat :=
  let spar := (words.zipIdx).foldl (fun a x => a + (if oddParity x.1 32 then 2 ^ (16 + x.2) else 0)) 0
  let w := spar + 2 ^ 5 + paired.toNat
  w + (if oddParity w 31 then 2 ^ 31 else 0)

/-- 06 R150: the line that holds a slot of 96 bits and, after it, slots of zeros. -/
def lineFor (slot : Nat) (paired : Bool) : Nat :=
  let words := (List.range 15).map fun k => if k < 3 then bits slot (32 * k + 31) (32 * k) else 0
  slot % 2 ^ 96 + 2 ^ 240 * (2 ^ 240 * lineWordFor words paired)

/-- The key of the placed line. -/
def bootText : Nat := 0x10000

/-- The launch of one gang of one thread, with every vector register declared. -/
def bootLaunch : Launch :=
  { text := bootText, stages := [{ nx := 1, ny := 1, nz := 1, eline := 0, eslot := 0 }], gw := 8, vregs := 256, lskib := 64 }

/-- One thread of one gang at the placed line, at handler level where the instruction asks for it, in partition 0, which owns the line's granule. -/
def State.withThread (s : State) (handler : Bool) : State :=
  let t := (newThreads bootLaunch s.uid 0).map fun t => { t with pc := BitVec.ofNat 64 bootText, line := none, skipBkpt := true }
  let page : Tlb :=
    { unit := unitCore 0, part := 0, va := bootText, span := 65536, base := bootText, dev := none, x := true, w := true, vers := none }
  { s with
    uid := s.uid + 3
    holdup := if s.holdup.bound.isSome then .armed else s.holdup
    parts := updWhere (fun q => q.idx == 0) (fun q => { q with st := .running, qact := 1, qmask := 1 }) s.parts
    gmap := Machine.store s.gmap 0 0
    tlb := page :: s.tlb.filter fun e => e.unit != unitCore 0
    nodes := { uid := s.uid + 2, part := 0, launch := bootLaunch, eligible := true, next := 1 } :: s.nodes
    clusters := { uid := s.uid + 1, node := s.uid + 2, clid := 0, cx := 0, cy := 0, cz := 0, level := 0, st := .resident } :: s.clusters
    wgs := { uid := s.uid, cluster := s.uid + 1, rank := 0, x := 0, y := 0, z := 0, num := 0, st := .resident, g := List.replicate 96 0 } :: s.wgs
    gangs := { wg := s.uid, idx := 0, stage := 0, num := 0, handler := handler } :: s.gangs
    threads := t ++ s.threads
    slices := s.slices.filter fun x => x.core != 0 }

/-- The instruction's line placed, one thread before it, and its issue next. -/
def State.boot (s : State) (nbits w : Nat) : State :=
  let paired : Bool := nbits ≤ 48
  let handler := match decodeTableWord nbits w with
    | some i => i.privileged
    | none => false
  let s1 := s.withThread handler
  { s1 with
    mem := setNum s1.mem bootText 64 (lineFor w paired)
    poison := s1.poison.filter fun k => !(bootText ≤ 8 * k && 8 * k < bootText + 64)
    agenda := .issue s.uid 0 [0] 0 0 :: s1.agenda }

end Sys2Proof.Machine
end

