-- ==== Sys2Proof/Machine/Dispatch.lean ====
section
/-! DEFINITION. The dispatch: one arm per row of spec/opcode_table.json. -/

namespace Sys2Proof.Machine

/-- What an instruction or event does. -/
def exec (i : Instr) (s : State) : Host.Outcome State Fault Refusal :=
  match i with
  | .nop => Sys2Proof.Machine.execNop s
  | .br g t => Sys2Proof.Machine.execBr g t s
  | .brpAny g p mask t => Sys2Proof.Machine.execBrpAny g p mask t s
  | .brpAll g p mask t => Sys2Proof.Machine.execBrpAll g p mask t s
  | .call g t => Sys2Proof.Machine.execCall g t s
  | .ret g => Sys2Proof.Machine.execRet g s
  | .exit g => Sys2Proof.Machine.execExit g s
  | .meet g t => Sys2Proof.Machine.execMeet g t s
  | .meetClr g => Sys2Proof.Machine.execMeetClr g s
  | .yield g => Sys2Proof.Machine.execYield g s
  | .trap g code => Sys2Proof.Machine.execTrap g code s
  | .pand o => Sys2Proof.Machine.execPand o s
  | .por o => Sys2Proof.Machine.execPor o s
  | .pxor o => Sys2Proof.Machine.execPxor o s
  | .pandn o => Sys2Proof.Machine.execPandn o s
  | .pnot o => Sys2Proof.Machine.execPnot o s
  | .pmov o => Sys2Proof.Machine.execPmov o s
  | .ppack o => Sys2Proof.Machine.execPpack o s
  | .punpack o => Sys2Proof.Machine.execPunpack o s
  | .pcnt o => Sys2Proof.Machine.execPcnt o s
  | .add o m => Sys2Proof.Machine.execAdd o m s
  | .sub o m => Sys2Proof.Machine.execSub o m s
  | .mul o => Sys2Proof.Machine.execMul o s
  | .mulh o => Sys2Proof.Machine.execMulh o s
  | .mad o sat => Sys2Proof.Machine.execMad o sat s
  | .madh o => Sys2Proof.Machine.execMadh o s
  | .min o => Sys2Proof.Machine.execMin o s
  | .max o => Sys2Proof.Machine.execMax o s
  | .abs o sat => Sys2Proof.Machine.execAbs o sat s
  | .neg o sat => Sys2Proof.Machine.execNeg o sat s
  | .and o => Sys2Proof.Machine.execAnd o s
  | .or o => Sys2Proof.Machine.execOr o s
  | .xor o => Sys2Proof.Machine.execXor o s
  | .andn o => Sys2Proof.Machine.execAndn o s
  | .not o => Sys2Proof.Machine.execNot o s
  | .shl o => Sys2Proof.Machine.execShl o s
  | .shr o => Sys2Proof.Machine.execShr o s
  | .rol o => Sys2Proof.Machine.execRol o s
  | .ror o => Sys2Proof.Machine.execRor o s
  | .fshR o wrap => Sys2Proof.Machine.execFshR o wrap s
  | .fshL o wrap => Sys2Proof.Machine.execFshL o wrap s
  | .popc o => Sys2Proof.Machine.execPopc o s
  | .clz o => Sys2Proof.Machine.execClz o s
  | .brev o => Sys2Proof.Machine.execBrev o s
  | .fxt o => Sys2Proof.Machine.execFxt o s
  | .fins o => Sys2Proof.Machine.execFins o s
  | .bsel o fill => Sys2Proof.Machine.execBsel o fill s
  | .cmp o cond comb => Sys2Proof.Machine.execCmp o cond comb s
  | .sel o => Sys2Proof.Machine.execSel o s
  | .mov o => Sys2Proof.Machine.execMov o s
  | .lea o k => Sys2Proof.Machine.execLea o k s
  | .sreg o => Sys2Proof.Machine.execSreg o s
  | .gmov o => Sys2Proof.Machine.execGmov o s
  | .gld o sp => Sys2Proof.Machine.execGld o sp s
  | .fadd o r => Sys2Proof.Machine.execFadd o r s
  | .fsub o r => Sys2Proof.Machine.execFsub o r s
  | .fmul o r => Sys2Proof.Machine.execFmul o r s
  | .ffma o r => Sys2Proof.Machine.execFfma o r s
  | .fmin o => Sys2Proof.Machine.execFmin o s
  | .fmax o => Sys2Proof.Machine.execFmax o s
  | .fminnum o => Sys2Proof.Machine.execFminnum o s
  | .fmaxnum o => Sys2Proof.Machine.execFmaxnum o s
  | .fabs o => Sys2Proof.Machine.execFabs o s
  | .fneg o => Sys2Proof.Machine.execFneg o s
  | .fcmp o cond comb => Sys2Proof.Machine.execFcmp o cond comb s
  | .fclassV o => Sys2Proof.Machine.execFclassV o s
  | .fclassP o => Sys2Proof.Machine.execFclassP o s
  | .rcp o r => Sys2Proof.Machine.execRcp o r s
  | .sqrt o r => Sys2Proof.Machine.execSqrt o r s
  | .rsq o => Sys2Proof.Machine.execRsq o s
  | .exp2 o => Sys2Proof.Machine.execExp2 o s
  | .log2 o => Sys2Proof.Machine.execLog2 o s
  | .sin o => Sys2Proof.Machine.execSin o s
  | .cos o => Sys2Proof.Machine.execCos o s
  | .cvt o m => Sys2Proof.Machine.execCvt o m s
  | .xperm o => Sys2Proof.Machine.execXperm o s
  | .xbc o => Sys2Proof.Machine.execXbc o s
  | .xbcFirst o => Sys2Proof.Machine.execXbcFirst o s
  | .xred o x => Sys2Proof.Machine.execXred o x s
  | .xscan o x excl => Sys2Proof.Machine.execXscan o x excl s
  | .xvoteAny o => Sys2Proof.Machine.execXvoteAny o s
  | .xvoteAll o => Sys2Proof.Machine.execXvoteAll o s
  | .xvoteBallot o => Sys2Proof.Machine.execXvoteBallot o s
  | .xmatch o => Sys2Proof.Machine.execXmatch o s
  | .rngNext o => Sys2Proof.Machine.execRngNext o s
  | .rngJump o => Sys2Proof.Machine.execRngJump o s
  | .ldg o w => Sys2Proof.Machine.execLdg o w s
  | .stg o w => Sys2Proof.Machine.execStg o w s
  | .atg o m => Sys2Proof.Machine.execAtg o m s
  | .ldl o w => Sys2Proof.Machine.execLdl o w s
  | .stl o w => Sys2Proof.Machine.execStl o w s
  | .atl o m => Sys2Proof.Machine.execAtl o m s
  | .ldn o w => Sys2Proof.Machine.execLdn o w s
  | .stn o w => Sys2Proof.Machine.execStn o w s
  | .atn o m => Sys2Proof.Machine.execAtn o m s
  | .ldh o w => Sys2Proof.Machine.execLdh o w s
  | .sth o w => Sys2Proof.Machine.execSth o w s
  | .ath o m => Sys2Proof.Machine.execAth o m s
  | .ldv o w => Sys2Proof.Machine.execLdv o w s
  | .mcas o order => Sys2Proof.Machine.execMcas o order s
  | .fence g order scope => Sys2Proof.Machine.execFence g order scope s
  | .phi o sp => Sys2Proof.Machine.execPhi o sp s
  | .arv o sp => Sys2Proof.Machine.execArv o sp s
  | .arvb o sp => Sys2Proof.Machine.execArvb o sp s
  | .wph o sp => Sys2Proof.Machine.execWph o sp s
  | .wphTry o sp => Sys2Proof.Machine.execWphTry o sp s
  | .cbget o => Sys2Proof.Machine.execCbget o s
  | .cbput o => Sys2Proof.Machine.execCbput o s
  | .vpub o => Sys2Proof.Machine.execVpub o s
  | .publish o => Sys2Proof.Machine.execPublish o s
  | .publishWriteout part win => Sys2Proof.Machine.execPublishWriteout part win s
  | .gcp o => Sys2Proof.Machine.execGcp o s
  | .gst o => Sys2Proof.Machine.execGst o s
  | .gpl o => Sys2Proof.Machine.execGpl o s
  | .ofence g => Sys2Proof.Machine.execOfence g s
  | .mma o => Sys2Proof.Machine.execMma o s
  | .mhint o => Sys2Proof.Machine.execMhint o s
  | .drain o => Sys2Proof.Machine.execDrain o s
  | .cxBind o => Sys2Proof.Machine.execCxBind o s
  | .cxSend o => Sys2Proof.Machine.execCxSend o s
  | .cxArm o => Sys2Proof.Machine.execCxArm o s
  | .cxCtrGet o => Sys2Proof.Machine.execCxCtrGet o s
  | .cxCtrSet o => Sys2Proof.Machine.execCxCtrSet o s
  | .cxCtrLink o => Sys2Proof.Machine.execCxCtrLink o s
  | .cxCtrUnlink o => Sys2Proof.Machine.execCxCtrUnlink o s
  | .cxRed o => Sys2Proof.Machine.execCxRed o s
  | .stepAdv o sp => Sys2Proof.Machine.execStepAdv o sp s
  | .stepGet o => Sys2Proof.Machine.execStepGet o s
  | .stepGetLim o => Sys2Proof.Machine.execStepGetLim o s
  | .fork o => Sys2Proof.Machine.execFork o s
  | .keepDeclMust o => Sys2Proof.Machine.execKeepDeclMust o s
  | .keepDeclBest o => Sys2Proof.Machine.execKeepDeclBest o s
  | .keepDeclDrop o => Sys2Proof.Machine.execKeepDeclDrop o s
  | .keepQryUse o => Sys2Proof.Machine.execKeepQryUse o s
  | .keepQryRec o => Sys2Proof.Machine.execKeepQryRec o s
  | .keepQryLd o => Sys2Proof.Machine.execKeepQryLd o s
  | .csrr o csr => Sys2Proof.Machine.execCsrr o csr s
  | .csrw o csr => Sys2Proof.Machine.execCsrw o csr s
  | .csrwSet o csr => Sys2Proof.Machine.execCsrwSet o csr s
  | .csrwClr o csr => Sys2Proof.Machine.execCsrwClr o csr s
  | .iret g => Sys2Proof.Machine.execIret g s
  | .iretKill g => Sys2Proof.Machine.execIretKill g s
  | .rqRd o => Sys2Proof.Machine.execRqRd o s
  | .rqWr o => Sys2Proof.Machine.execRqWr o s
  | .tlbsdAll g => Sys2Proof.Machine.execTlbsdAll g s
  | .tlbsdVa o => Sys2Proof.Machine.execTlbsdVa o s
  | .shootdownComplete id => Sys2Proof.Machine.execShootdownComplete id s
  | .sealMeas o => Sys2Proof.Machine.execSealMeas o s
  | .sealImg o => Sys2Proof.Machine.execSealImg o s
  | .sealRst o => Sys2Proof.Machine.execSealRst o s
  | .hmRd o => Sys2Proof.Machine.execHmRd o s
  | .nopCompact => Sys2Proof.Machine.execNopCompact s
  | .addCompact o => Sys2Proof.Machine.execAddCompact o s
  | .subCompact o => Sys2Proof.Machine.execSubCompact o s
  | .minCompact o => Sys2Proof.Machine.execMinCompact o s
  | .maxCompact o => Sys2Proof.Machine.execMaxCompact o s
  | .absCompact o => Sys2Proof.Machine.execAbsCompact o s
  | .negCompact o => Sys2Proof.Machine.execNegCompact o s
  | .mulCompact o => Sys2Proof.Machine.execMulCompact o s
  | .madCompact o => Sys2Proof.Machine.execMadCompact o s
  | .andCompact o => Sys2Proof.Machine.execAndCompact o s
  | .orCompact o => Sys2Proof.Machine.execOrCompact o s
  | .xorCompact o => Sys2Proof.Machine.execXorCompact o s
  | .andnCompact o => Sys2Proof.Machine.execAndnCompact o s
  | .notCompact o => Sys2Proof.Machine.execNotCompact o s
  | .shlCompact o => Sys2Proof.Machine.execShlCompact o s
  | .shrCompact o => Sys2Proof.Machine.execShrCompact o s
  | .movCompact o => Sys2Proof.Machine.execMovCompact o s
  | .faddCompact o => Sys2Proof.Machine.execFaddCompact o s
  | .fsubCompact o => Sys2Proof.Machine.execFsubCompact o s
  | .fmulCompact o => Sys2Proof.Machine.execFmulCompact o s
  | .ffmaCompact o => Sys2Proof.Machine.execFfmaCompact o s
  | .fminCompact o => Sys2Proof.Machine.execFminCompact o s
  | .fmaxCompact o => Sys2Proof.Machine.execFmaxCompact o s
  | .fminnumCompact o => Sys2Proof.Machine.execFminnumCompact o s
  | .fmaxnumCompact o => Sys2Proof.Machine.execFmaxnumCompact o s
  | .fabsCompact o => Sys2Proof.Machine.execFabsCompact o s
  | .fnegCompact o => Sys2Proof.Machine.execFnegCompact o s
  | .lineEntry wg gang lane => Sys2Proof.Machine.execLineEntry wg gang lane s
  | .breakpoint wg gang lane => Sys2Proof.Machine.execBreakpoint wg gang lane s
  | .trapEntry wg gang => Sys2Proof.Machine.execTrapEntry wg gang s
  | .loadReturn req answer => Sys2Proof.Machine.execLoadReturn req answer s
  | .storeBufferApply wg idx => Sys2Proof.Machine.execStoreBufferApply wg idx s
  | .rdcLineEvict die line ok => Sys2Proof.Machine.execRdcLineEvict die line ok s
  | .fabricRequest req => Sys2Proof.Machine.execFabricRequest req s
  | .peerAtomic req => Sys2Proof.Machine.execPeerAtomic req s
  | .yieldThreshold wg => Sys2Proof.Machine.execYieldThreshold wg s
  | .clusterSwitchOut cluster => Sys2Proof.Machine.execClusterSwitchOut cluster s
  | .clusterPlace part => Sys2Proof.Machine.execClusterPlace part s
  | .agingPromotion q => Sys2Proof.Machine.execAgingPromotion q s
  | .workgroupRetire wg => Sys2Proof.Machine.execWorkgroupRetire wg s
  | .deterministicEarlyFree cluster => Sys2Proof.Machine.execDeterministicEarlyFree cluster s
  | .cbufProducerClaim op => Sys2Proof.Machine.execCbufProducerClaim op s
  | .gougeRowDone op => Sys2Proof.Machine.execGougeRowDone op s
  | .gstRowDone op => Sys2Proof.Machine.execGstRowDone op s
  | .gplPlaneDone op => Sys2Proof.Machine.execGplPlaneDone op s
  | .engineStop op => Sys2Proof.Machine.execEngineStop op s
  | .latheRampUpEnd core lathe => Sys2Proof.Machine.execLatheRampUpEnd core lathe s
  | .latheGroupDone group => Sys2Proof.Machine.execLatheGroupDone group s
  | .latheRampDownEnd core lathe => Sys2Proof.Machine.execLatheRampDownEnd core lathe s
  | .latheHintExpiry core lathe => Sys2Proof.Machine.execLatheHintExpiry core lathe s
  | .drainTileEvent op => Sys2Proof.Machine.execDrainTileEvent op s
  | .bindingNoticeArrival n => Sys2Proof.Machine.execBindingNoticeArrival n s
  | .contributionAdmission id => Sys2Proof.Machine.execContributionAdmission id s
  | .contributionArrival a => Sys2Proof.Machine.execContributionArrival a s
  | .reductionTimerExpiry part redid => Sys2Proof.Machine.execReductionTimerExpiry part redid s
  | .resultDelivery r => Sys2Proof.Machine.execResultDelivery r s
  | .chunkAck id => Sys2Proof.Machine.execChunkAck id s
  | .linkFailure link => Sys2Proof.Machine.execLinkFailure link s
  | .sendLanding part ctr pieces => Sys2Proof.Machine.execSendLanding part ctr pieces s
  | .sendAck id path => Sys2Proof.Machine.execSendAck id path s
  | .announcementReceived part rank step => Sys2Proof.Machine.execAnnouncementReceived part rank step s
  | .quietExpiry part rank => Sys2Proof.Machine.execQuietExpiry part rank s
  | .pcmdCreate part => Sys2Proof.Machine.execPcmdCreate part s
  | .pcmdStart part => Sys2Proof.Machine.execPcmdStart part s
  | .pcmdStop part => Sys2Proof.Machine.execPcmdStop part s
  | .stopComplete part => Sys2Proof.Machine.execStopComplete part s
  | .pcmdReset part => Sys2Proof.Machine.execPcmdReset part s
  | .resetComplete part => Sys2Proof.Machine.execResetComplete part s
  | .pcmdResize part => Sys2Proof.Machine.execPcmdResize part s
  | .gmapWrite granule value => Sys2Proof.Machine.execGmapWrite granule value s
  | .granuleScrubDone granule => Sys2Proof.Machine.execGranuleScrubDone granule s
  | .registerWrite w => Sys2Proof.Machine.execRegisterWrite w s
  | .tgCsrWrite vf csr value => Sys2Proof.Machine.execTgCsrWrite vf csr value s
  | .hostWindowOpen vf win => Sys2Proof.Machine.execHostWindowOpen vf win s
  | .hostWindowClose vf win => Sys2Proof.Machine.execHostWindowClose vf win s
  | .kick vf value => Sys2Proof.Machine.execKick vf value s
  | .gload vf value => Sys2Proof.Machine.execGload vf value s
  | .gloadUnload vf value => Sys2Proof.Machine.execGloadUnload vf value s
  | .vacate vf value => Sys2Proof.Machine.execVacate vf value s
  | .apertureWrite vf off bytes => Sys2Proof.Machine.execApertureWrite vf off bytes s
  | .apertureRead vf off len => Sys2Proof.Machine.execApertureRead vf off len s
  | .supplyUndervoltage => Sys2Proof.Machine.execSupplyUndervoltage s
  | .thermalTrip => Sys2Proof.Machine.execThermalTrip s
  | .reserveFault => Sys2Proof.Machine.execReserveFault s
  | .reserveCharged => Sys2Proof.Machine.execReserveCharged s
  | .quiesceComplete => Sys2Proof.Machine.execQuiesceComplete s
  | .guaranteedSaveComplete => Sys2Proof.Machine.execGuaranteedSaveComplete s
  | .bestEffortEnd => Sys2Proof.Machine.execBestEffortEnd s
  | .restartRecordsComplete => Sys2Proof.Machine.execRestartRecordsComplete s
  | .hmEvent kind => Sys2Proof.Machine.execHmEvent kind s
  | .hmDecay => Sys2Proof.Machine.execHmDecay s
  | .hmTempSample temp => Sys2Proof.Machine.execHmTempSample temp s
  | .sealPeerRequest dev lin c => Sys2Proof.Machine.execSealPeerRequest dev lin c s
  | .sealAckReceived job dev counter ack => Sys2Proof.Machine.execSealAckReceived job dev counter ack s
  | .sealTmoExpiry job => Sys2Proof.Machine.execSealTmoExpiry job s
  | .sealAttestationReceived lin c => Sys2Proof.Machine.execSealAttestationReceived lin c s
  | .powerUp => Sys2Proof.Machine.execPowerUp s
  | .unitReady => Sys2Proof.Machine.execUnitReady s
  | .pcieCompletionTimeout req => Sys2Proof.Machine.execPcieCompletionTimeout req s
  | .sealEngineDone job => Sys2Proof.Machine.execSealEngineDone job s

end Sys2Proof.Machine
end

