-- ==== Sys2Proof/Machine/Fair.lean ====
section
/-! DEFINITION. What happens next (notes/assumptions/1.md): what the schedule says, and, so that the machine makes the progress that 01 R48 promises, from time
to time the next of what the device itself has to do, each in its turn. -/

/-- A free value: what happens next, at each step (notes/assumptions/1.md). -/
opaque Sys2Proof.Config.schedule : Nat → Sys2Proof.Machine.Action

/-- 01 R48: how many steps in a row the schedule may choose before what the device has to do gets its next turn (notes/assumptions/1.md). -/
opaque Sys2Proof.Config.patience : Nat

namespace Sys2Proof.Machine

/-! ### What the device has to do -/

/-- 01 R48: gangs issue. -/
def State.gangChores (s : State) : List Action :=
  s.gangs.map fun g => .issue g.wg g.idx ((s.gangThreads g.wg g.idx).map fun t => t.lane) 0 0

/-- 01 R38, R47, 04 R125, 09 R272, 14 R357, R366, R370, R372: buffered stores are applied, windows written out and graphs loaded; workgroups qualify, and retire;
clusters move up, leave, are placed and are freed. -/
def State.headChores (s : State) : List Instr :=
  (s.wgs.flatMap fun w => [.storeBufferApply w.uid 0, .yieldThreshold w.uid, .workgroupRetire w.uid]) ++
  (s.clusters.flatMap fun c => [.agingPromotion (.cluster c.uid), .clusterSwitchOut c.uid, .deterministicEarlyFree c.uid]) ++
  (s.nodes.map fun n => .agingPromotion (.node n.uid)) ++
  (s.parts.flatMap fun q => [.clusterPlace q.idx, .stopComplete q.idx, .resetComplete q.idx]) ++
  (s.parts.flatMap fun q => q.publishes.map fun x => .publishWriteout q.idx x.1) ++
  (s.gloads.map fun x => .gload x.vf (BitVec.ofNat 64 x.value)) ++
  (s.scrub.map fun x => .granuleScrubDone x.1) ++
  (s.shoots.map fun r => .shootdownComplete r.id)

/-- 10 R275 to R297: engine operations and lathes go on. -/
def State.engineChores (s : State) : List Instr :=
  (s.eops.flatMap fun o => [.engineStop o.uid] ++ (match o.kind with
    | .gcp => [.cbufProducerClaim o.uid, .gougeRowDone o.uid]
    | .gst => [.gstRowDone o.uid]
    | .gpl => [.gplPlaneDone o.uid]
    | .mma => [.latheGroupDone { op := o.uid, mism := 0 }]
    | .drain => [.drainTileEvent o.uid])) ++
  (s.lathes.flatMap fun x => [.latheRampUpEnd x.core x.idx, .latheRampDownEnd x.core x.idx, .latheHintExpiry x.core x.idx]) ++
  (s.seals.flatMap fun j => [.sealEngineDone j.uid, .sealTmoExpiry j.uid])

/-- 05 R141, R146, R148, 10 R302, R304, R307: sends, contributions, reductions and ranks go on. What another root does is not this device's to do: its admission of a
contribution and its refusal of a handle come from outside. -/
def State.spindleChores (s : State) : List Instr :=
  (s.sends.flatMap fun x => [.engineStop x.uid, .sendAck x.uid true, .sendAck x.uid false]) ++
  ((s.contribs.filter fun c => s.rootHere c || s.verdict c == some false).map fun c => .engineStop c.uid) ++
  ((s.contribs.filter s.rootHere).flatMap fun c => [.contributionAdmission c.uid,
    .contributionArrival { part := c.part, redid := c.redid, dev := none, slot := c.slot, step := c.step, words := c.words }]) ++
  (s.reds.map fun r => .reductionTimerExpiry r.part r.redid) ++
  (s.results.map fun c => .resultDelivery c.msg) ++
  (s.landing.map fun l => .resultDelivery l.msg) ++
  (s.parts.flatMap fun q => (List.range q.nrank).map fun r => .quietExpiry q.idx r)

/-- 17 R433: the health monitor's decay and its sample, of a temperature that is not the program's to know. -/
def State.monitorChores (s : State) : List Instr := [.hmDecay, .hmTempSample ((s.free [40]).toNat % 2 ^ 16)]

/-- 01 R48: everything that the device has to do: what is not due when its turn comes changes nothing. Each clock counts. -/
def State.chores (s : State) : List Action :=
  s.gangChores ++ (s.headChores ++ s.engineChores ++ s.spindleChores ++ s.monitorChores).map Action.event ++
  (s.sends.map fun x => .source x.uid) ++ [.elapse 1 1 1 1 1 1]

/-! ### What happens next -/

/-- 01 R31: whether what is to be done next must wait for runs of other gangs on its slice. -/
def State.afterRuns (s : State) : Action → Bool
  | .issue w g .. => (s.runFirst w g).isSome
  | _ => false

/-- What has its turn, what is to have its turn after it, and whether the first of that is owed its turn as soon as it need not wait. -/
structure Turn where
  act : Action
  after : List Action
  owed : Bool
  deriving DecidableEq, Repr

/-- The first of some actions that need not wait for a run, ahead of `a`, whose turn it was and which is owed it. -/
def State.passes (s : State) (a : Action) (r : List Action) : Option Turn :=
  (r.find? fun b => !s.afterRuns b).map fun b => { act := b, after := a :: r.erase b, owed := true }

/-- 01 R48: what the device has to do next, where that is its turn. A gang whose slice has runs of others to end first (01 R31) lets what need not wait pass, and is
owed its turn from then on: it has it at the first step at which no run is in its way. -/
def State.turn (s : State) : Option Turn :=
  if s.since < Config.patience && !s.owed then none
  else match (if s.turns.isEmpty then s.chores else s.turns) with
    | [] => none
    | a :: r =>
      if !s.afterRuns a then some { act := a, after := r, owed := false }
      else if s.since < Config.patience then none
      else if r.all s.afterRuns then s.passes a (r ++ s.chores)
      else s.passes a r

/-- The next action: the first of the agenda; with none, what has its turn, or what the schedule says. -/
def State.action (s : State) : Action :=
  match s.agenda with
  | a :: _ => a
  | [] => match s.turn with
    | some x => x.act
    | none => Config.schedule s.tick

/-- The state in which it happens: it is off the agenda, or has had its turn, and the step has its number. -/
def State.tickOn (s : State) : State :=
  let t := { s with agenda := s.agenda.tail, tick := s.tick + 1 }
  match s.agenda with
  | _ :: _ => t
  | [] => match s.turn with
    | some x => { t with turns := x.after, owed := x.owed, since := if x.owed then Config.patience - 1 else 0 }
    | none => { t with since := s.since + 1 }

end Sys2Proof.Machine
end

