-- ==== Sys2Proof/Machine/Step.lean ====
section
/-! DEFINITION. One step of the machine: the next action is an issue, an event of the opcode table, or a change from outside
(notes/assumptions/1.md). -/

namespace Sys2Proof.Machine

open Host (Outcome)

/-- A next state changed. -/
def afterNext (f : State → State) (o : Outcome State Fault Refusal) : Outcome State Fault Refusal :=
  match o with
  | .next s => .next (f s)
  | .fault x => .fault x
  | .refused r => .refused r

/-- What an issue for a gang comes to, carried out: the instruction, and what follows an issue of that gang (01 R26, R31, 15 R385). -/
def Prep.go (w g : Nat) : Prep → Outcome State Fault Refusal
  | .done s => .next (s.afterIssue w g)
  | .run i s => afterNext (fun s => s.afterIssue w g) (exec i s)

/-- An action carried out. Only what has no encoding happens as an event. -/
def State.act (s : State) : Action → Outcome State Fault Refusal
  | .issue w g lanes mism ahead =>
    let x := s.issuesFor w g lanes
    (s.issueGang x.1 x.2.1 x.2.2 mism ahead).go x.1 x.2.1
  | .event i => if (encode i).isNone then exec i s else .next s
  | a => .next (s.outside a)

/-- One step: the action, and then the gates that `step.adv` recorded, against the allowance that it left (05 R143, 10 R308). -/
def step (s : State) : Outcome State Fault Refusal := afterNext s.tickOn.settleGates (s.tickOn.act s.action)

/-- A state whose next step issues the instruction with these bits (notes/assumptions/6.md). -/
def State.withFetchWord (s : State) (nbits w : Nat) : State := s.boot nbits w

end Sys2Proof.Machine
end

