-- ==== Sys2Proof/Safety.lean ====
section
/-! DEFINITION. What a safe run is, the invariants that claims use, and the words in which claims describe an instruction: what it does
to each thread, where the threads stand afterwards, and what it pushes. -/

namespace Sys2Proof.Safety

open Sys2Proof.Machine

/-- A step answers a next state: it neither faults nor refuses. -/
def Goes (s : State) : Prop := ∃ t, step s = .next t

/-- 00 R4 and the canonical form of memories (see Mem): package memory, host memory and every local store are written down in one way. -/
def MemOk (s : State) : Prop :=
  Memory.wf s.mem = true ∧ Memory.wf s.hostMem = true ∧ ∀ w ∈ s.wgs, Memory.wf w.ls = true

/-! ### Threads before and after -/

/-- 01 R20, R21: `b` is `a` but for where it stands: its program counter, its breakpoint mark, and, where a meeting held or released it, its
state and meeting address. -/
def Moved (a b : Thread) : Prop :=
  b = { a with pc := b.pc, past := b.past, skipBkpt := b.skipBkpt, st := b.st, mt := b.mt } ∧
  (b.st = a.st ∨ (a.st = .ready ∧ b.st = .held) ∨ (a.st = .held ∧ b.st = .ready)) ∧
  (b.mt = a.mt ∨ b.mt = none) ∧
  (b.skipBkpt = a.skipBkpt ∨ b.skipBkpt = false)

/-- Where an instruction that does not branch leaves a thread: after the instruction for the threads of the issue, unless it was re-injected
(15 R385); where it stood for every other. -/
def nextPlace (s : State) (u : Thread) : DWord × Bool :=
  if s.inIssue u && !s.cur.replay then (s.cur.next, s.cur.past) else (u.pc, u.past)

/-- Every thread is changed by `write`, then stands at its `place`, with nothing else changed but by meetings. -/
def Threads (s : State) (write : Thread → Thread) (place : Thread → DWord × Bool) (th : List Thread) : Prop :=
  List.Forall₂ (fun u u' => Moved (write u) u' ∧ (u'.pc, u'.past) = place u) s.threads th

/-- A thread of the issue whose lane has captured sources is written; every other thread keeps all its registers. -/
def written (s : State) (caps : List Cap) (write : Thread → Cap → Thread) (u : Thread) : Thread :=
  if s.inIssue u then
    match caps.find? fun c => c.lane == u.lane with
    | some c => write u c
    | none => u
  else u

/-- 01 R30: the slices after an instruction that pushes what `x` gives for each capture, or pushes nothing. -/
def pushed (s : State) (caps : List Cap) (x : Cap → Nat) : Option Op → List Slice
  | some o => (s.push (caps.map fun c => { lane := c.lane, wide := o.wide, x := x c })).slices
  | none => s.slices

/-- 06 R157, R158, R159, 01 R30: an instruction with the fields of `o` completes; each lane that executes has its two results computed from its own captured
sources and written (where both name one predicate, one of them; see `settleBoth`), the first is pushed if the instruction pushes, the threads go to the next
operation, and every other piece of the machine is as it was. -/
def Computes (i : Instr) (o : Op) (caps : State → List Cap) (res : Cap → Nat × Bool) (write : Thread → Nat → Bool → Thread) (push : Bool) : Prop :=
  ∀ s : State, s.cur.mism < 2 →
    ∃ th, exec i s = .next { s with threads := th, slices := pushed s (caps s) (fun c => (res c).1) (if push then some o else none) } ∧
      Threads s (written s (caps s) fun u c => write u (settleBoth o s.cur.word c (res c)).1 (settleBoth o s.cur.word c (res c)).2) (nextPlace s) th

/-- `Computes` from the source fields of `o` read as `k` says, to its destinations. -/
def ComputesOp (i : Instr) (o : Op) (k : Kinds) (push : Bool) (f : Nat → Nat → Nat → Nat × Bool) : Prop :=
  Computes i o (fun s => s.captureOp k o) (fun c => f c.a c.b c.c) (writeBoth o) push

/-- `ComputesOp` for an instruction that writes one value read from the machine and pushes nothing. -/
def Reads (i : Instr) (o : Op) (k : Kinds) (f : State → Nat → Nat → Nat) : Prop :=
  ∀ s : State, s.cur.mism < 2 →
    ∃ th, exec i s = .next { s with threads := th } ∧
      Threads s (written s (s.captureOp k o) fun u c =>
        let r := settleBoth o s.cur.word c (f s c.a c.b, false)
        writeBoth o u r.1 r.2) (nextPlace s) th

/-- 07 R209: what `sreg` reads for a thread. -/
def specialValue (s : State) (t : Thread) : Src → Nat
  | .imm 23 => (s.clkOf t).toNat
  | .imm n => s.special32 t n
  | _ => 0

/-- `ComputesOp` on operands of the type of `o`, with one result, pushing. -/
def Computes3 (i : Instr) (o : Op) (f : Nat → Nat → Nat → Nat) : Prop :=
  ComputesOp i o { a := .ty o.ty, b := .ty o.ty, c := .ty o.ty } true fun a b c => (f a b c, false)

/-! ### What lets an instruction have its own effect -/

/-- 15 R395, R397: the checkers have not mismatched twice in this issue, and the copies of shadow threads agree. -/
def Acts (s : State) (caps : List Cap) : Prop := s.cur.mism < 2 ∧ s.shadowDiff caps sameCaps = []

/-- Whether a thread is one of the lanes that execute. -/
def runs (s : State) (caps : List Cap) (u : Thread) : Bool := s.inIssue u && (lanesOf caps).contains u.lane

/-- 01 R26: whether a gang has no Synchronising thread. -/
def NoneSync (s : State) (w g : Nat) : Prop := ∀ u ∈ s.threads, u.wg = w → u.gang = g → u.st ≠ .sync

/-- 01 R31: the slices after an instruction that ends the run of its slice where some lane executes. -/
def endedIf (s : State) (caps : List Cap) : List Slice := if caps.isEmpty then s.slices else s.endRun.slices

/-- What the threads of an issue bring to a meeting (01 R26): their lanes with their records. -/
def arrivals (s : State) (i : Instr) (g : Guard) (k : Kinds) (a b c : Src) : List (Nat × SyncRec) :=
  s.issued.map fun t =>
    let x := s.sources k a b c t
    (t.lane, { instr := i, at_ := s.cur.pc, next := s.cur.next, past := s.cur.past, mask := x.b % 2 ^ s.launch.maskW
               on := s.executes g t, a := x.a, c := x.c, word := s.cur.word })

/-- 01 R26: the threads of the issue are all that their gang has to wait for: the gang's lanes are distinct, none of its other threads
synchronises, no return from a trap is in progress, and every lane that a mask names is not live or in the issue. -/
def AllHere (s : State) (arr : List (Nat × SyncRec)) : Prop :=
  ((s.gangThreads s.cur.wg s.cur.gang).map (·.lane)).Nodup ∧ s.cur.replay = false ∧ (s.gang s.cur.wg s.cur.gang).returning = false ∧
  (∀ u ∈ s.gangThreads s.cur.wg s.cur.gang, s.inIssue u = true → u.pc = s.cur.pc ∧ u.live = true) ∧
  (∀ u ∈ s.gangThreads s.cur.wg s.cur.gang, s.inIssue u = false → u.st ≠ .sync) ∧
  ∀ x ∈ arr, ∀ j, j < s.launch.maskW → bitAt x.2.mask j = true →
    ∀ u ∈ s.gangThreads s.cur.wg s.cur.gang, u.lane = x.1 - x.1 % s.launch.maskW + j → u.live = true → s.inIssue u = true

/-- A cross-lane instruction whose members are all there completes: each thread of the issue gets what the meeting gives it, is Ready and stands
after the instruction; nothing else of the machine changes. -/
def Meets (i : Instr) (o : Op) (k : State → Kinds) : Prop :=
  ∀ s : State, s.cur.mism < 2 → AllHere s (arrivals s i o.guard (k s) o.a o.b o.c) →
    ∃ th, exec i s = .next { s with threads := th } ∧
      Threads s (fun u =>
        if s.inIssue u then
          match laneVal (arrivals s i o.guard (k s) o.a o.b o.c) u.lane with
          | some r =>
            { s.xWrite u r (xOutcome s.launch.maskW (arrivals s i o.guard (k s) o.a o.b o.c) u.lane r) with st := .ready, sync := none }
          | none => u
        else u) (nextPlace s) th

/-! ### Memory instructions -/

/-- 03 R85, 09 R245: the address of every lane passes its checks. -/
def Passes (f : Cap → Except Nat Place) (caps : List Cap) : Prop := ∀ c ∈ caps, ∃ p, f c = .ok p

/-- 03 R89: no lane reads an uncorrectable word of a local store. -/
def NonePoisoned (s : State) (f : Cap → Except Nat Place) (n : Nat) (caps : List Cap) : Prop :=
  ∀ c ∈ caps, ∀ w off, f c = .ok (.loc w off) → (s.wg w).lsBad off n = false

/-- 09 R246: what every lane reads is in this package: nothing has to be asked from outside, and a versioned line of a peer is held. -/
def NoneAsks (s : State) (sp : Space) (f : Cap → Except Nat Place) (n : Nat) (caps : List Cap) : Prop :=
  ∀ c ∈ caps, ∀ p, f c = .ok p → s.leaves s.cur.wg p n = false ∧
    (sp = .ver → ∀ k v, p = .mem k v → isPeer k = true →
      (s.rdcLine? s.die s.curPart (lineOf k)).map RdcLine.full = some true ∧ s.refused sp { cap := c, place := p } = false)

/-- 09 R244 to R246, R249: a load whose addresses pass, with nothing uncorrectable and nothing outside to ask, completes: each lane that executes gets the bytes at its
place, zero- or sign-extended, and its validity predicate set; one that a version refuses gets only the predicate cleared. Caches may fill, and the threads remember
what releases they have observed; nothing else changes. -/
def Loads (i : Instr) (sp : Space) (o : Op) (w : Width) : Prop :=
  ∀ s : State,
    let caps := s.captureOp (loadKinds sp (if sp == .ver then .n32 else .unused)) o
    let n := WF.widthBytes w
    let place (c : Cap) := s.place sp .read s.cur.wg (effAddr (wideSpace sp) c) n
    s.cur.mism < 2 → Passes place caps → NonePoisoned s place n caps → NoneAsks s sp place n caps →
    ∃ th tl h r vs, exec i s = .next { s with threads := th, tlb := tl, hot := h, rdc := r, hb := { s.hb with views := vs } } ∧
      Threads s (written s caps fun u c => match place c with
        | .ok p =>
          if s.refused sp { cap := c, place := p } then u.setPred o.d2 false
          else (u.writeDst o (widthWords w) (widen w (ofBytesLE (s.bytesAt c.lane p n)))).setPred o.d2 true
        | .error _ => u) (nextPlace s) th

/-! ### What a write does beside its bytes -/

/-- Nothing that a thread's write could race with is under way: no engine operation, send, contribution, armed send or seal job, no such command that has stopped, no `mcas` that waits, and no event
or engine operation that a thread has still to acquire: a write does nothing but write its bytes. -/
def Quiet (s : State) : Prop :=
  s.eops = [] ∧ s.sends = [] ∧ s.contribs = [] ∧ s.seals = [] ∧ (∀ q ∈ s.parts, q.armed = []) ∧ (∀ g ∈ s.gangs, g.mcas = [] ∧ ∀ e ∈ g.entries, e.kind = .instr ∨ ∃ u, e.kind = .store u) ∧
  ∀ u ∈ s.hb.pend, u.what = .store ∨ u.what = .rmw ∨ u.what = .outer ∨ ∃ n x, u.what = .reg n x

/-- 10 R277: an entry is another but for the mark that the block of its stopped command has been written since. -/
def SpoiledEntry (a b : Entry) : Prop :=
  b = a ∨ ∃ u n size bad, a.kind = .command u n size bad ∧ b = { a with kind := .command u n size true }

/-- 09 R260, 10 R277: a gang is another but for the marks of what it has issued and has still to complete or to issue again: `mcas` that wait, and the entries of stopped
commands, pending, in its frame or yet to be put back. -/
def SpoiledGang (a b : Gang) : Prop :=
  b = { a with mcas := b.mcas, pend := b.pend, frame := { a.frame with queue := b.frame.queue }, reinject := b.reinject, later := b.later } ∧
  List.Forall₂ (fun x y => y = { x with lanes := y.lanes } ∧ List.Forall₂ (fun (m k : McasLane) => k = { m with spoiled := k.spoiled }) x.lanes y.lanes)
    a.mcas b.mcas ∧
  List.Forall₂ (fun x y => y = { x with entry := y.entry } ∧ SpoiledEntry x.entry y.entry) a.pend b.pend ∧
  List.Forall₂ SpoiledEntry a.frame.queue b.frame.queue ∧ List.Forall₂ SpoiledEntry a.reinject b.reinject ∧ List.Forall₂ SpoiledEntry a.later b.later

/-- 10 R277, R304, R307: the sends, contributions, seal jobs, partitions and gangs of a state in which at most commands in flight or stopped have lost their blocks' fields, or
what they have not read. -/
def Marked (s : State) (se : List Send) (co : List Contrib) (sl : List SealJob) (pa : List Part) (ga : List Gang) : Prop :=
  List.Forall₂ (fun a b => b = { a with undef := b.undef, spoiled := b.spoiled }) s.sends se ∧
  List.Forall₂ (fun a b => b = { a with undef := b.undef, spoiled := b.spoiled }) s.contribs co ∧
  List.Forall₂ (fun a b => b = { a with spoiled := b.spoiled }) s.seals sl ∧
  List.Forall₂ (fun a b => b = { a with armed := b.armed } ∧ List.Forall₂ (fun x y => y = { x with spoiled := y.spoiled }) a.armed b.armed) s.parts pa ∧
  List.Forall₂ SpoiledGang s.gangs ga

/-- 04 R127, 09 R260, 10 R277, R304, R307: a state left by the writes of threads: threads, workgroups and translations may differ; besides, only what races with a
write has become undefined, and what the threads have synchronised is recorded; where nothing races (`calm`), no byte of package memory has. -/
def OnlyWritesIf (calm : Prop) (s t : State) : Prop :=
  t = { s with
    uid := t.uid, hb := t.hb, eops := t.eops, sends := t.sends, contribs := t.contribs, seals := t.seals, parts := t.parts, gangs := t.gangs, wild := t.wild
    wgs := t.wgs, threads := t.threads, tlb := t.tlb, hot := t.hot } ∧
  s.uid ≤ t.uid ∧
  List.Forall₂ (fun a b => b = { a with undef := b.undef, spoiled := b.spoiled }) s.eops t.eops ∧
  Marked s t.sends t.contribs t.seals t.parts t.gangs ∧
  (calm → t.wild = s.wild)

/-- The same, of writes that race only with what `Quiet` names. -/
def OnlyWrites (s t : State) : Prop := OnlyWritesIf (Quiet s) s t

/-- Whether an address lies among the bytes that a lane stores in the local store of a workgroup. -/
def hitsLocal (w x n : Nat) (r : LaneRef) : Bool :=
  match r.place with
  | .loc v off => v == w && decide (off ≤ x) && decide (x < off + n)
  | _ => false

/-- The byte that the last of some lanes stores at an address of a local store: lanes store in ascending order. -/
def storedByte (w x n : Nat) (refs : List LaneRef) : Option Byte :=
  (refs.reverse.find? (hitsLocal w x n)).map fun r => match r.place with
    | .loc _ off => ((toBytesLE r.cap.c n)[x - off]?).getD 0
    | _ => 0

/-- Workgroups that differ at most in their local stores: the bytes, which of them are undefined, and which words are uncorrectable. -/
def SameButLocal (u v : Wg) : Prop := v = { u with ls := v.ls, undef := v.undef, poison := v.poison }

/-- Local stores after lanes have stored `n` bytes each: the stored bytes are there, every other byte of every local store is as it was; where nothing races
(`calm`), exactly the stored bytes have become defined. -/
def LocalStored (s : State) (calm : Prop) (refs : List LaneRef) (n : Nat) (ws : List Wg) : Prop :=
  List.Forall₂ (fun u v => SameButLocal u v ∧
    (∀ x, getByte v.ls x = (storedByte u.uid x n refs).getD (getByte u.ls x)) ∧
    (∀ x, storedByte u.uid x n refs = none → inRanges u.undef x = true → inRanges v.undef x = true) ∧
    (calm → ∀ x, inRanges v.undef x = (inRanges u.undef x && (storedByte u.uid x n refs).isNone))) s.wgs ws

/-- Where a buffered store goes. -/
def destOf : Place → Dest
  | .mem k _ => .mem k
  | .win i off _ => .win i off
  | .loc _ off => .mem off

/-- 03 R107, 04 R127: whether a lane's store to a place races with nothing that leaves its bytes undefined: they are no operands of an `mma` whose completion the
lane has not acquired, and no phase object there has an event that is not ordered before the store. -/
def Clear (s : State) (n : Nat) (r : LaneRef) : Prop :=
  ∀ k v, r.place = .mem k v → s.hb.touches (s.me r.cap.lane) (.mem k) n = false ∧
    ∀ o ∈ s.hb.objsIn (.mem k) n, s.hb.eventRace o (s.knownBy r.cap.lane) = false

/-- 04 R125, 09 R247: an entry is the one that a lane puts into the store buffer: its place, its address and, where nothing races (`clear`), the low bytes of its
data. -/
def EntryOf (s : State) (n : Nat) (addr : Cap → Nat) (clear : LaneRef → Prop) (r : LaneRef) (e : SbEntry) : Prop :=
  e = { s.sbEntry r.cap.lane (destOf r.place) (match r.place with | .mem _ v => v | _ => none) (BitVec.ofNat 64 (addr r.cap)) e.bytes with
        uid := e.uid, leaf := e.leaf, item := e.item, sees := e.sees } ∧ e.bytes.length = n ∧ (clear r → e.bytes = toBytesLE r.cap.c n)

/-- 04 R125, 15 R391: workgroups after lanes have put entries into the buffer of the current one, in ascending lane order under rising numbers: the entries follow
those there, and unless the launch is idempotent the workgroup has committed. Where nothing is under way, nothing else of any workgroup changes. -/
def Buffered (s : State) (n : Nat) (addr : Cap → Nat) (clear : LaneRef → Prop) (refs : List LaneRef) (ws : List Wg) : Prop :=
  ∃ es : List SbEntry, List.Forall₂ (EntryOf s n addr clear) refs es ∧ (∀ e ∈ es, s.uid ≤ e.uid) ∧ es.Pairwise (fun a b => a.uid < b.uid) ∧
    List.Forall₂ (fun u v =>
      v = (if u.uid = s.cur.wg then { u with sb := u.sb ++ es, committed := u.committed || !s.launch.idem, undef := v.undef } else { u with undef := v.undef }) ∧
      (Quiet s → v.undef = u.undef)) s.wgs ws

/-- 04 R119, R125, 09 R262: the release side of an order before an effect of some lanes: at `.cl` or wider the store buffer is applied, at `.pod` or wider dirty
lines are written back. -/
def released (s : State) (order : Order) (scope : Scope) (lanes : List Nat) : State := if lanes.isEmpty then s else (s.released order scope).1

/-- 04 R125: where the release side is a commit point, the buffer can be applied whole. -/
def Commits (s : State) (order : Order) (scope : Scope) (lanes : List Nat) : Prop := lanes ≠ [] → (s.released order scope).2 = true

/-- 04 R124: the buffered stores to the containers of some places applied. -/
def contained (s : State) (n : Nat) (refs : List LaneRef) : State :=
  (refs.filterMap fun r => containerOf r.place n).foldl (fun s c => s.commitRange s.cur.wg c.1 c.2) s

/-- 04 R124: none of them is left. -/
def ContainersClear (s : State) (n : Nat) (refs : List LaneRef) : Prop :=
  ∀ c ∈ refs.filterMap fun r => containerOf r.place n, (contained s n refs).rangeClear (contained s n refs).cur.wg c.1 c.2 = true

/-! ### Engines and events -/

/-- 10 R277: every block of an engine command passes its check, neither it nor what else the checks read holds an uncorrectable word, and the workgroup has room for
an operation. -/
def EngineReady (s : State) (caps : List Cap) (al n : Nat) (check : Nat → Option Nat) (more : Nat → List (Nat × Nat)) : Prop :=
  Acts s caps ∧ (∀ c ∈ caps, c.a % al = 0 ∧ s.inAlloc s.cur.wg c.a n = true ∧ check c.a = none ∧ (s.wg s.cur.wg).lsBad c.a n = false) ∧
  (∀ c ∈ caps, ∀ r ∈ more c.a, (s.wg s.cur.wg).lsBad r.1 r.2 = false) ∧ (s.effective caps ≠ [] → s.engineLoad s.cur.wg < 32)

/-- Whether the blocks of `n` bytes of some lanes lie apart. -/
def Apart (caps : List Cap) (n : Nat) : Prop := caps.Pairwise fun c d => overlap c.a n d.a n = false

/-- 10 R277: `Marked`, but that at most some commands have lost their blocks' fields; none in flight where no block in flight is shared (`clear`), and no stopped one
where besides no two blocks of one issue meet (`apart`). -/
def OnlySpoils (s : State) (clear apart : Prop) (se : List Send) (co : List Contrib) (sl : List SealJob) (pa : List Part) (ga : List Gang) : Prop :=
  Marked s se co sl pa ga ∧
  List.Forall₂ (fun a b => b = { a with spoiled := b.spoiled }) s.sends se ∧
  List.Forall₂ (fun a b => b = { a with spoiled := b.spoiled }) s.contribs co ∧
  (clear → se = s.sends ∧ co = s.contribs ∧ sl = s.seals ∧ pa = s.parts) ∧ (clear → apart → ga = s.gangs)

/-- 10 R275 to R277: an engine has taken the commands of the lanes of `took`, in order; the lanes of `later` stay at the instruction. Each new operation holds the copy
of its block, who issued it, and what `takes` says; what is recorded of its accesses, lathes that begin to work, and fields of blocks that two commands in flight share
are all that changes besides. -/
def Issued (s : State) (kind : EKind) (n : Nat) (took later : List Cap) (takes : Cap → EOp → Prop) (t : State) : Prop :=
  ∃ th es eo la gs ga p f d se co sl pa, t = { s with
      uid := s.uid + took.length, eops := eo, threads := th, lathes := la, gangs := gs, hb := { s.hb with pend := p, fresh := f, olds := d }
      sends := se, contribs := co, seals := sl, parts := pa } ∧
    OnlySpoils s (∀ c ∈ took, s.inFlight s.cur.wg c.a kind.blockBytes = false) (Apart took kind.blockBytes) se co sl pa ga ∧
    List.Forall₂ (fun (c : Cap × Nat) (e : EOp) => e.uid = s.uid + c.2 ∧ e.kind = kind ∧ e.wg = s.cur.wg ∧ e.gang = s.cur.gang ∧ e.lane = c.1.lane ∧
      e.pc = s.cur.pc ∧ e.word = s.cur.word ∧ e.blk = c.1.a ∧ e.block = s.blockAt s.cur.wg c.1.a n ∧ takes c.1 e) took.zipIdx es ∧
    List.Forall₂ (fun a b => b = { a with due := b.due, spoiled := b.spoiled }) (s.eops ++ es) eo ∧
    (kind ≠ .mma → la = s.lathes) ∧ (s.cur.replay = false ∨ later = [] → gs = ga) ∧
    Threads s id (fun u => if s.inIssue u && later.any (fun c => (s.copies c.lane).contains u.lane) then (u.pc, u.past) else nextPlace s u) th

/-- 10 R275 to R277: an engine command that is ready completes for as many lanes, in ascending order, as the workgroup's limit has room for. -/
def Issues (i : Instr) (o : Op) (kind : EKind) (n : Nat) (check : State → Nat → Option Nat) (more : State → Nat → List (Nat × Nat))
    (takes : State → Cap → EOp → Prop) : Prop :=
  ∀ s : State,
    let caps := s.captureBlk o
    let room := 32 - s.engineLoad s.cur.wg
    EngineReady s caps 64 n (check s) (more s) →
    ∃ t, exec i s = .next t ∧ Issued s kind n ((s.effective caps).take room) ((s.effective caps).drop room) (takes s) t

/-! ### Floating-point sums (02 R66 to R70, R81) -/

/-- The magnitude code of an encoding. -/
def magnitude (F : Fmt) (x : Nat) : Nat := x % 2 ^ (F.e + F.f)

/-- The value of a finite encoding in units of the smallest subnormal (02 R49). -/
def scaled (F : Fmt) (x : Nat) : Int :=
  let c := magnitude F x
  let m : Nat := if c / 2 ^ F.f = 0 then c else (2 ^ F.f + c % 2 ^ F.f) * 2 ^ (c / 2 ^ F.f - 1)
  if bitAt x (F.e + F.f) then -(m : Int) else m

/-- 02 R66, R67: an encoding is an exact value, in those units, rounded to nearest even in a format with infinities: infinity from half a unit beyond the largest
number on, else a finite number than which none is nearer, the even one of two that are as near. -/
def NearestEven (F : Fmt) (v : Int) (r : Nat) : Prop :=
  let top := (2 ^ (F.f + 2) - 1) * 2 ^ (2 ^ F.e - 4)
  (top ≤ v.natAbs → r = (if v < 0 then 2 ^ (F.e + F.f) else 0) + F.infCode) ∧
  (v.natAbs < top → r < 2 ^ F.width ∧ magnitude F r < F.infCode ∧ ∀ w, magnitude F w < F.infCode →
    (v - scaled F r).natAbs ≤ (v - scaled F w).natAbs ∧
    (scaled F w ≠ scaled F r → (v - scaled F w).natAbs = (v - scaled F r).natAbs → r % 2 = 0))

/-- 02 R69, R70, R81: an encoding is the sum of two: rounded once to nearest even, with the signs of zeros, the infinities and the canonical NaN of the format. -/
def SumOf (F : Fmt) (x y r : Nat) : Prop :=
  let neg (u : Nat) : Bool := bitAt u (F.e + F.f)
  let inf (u : Nat) : Prop := magnitude F u = F.infCode
  let fin (u : Nat) : Prop := magnitude F u < F.infCode
  (F.infCode < magnitude F x ∨ F.infCode < magnitude F y → r = F.infCode + 2 ^ (F.f - 1)) ∧
  (inf x → inf y → r = if neg x = neg y then (if neg x then 2 ^ (F.e + F.f) else 0) + F.infCode else F.infCode + 2 ^ (F.f - 1)) ∧
  (inf x → fin y → r = (if neg x then 2 ^ (F.e + F.f) else 0) + F.infCode) ∧
  (fin x → inf y → r = (if neg y then 2 ^ (F.e + F.f) else 0) + F.infCode) ∧
  (fin x → fin y →
    (scaled F x + scaled F y = 0 → r = if neg x && neg y then 2 ^ (F.e + F.f) else 0) ∧
    (scaled F x + scaled F y ≠ 0 → NearestEven F (scaled F x + scaled F y) r))

/-- What an instruction or event answers, given as a state. -/
def Gives (i : Instr) (s t : State) : Prop := exec i s = .next t

end Sys2Proof.Safety
end

