-- ==== Sys2Proof/Certificates/Slice0/Obligations.lean ====
section
/-! DEFINITION. What this model claims, for the provers: encoding and decoding, the step, what every instruction and event leaves, the frames
and the invariants. -/

open Sys2Proof Sys2Proof.Machine Sys2Proof.Safety

/-- Predicate instructions compute and advance. Each of the nine predicate instructions completes in every state whose issue has not mismatched twice: every executing lane gets the function of its own sources that the table of R195 or R196 gives, `ppack` the 32 predicates as bits, `punpack` 32 predicates from the bits of its source, `pcnt` the number of ones among the named predicates; the threads advance, nothing is pushed, and the rest of the machine is unchanged. -/
def Obligations.PredicateInstructions : Prop :=
  ∀ o : Op,
  ComputesOp (.pand o) o { a := .pred, b := .pred } false (fun a b _ => ((a == 1 && b == 1).toNat, false)) ∧
  ComputesOp (.por o) o { a := .pred, b := .pred } false (fun a b _ => ((a == 1 || b == 1).toNat, false)) ∧
  ComputesOp (.pxor o) o { a := .pred, b := .pred } false (fun a b _ => (((a == 1) != (b == 1)).toNat, false)) ∧
  ComputesOp (.pandn o) o { a := .pred, b := .pred } false (fun a b _ => ((a == 1 && !(b == 1)).toNat, false)) ∧
  ComputesOp (.pnot o) o { a := .pred } false (fun a _ _ => ((!(a == 1)).toNat, false)) ∧
  ComputesOp (.pmov o) o { a := .pred } false (fun a _ _ => ((a == 1).toNat, false)) ∧
  Computes (.ppack o) o (fun s => s.captureBy o.guard fun t => { lane := t.lane, a := t.preds (srcNum o.a) 32, b := 0, c := 0 })
    (fun c => (c.a, false)) (writeBoth o) false ∧
  Computes (.punpack o) { o with d2 := 0 } (fun s => s.captureBy o.guard (s.sources { a := .ty .b32 } o.a o.b o.c)) (fun c => (c.a, false))
    (fun t x _ => t.setPreds (dstNum o.dst) x 32) false ∧
  Computes (.pcnt o) o (fun s => s.captureBy o.guard fun t => { lane := t.lane, a := t.preds (srcNum o.a) (srcNum o.b), b := srcNum o.b, c := 0 })
    (fun c => (countOnes c.a 32, false)) (writeBoth o) false

/-- Integer, logic, shift and bit-field instructions compute and advance. The ten integer instructions of R197 and their eight compact forms complete: each executing lane gets, element by element, its exact result wrapped or clamped, `add` and `sub` with carry in and carry out besides; the result is pushed, the threads advance, and nothing else of the machine changes. The logic, shift, rotate, funnel, count, reverse, field and byte-select instructions and their compact forms complete: each executing lane gets the function of its sources that the tables of R200 to R205 give, with the count of a shift or field read as n32; the result is pushed, the threads advance, and nothing else of the machine changes. -/
def Obligations.IntegerAndLogicInstructions : Prop :=
  (
  (∀ (o : Op) (m : AddMods),
    ComputesOp (.add o m) o { a := .ty o.ty, b := .ty o.ty, c := if m.cr then .pred else .unused } true (fun a b c =>
      (intOp o.ty m.sat (fun x y _ => x + y + (c : Int)) a b 0,
       m.cw && carryOut o.ty.bits (elemVal false o.ty.bits a + elemVal false o.ty.bits b + (c : Int)))) ∧
    ComputesOp (.sub o m) o { a := .ty o.ty, b := .ty o.ty, c := if m.cr then .pred else .unused } true (fun a b c =>
      (intOp o.ty m.sat (fun x y _ => x - y - (c : Int)) a b 0,
       m.cw && carryOut o.ty.bits (elemVal false o.ty.bits a - elemVal false o.ty.bits b - (c : Int))))) ∧
  (∀ (o : Op) (sat : Bool),
    Computes3 (.mul o) o (intOp o.ty false fun x y _ => x * y) ∧
    Computes3 (.mulh o) o (intOp o.ty false fun x y _ => x * y / ((2 ^ o.ty.elemBits : Nat) : Int)) ∧
    Computes3 (.mad o sat) o (intOp o.ty sat fun x y z => x * y + z) ∧
    Computes3 (.madh o) o (intOp o.ty false fun x y z => x * y / ((2 ^ o.ty.elemBits : Nat) : Int) + z) ∧
    Computes3 (.min o) o (intOp o.ty false fun x y _ => min x y) ∧
    Computes3 (.max o) o (intOp o.ty false fun x y _ => max x y) ∧
    Computes3 (.abs o sat) o (intOp o.ty sat fun x _ _ => (x.natAbs : Int)) ∧
    Computes3 (.neg o sat) o (intOp o.ty sat fun x _ _ => -x)) ∧
  ∀ o : COp,
    Computes3 (.addCompact o) o.toOp (intOp o.ty o.sat fun x y _ => x + y) ∧
    Computes3 (.subCompact o) o.toOp (intOp o.ty o.sat fun x y _ => x - y) ∧
    Computes3 (.mulCompact o) o.toOp (intOp o.ty false fun x y _ => x * y) ∧
    Computes3 (.madCompact o) o.toOpAcc (intOp o.ty false fun x y z => x * y + z) ∧
    Computes3 (.minCompact o) o.toOp (intOp o.ty false fun x y _ => min x y) ∧
    Computes3 (.maxCompact o) o.toOp (intOp o.ty false fun x y _ => max x y) ∧
    Computes3 (.absCompact o) o.toOp (intOp o.ty false fun x _ _ => (x.natAbs : Int)) ∧
    Computes3 (.negCompact o) o.toOp (intOp o.ty false fun x _ _ => -x)) ∧
  (
  (∀ o : Op,
    Computes3 (.and o) o (fun a b _ => a &&& b) ∧
    Computes3 (.or o) o (fun a b _ => a ||| b) ∧
    Computes3 (.xor o) o (fun a b _ => a ^^^ b) ∧
    Computes3 (.andn o) o (fun a b _ => andNot o.ty a b) ∧
    Computes3 (.not o) o (fun a _ _ => notBits o.ty a) ∧
    ComputesOp (.shl o) o { a := .ty o.ty, b := .n32 } true (fun a k _ => (shiftLeft o.ty a k, false)) ∧
    ComputesOp (.shr o) o { a := .ty o.ty, b := .n32 } true (fun a k _ => (shiftRight o.ty a k, false)) ∧
    ComputesOp (.rol o) o { a := .ty o.ty, b := .n32 } true (fun a k _ => (rotl o.ty a k, false)) ∧
    ComputesOp (.ror o) o { a := .ty o.ty, b := .n32 } true (fun a k _ => (rotr o.ty a k, false)) ∧
    Computes3 (.popc o) o (fun a _ _ => countOnes a o.ty.bits) ∧
    Computes3 (.clz o) o (fun a _ _ => leadZeros o.ty a) ∧
    Computes3 (.brev o) o (fun a _ _ => revBits a o.ty.bits) ∧
    ComputesOp (.fxt o) o { a := .ty o.ty, b := .n32 } true (fun a k _ => (fieldExtract o.ty a k, false)) ∧
    ComputesOp (.fins o) o { a := .ty o.ty, b := .ty o.ty, c := .n32 } true (fun a b k => (fieldInsert o.ty a b k, false))) ∧
  (∀ (o : Op) (flag : Bool),
    ComputesOp (.fshR o flag) o { a := .ty .b32, b := .ty .b32, c := .n32 } true (fun lo hi k => (funnelRight flag lo hi k, false)) ∧
    ComputesOp (.fshL o flag) o { a := .ty .b32, b := .ty .b32, c := .n32 } true (fun lo hi k => (funnelLeft flag lo hi k, false)) ∧
    Computes3 (.bsel o flag) o (byteSelect flag)) ∧
  ∀ o : COp,
    Computes3 (.andCompact o) o.toOp (fun a b _ => a &&& b) ∧
    Computes3 (.orCompact o) o.toOp (fun a b _ => a ||| b) ∧
    Computes3 (.xorCompact o) o.toOp (fun a b _ => a ^^^ b) ∧
    Computes3 (.andnCompact o) o.toOp (fun a b _ => andNot o.ty a b) ∧
    Computes3 (.notCompact o) o.toOp (fun a _ _ => notBits o.ty a) ∧
    ComputesOp (.shlCompact o) o.toOp { a := .ty o.ty, b := .n32 } true (fun a k _ => (shiftLeft o.ty a k, false)) ∧
    ComputesOp (.shrCompact o) o.toOp { a := .ty o.ty, b := .n32 } true (fun a k _ => (shiftRight o.ty a k, false)))

/-- Compare, select, move, address and special-register instructions compute and advance. `cmp` gives the relation on the values of its type, combined with its third predicate, and its inverse as the second result; `sel`, `mov`, the compact `mov`, `lea` and `sreg` give the values of R207 to R209; each completes, pushes, advances, and changes nothing else of the machine. -/
def Obligations.SelectMoveInstructions : Prop :=
  (∀ (o : Op) (cond : Cond) (comb : Comb),
    ComputesOp (.cmp o cond comb) o { a := .ty o.ty, b := .ty o.ty, c := if comb == .none then .unused else .pred } true (fun a b c =>
      ((cmpBits o.ty cond comb a b (c == 1)).toNat, !cmpBits o.ty cond comb a b (c == 1)))) ∧
  (∀ o : Op,
    ComputesOp (.sel o) o { a := .ty o.ty, b := .ty o.ty, c := .pred } true (fun a b c => (if c == 1 then a else b, false)) ∧
    Computes3 (.mov o) o (fun a _ _ => a) ∧
    Computes (.sreg o) o (fun s => s.captureBy o.guard fun t => { lane := t.lane, a := specialValue s t o.a, b := 0, c := 0 })
      (fun c => (c.a, false)) (writeBoth o) true) ∧
  (∀ (o : Op) (k : Nat), ComputesOp (.lea o k) o { a := .n64, b := .ty o.ty, c := .s32 } true (fun a b c => (leaAddr o.ty.signed k a b c, false))) ∧
  ∀ o : COp, Computes3 (.movCompact o) o.toOp (fun a _ _ => a)

/-- Floating-point instructions compute and advance. The floating-point instructions of R227 to R230 and their compact forms complete: each executing lane gets, element by element, the result in its register format, rounded as the instruction says (compact forms to nearest even); the result is pushed, the threads advance, and nothing else of the machine changes. That an issue none of whose guards is true pushes too is the model's choice, since R242 says that it has no effect (notes/assumptions/43.md). `fcmp` and the predicate form of `fclass` give the test and its inverse, the special functions their f32 results without a push, and `cvt` its converted value with its indication as the second result; each completes, advances, and changes nothing else of the machine. -/
def Obligations.FloatInstructions : Prop :=
  (
  (∀ (o : Op) (r : Rnd),
    Computes3 (.fadd o r) o (floatOp o.ty fun F a b _ => F.add r a b) ∧
    Computes3 (.fsub o r) o (floatOp o.ty fun F a b _ => F.sub r a b) ∧
    Computes3 (.fmul o r) o (floatOp o.ty fun F a b _ => F.mul r a b) ∧
    Computes3 (.ffma o r) o (floatOp o.ty fun F a b c => F.fma r a b c)) ∧
  (∀ o : Op,
    Computes3 (.fmin o) o (floatOp o.ty fun F a b _ => F.extremum false a b) ∧
    Computes3 (.fmax o) o (floatOp o.ty fun F a b _ => F.extremum true a b) ∧
    Computes3 (.fminnum o) o (floatOp o.ty fun F a b _ => F.extremumNum false a b) ∧
    Computes3 (.fmaxnum o) o (floatOp o.ty fun F a b _ => F.extremumNum true a b) ∧
    Computes3 (.fabs o) o (floatOp o.ty fun F a _ _ => F.abs a) ∧
    Computes3 (.fneg o) o (floatOp o.ty fun F a _ _ => F.negate a) ∧
    Computes3 (.fclassV o) o (floatOp o.ty fun F a _ _ => F.classify a)) ∧
  ∀ o : COp,
    Computes3 (.faddCompact o) o.toOp (floatOp o.ty fun F a b _ => F.add .rn a b) ∧
    Computes3 (.fsubCompact o) o.toOp (floatOp o.ty fun F a b _ => F.sub .rn a b) ∧
    Computes3 (.fmulCompact o) o.toOp (floatOp o.ty fun F a b _ => F.mul .rn a b) ∧
    Computes3 (.ffmaCompact o) o.toOpAcc (floatOp o.ty fun F a b c => F.fma .rn a b c) ∧
    Computes3 (.fminCompact o) o.toOp (floatOp o.ty fun F a b _ => F.extremum false a b) ∧
    Computes3 (.fmaxCompact o) o.toOp (floatOp o.ty fun F a b _ => F.extremum true a b) ∧
    Computes3 (.fminnumCompact o) o.toOp (floatOp o.ty fun F a b _ => F.extremumNum false a b) ∧
    Computes3 (.fmaxnumCompact o) o.toOp (floatOp o.ty fun F a b _ => F.extremumNum true a b) ∧
    Computes3 (.fabsCompact o) o.toOp (floatOp o.ty fun F a _ _ => F.abs a) ∧
    Computes3 (.fnegCompact o) o.toOp (floatOp o.ty fun F a _ _ => F.negate a)) ∧
  (
  (∀ (o : Op) (cond : FCond) (comb : Comb),
    ComputesOp (.fcmp o cond comb) o { a := .ty .f32, b := .ty .f32, c := if comb == .none then .unused else .pred } true (fun a b c =>
      ((fcmpBits cond comb a b (c == 1)).toNat, !fcmpBits cond comb a b (c == 1)))) ∧
  (∀ o : Op, ComputesOp (.fclassP o) o { a := .ty .f32, b := .ty .b32 } true (fun a m _ =>
    ((Fmt.f32.classify a &&& m != 0).toNat, !(Fmt.f32.classify a &&& m != 0)))) ∧
  (∀ (o : Op) (r : Rnd),
    ComputesOp (.rcp o r) o { a := .ty .f32 } false (fun a _ _ => (frcp r a, false)) ∧
    ComputesOp (.sqrt o r) o { a := .ty .f32 } false (fun a _ _ => (fsqrt r a, false))) ∧
  (∀ o : Op,
    ComputesOp (.rsq o) o { a := .ty .f32 } false (fun a _ _ => (frsq a, false)) ∧
    ComputesOp (.exp2 o) o { a := .ty .f32 } false (fun a _ _ => (fexp2 a, false)) ∧
    ComputesOp (.log2 o) o { a := .ty .f32 } false (fun a _ _ => (flog2 a, false)) ∧
    ComputesOp (.sin o) o { a := .ty .f32 } false (fun a _ _ => (fsin a, false)) ∧
    ComputesOp (.cos o) o { a := .ty .f32 } false (fun a _ _ => (fcos a, false))) ∧
  ∀ (o : Op) (m : CvtMods),
    ComputesOp (.cvt o m) o { a := cvtKind m.src, b := if m.pk then cvtKind m.src else .unused } true (fun a b _ =>
      ((cvtAll m a b).d, (cvtAll m a b).invalid)))

/-- Random numbers, CSR reads, replay-queue reads and queries compute and advance. `rng.next` steps the generator of each executing lane and writes its upper half, `rng.jump` advances it by the lane's count; `csrr`, `rq.rd`, `hm.rd`, `keep.qry` `.use` and `.rec` write what they read; each completes, pushes nothing, advances, and changes nothing else of the machine. -/
def Obligations.RandomAndQueryInstructions : Prop :=
  ∀ o : Op,
    Computes (.rngNext o) o (fun s => s.captureBy o.guard fun t => { lane := t.lane, a := 0, b := 0, c := 0 }) (fun _ => (0, false))
      (fun t _ _ => { t.writeDst o 1 ((rngStep t.rng).toNat / 2 ^ 32) with rng := rngStep t.rng }) false ∧
    Computes (.rngJump o) o (fun s => s.captureBy o.guard (s.sources { a := .n64 } o.a o.b o.c)) (fun c => (c.a, false))
      (fun t x _ => { t with rng := rngJump t.rng (BitVec.ofNat 64 x) }) false ∧
    (∀ n, Computes (.csrr o n) o (fun s => s.captureBy o.guard fun t => { lane := t.lane, a := (s.csrGang n).toNat, b := 0, c := 0 })
      (fun c => (c.a, false)) (writeBoth o) false) ∧
    Reads (.rqRd o) o { a := .n32, b := .n32 } (fun s e w => ((s.gang s.cur.wg s.cur.gang).frame.rd e w).toNat) ∧
    Reads (.hmRd o) o { a := .n32 } (fun s n _ => s.figure n) ∧
    Reads (.keepQryUse o) o {} (fun s _ _ => (s.part s.curPart).saveu * 2 ^ 16 + (s.part s.curPart).kused) ∧
    Reads (.keepQryRec o) o { a := .n32, b := .n32 } (fun s r w => s.recordWord s.curPart r w)

/-- Words of the spec's examples decode to their instructions. The slot words that the chapters on control, integers, floats, memory, engines and system state print as examples decode to the instructions they stand for: `add`, `br`, `cmp`, `ffma`, `stg`, `fence`, `gcp`, `cx.arm`, `csrw`, and the compact `fmul` and `add`. -/
def Obligations.DecodeWords : Prop :=
  decodeTableWord 96 (0x80160C80 + 2 ^ 32 * 0x10030700) =
    some (.add { guard := { neg := true, p := 3 }, dst := .v 5, ty := .s32, a := .v 2, b := .imm 7 } {}) ∧
  decodeTableWord 96 (0xCC000001 + 2 ^ 32 * 0x0FFFFFFE) = some (.br {} { disp := -1, slot := 3 }) ∧
  decodeTableWord 96 (0x4404009A + 2 ^ 32 * 0x10030300 + 2 ^ 64 * 2) = some (.cmp { dst := .p 1, ty := .s32, a := .v 1, b := .imm 3 } .lt .none) ∧
  decodeTableWord 96 (0x40100103 + 2 ^ 32 * 0x300C0200) = some (.ffma { dst := .v 4, ty := .f32, a := .v 1, b := .v 2, c := .v 3 } .rn) ∧
  decodeTableWord 96 (0x8C0001C1 + 2 ^ 32 * 0x001F0800 + 2 ^ 64 * 4) = some (.stg { a := .v 2, b := .imm 8, c := .v 7 } .b32) ∧
  decodeTableWord 96 (0x0C000240 + 2 ^ 64 * 0x1C000000) = some (.fence {} .acqRel .pkg) ∧
  decodeTableWord 96 (0x0C000280 + 2 ^ 32 * 0x42) = some (.gcp { a := .g 8 }) ∧
  decodeTableWord 96 (0x0C000302 + 2 ^ 32 * 0x0C0B0502) = some (.cxArm { a := .v 8, b := .imm 5, c := .imm 2 }) ∧
  decodeTableWord 96 (0x4C000361 + 2 ^ 32 * 1 + 2 ^ 64 * 2) = some (.csrw { a := .v 5 } 2) ∧
  decodeTableWord 48 0x0C0A02420013 = some (.fmulCompact { dst := 8, ty := .f32, a := .v 9, b := .v 10 }) ∧
  decodeTableWord 48 0x050400834001 = some (.addCompact { dst := 13, ty := .s32, a := .v 2, b := .g 4 })

/-- Every well-formed full-format instruction decodes from its own encoding. For every instruction of the full format that is legal in a context of at most 256 vector registers, with every operand at every value the encoding admits, the decoder reads that instruction back from the 96 bits that the encoder gives. -/
def Obligations.FullFormatRoundTrip : Prop :=
  ∀ (c : Ctx) (i : Instr) (r : Raw), c.vregs ≤ 256 → i.toRaw = some r → i.wf c = true →
    encode i = some r.pack ∧ r.pack < 2 ^ 96 ∧ decodeFull c r.pack = .ok i

/-- Every well-formed compact half decodes from its own encoding. For every compact half that is legal in a context of at most 256 vector registers the decoder reads that instruction back from the 48 bits that the encoder gives; and two legal halves that may share a slot decode from a paired slot that holds the first in its low and the second in its high half. -/
def Obligations.CompactRoundTrip : Prop :=
  (∀ (c : Ctx) (i : Instr) (r : CRaw), c.vregs ≤ 256 → i.toCRaw = some r → i.wf c = true →
    encode i = some r.pack ∧ r.pack < 2 ^ 48 ∧ decodeHalf c r.pack = .ok i) ∧
  ∀ (c : Ctx) (i j : Instr) (r q : CRaw), c.vregs ≤ 256 → i.toCRaw = some r → j.toCRaw = some q → i.wf c = true → j.wf c = true →
    pairOk i j = true → decodeSlot c true (r.pack + 2 ^ 48 * q.pack) = .ok (.pair i j)

/-- What decodes is well-formed and keeps every bit. Whatever a decoder accepts is a well-formed instruction whose encoding is the very word decoded, so no bit is dropped and no reserved bit is ignored; two words that decode to one instruction are one word. -/
def Obligations.DecodedIsLegal : Prop :=
  (∀ c w i, decodeFull c w = .ok i → i.wf c = true ∧ encode i = some w) ∧
  (∀ c w i, decodeHalf c w = .ok i → i.wf c = true ∧ encode i = some w) ∧
  ∀ c v w i, decodeFull c v = .ok i → decodeFull c w = .ok i → v = w

/-- A step runs the decoded instruction. Where the next action is an issue of a gang that may issue, of which no trap is pending and no entry is to be put back, and no run of another gang must go first, and the first of the threads that can issue, of the lanes named or of those whose turn it is, stands within the text: the slice has or reads the line at its program counter, the operation there decodes, a handler instruction is at handler level and no breakpoint matches; then the step is `exec` of the decoded instruction at the state in which the issue has been set up (the gang, the threads of those lanes at that address, the address, the address after the operation, its word, the operations issued behind it, and the slice taken), followed by what follows an issue: meetings of its gang that are complete, the last step of a return from a trap, and the end of the slice's run where one of its threads holds; and then the gates that `step.adv` recorded, where the step has changed the allowance that they follow. The model's own in this are the schedule and the lanes whose turn it is (notes/assumptions/1.md), the operations issued behind the current one (notes/assumptions/8.md), and that an instruction at which lanes meet issues for every thread of the gang that stands at it (notes/assumptions/24.md); what becomes of an `mcas` that waited is stated by its own name. -/
def Obligations.StepRunsDecoded : Prop :=
  ∀ (s : State) (w g : Nat) (asked lanes : List Nat) (mism ahead : Nat) (t : Thread) (l : Line) (f : Fetched) (s0 s1 s2 : State),
    s.action = .issue w g asked mism ahead → s0 = s.tickOn →
    s0.runFirst w g = none → s0.mayIssue w = true → s0.gangStalls w g = false → s0.yieldsNow w g = false →
    ((s0.gang w g).handler = true ∨ (s0.gang w g).pend = []) → (s0.gang w g).reinject = [] →
    lanes = s0.duePick w g asked →
    (s0.gangThreads w g).find? (fun t => lanes.contains t.lane && t.canIssue) = some t → t.past = false →
    s1 = { s0.countIssue w g t.pc with
      cur := { wg := w, gang := g, lanes := (s0.chosen w g lanes t).map (·.lane), pc := t.pc, mism := min mism 2 } } →
    ((t.inLine = true ∧ t.line = some l ∧ s2 = s1) ∨ (t.inLine = false ∧ s1.readLine = .ok l ∧ s2 = s1.touchLine.enterLine l)) →
    l.fetch s2.launch.ctx t.pc = some f →
    (f.instr.privileged = true → (s2.gang w g).handler = true) →
    (s2.part s2.curPart).breakpoint t.pc = none →
    let s3 := if f.instr.meets then s2.widen l else s2
    step s = afterNext (fun u => s0.settleGates (u.afterIssue w g)) (exec f.instr
      (({ s3 with cur := { s3.cur with
          next := (nextAddr t.pc f.size l.last).1
          past := (nextAddr t.pc f.size l.last).2
          word := f.word
          half := f.half } }.leaveMcas).runAhead l f ahead).takeSlice)

/-- Every step answers a next state. The machine never stops: whatever the state, a step answers a next state, neither a fault nor a refusal, and so does every instruction and event in every state; each stop of the spec is a trap, a kill, a kernel error or a refused request, and these are next states. -/
def Obligations.EveryStepGoes : Prop :=
  (∀ s : State, Goes s) ∧ ∀ (i : Instr) (s : State), ∃ t, exec i s = .next t

/-- Illegal encodings and handler instructions outside a handler trap at decode. For threads in a line whose operation does not decode, decoding raises trap 0x01, and its frame carries the instruction word, which is the slot's 96 bits or, of a paired slot, the 48 bits of the half; where it decodes to one of the handler opcodes and the gang is not at handler level, 0x04; both precisely, with the issue's program counter and lanes, and nothing of the operation takes effect. The handler opcodes are the seven from 0x360 to 0x366 with their modifiers, and 0x367. Where the frame holds the word, and that a trap 0x04 carries it too, is the model's choice (notes/assumptions/53.md). -/
def Obligations.IllegalAndPrivileged : Prop :=
  (∀ (s : State) (l : Line) (n : Nat), l.fetch s.launch.ctx s.cur.pc = none →
    s.decodeIssue l n = .done (s.takeTrap s.cur.wg s.cur.gang { cause := 0x01, pc := s.cur.pc, mask := s.cur.lanes, word := some (l.wordAt s.cur.pc) })) ∧
  (∀ (s : State) (l : Line) (n : Nat) (f : Fetched), l.fetch s.launch.ctx s.cur.pc = some f → f.instr.privileged = true →
    (s.gang s.cur.wg s.cur.gang).handler = false →
    s.decodeIssue l n = .done (s.takeTrap s.cur.wg s.cur.gang { cause := 0x04, pc := s.cur.pc, mask := s.cur.lanes, word := some f.word })) ∧
  (∀ (l : Line) (pc : DWord) (k : Nat), k ≤ 4 → pc.toNat % 64 = 12 * k →
    (l.pair k = false → l.wordAt pc = l.slot k) ∧ (l.pair k = true → l.wordAt pc = l.slot k % 2 ^ 48)) ∧
  (∀ (l : Line) (pc : DWord) (k : Nat), k ≤ 4 → pc.toNat % 64 = 12 * k + 6 → l.wordAt pc = l.slot k / 2 ^ 48) ∧
  ∀ (i : Instr) (r : Raw), i.toRaw = some r → (i.privileged = true ↔ 0x360 ≤ r.op ∧ r.op ≤ 0x367)

/-- What reset leaves. Right after power is applied nothing is ready: no unit, no thread, no workgroup, no kick and no engine operation; every partition is Unconfigured with no window, no region and its graph slots unloaded; package memory lists nothing; no trap, message or request is under way; the hold-up controller is Off. The zero values of clocks, sensor figures and the nonvolatile records are the model's choice (notes/assumptions/4.md). -/
def Obligations.ResetState : Prop :=
  State.reset.ready = [] ∧ State.reset.supply = true ∧ State.reset.threads = [] ∧ State.reset.gangs = [] ∧ State.reset.wgs = [] ∧ State.reset.clusters = [] ∧
  State.reset.nodes = [] ∧ State.reset.kicks = [] ∧ State.reset.eops = [] ∧ State.reset.io = [] ∧ State.reset.outbox = [] ∧ State.reset.mem = [] ∧
  State.reset.rdc = [] ∧ State.reset.tlb = [] ∧ State.reset.holdup = .off ∧ State.reset.pcmdBusy = false ∧
  State.reset.parts.length = 12 ∧
  (∀ n < 12, (State.reset.part n).idx = n ∧ (State.reset.part n).st = .unconfigured ∧ (State.reset.part n).csr = [] ∧ (State.reset.part n).windows = [] ∧
    (State.reset.part n).keeps = [] ∧ (State.reset.part n).slots.length = 16 ∧ ∀ x ∈ (State.reset.part n).slots, x.loaded = false) ∧
  State.reset.sliceClk = 0 ∧ State.reset.risk = 0

/-- The memories of the reset state are in canonical form. The invariant on memories holds right after reset. -/
def Obligations.ResetMemOk : Prop :=
  MemOk State.reset

/-- Every step keeps package memory and host memory in canonical form. If package memory lists its bytes in strictly rising address order and lists no byte that an unlisted address reads as, then it does so after every step, whatever the instruction or event. If host memory lists its bytes in strictly rising address order and lists no byte that an unlisted address reads as, then it does so after every step, whatever the instruction or event. -/
def Obligations.MemoriesCanonical : Prop :=
  (
  ∀ s t : State, Memory.wf s.mem = true → step s = .next t → Memory.wf t.mem = true) ∧
  (
  ∀ s t : State, Memory.wf s.hostMem = true → step s = .next t → Memory.wf t.hostMem = true)

/-- Every step keeps every local store in canonical form. If the local store of every workgroup lists its bytes in strictly rising address order and lists no zero byte, then every local store does so after every step, whatever the instruction or event, those of new workgroups too. -/
def Obligations.LocalStoresCanonical : Prop :=
  ∀ s t : State, (∀ w ∈ s.wgs, Memory.wf w.ls = true) → step s = .next t → ∀ w ∈ t.wgs, Memory.wf w.ls = true

/-- Memory reads back what was written, and a workgroup reads its newest buffered byte. In a memory in canonical form, writing bytes at an address keeps the form; reading the same number of bytes there gives the bytes written; every byte outside them reads as before; and a number written little-endian reads back modulo its width. Two memories in canonical form that read alike everywhere are equal. A byte of global memory that a workgroup has buffered reads, for that workgroup, as the newest entry that holds it says, and any other byte as it stands under the buffer; entries just put in are newest, the last lane's first. -/
def Obligations.MemoryReadWrite : Prop :=
  (
  (∀ (m : List Host.Cell) (a : Nat) (bs : List Byte), Memory.wf m = true →
    Memory.wf (setBytes m a bs) = true ∧ getBytes (setBytes m a bs) a bs.length = bs ∧
    ∀ x, x < a ∨ a + bs.length ≤ x → getByte (setBytes m a bs) x = getByte m x) ∧
  (∀ (m : List Host.Cell) (a n v : Nat), Memory.wf m = true → getNum (setNum m a n v) a n = v % 256 ^ n) ∧
  ∀ m m' : List Host.Cell, Memory.wf m = true → Memory.wf m' = true → (∀ x, getByte m x = getByte m' x) → m = m') ∧
  (
  (∀ (s : State) (w k n i : Nat) (e : SbEntry) (a : Nat), i < n → ((s.wg w).sb.reverse.find? fun e => e.touches (.mem (k + i)) 1) = some e → e.dest = .mem a →
    (s.readThrough w k n)[i]? = some ((e.bytes[k + i - a]?).getD 0)) ∧
  (∀ (s : State) (w k n i : Nat), i < n → (∀ e ∈ (s.wg w).sb, e.touches (.mem (k + i)) 1 = false) →
    (s.readThrough w k n)[i]? = some (((s.readKey ((s.wg w).core / 16) (s.partOf w) k n)[i]?).getD 0)) ∧
  ∀ (sb es : List SbEntry) (d : Dest), (∃ e ∈ es, e.touches d 1 = true) → sbByte (sb ++ es) d = sbByte es d)

/-- Predicates: p0 reads as 1 and its writes are discarded. Each thread holds ninety-six predicates of one bit each; `p0` reads as 1; a write of `p0`, as a first or as a second destination, changes nothing of the thread; a write of another predicate is what a read gives back and changes no other predicate; an operation guarded by `(p0)` executes for every thread, one guarded by `(!p0)` for none. -/
def Obligations.PredicateRegisters : Prop :=
  (∀ t : Thread, t.pred 0 = true) ∧
  (∀ (t : Thread) (b : Bool), t.setPred 0 b = t) ∧
  (∀ (t : Thread) (n m : Nat) (b : Bool), 1 ≤ n → n ≤ 95 → m ≤ 95 → (t.setPred n b).pred m = if m = n then b else t.pred m) ∧
  (∀ (o : Op) (t : Thread) (x : Nat) (y : Bool), o.d2 = 0 → o.dst = .p 0 → writeBoth o t x y = t) ∧
  (∀ (o : Op) (t : Thread) (x : Nat) (y : Bool), o.d2 = 0 → o.dst = .none → writeBoth o t x y = t) ∧
  ∀ (s : State) (t : Thread), s.cur.replay = false → s.executes { neg := false, p := 0 } t = true ∧ s.executes { neg := true, p := 0 } t = false

/-- What a destination takes, and what it leaves. A result of 32 or 64 bits written to a vector destination is what its one or two registers hold afterwards, the low half in the lower one; a predicate destination takes the result's low bit; the second result is what the second predicate holds; and every other register, predicate and field of the thread is as it was. Where both results name one predicate (other than `p0`) the spec does not order them: what is written, once, is the low bit of the first or the second (R226), and which it is depends on the operation's word and its operands alone, which is the model's choice of a free value (notes/assumptions/2.md); in every other case both results are written as they are. -/
def Obligations.DestinationWrites : Prop :=
  (∀ (o : Op) (t : Thread) (n x : Nat) (y : Bool), o.dst = .v n → n + o.words ≤ t.v.length →
    (writeBoth o t x y).vregs n o.words = x % 2 ^ (32 * o.words) ∧
    (∀ m, m < n ∨ n + o.words ≤ m → (writeBoth o t x y).vreg m = t.vreg m)) ∧
  (∀ (o : Op) (t : Thread) (n x : Nat) (y : Bool), o.dst = .p n → 1 ≤ n → n ≤ 95 → n ≠ o.d2 → o.d2 ≤ 95 →
    (writeBoth o t x y).pred n = (x % 2 == 1)) ∧
  (∀ (o : Op) (t : Thread) (x : Nat) (y : Bool), 1 ≤ o.d2 → o.d2 ≤ 95 → (writeBoth o t x y).pred o.d2 = y) ∧
  (∀ (o : Op) (word : Nat) (c : Cap) (r : Nat × Bool), o.dst = .p o.d2 → o.d2 ≠ 0 →
    settleBoth o word c r = (r.2.toNat, r.2) ∨ settleBoth o word c r = ((r.1 % 2 == 1).toNat, r.1 % 2 == 1)) ∧
  (∀ (o : Op) (word : Nat) (c d : Cap) (r : Nat × Bool), c.a = d.a → c.b = d.b → c.c = d.c → settleBoth o word c r = settleBoth o word d r) ∧
  (∀ (o : Op) (word : Nat) (c : Cap) (r : Nat × Bool), (o.dst ≠ .p o.d2 ∨ o.d2 = 0) → settleBoth o word c r = r) ∧
  (∀ (o : Op) (t : Thread) (x : Nat) (y : Bool) (m : Nat), m ≤ 95 → o.d2 ≤ 95 → (∀ n, o.dst = .p n → n ≤ 95) → m ≠ o.d2 → o.dst ≠ .p m →
    (writeBoth o t x y).pred m = t.pred m) ∧
  ∀ (o : Op) (t : Thread) (x : Nat) (y : Bool),
    writeBoth o t x y = { t with v := (writeBoth o t x y).v, p := (writeBoth o t x y).p } ∧
    ((∀ n, o.dst ≠ .v n) → (writeBoth o t x y).v = t.v)

/-- Integer results wrap or clamp, and shifts, rotates and compares give the values of their tables. For every integer type, element k of a result is the exact result of the elements k of the sources, read as two's complement in a signed type and as unsigned otherwise, taken modulo 2^n, or with `.sat` clamped to the range of the type; no carry crosses between elements. The negation and the absolute value of the smallest signed 32-bit number wrap to themselves, and clamp to the largest. On 32-bit operands: `shl` gives the product by 2^k modulo 2^32, 0 from k = 32 on; `shr` on b and n types floors the unsigned quotient, on s types the signed one, so large counts give 0 or all ones; a rotate goes by the count modulo 32; `cmp` compares signed values in s32, unsigned ones in n32, and in b32 tells equal words from others; every condition is stated, and its combination with a third predicate. The same of the 64-bit types. -/
def Obligations.IntegerValues : Prop :=
  (
  (∀ (t : Ty) (sat : Bool) (f : Int → Int → Int → Int) (a b c k : Nat), k < t.elems →
    let n := t.elemBits
    let val (x : Nat) : Int := if t.signed then (BitVec.ofNat n (x / 2 ^ (n * k))).toInt else (BitVec.ofNat n (x / 2 ^ (n * k))).toNat
    let r := f (val a) (val b) (val c)
    let lo : Int := if t.signed then -(2 ^ (n - 1) : Int) else 0
    let hi : Int := if t.signed then 2 ^ (n - 1) - 1 else 2 ^ n - 1
    (((intOp t sat f a b c / 2 ^ (n * k) % 2 ^ n : Nat)) : Int) = (if sat then max lo (min hi r) else r) % 2 ^ n) ∧
  (∀ (t : Ty) (sat : Bool) (f : Int → Int → Int → Int) (a b c : Nat), intOp t sat f a b c < 2 ^ t.bits) ∧
  (∀ sat, intOp .s32 sat (fun x _ _ => -x) 0x80000000 0 0 = (if sat then 0x7FFFFFFF else 0x80000000)) ∧
  (∀ sat, intOp .s32 sat (fun x _ _ => (x.natAbs : Int)) 0x80000000 0 0 = (if sat then 0x7FFFFFFF else 0x80000000)) ∧
  ∀ (x y : BitVec 64) (cin : Bool),
    intOp .n64 false (fun p q _ => p + q + (cin.toNat : Int)) x.toNat y.toNat 0 = (x + y + (if cin then 1 else 0)).toNat ∧
    carryOut 64 (elemVal false 64 x.toNat + elemVal false 64 y.toNat + (cin.toNat : Int)) = decide (2 ^ 64 ≤ x.toNat + y.toNat + cin.toNat) ∧
    carryOut 64 (elemVal false 64 x.toNat - elemVal false 64 y.toNat - (cin.toNat : Int)) = decide (x.toNat < y.toNat + cin.toNat)) ∧
  (
  (∀ (x : BitVec 32) (k : Nat),
    shiftLeft .b32 x.toNat k = (x <<< k).toNat ∧ shiftLeft .s32 x.toNat k = (x <<< k).toNat ∧ shiftLeft .n32 x.toNat k = (x <<< k).toNat ∧
    shiftRight .b32 x.toNat k = (x >>> k).toNat ∧ shiftRight .n32 x.toNat k = (x >>> k).toNat ∧ shiftRight .s32 x.toNat k = (x.sshiftRight k).toNat ∧
    rotl .b32 x.toNat k = (x.rotateLeft k).toNat ∧ rotr .b32 x.toNat k = (x.rotateRight k).toNat) ∧
  (∀ (x : BitVec 64) (k : Nat),
    shiftLeft .b64 x.toNat k = (x <<< k).toNat ∧ shiftLeft .s64 x.toNat k = (x <<< k).toNat ∧ shiftLeft .n64 x.toNat k = (x <<< k).toNat ∧
    shiftRight .b64 x.toNat k = (x >>> k).toNat ∧ shiftRight .n64 x.toNat k = (x >>> k).toNat ∧ shiftRight .s64 x.toNat k = (x.sshiftRight k).toNat ∧
    rotl .b64 x.toNat k = (x.rotateLeft k).toNat ∧ rotr .b64 x.toNat k = (x.rotateRight k).toNat) ∧
  (∀ (x y : BitVec 32) (c : Bool),
    cmpBits .s32 .lt .none x.toNat y.toNat c = x.slt y ∧ cmpBits .n32 .lt .none x.toNat y.toNat c = x.ult y ∧
    cmpBits .s32 .le .none x.toNat y.toNat c = x.sle y ∧ cmpBits .n32 .le .none x.toNat y.toNat c = x.ule y ∧
    cmpBits .s32 .gt .none x.toNat y.toNat c = y.slt x ∧ cmpBits .n32 .gt .none x.toNat y.toNat c = y.ult x ∧
    cmpBits .s32 .ge .none x.toNat y.toNat c = y.sle x ∧ cmpBits .n32 .ge .none x.toNat y.toNat c = y.ule x ∧
    cmpBits .b32 .eq .none x.toNat y.toNat c = (x == y) ∧ cmpBits .b32 .ne .none x.toNat y.toNat c = (x != y)) ∧
  (∀ (x y : BitVec 64) (c : Bool),
    cmpBits .s64 .lt .none x.toNat y.toNat c = x.slt y ∧ cmpBits .n64 .lt .none x.toNat y.toNat c = x.ult y ∧
    cmpBits .s64 .le .none x.toNat y.toNat c = x.sle y ∧ cmpBits .n64 .le .none x.toNat y.toNat c = x.ule y ∧
    cmpBits .s64 .gt .none x.toNat y.toNat c = y.slt x ∧ cmpBits .n64 .gt .none x.toNat y.toNat c = y.ult x ∧
    cmpBits .s64 .ge .none x.toNat y.toNat c = y.sle x ∧ cmpBits .n64 .ge .none x.toNat y.toNat c = y.ule x ∧
    cmpBits .b64 .eq .none x.toNat y.toNat c = (x == y) ∧ cmpBits .b64 .ne .none x.toNat y.toNat c = (x != y)) ∧
  (∀ (x y : BitVec 32) (p q : BitVec 64) (c : Bool),
    cmpBits .s32 .eq .none x.toNat y.toNat c = (x == y) ∧ cmpBits .n32 .eq .none x.toNat y.toNat c = (x == y) ∧
    cmpBits .s32 .ne .none x.toNat y.toNat c = (x != y) ∧ cmpBits .n32 .ne .none x.toNat y.toNat c = (x != y) ∧
    cmpBits .s64 .eq .none p.toNat q.toNat c = (p == q) ∧ cmpBits .n64 .eq .none p.toNat q.toNat c = (p == q) ∧
    cmpBits .s64 .ne .none p.toNat q.toNat c = (p != q) ∧ cmpBits .n64 .ne .none p.toNat q.toNat c = (p != q)) ∧
  ∀ (ty : Ty) (cond : Cond) (a b : Nat) (c : Bool),
    cmpBits ty cond .and a b c = (cmpBits ty cond .none a b c && c) ∧ cmpBits ty cond .or a b c = (cmpBits ty cond .none a b c || c) ∧
    cmpBits ty cond .xor a b c = (cmpBits ty cond .none a b c != c))

/-- A jump of the generator is that many draws. `rng.jump` with a count gives the generator state that as many `rng.next` operations give; a count of 0 leaves it unchanged; and from state 0 two draws give 0x9E3779B97F4A7C16, whose upper half is the second value drawn. -/
def Obligations.RandomJump : Prop :=
  (∀ x n : DWord, rngJump x n = (rngStep^[n.toNat]) x) ∧ (∀ x : DWord, rngJump x 0 = x) ∧
  rngStep 0 = 1 ∧ rngStep (rngStep 0) = 0x9E3779B97F4A7C16 ∧ (rngStep (rngStep 0)).toNat / 2 ^ 32 = 0x9E3779B9

/-- A pushed result enters the first latch and the others shift. A push puts the results into `l0` of the slice and what was in `l0`, `l1` and `l2` into `l1`, `l2` and `l3`, where the slice has issued last for the gang of the issue, and in any case into `l0` of each run that holds all lanes of the issue; every other slice, and everything else of the slice, is unchanged. A lane of the gang which no other run holds, and which such a run holds or whose gang has the slice, then reads its 32-bit result in `l0`, and in each further latch what the one before it held for the lane; where there is no result for it, a free value. That a run keeps its results while others issue is R31's; how the results before a run count is the model's reading (notes/assumptions/12.md). -/
def Obligations.LatchPush : Prop :=
  ∀ (s : State) (vals : List LatchVal) (x : Slice), s.sliceOf s.cur.wg s.cur.gang = some x →
    (s.gangs.any fun g => g.wg == s.cur.wg && g.idx == s.cur.gang) = true →
    let had : Bool := x.wg == s.cur.wg && x.gang == s.cur.gang
    let mine (r : Run) : Bool := r.of s.cur.wg s.cur.gang && s.cur.lanes.all r.lanes.contains
    let reads (u : List LatchVal) (k lane : Nat) : Nat := match u.find? (fun v => v.lane == lane) with
      | some v => v.x % 2 ^ 32
      | none => (s.free [3, k, lane]).toNat % 2 ^ 32
    s.push vals = { s with slices := (s.push vals).slices } ∧
    (∃ y, (s.push vals).sliceOf s.cur.wg s.cur.gang = some y ∧ y = { x with
      latches := if had then (vals :: x.latches).take 4 else x.latches
      runs := x.runs.map fun r => if mine r then { r with pushed := (vals :: r.pushed).take 4 } else r }) ∧
    (∀ y ∈ (s.push vals).slices, y ∈ s.slices ∨ y.core = x.core ∧ y.idx = x.idx) ∧
    ∀ t : Thread, t.wg = s.cur.wg → t.gang = s.cur.gang →
      (∀ r ∈ x.runs, r.of t.wg t.gang = true → r.lanes.contains t.lane = true → mine r = true) →
      (had = true ∨ ∃ r ∈ x.runs, r.of t.wg t.gang = true ∧ r.lanes.contains t.lane = true) →
      (s.push vals).latch t 0 false = reads vals 0 t.lane ∧
      ∀ k, k < 3 → (s.push vals).latch t (k + 1) false = reads (x.producer t.wg t.gang t.lane k) (k + 1) t.lane

/-- br and call move the threads that take them. A `br` whose target is a slot with `TGT` set, or in a line that cannot be read, completes: each thread whose guard is true stands at the target and has left its line, the others at the next operation, and the run of the slice ends where one takes it; a `call` does the same and pushes the next operation's place on the return stack of each, which holds fewer than 16 entries. Where a lane takes a `br` to another slot the executing lanes raise 0x03. A `call` of which some executing lane holds 16 entries or which goes to another slot raises the lower of the codes that its lanes meet: 0x03 for the lanes with room, where the target is such a slot and there are some, else 0x05 for those without; then no thread has moved and nothing of it has taken effect. The model's own in this: that a line that cannot be read is left to its entry (notes/assumptions/10.md), that a re-injected transfer moves its threads (notes/assumptions/11.md), and that the trapping instruction is entry 0 of the queue, with its threads resumed after it (notes/assumptions/24.md). -/
def Obligations.BranchAndCall : Prop :=
  (∀ (g : Guard) (t : Target) (s : State), Acts s (s.captureNone g) →
    (s.captureNone g ≠ [] → s.noTarget (targetAddr s.cur.pc t) = false) →
    ∃ th, exec (.br g t) s = .next { s with threads := th, slices := endedIf s (s.captureNone g) } ∧
      Threads s (fun u => if runs s (s.captureNone g) u then { u with line := none } else u)
        (fun u => if runs s (s.captureNone g) u then (targetAddr s.cur.pc t, false) else nextPlace s u) th) ∧
  (∀ (g : Guard) (t : Target) (s : State), Acts s (s.captureNone g) →
    (s.captureNone g ≠ [] → s.noTarget (targetAddr s.cur.pc t) = false) →
    (∀ u ∈ s.threads, runs s (s.captureNone g) u = true → u.ret.length < 16) →
    ∃ th, exec (.call g t) s = .next { s with threads := th, slices := endedIf s (s.captureNone g) } ∧
      Threads s (fun u => if runs s (s.captureNone g) u then { u with ret := (s.cur.next, s.cur.past) :: u.ret, line := none } else u)
        (fun u => if runs s (s.captureNone g) u then (targetAddr s.cur.pc t, false) else nextPlace s u) th) ∧
  (∀ (g : Guard) (t : Target) (s : State), Acts s (s.captureNone g) → s.captureNone g ≠ [] → s.noTarget (targetAddr s.cur.pc t) = true →
    exec (.br g t) s = .next (s.trapIssue 0x03 (lanesOf (s.captureNone g)) (lanesOf (s.captureNone g)) (s.captureNone g) 0 0)) ∧
  ∀ (g : Guard) (t : Target) (s : State),
    let caps := s.captureNone g
    let deep (c : Cap) : Bool := s.issued.any fun u => (lanesOf caps).contains u.lane && 16 ≤ u.ret.length && u.lane == c.lane
    Acts s caps →
    (s.noTarget (targetAddr s.cur.pc t) = true → (∃ c ∈ caps, deep c = false) →
      exec (.call g t) s = .next (s.trapIssue 0x03 (lanesOf (caps.filter fun c => !deep c)) (lanesOf caps) caps 0 0)) ∧
    ((s.noTarget (targetAddr s.cur.pc t) = false ∨ ∀ c ∈ caps, deep c = true) → (∃ c ∈ caps, deep c = true) →
      exec (.call g t) s = .next (s.trapIssue 0x05 (lanesOf (caps.filter deep)) (lanesOf caps) caps 0 0))

/-- ret pops and goes there, exit leaves. A `ret` whose continuations are slots with `TGT` set, or in lines that cannot be read, or lie beyond the last line, completes: each thread whose guard is true loses the top of its stack and stands there, or, with an empty stack, exits as under `exit`; the others stand at the next operation. An `exit` at kernel level completes: each thread whose guard is true is Exited where it stood, the others stand at the next operation, and the workgroup is Draining when none of its threads is live. Both are stated whole of gangs with no Synchronising thread; of any gang, what the threads that leave complete follows: the meetings held at addresses, then those of lanes, then the workgroup's draining. At handler level an `exit`, or a `ret` with an empty stack, of some thread whose guard is true is a double fault, whose recorded cause is open. A `ret` of which some lane's continuation is another slot raises 0x03 for those lanes, whose saved stacks have lost their tops; no thread has moved. The model's own in this: that a line that cannot be read is left to its entry (notes/assumptions/10.md), and that a re-injected `ret` moves its threads (notes/assumptions/11.md). -/
def Obligations.ReturnAndExit : Prop :=
  (∀ (g : Guard) (s : State),
    let caps := s.captureNone g
    let out := (s.threads.filter fun u => runs s caps u && u.ret.isEmpty).map Thread.lane
    let gone (u : Thread) : Bool := runs s caps u && out.contains u.lane
    let left (u : Thread) : Thread := if gone u then { u with st := .exited, sync := none, wait := none, block := .none }
      else if runs s caps u then { u with ret := u.ret.tail, line := none } else u
    let stands (u : Thread) : DWord × Bool := if gone u then (u.pc, u.past) else if runs s caps u then u.ret.headD (u.pc, u.past) else nextPlace s u
    Acts s caps → (∀ u ∈ s.threads, runs s caps u = true → ∀ a past r, u.ret = (a, past) :: r → past = true ∨ s.noTarget a = false) →
    ((s.gang s.cur.wg s.cur.gang).handler = false ∨ ∀ u ∈ s.threads, gone u = false) →
    (NoneSync s s.cur.wg s.cur.gang →
      ∃ th, exec (.ret g) s = .next { s with
          threads := th
          slices := endedIf s caps
          wgs := if th.any (fun u => u.wg == s.cur.wg && u.live) then s.wgs
            else updWhere (fun x => x.uid == s.cur.wg) (fun x => if x.st == .resident then { x with st := .draining } else x) s.wgs } ∧
        Threads s left stands th) ∧
    ∃ th, Threads s left stands th ∧
      let s1 : State := { s with threads := th, slices := if s.threads.any gone then s.endRun.slices else s.slices }
      let s2 := ((s1.settle s.cur.wg s.cur.gang).resolveSync s.cur.wg s.cur.gang).drainIfDone s.cur.wg
      exec (.ret g) s = .next (if caps.isEmpty then s2 else s2.endRun)) ∧
  (∀ (g : Guard) (s : State),
    let caps := s.captureNone g
    let left (u : Thread) : Thread := if runs s caps u then { u with st := .exited, sync := none, wait := none, block := .none } else u
    let stands (u : Thread) : DWord × Bool := if runs s caps u then (u.pc, u.past) else nextPlace s u
    s.cur.mism < 2 → (s.gang s.cur.wg s.cur.gang).handler = false →
    (NoneSync s s.cur.wg s.cur.gang →
      ∃ th, exec (.exit g) s = .next { s with
          threads := th
          slices := endedIf s caps
          wgs := if th.any (fun u => u.wg == s.cur.wg && u.live) then s.wgs
            else updWhere (fun x => x.uid == s.cur.wg) (fun x => if x.st == .resident then { x with st := .draining } else x) s.wgs } ∧
        Threads s left stands th) ∧
    ∃ th, Threads s left stands th ∧ exec (.exit g) s =
      .next ((({ s with threads := th, slices := endedIf s caps }.settle s.cur.wg s.cur.gang).resolveSync s.cur.wg s.cur.gang).drainIfDone s.cur.wg)) ∧
  (∀ (g : Guard) (s : State), s.cur.mism < 2 → (s.gang s.cur.wg s.cur.gang).handler = true → s.captureNone g ≠ [] →
    ∃ c, exec (.exit g) s = .next (s.kernelError s.cur.wg 1 c)) ∧
  (∀ (g : Guard) (s : State), Acts s (s.captureNone g) → (s.gang s.cur.wg s.cur.gang).handler = true →
    (∃ u ∈ s.threads, runs s (s.captureNone g) u = true) → (∀ u ∈ s.threads, runs s (s.captureNone g) u = true → u.ret = []) →
    ∃ c, exec (.ret g) s = .next ((s.kernelError s.cur.wg 1 c).endRun)) ∧
  ∀ (g : Guard) (s : State),
    let caps := s.captureNone g
    let bad (u : Thread) : Bool := runs s caps u && (match u.ret with | (a, past) :: _ => !past && s.noTarget a | [] => false)
    let lanes := (s.threads.filter bad).map Thread.lane
    Acts s caps → lanes ≠ [] →
    exec (.ret g) s = .next ({ s with threads := s.threads.map fun u => if s.inIssue u && lanes.contains u.lane then { u with ret := u.ret.tail } else u }.trapIssue
      0x03 lanes (lanesOf caps) caps 0 0)

/-- nop, ofence, meet, meet.clr, yield and the software trap. `meet` to a slot with `TGT` set, or in a line that cannot be read (the model's own, notes/assumptions/10.md), writes the meeting address of each thread whose guard is true, `meet.clr` clears it; both advance and change nothing else but by meetings; a `meet` of executing lanes to another slot raises 0x03 for them, and no meeting address changes. `yield` changes nothing but the place of its threads and its slice, whose run ends and whose gang has yielded. `trap code` with some guard true takes trap 0x7F with the code after the instruction: the threads advance and then the trap is taken, with no entry for the instruction in the queue; with no guard true it only advances. `nop` and the compact `nop` only advance: their threads stand at the next operation and nothing else of the machine changes. `ofence` advances and records, for each thread whose guard is true, the accesses that happen-before it, which an `mma` that it issues afterwards is then sure to see, where the machine records any; nothing else of the machine changes. -/
def Obligations.PlainControl : Prop :=
  (
  (∀ (g : Guard) (t : Target) (s : State), s.cur.mism < 2 → (s.captureNone g ≠ [] → s.noTarget (targetAddr s.cur.pc t) = false) →
    ∃ th, exec (.meet g t) s = .next { s with threads := th } ∧
      Threads s (fun u => if runs s (s.captureNone g) u then { u with mt := some (targetAddr s.cur.pc t) } else u) (nextPlace s) th) ∧
  (∀ (g : Guard) (t : Target) (s : State), s.cur.mism < 2 → s.captureNone g ≠ [] → s.noTarget (targetAddr s.cur.pc t) = true →
    exec (.meet g t) s = .next (s.trapIssue 0x03 (lanesOf (s.captureNone g)) (lanesOf (s.captureNone g)) (s.captureNone g) 0 0)) ∧
  (∀ (g : Guard) (s : State), s.cur.mism < 2 →
    ∃ th, exec (.meetClr g) s = .next { s with threads := th } ∧
      Threads s (fun u => if runs s (s.captureNone g) u then { u with mt := none } else u) (nextPlace s) th) ∧
  (∀ (g : Guard) (s : State), s.cur.mism < 2 →
    ∃ th, exec (.yield g) s = .next { s with
        threads := th
        slices := if (s.captureNone g).isEmpty then s.slices
          else (s.updSlice s.cur.wg s.cur.gang fun x => { x with runs := [], yielded := true }).slices } ∧ Threads s id (nextPlace s) th) ∧
  (∀ (g : Guard) (code : Nat) (s : State), s.cur.mism < 2 → s.captureNone g = [] →
    ∃ th, exec (.trap g code) s = .next { s with threads := th } ∧ Threads s id (nextPlace s) th) ∧
  ∀ (g : Guard) (code : Nat) (s : State), s.cur.mism < 2 → s.captureNone g ≠ [] → (s.gang s.cur.wg s.cur.gang).reinject = [] →
    ∃ th, Threads s id (nextPlace s) th ∧
      exec (.trap g code) s = .next (({ s with threads := th }.updGang s.cur.wg s.cur.gang fun x => { x with reinject := [] }).takeTrap s.cur.wg s.cur.gang
        { cause := 0x7F, info := code % 256, pc := s.cur.pc, mask := lanesOf (s.captureNone g) })) ∧
  (
  (∀ s : State, ∃ th, exec .nop s = .next { s with threads := th } ∧ Threads s id (nextPlace s) th) ∧
  (∀ s : State, ∃ th, exec .nopCompact s = .next { s with threads := th } ∧ Threads s id (nextPlace s) th) ∧
  ∀ (g : Guard) (s : State), s.cur.mism < 2 →
    let h := (lanesOf (s.captureNone g)).foldl (fun h l => h.ofenced (s.me l)) s.hb
    (∃ th, exec (.ofence g) s = .next { s with threads := th, hb := h } ∧ Threads s id (nextPlace s) th) ∧
    h = { s.hb with views := h.views } ∧
    ∀ l ∈ lanesOf (s.captureNone g), s.hb.pend ≠ [] → (h.view (s.me l)).ofence = s.knownBy l)

/-- A meeting holds and releases by its rule. Threads Ready at their meeting address become Held. For an address at which some live thread of the gang is Held: where every live thread of the gang whose meeting address it is stands there, each of them that is Held becomes Ready with its meeting address cleared; where one of them stands elsewhere, none is released. No thread of another gang and no other field of any thread changes. Between the restore of a return from a trap and its last step nothing holds and nothing is released. -/
def Obligations.MeetingRelease : Prop :=
  ∀ (s : State) (w g : Nat),
    let held (u : Thread) : Bool := u.wg == w && u.gang == g && (u.st == .held || (u.st == .ready && u.mt == some u.pc && !u.past))
    (s.settle w g) = { s with threads := (s.settle w g).threads } ∧
    ((s.gang w g).returning = true → s.settle w g = s) ∧
    ((s.gang w g).returning = false → List.Forall₂ (fun u u' =>
      (held u = true → ∀ m, u.mt = some m →
        ((∀ x ∈ s.threads, x.wg = w → x.gang = g → x.live = true → x.mt = some m → x.pc = m) → u' = { u with st := .ready, mt := none }) ∧
        ((∃ x ∈ s.threads, x.wg = w ∧ x.gang = g ∧ x.live = true ∧ x.mt = some m ∧ x.pc ≠ m) → u' = { u with st := .held })) ∧
      (held u = true → u.mt = none → u' = u) ∧
      (held u = false → u' = u)) s.threads (s.settle w g).threads)

/-- Cross-lane instructions and voted branches combine the lanes that are there. A cross-lane instruction all of whose named live members are in the issue completes: each thread of the issue whose guard is true gets the result and the validity bit that the meeting gives its lane, a thread whose guard is false gets nothing, all are Ready and stand after the instruction, and nothing else of the machine changes. A `brp` all of whose named live members are in the issue, in a launch without shadow copies, whose target is a slot with `TGT` set, or in a line that cannot be read (the model's own, notes/assumptions/10.md), completes: a thread of the issue whose guard is true and whose vote is taken stands at the target and has left its line, every other thread of the issue stands after the instruction, all are Ready; nothing else of the machine changes. Where the target is another slot and some thread's vote is taken, trap 0x03 is taken for those threads at the `brp`, where they stand, Ready; the others stand after it. -/
def Obligations.CrossLaneMeets : Prop :=
  (
  ∀ o : Op,
    Meets (.xperm o) o (fun s => { a := .ty o.ty, b := s.maskKind, c := .n32 }) ∧
    Meets (.xbc o) o (fun s => { a := .ty o.ty, b := s.maskKind, c := .n32 }) ∧
    Meets (.xbcFirst o) o (fun s => { a := .ty o.ty, b := s.maskKind, c := .unused }) ∧
    (∀ x, Meets (.xred o x) o (fun s => { a := .ty o.ty, b := s.maskKind, c := .unused })) ∧
    (∀ x e, Meets (.xscan o x e) o (fun s => { a := .ty o.ty, b := s.maskKind, c := .unused })) ∧
    Meets (.xvoteAny o) o (fun s => { a := .pred, b := s.maskKind }) ∧
    Meets (.xvoteAll o) o (fun s => { a := .pred, b := s.maskKind }) ∧
    Meets (.xvoteBallot o) o (fun s => { a := .pred, b := s.maskKind }) ∧
    Meets (.xmatch o) o (fun s => { a := .ty o.ty, b := s.maskKind, c := .unused })) ∧
  (
  ∀ (all : Bool) (g : Guard) (p : Nat) (mask : Src) (t : Target) (s : State),
    let i : Instr := if all then .brpAll g p mask t else .brpAny g p mask t
    let arr := arrivals s i g { a := .pred, b := s.maskKind } (.v p) mask (.v 0)
    let out (u : Thread) : Option (SyncRec × XOut) := (laneVal arr u.lane).map fun r => (r, xOutcome s.launch.maskW arr u.lane r)
    let taken (u : Thread) : Bool := s.inIssue u && (match out u with | some (r, x) => r.on && x.taken | none => false)
    let voted (u : Thread) : Thread := { u with st := .ready, sync := none, p := (match out u with
      | some (r, x) => (s.xWrite u r x).p
      | none => u.p) }
    s.cur.mism < 2 → s.launch.shadow = false → AllHere s arr →
    (s.noTarget (targetAddr s.cur.pc t) = false →
      ∃ th, exec i s = .next { s with threads := th } ∧
        Threads s (fun u => if s.inIssue u then if taken u then { voted u with line := none } else voted u else u)
          (fun u => if taken u then (targetAddr s.cur.pc t, false) else nextPlace s u) th) ∧
    (s.noTarget (targetAddr s.cur.pc t) = true → (∃ u ∈ s.threads, taken u = true) →
      ∃ th, Threads s (fun u => if s.inIssue u then voted u else u) (fun u => if taken u then (u.pc, u.past) else nextPlace s u) th ∧
        exec i s = .next (({ s with threads := th }.updGang s.cur.wg s.cur.gang fun x => { x with reinject := [] }).takeTrap s.cur.wg s.cur.gang
          { cause := 0x03, pc := s.cur.pc, mask := (s.threads.filter taken).map Thread.lane, queue := (s.gang s.cur.wg s.cur.gang).reinject })))

/-- What a meeting gives a lane. Of a lane that is a member of its mask: `xperm` and `xbc` give the named lane's value where it supplies one, else the thread's own with the validity bit clear; `xbc.first` the lowest supplier's; a ballot the predicate bit of each supplier; `xvote` the disjunction or the conjunction over the suppliers; `xmatch` the suppliers with the thread's own value; all of these and the reductions have the validity bit set exactly when every lane of the mask supplies. An `xscan` combines the suppliers at or below the lane in ascending order from the identity. A lane outside its own mask gets the validity bit clear and its own value, of a ballot or an `xmatch` its own bit alone; an empty mask writes no result. -/
def Obligations.CrossLaneValues : Prop :=
  ∀ (w lane : Nat) (r : SyncRec) (rs : List (Nat × SyncRec)) (o : Op),
    let u := xSuppliers w rs lane r
    let all := (List.range w).all fun j => !bitAt r.mask j || u.any fun x => x.1 == j
    (bitAt r.mask (lane % w) = true →
      (r.instr = .xperm o ∨ r.instr = .xbc o →
        (∀ x, u.find? (fun x => x.1 == r.c) = some x → xOutcome w rs lane r = { d := some x.2.a, ok := true }) ∧
        (u.find? (fun x => x.1 == r.c) = none → xOutcome w rs lane r = { d := some r.a, ok := false })) ∧
      (r.instr = .xbcFirst o → ∀ x, u.head? = some x → xOutcome w rs lane r = { d := some x.2.a, ok := true }) ∧
      (r.instr = .xvoteAny o → xOutcome w rs lane r = { d := some (u.any fun y => y.2.a == 1).toNat, ok := all }) ∧
      (r.instr = .xvoteAll o → xOutcome w rs lane r = { d := some (u.all fun y => y.2.a == 1).toNat, ok := all }) ∧
      (r.instr = .xvoteBallot o → ∃ d, xOutcome w rs lane r = { d := some d, ok := all } ∧
        ∀ j, bitAt d j = true ↔ ∃ y ∈ u, y.1 = j ∧ y.2.a = 1) ∧
      (r.instr = .xmatch o → ∃ d, xOutcome w rs lane r = { d := some d, ok := all } ∧ ∀ j, bitAt d j = true ↔ ∃ y ∈ u, y.1 = j ∧ y.2.a = r.a) ∧
      (∀ x, r.instr = .xred o x → xOutcome w rs lane r =
        { d := some (xreduce x o.ty ((List.range w).map fun j => (laneVal u j).map fun y => y.a)), ok := all }) ∧
      ∀ x e, r.instr = .xscan o x e → xOutcome w rs lane r =
        { d := some (((u.filter fun y => if e then y.1 < lane % w else y.1 ≤ lane % w).map fun y => y.2.a).foldl (xcombine x o.ty) (xidentity x o.ty)), ok := all }) ∧
    (bitAt r.mask (lane % w) = false → (xOutcome w rs lane r).ok = false ∧ (xOutcome w rs lane r).taken = false ∧
      (r.mask = 0 → (xOutcome w rs lane r).d = none) ∧
      (r.mask ≠ 0 → r.instr = .xperm o ∨ r.instr = .xbc o ∨ r.instr = .xbcFirst o ∨ r.instr = .xvoteAny o ∨ r.instr = .xvoteAll o ∨ (∃ x, r.instr = .xred o x) ∨
          (∃ x e, r.instr = .xscan o x e) →
        (xOutcome w rs lane r).d = some r.a) ∧
      (r.mask ≠ 0 → r.instr = .xvoteBallot o → r.a < 2 → ∃ d, (xOutcome w rs lane r).d = some d ∧ ∀ j, bitAt d j = true ↔ j = lane % w ∧ r.a = 1) ∧
      (r.mask ≠ 0 → r.instr = .xmatch o → ∃ d, (xOutcome w rs lane r).d = some d ∧ ∀ j, bitAt d j = true ↔ j = lane % w))

/-- Loads of every space give the bytes at their places. `ldg`, `ldl`, `ldn`, `ldh` and `ldv` whose addresses pass their checks, with no uncorrectable word under them and nothing to ask from outside the package, complete: each lane that executes gets the little-endian value of the bytes its workgroup reads there, extended as the width says, with its validity predicate set; an `ldv` that the page's step does not yet allow clears the predicate and writes nothing else. Only translations, held atomic words and cached lines change besides. -/
def Obligations.LoadsComplete : Prop :=
  ∀ (o : Op) (w : Width),
    Loads (.ldg o w) .glb o w ∧ Loads (.ldl o w) .loc o w ∧ Loads (.ldn o w) .nbr o w ∧ Loads (.ldh o w) .host o w ∧ Loads (.ldv o w) .ver o w

/-- Stores to local stores write their bytes and no others. `stl` and `stn` whose addresses pass, with no uncorrectable word under a store of less than 8 bytes, complete: at the place of each lane that takes effect stand the low bytes of its data, those of the highest lane where several store to one byte; every other byte of every local store, and every register but the program counters, are as they were. Beside that the store only records what races with it: what an engine operation, a send or a contribution reads or writes in its bytes becomes undefined, blocks of commands in flight and of an `mcas` that waits, and phase objects there whose events it is not ordered with. Where nothing of the kind is under way, everything else of the machine is as it was. -/
def Obligations.LocalStoresComplete : Prop :=
  ∀ (o : Op) (w : Width) (sp : Space) (s : State), sp = .loc ∨ sp = .nbr →
    let n := WF.widthBytes w
    let caps := s.captureOp (loadKinds sp (storeKind w)) o
    let place (c : Cap) := s.place sp .write s.cur.wg (effAddr false c) n
    s.cur.mism < 2 → s.shadowDiff caps (fun c d => effAddr false c == effAddr false d && c.c % 2 ^ (8 * n) == d.c % 2 ^ (8 * n)) = [] →
    Passes place caps → (n < 8 → NonePoisoned s place n caps) → (∀ u ∈ s.wgs, Memory.wf u.ls = true) →
    ∃ t, exec (if sp == .loc then .stl o w else .stn o w) s = .next t ∧ OnlyWrites s t ∧ t.tlb = s.tlb ∧ t.hot = s.hot ∧
      Threads s id (nextPlace s) t.threads ∧ LocalStored s (Quiet s) (placed place (s.effective caps)) n t.wgs ∧
      (Quiet s → t = { s with uid := t.uid, hb := t.hb, wgs := t.wgs, threads := t.threads })

/-- Global and host-window stores enter the store buffer. `stg` and `sth` whose addresses pass and whose bytes fit into the 64 KiB buffer complete: one entry for each lane that takes effect, in ascending lane order, with its place, its address and the low bytes of its data (undefined bytes where the store races with an `mma` or with the events of a phase object), follows the entries there, and the workgroup has committed unless the launch is idempotent; memory, host memory and every register but the program counters are as they were. Translations may be cached; beside that the store only records what races with it, as a local store does. Where nothing of the kind is under way, everything else of the machine is as it was. One of which no lane executes advances its threads and does nothing else. -/
def Obligations.BufferedStoresComplete : Prop :=
  ∀ (o : Op) (w : Width) (sp : Space) (s : State), sp = .glb ∨ sp = .host →
    let n := WF.widthBytes w
    let caps := s.captureOp (loadKinds sp (storeKind w)) o
    let place (c : Cap) := s.place sp .write s.cur.wg (effAddr true c) n
    let refs := placed place (s.effective caps)
    let i : Instr := if sp == .glb then .stg o w else .sth o w
    (caps = [] → ∃ th, exec i s = .next { s with threads := th } ∧ Threads s id (nextPlace s) th) ∧
    (s.cur.mism < 2 → s.shadowDiff caps (fun c d => effAddr true c == effAddr true d && c.c % 2 ^ (8 * n) == d.c % 2 ^ (8 * n)) = [] →
    Passes place caps → refs ≠ [] → sbSize (s.wg s.cur.wg).sb + n * refs.length ≤ 65536 →
    ∃ t, exec i s = .next t ∧ OnlyWrites s t ∧
      Threads s id (nextPlace s) t.threads ∧ Buffered s n (effAddr true) (Clear s n) refs t.wgs ∧
      (Quiet s → t = { s with uid := t.uid, hb := t.hb, wgs := t.wgs, threads := t.threads, tlb := t.tlb, hot := t.hot }))

/-- gmov and gld write uniform registers. `gmov` and a `gld` whose addresses pass, with nothing uncorrectable and nothing to ask from outside, complete: the uniform destination takes one of the executing lanes' values (the same in every lane where they agree), the values are pushed, and the threads advance. A uniform register written by executing lanes holds one of their values, or one that a write which is not visible to one of them has given it, freely; written with one value, where they have seen every write of it that is recorded, it holds that value, and the lanes of the issue read it at once; every other uniform register is as it was, and every thread of another workgroup reads what it read. A thread of the workgroup that had seen the last write before and has not synchronised with this one reads the value before it or the new one, freely; one that has seen the last write of a register, or to which no write is recorded, reads the register. -/
def Obligations.UniformWrites : Prop :=
  (∀ (o : Op) (s : State), s.cur.mism < 2 →
    let vals := (s.captureOp { a := .ty o.ty } o).map fun c => (c.lane, c.a)
    ∃ th, exec (.gmov o) s = .next { (s.writeGs o vals).pushLanes o (vals.map fun v => (v.1, v.2, false)) with threads := th } ∧
      Threads s id (nextPlace s) th) ∧
  (∀ (o : Op) (sp : Space) (s : State), sp = .loc ∨ sp = .glb →
    let caps := s.captureOp { a := if sp == .glb then .n64 else .n32 } o
    let place (c : Cap) := s.place sp .read s.cur.wg c.a (4 * o.words)
    let vals := (placed place caps).map fun r => (r.cap.lane, ofBytesLE (s.bytesAt r.cap.lane r.place (4 * o.words)))
    s.cur.mism < 2 → Passes place caps → NonePoisoned s place (4 * o.words) caps → NoneAsks s sp place (4 * o.words) caps →
    ∃ th tl h r, ∃ t : State, exec (.gld o sp) s = .next { t with threads := th, tlb := tl, hot := h, rdc := r } ∧
      { t with hb := { t.hb with views := s.hb.views } } =
        (s.writeGs o vals).pushLanes o (vals.map fun v => (v.1, v.2, false)) ∧
      Threads s id (nextPlace s) th) ∧
  (∀ (s : State) (n x : Nat) (vals : List (Nat × Nat)) (w : Wg), s.wgs.find? (fun u => u.uid == s.cur.wg) = some w → n < w.g.length → vals ≠ [] →
    (∀ v ∈ vals, v.2 = x ∧ v.1 ∈ s.cur.lanes) → (∀ v ∈ vals, s.hb.regWritten s.cur.wg n ((w.g[n]?).getD 0) (s.me v.1) = []) →
    s.writeG n vals = s.setG s.cur.wg s.cur.gang s.cur.lanes n (BitVec.ofNat 32 x) ∧
    (∀ t : Thread, t.wg = s.cur.wg → t.gang = s.cur.gang → t.lane ∈ s.cur.lanes → (s.writeG n vals).greg t n = BitVec.ofNat 32 x) ∧
    (∀ t : Thread, t.wg = s.cur.wg → (t.gang ≠ s.cur.gang ∨ t.lane ∉ s.cur.lanes) → s.hb.regOlds t.wg n (s.agent t.wg t.gang t.lane) = [] →
      (s.writeG n vals).greg t n = BitVec.ofNat 32 x ∨ (s.writeG n vals).greg t n = (w.g[n]?).getD 0) ∧
    (∀ t : Thread, t.wg ≠ s.cur.wg → ∀ m, (s.writeG n vals).greg t m = s.greg t m) ∧
    (∀ (t : Thread) (m : Nat), m ≠ n → (s.writeG n vals).greg t m = s.greg t m)) ∧
  (∀ (s : State) (n : Nat) (vals : List (Nat × Nat)), vals ≠ [] → ∃ y, s.writeG n vals = s.setG s.cur.wg s.cur.gang s.cur.lanes n y ∧
    ((∃ v ∈ vals, y = BitVec.ofNat 32 v.2) ∨ ∃ v ∈ vals, y ∈ s.hb.regWritten s.cur.wg n (((s.wg s.cur.wg).g[n]?).getD 0) (s.me v.1))) ∧
  (∀ (s : State) (t : Thread) (n : Nat), s.hb.regOlds t.wg n (s.agent t.wg t.gang t.lane) = [] → s.greg t n = ((s.wg t.wg).g[n]?).getD 0) ∧
  ∀ (h : Hb) (w n : Nat) (a : Agent), ((∀ u ∈ h.pend, u.regOld w n = none) → h.regOlds w n a = []) ∧
    ∀ u, (h.pend.find? fun u => (u.regOld w n).isSome) = some u → u.before a = true → h.regOlds w n a = []

/-- Atomics take effect at their ordering points, or ask outside. An atomic whose addresses pass, with nothing uncorrectable under it and whose buffered containers and commit points go through, completes: the buffered stores to the containers are applied; the release side follows where one of the events in this package writes; each lane that takes effect on memory of this package makes its event, in some order of the lanes (the order is a free choice), and the lanes get the old values after the acquire side. Where some lane's place is a peer's memory or a host window, its request is recorded instead with its place and the values that the others have got, and the threads of the issue wait. A peer's or the host's answer to a lane whose device a path reaches makes the same event, after its release side if it writes; while other lanes wait nothing more happens, and with the last of them, if no request failed, the lanes get the old values and the threads go on. That each lane's request is answered by itself, and what the others have got is kept meanwhile, is the model's choice (notes/assumptions/25.md), and so is which devices a path reaches (notes/assumptions/16.md). The CAS loop of an `ath` that the host does not carry out itself, and answers with errors, are left to other statements. -/
def Obligations.AtomicsComplete : Prop :=
  (∀ (o : Op) (m : AtMods) (sp : Space) (s : State) (i : Instr), (sp = .loc ∧ i = .atl o m) ∨ (sp = .nbr ∧ i = .atn o m) ∨ (sp = .glb ∧ i = .atg o m) ∨ (sp = .host ∧ i = .ath o m) →
    let n := atBytes o m
    let k : Kind := if m.b128 then .quad else .ty o.ty
    let caps := s.captureOp { a := if wideSpace sp then .n64 else .n32, b := k, c := if m.op == .cas then k else .unused } o
    let place (c : Cap) := s.place sp .write s.cur.wg c.a n
    let refs := (placed place caps).filter fun r => (s.effective caps).contains r.cap
    let home := refs.filter fun r => !leavesAtomic r.place
    let out := refs.filter fun r => leavesAtomic r.place
    let s0 := s.cacheLanes sp (fun c => c.a) caps
    let s1 := contained s0 n refs
    let lanes := if s1.atomicWrites o m home then lanesOf (home.map fun r => r.cap) else []
    let x := (released s1 m.order m.scope lanes).atomicEvents o m home
    Acts s caps → Passes place caps → NonePoisoned s place n (s.effective caps) →
    (∀ c ∈ caps, ∀ j off host, place c = .ok (.win j off host) → (s.window s.curPart j).noao = false) →
    ContainersClear s0 n refs → Commits s1 m.order m.scope lanes →
    exec i s = .next (if out = [] then (x.1.atomicReturn o m caps x.2).advance else x.1.ask i caps (fun c => c.a) out x.2)) ∧
  (∀ (s : State) (i : Instr) (caps : List Cap) (addr : Cap → Nat) (out : List LaneRef) (got : List (Nat × Option Nat)),
    ∃ spans, s.ask i caps addr out got =
        { s with
          uid := s.uid + 1
          io := s.io ++ [{ id := s.uid, instr := i, issue := s.cur, caps := caps, waits := out.map (fun x => (x.cap.lane, x.place)), got := got, spans := spans }]
          threads := s.threads.map fun u => if s.inIssue u then { u with block := .io s.uid } else u }) ∧
  (∀ (s : State) (r : IoReq) (lane : Nat) (p : Place) (o : Op) (m : AtMods), s.io.find? (fun x => x.id == r.id) = some r →
    (r.instr = .atg o m ∨ (r.instr = .ath o m ∧ isNative o m = true)) → laneVal r.waits lane = some p → s.noAnswer p = false →
    let s0 : State := { s with cur := r.issue }
    let x := r.ref lane p
    let lanes := if s0.atomicWrites o m [x] then [lane] else []
    let y := (released s0 m.order m.scope lanes).atomicEvents o m [x]
    Commits s0 m.order m.scope lanes → exec (.loadReturn ⟨r.id, lane⟩ .ok) s = .next (y.1.ioNext (r.gain lane y.2))) ∧
  (∀ (s : State) (r : IoReq), r.waits ≠ [] → s.ioNext r = { s with io := updWhere (fun x => x.id == r.id) (fun _ => r) s.io }) ∧
  ∀ (s : State) (r : IoReq) (o : Op) (m : AtMods), r.waits = [] → r.bad = [] → (r.instr = .atg o m ∨ r.instr = .ath o m) →
    s.ioNext r = (({ s with
      io := s.io.filter fun x => x.id != r.id
      threads := s.threads.map fun (t : Thread) => if t.block == Block.io r.id then { t with block := .none } else t }.atomicReturn
        o m r.caps r.got).advance).afterIssue r.issue.wg r.issue.gang

/-- One lane's atomic reads the old value and writes the new one. An atomic of one lane on a local store, relaxed, in a launch without shadow copies, on bytes that no engine operation whose completion it has not acquired writes: the place holds the new value of the operator afterwards (a compare-and-swap that finds another value leaves it), every other byte of every local store is as it was, the lane's destination gets the old value unless it is discarded, a compare-and-swap sets its predicate to whether it wrote, and the threads advance. Beside that it only records what races with it, as a store does. -/
def Obligations.AtomicOneLane : Prop :=
  ∀ (s : State) (o : Op) (m : AtMods) (c : Cap) (w off : Nat), m.order = .rlx → s.launch.shadow = false → (∀ u ∈ s.wgs, Memory.wf u.ls = true) →
    let n := atBytes o m
    s.hb.racing (s.me c.lane) (.loc w off) n = false →
    let old := s.lsNum w off n
    let write := m.op != .cas || old == c.b
    let x := s.atomicEvents o m [{ cap := c, place := .loc w off }]
    let t := (x.1.atomicReturn o m [c] x.2).advance
    x.2 = [(c.lane, some old)] ∧ OnlyWrites s t ∧ t.tlb = s.tlb ∧ t.hot = s.hot ∧
      Threads s (fun u => if s.inIssue u && u.lane == c.lane then
          let v := if m.nr then u else u.writeDst o (if m.b128 then 4 else o.words) old
          if m.op == .cas then v.setPred o.d2 (old == c.b) else v
        else u) (nextPlace s) t.threads ∧
      List.Forall₂ (fun u v => SameButLocal u v ∧
        (write = true → u.uid = w → getNum v.ls off n = atNew m.op o.ty old c.b c.c % 256 ^ n) ∧
        (∀ a, (write = false ∨ u.uid ≠ w ∨ a < off ∨ off + n ≤ a) → getByte v.ls a = getByte u.ls a) ∧
        (Quiet s → ∀ a, inRanges v.undef a = (inRanges u.undef a && !(write && u.uid == w && off ≤ a && a < off + n)))) s.wgs t.wgs

/-- The operators of atomics. For every type that the operator takes the new value is: on n32, s32, n64 and s64 the sum, the difference, and the smaller and larger by the signedness of the type; on b32 and b64 the bitwise and, or and exclusive or, the operand itself, and for a compare-and-swap the third operand where the old value equals the second and the old value otherwise, which holds of 128 bits too; sums and differences wrap. An f32 sum, and each half of a bf16x2 sum in bf16, is the exact sum rounded to nearest even: no finite number is nearer, of two that are as near it is the even one, and from half a unit beyond the largest on it is infinity; a zero sum is positive unless both addends are negative zeros; a sum with an infinity is that infinity, but for opposite ones; and those and any NaN give the canonical NaN. -/
def Obligations.AtomicOperators : Prop :=
  (∀ x y z : BitVec 32,
    atNew .add .n32 x.toNat y.toNat z.toNat = (x + y).toNat ∧ atNew .add .s32 x.toNat y.toNat z.toNat = (x + y).toNat ∧
    atNew .sub .n32 x.toNat y.toNat z.toNat = (x - y).toNat ∧ atNew .sub .s32 x.toNat y.toNat z.toNat = (x - y).toNat ∧
    atNew .min .n32 x.toNat y.toNat z.toNat = (if x.ult y then x else y).toNat ∧ atNew .max .n32 x.toNat y.toNat z.toNat = (if x.ult y then y else x).toNat ∧
    atNew .min .s32 x.toNat y.toNat z.toNat = (if x.slt y then x else y).toNat ∧ atNew .max .s32 x.toNat y.toNat z.toNat = (if x.slt y then y else x).toNat ∧
    atNew .and .b32 x.toNat y.toNat z.toNat = (x &&& y).toNat ∧ atNew .or .b32 x.toNat y.toNat z.toNat = (x ||| y).toNat ∧
    atNew .xor .b32 x.toNat y.toNat z.toNat = (x ^^^ y).toNat ∧ atNew .xchg .b32 x.toNat y.toNat z.toNat = y.toNat ∧
    atNew .cas .b32 x.toNat y.toNat z.toNat = (if x = y then z else x).toNat) ∧
  (∀ p q r : BitVec 64,
    atNew .add .n64 p.toNat q.toNat r.toNat = (p + q).toNat ∧ atNew .add .s64 p.toNat q.toNat r.toNat = (p + q).toNat ∧
    atNew .sub .n64 p.toNat q.toNat r.toNat = (p - q).toNat ∧ atNew .sub .s64 p.toNat q.toNat r.toNat = (p - q).toNat ∧
    atNew .min .n64 p.toNat q.toNat r.toNat = (if p.ult q then p else q).toNat ∧ atNew .max .n64 p.toNat q.toNat r.toNat = (if p.ult q then q else p).toNat ∧
    atNew .min .s64 p.toNat q.toNat r.toNat = (if p.slt q then p else q).toNat ∧ atNew .max .s64 p.toNat q.toNat r.toNat = (if p.slt q then q else p).toNat ∧
    atNew .and .b64 p.toNat q.toNat r.toNat = (p &&& q).toNat ∧ atNew .or .b64 p.toNat q.toNat r.toNat = (p ||| q).toNat ∧
    atNew .xor .b64 p.toNat q.toNat r.toNat = (p ^^^ q).toNat ∧ atNew .xchg .b64 p.toNat q.toNat r.toNat = q.toNat ∧
    atNew .cas .b64 p.toNat q.toNat r.toNat = (if p = q then r else p).toNat) ∧
  (∀ p q r : BitVec 128, atNew .cas .b64 p.toNat q.toNat r.toNat = (if p = q then r else p).toNat) ∧
  (∀ x y z : BitVec 32, SumOf .f32 x.toNat y.toNat (atNew .add .f32 x.toNat y.toNat z.toNat)) ∧
  (∀ (x y z : BitVec 32) (k : Nat), k < 2 →
    SumOf .bf16 (x.toNat / 2 ^ (16 * k) % 2 ^ 16) (y.toNat / 2 ^ (16 * k) % 2 ^ 16) (atNew .add .bf16x2 x.toNat y.toNat z.toNat / 2 ^ (16 * k) % 2 ^ 16)) ∧
  ∀ x y z : BitVec 32, atNew .add .bf16x2 x.toNat y.toNat z.toNat < 2 ^ 32

/-- A fence does its release side and its acquire side. A `fence` whose commit point goes through completes: at `.cl` or wider its release side applies the store buffer, which is empty then, and at `.pod` or wider it writes back the dirty bytes of every line of a peer that a path reaches, and no other byte of package memory; at `.pod` or wider its acquire side drops the die's clean peer lines, and of a line with dirty bytes keeps those alone (the model's choice, log 14). At `.t` it orders nothing. At any wider scope a release fence makes the writes that follow it releases, at its scope, of all that happens-before it; an acquire fence makes the lanes acquire the releases that their earlier reads observed, of agents that share a scope instance with them (a uniform register's write from `.wg` on); and an `.acq_rel` fence comes after every `.acq_rel` fence before it with which it shares a scope instance, and is recorded as one. Then the threads advance. At scopes below `.cl` it changes no memory at all, nor any workgroup. The model's own choices in these clauses, beside that of log 14: which peers a path reaches, and that lines of a peer that none reaches stay (log 16); that a release at `.pod` or wider writes back the RDCs of all dies (log 29); that a uniform register's write shows from `.wg` on, and how accesses are recorded and observed (log 26). -/
def Obligations.FenceOrders : Prop :=
  (∀ (g : Guard) (order : Order) (scope : Scope) (s : State),
    let lanes := lanesOf (s.captureNone g)
    s.cur.mism < 2 → Commits s order scope lanes →
    ∃ th, exec (.fence g order scope) s =
        .next { ((released s order scope lanes).acquiring order scope lanes).fenceSync order scope lanes with threads := th } ∧
      Threads s id (nextPlace s) th) ∧
  (∀ (s : State) (order : Order) (scope : Scope) (lanes : List Nat),
    let h := (s.fenceSync order scope lanes).hb
    let k := scopeRank scope
    s.fenceSync order scope lanes = { s with hb := h } ∧
    (k = 0 → h = s.hb) ∧
    ∀ l ∈ lanes, k ≠ 0 →
      (isRelease order = true → h.pend ≠ [] → { by_ := s.me l, rank := k, pubs := h.known (s.me l) } ∈ (h.view (s.me l)).rel) ∧
      (isAcquire order = true → ∀ x ∈ (s.hb.view (s.me l)).obs, x.1 ≤ k → x.2.by_.shares (s.me l) (min k x.2.rank) = true →
        ∀ u ∈ s.hb.pend, u.uid ∈ x.2.pubs → u.what.shown (min k x.2.rank) = true → u.uid ∈ h.known (s.me l)) ∧
      (order = .acqRel →
        (∀ r ∈ s.hb.fences, r.by_.shares (s.me l) (min k r.rank) = true →
          ∀ u ∈ s.hb.pend, u.uid ∈ r.pubs → u.what.shown (min k r.rank) = true → u.uid ∈ h.known (s.me l)) ∧
        (s.hb.pend ≠ [] → ∃ r ∈ h.fences, r.by_ = s.me l ∧ r.rank = k ∧ ∀ u ∈ s.hb.known (s.me l), u ∈ r.pubs))) ∧
  (∀ (s : State) (order : Order) (scope : Scope),
    let c := s.commit s.cur.wg
    let t := (s.released order scope).1
    (isRelease order = false ∨ scopeRank scope < 3 → s.released order scope = (s, true)) ∧
    (isRelease order = true → 3 ≤ scopeRank scope →
      ((s.released order scope).2 = true ↔ (c.wg s.cur.wg).sb = []) ∧
      (scopeRank scope < 5 ∨ (c.wg s.cur.wg).sb ≠ [] → t = c) ∧
      (5 ≤ scopeRank scope → (c.wg s.cur.wg).sb = [] → Memory.wf c.mem = true →
        t = { c with mem := t.mem, wild := t.wild, rdc := t.rdc, hb := { c.hb with tags := t.hb.tags } } ∧
        (∀ l ∈ t.rdc, l.dirty = [] ∨ c.unreachable (128 * l.line) = true) ∧
        (∀ l ∈ c.rdc, c.unreachable (128 * l.line) = true → l ∈ t.rdc) ∧
        ∀ a, ((∃ l ∈ c.rdc, ∃ i ∈ l.dirty, c.unreachable (128 * l.line) = false ∧ a = 128 * l.line + i ∧ getByte t.mem a = (l.bytes[i]?).getD 0) ∨
          ((∀ l ∈ c.rdc, ∀ i ∈ l.dirty, c.unreachable (128 * l.line) = false → a ≠ 128 * l.line + i) ∧ getByte t.mem a = getByte c.mem a))))) ∧
  (∀ (s : State) (order : Order) (scope : Scope) (lanes : List Nat),
    let t := s.acquiring order scope lanes
    (isAcquire order = false ∨ scopeRank scope < 5 ∨ lanes = [] → t = s) ∧
    (isAcquire order = true → 5 ≤ scopeRank scope → lanes ≠ [] →
      t = { s with rdc := t.rdc } ∧ (∀ l ∈ t.rdc, l.die = s.die → l.dirty ≠ [] ∧ l.full = false) ∧ (∀ l ∈ s.rdc, l.die ≠ s.die → l ∈ t.rdc) ∧
      ∀ l ∈ s.rdc, l.die = s.die → l.dirty ≠ [] → { l with full := false } ∈ t.rdc)) ∧
  ∀ (g : Guard) (order : Order) (scope : Scope) (s t : State), s.cur.mism < 2 → scopeRank scope < 3 → exec (.fence g order scope) s = .next t →
    t.mem = s.mem ∧ t.hostMem = s.hostMem ∧ t.rdc = s.rdc ∧ t.wgs = s.wgs

/-- An event on a phase object. An arrival removes its count from the pending arrivals and a byte credit its bytes from the pending bytes, both stopping at zero; an event that leaves both at zero completes the phase: the phase number grows by one modulo 2^32 and both counts are loaded from the expected counts; any other event keeps the phase number. The expected counts never change by an event, and an object whose expected counts are both zero, at rest, completes one phase at each event. A wait on n is satisfied exactly when the phase number minus n, as a signed 32-bit value, is greater than zero. -/
def Obligations.PhaseObjectRule : Prop :=
  (∀ (p : PhaseObj) (cnt bytes : Nat), p.arrPend - cnt = 0 → p.bytPend - bytes = 0 →
    phaseStep p cnt bytes = ({ phase := (p.phase + 1) % 2 ^ 32, arrExp := p.arrExp, arrPend := p.arrExp, bytExp := p.bytExp, bytPend := p.bytExp }, true)) ∧
  (∀ (p : PhaseObj) (cnt bytes : Nat), (p.arrPend - cnt ≠ 0 ∨ p.bytPend - bytes ≠ 0) →
    phaseStep p cnt bytes = ({ p with arrPend := p.arrPend - cnt, bytPend := p.bytPend - bytes }, false)) ∧
  (∀ (p : PhaseObj) (cnt bytes : Nat), (phaseStep p cnt bytes).1.arrExp = p.arrExp ∧ (phaseStep p cnt bytes).1.bytExp = p.bytExp) ∧
  (∀ (p : PhaseObj) (cnt bytes : Nat), p.arrExp = 0 → p.bytExp = 0 → p.arrPend = 0 → p.bytPend = 0 → (phaseStep p cnt bytes).2 = true) ∧
  (∀ (p : PhaseObj), p.phase < 2 ^ 32 → p.arrExp < 2 ^ 16 → p.arrPend < 2 ^ 16 → p.bytExp < 2 ^ 32 → p.bytPend < 2 ^ 32 → phaseOfNum (phaseToNum p) = p) ∧
  ∀ phase n : Word, phasePassed phase n = true ↔ 0 < (phase - n).toInt

/-- phi, arv, arvb, wph and wph.try complete. `phi` on a local object whose address passes writes the sixteen bytes of the fields it is given, and on a global one enters them into the store buffer; `arv` and `arvb`, after their commit point, make one event per lane that takes effect, in some order of the lanes, and give each lane the phase its event counted toward; the object of a lane is as it stands unless an engine operation races with the lane's access, which finds the bytes of the race undefined; a `wph` whose every lane's condition is true acquires and advances; one whose lane's condition is false makes that lane Waiting with what it waits for and ends the run of the slice; `wph.try` gives each executing lane the truth of its condition. A `phi` of no lane only advances. Beside that a `phi` does what a store does, and is recorded as an event on its object, which a store that races with it leaves undefined; `wph` and `wph.try` only fill caches, recall held words and record what their lanes acquire. On a versioned page `phi`, `arv` and `arvb` raise 0x1C, and do so before any other check (the model's choice, log 58). -/
def Obligations.PhaseInstructionsComplete : Prop :=
  (∀ (o : Op) (sp : Space) (s : State), sp = .loc ∨ sp = .nbr →
    let caps := s.captureOp (phaseKinds sp) o
    let refs := ((placed (fun c => s.placeObj sp .write c.a) caps).filter fun r => (s.effective caps).contains r.cap).map fun r =>
      { r with cap := { r.cap with c := phaseToNum (phaseInit r.cap.b r.cap.c) } }
    Acts s caps → Passes (fun c => s.placeObj sp .write c.a) caps → (∀ u ∈ s.wgs, Memory.wf u.ls = true) →
    let calm := Quiet s ∧ ∀ r ∈ refs, s.hb.storeRace (objRef sp r.place) (s.knownBy r.cap.lane) = false
    ∃ t, exec (.phi o sp) s = .next t ∧ OnlyWrites s t ∧ t.tlb = s.tlb ∧ t.hot = s.hot ∧ Threads s id (nextPlace s) t.threads ∧ LocalStored s calm refs 16 t.wgs ∧
      (Quiet s → t = { s with uid := t.uid, hb := t.hb, wgs := t.wgs, threads := t.threads })) ∧
  (∀ (o : Op) (s : State),
    let caps := s.captureOp (phaseKinds .glb) o
    let refs := ((placed (fun c => s.placeObj .glb .write c.a) caps).filter fun r => (s.effective caps).contains r.cap).map fun r =>
      { r with cap := { r.cap with c := phaseToNum (phaseInit r.cap.b r.cap.c) } }
    let raced (r : LaneRef) : Bool := s.hb.storeRace (objRef .glb r.place) (s.knownBy r.cap.lane)
    let calm := Quiet s ∧ ∀ r ∈ refs, raced r = false
    (caps = [] → ∃ th, exec (.phi o .glb) s = .next { s with threads := th } ∧ Threads s id (nextPlace s) th) ∧
    (Acts s caps → Passes (fun c => s.placeObj .glb .write c.a) caps → refs ≠ [] → sbSize (s.wg s.cur.wg).sb + 16 * refs.length ≤ 65536 →
    ∃ t, exec (.phi o .glb) s = .next t ∧ OnlyWritesIf calm s t ∧ Threads s id (nextPlace s) t.threads ∧
      Buffered s 16 (fun c => c.a) (fun r => Clear s 16 r ∧ raced r = false) refs t.wgs ∧
      (calm → t = { s with uid := t.uid, hb := t.hb, wgs := t.wgs, threads := t.threads, tlb := t.tlb, hot := t.hot }))) ∧
  (∀ (o : Op) (sp : Space) (bytes : Bool) (s : State), sp ≠ .ver →
    let caps := s.captureOp { phaseKinds sp with c := if bytes then .n32 else .unused } o
    let refs := (placed (fun c => s.placeObj sp .write c.a) caps).filter fun r => (s.effective caps).contains r.cap
    let s1 := s.cacheLanes sp (fun c => c.a) caps
    let x := (released s1 .rel .pkg (lanesOf caps)).arriveLanes sp refs
    Acts s caps → Passes (fun c => s.placeObj sp .write c.a) caps → NonePoisoned s (fun c => s.placeObj sp .write c.a) 16 caps → Commits s1 .rel .pkg (lanesOf caps) →
    exec (if bytes then .arvb o sp else .arv o sp) s = .next (x.1.returnTo o 1 x.2).advance) ∧
  (∀ (s : State) (sp : Space) (r : LaneRef),
    let t := s.raceObj (s.me r.cap.lane) (objRef sp r.place)
    s.arriveLanes sp [r] = ((t.phaseEvent (objRef sp r.place) r.cap.b r.cap.c (t.me r.cap.lane, t.knownBy r.cap.lane) true).st,
      [(r.cap.lane, (phaseOfNum (t.phaseNum (objRef sp r.place))).phase % 2 ^ 32)])) ∧
  (∀ (s : State) (who : Agent) (r : PhaseRef), (∀ a, r.sync = some a → s.hb.racing who a 16 = false) → s.raceObj who r = s) ∧
  (∀ (o : Op) (sp : Space) (s : State),
    let caps := s.captureOp { phaseKinds sp with c := .unused } o
    let place (c : Cap) := s.placeObj sp .read c.a
    let ok (c : Cap) : Bool := match place c with
      | .ok p => phasePassed (s.phaseBy s.cur.wg s.cur.gang c.lane (objRef sp p)) (BitVec.ofNat 32 c.b)
      | .error _ => false
    let h := (s.passLanes sp ((placed place caps).filter fun r => s.waitPassed sp r)).hb
    s.cur.mism < 2 → Passes place caps → NonePoisoned s place 16 caps → (lanesOf caps).Nodup →
    (∃ th tl w, exec (.wph o sp) s =
        .next { s with threads := th, tlb := tl, hot := w, hb := h, slices := if caps.all ok then s.slices else s.endRun.slices } ∧
      Threads s (written s caps fun u c => match place c with
        | .ok p => if ok c then u
          else { u with st := .waiting, wait := some { obj := objRef sp p, n := BitVec.ofNat 32 c.b, at_ := s.cur.pc, next := s.cur.next, past := s.cur.past } }
        | .error _ => u)
        (fun u => if s.inIssue u && caps.any (fun c => c.lane == u.lane && !ok c) then (u.pc, u.past) else nextPlace s u) th) ∧
    ∃ th tl w, exec (.wphTry o sp) s = .next { s with threads := th, tlb := tl, hot := w, hb := h } ∧
      Threads s (written s caps fun u c => u.setPred o.d2 (ok c)) (nextPlace s) th) ∧
  (∀ (o : Op) (s : State), Acts s (s.captureOp (phaseKinds .ver) o) → s.captureOp (phaseKinds .ver) o ≠ [] →
    ∃ f, exec (.phi o .ver) s = .next (s.faultLanes (s.captureOp (phaseKinds .ver) o) f) ∧ f.1 = 0x1C) ∧
  ∀ (o : Op) (bytes : Bool) (s : State),
    let caps := s.captureOp { phaseKinds .ver with c := if bytes then .n32 else .unused } o
    Acts s caps → caps ≠ [] → ∃ f, exec (if bytes then .arvb o .ver else .arv o .ver) s = .next (s.faultLanes caps f) ∧ f.1 = 0x1C

/-- mcas compares and swaps as one event, vpub advances a version record. An `mcas` whose blocks pass their checks, with no uncorrectable block, completes with the events of its lanes once the buffered stores to its entries are applied and, where one of the events succeeds, its release side has gone through; the comparison bit of an entry is set exactly where what was read differs from `EXPECT`. A lane whose entries all compare equal writes every `NEW`, and no other byte of package memory, and reports success; one with a difference writes no byte of package memory, puts what it read into the `EXPECT` fields and reports the bits; besides these fields no byte of any local store changes. A `vpub` whose pages pass completes when no record is at its last step: each lane's record takes the next step, the threads waiting on it are tested, and the lanes get their new steps; a record at its last step is left as it is, and the lanes that name one trap with 0x1D, the others having advanced. A lane that has waited in its `mcas` keeps the block it was checked with and has its entries checked again; no lane of the issue waits any more. -/
def Obligations.McasAndVpub : Prop :=
  (∀ (o : Op) (order : Order) (s : State) (ms : List McasLane),
    let caps := s.captureOp { a := .n32 } o
    let ranges := ms.flatMap fun m => m.keys.map fun k => (k, m.blk.width)
    let s1 := ranges.foldl (fun s r => s.commitRange s.cur.wg (.mem r.1) r.2) (caps.foldl State.mcasTouch s)
    let lanes := if s1.mcasWrites order ms then lanesOf caps else []
    Acts s caps → (∀ c ∈ caps, ∃ m, s.mcasLaneCheck c = .ok m) → List.Forall₂ (fun c m => s.mcasLaneCheck c = .ok m) (s.effective caps) ms →
    (∀ m ∈ ms, (s.wg s.cur.wg).lsBad m.off m.size = false) →
    (∀ r ∈ ranges, s1.rangeClear s1.cur.wg (.mem r.1) r.2 = true) → Commits s1 order .pkg lanes →
    exec (.mcas o order) s = .next (((released s1 order .pkg lanes).mcasKeep []).mcasNow o order ms)) ∧
  (∀ (s : State) (c : Cap) (m : McasLane),
    (s.mcasKept.find? (fun x => x.lane == c.lane) = none →
      (s.mcasLaneCheck c = .ok m ↔ s.mcasCheck c.lane c.a = .ok (m.blk, m.keys) ∧ m.lane = c.lane ∧ m.off = c.a ∧ m.spoiled = false)) ∧
    (∀ x, s.mcasKept.find? (fun x => x.lane == c.lane) = some x →
      (s.mcasLaneCheck c = .ok m ↔ s.mcasEntryCheck x.off x.blk = .ok (x.blk, m.keys) ∧ m = { x with keys := m.keys }))) ∧
  (∀ s : State, (s.mcasKeep []).mcasKept = [] ∧ s.mcasKeep [] = { s with gangs := (s.mcasKeep []).gangs } ∧
    ∀ w g, w ≠ s.cur.wg ∨ g ≠ s.cur.gang → (s.mcasKeep []).gang w g = s.gang w g) ∧
  (∀ (es : List McasEntry) (os : List Nat) (i : Nat), es.length = os.length → i < es.length →
    bitAt (mcasMask 0 es os) i = !((os[i]?).getD 0 == ((es[i]?).getD default).expect)) ∧
  (∀ (s : State) (order : Order) (m : McasLane), m.keys.length = m.blk.entries.length → Memory.wf s.mem = true →
    (∀ k ∈ m.keys, isPeer k = false) → anyOverlap m.blk.width m.keys = false →
    let n := m.blk.width
    let obs := m.keys.map fun k => s.numBy m.lane (.mem k none) n
    let x := s.mcasEvent order m
    x.2.2 = obs ∧ (x.2.1 = 0 ↔ obs = m.blk.entries.map fun e => e.expect) ∧ x.2.1 = mcasMask 0 m.blk.entries obs ∧
    (x.2.1 = 0 → (∀ (i k : Nat) (e : McasEntry), m.keys[i]? = some k → m.blk.entries[i]? = some e → getNum x.1.mem k n = e.new % 256 ^ n) ∧
      ∀ a, (∀ k ∈ m.keys, a < k ∨ k + n ≤ a) → getByte x.1.mem a = getByte s.mem a) ∧
    (x.2.1 ≠ 0 → x.1 = { s with hot := x.1.hot, hb := x.1.hb })) ∧
  (∀ (s : State) (m : McasLane) (mask : Nat) (obs : List Nat), (∀ u ∈ s.wgs, Memory.wf u.ls = true) → mask < 2 ^ 8 →
    OnlyWrites s (s.mcasBlockWrites m mask obs) ∧
    List.Forall₂ (fun u v => SameButLocal u v ∧
      (u.uid = s.cur.wg → getNum v.ls (m.off + 4) 4 = 2 ^ 31 + (if mask = 0 then 2 ^ 8 else mask)) ∧
      (u.uid = s.cur.wg → mask ≠ 0 → ∀ i x, obs[i]? = some x → getNum v.ls (m.off + 24 + 24 * i) 8 = x % 2 ^ 64) ∧
      ∀ a, (u.uid ≠ s.cur.wg ∨ ((a < m.off + 4 ∨ m.off + 8 ≤ a) ∧
          (mask = 0 ∨ ∀ i < obs.length, a < m.off + 24 + 24 * i ∨ m.off + 32 + 24 * i ≤ a))) →
        getByte v.ls a = getByte u.ls a) s.wgs (s.mcasBlockWrites m mask obs).wgs) ∧
  (∀ (s : State) (order : Order) (m : McasLane), m.spoiled = false →
    let x := s.mcasEvent order m
    State.mcasLane order [m] (s, []) m = (x.1.mcasBlockWrites m x.2.1 x.2.2, [(m.lane, x.2.1, x.2.1 == 0)])) ∧
  (∀ (o : Op) (s : State),
    let caps := s.captureOp { a := .n64 } o
    let s0 := s.cacheLanes .ver (fun c => c.a) caps
    let x := (placed (fun c => s.placeVer c.a) (s.effective caps)).foldl State.vpubLane (released s0 .rel .pkg (lanesOf caps), [], [])
    let t := (if x.2.1.isEmpty then x.1 else x.1.committed).returnTo o 1 x.2.1
    let bad := caps.filter fun c => (x.2.2.flatMap fun l => x.1.copies l).contains c.lane
    Acts s caps → (∀ c ∈ caps, ∃ p, s.placeVer c.a = .ok p) → Commits s0 .rel .pkg (lanesOf caps) →
    (x.2.2 = [] → exec (.vpub o) s = .next t.advance) ∧
    (x.2.2 ≠ [] → ∃ va, exec (.vpub o) s = .next (t.trapIssue 0x1D x.2.2 (lanesOf bad) bad va 0) ∧
      ∀ c ∈ bad, (∀ d ∈ bad, d.lane = lowest x.2.2 → d = c) → c.lane = lowest x.2.2 → va = BitVec.ofNat 64 c.a)) ∧
  ∀ (s : State) (c : Cap) (k i : Nat),
    (s.stepOf (homeOf k) i ≠ 0xFFFFFFFF →
      let x := State.vpubLane (s, [], []) { cap := c, place := .mem k (some i) }
      x.1.stepOf (homeOf k) i = s.stepOf (homeOf k) i + 1 ∧ x.2 = ([(c.lane, (s.stepOf (homeOf k) i + 1).toNat)], [])) ∧
    (s.stepOf (homeOf k) i = 0xFFFFFFFF → State.vpubLane (s, [], []) { cap := c, place := .mem k (some i) } = (s, [], [c.lane]))

/-- cbget and cbput take and free slots. `cbget` and `cbput` whose descriptors pass, and what they read with them holds no uncorrectable word, complete, `cbput` after its commit point. A descriptor is as it stands unless an engine operation races with a lane's access, which finds the bytes of the race undefined. A single lane's `cbget` gives slot number and lap (`GETSEQ` modulo and divided by the number of slots) and the address of the slot's fill phase, and steps `GETSEQ` by one modulo 2^32, changing no other byte of any local store and nothing else but what commands in flight or stopped have left undefined; where that wraps and the number of slots is no power of two, the counters are undefined afterwards, else only `GETSEQ` is redefined. A `cbput` makes one arrival on the free phase of its slot, and where that completes the phase `FREE` grows and `FILLED` falls by one in the same event; beyond the one put per lap it leaves `FREE`, `FILLED` and the slot's bytes undefined: which put that is, one of a slot that no lap holds by its sequence numbers and phases, is the model's reading (log 47), and what is free after it stands in log 31. An event on any phase object completes its phase, and counts toward the phase, as the rule of R105 says. -/
def Obligations.CircularBuffers : Prop :=
  (∀ (o : Op) (s : State),
    let caps := s.captureOp { a := .n32 } o
    let s0 := s.raceCbufs caps
    let x := (s0.freeOrder 4 (fun c : Cap => c.lane) (s0.effective caps)).foldl State.cbgetLane (s0, [])
    Acts s caps → (∀ c ∈ caps, (s.raceCbufs [c]).cbufCheck s.cur.wg c.a = none ∧ (s.wg s.cur.wg).lsBad c.a 64 = false) →
    exec (.cbget o) s = .next ((x.1.updIssue fun t => match x.2.find? fun r => (s0.copies r.1).contains t.lane with
      | some r => if o.d2 == 0 then t.writeDst o 2 r.2.1 else (t.writeDst o 2 r.2.1).setV o.d2 (BitVec.ofNat 32 r.2.2)
      | none => t).advance)) ∧
  (∀ (s : State) (c : Cap), (∀ u ∈ s.wgs, Memory.wf u.ls = true) →
    let d := s.cbufAt s.cur.wg c.a
    let x := State.cbgetLane (s, []) c
    x.2 = [(c.lane, d.getseq % d.nslot + 2 ^ 32 * (d.getseq / d.nslot), d.fillph + 16 * (d.getseq % d.nslot))] ∧
    ∃ ws h eo se co sl pa ga, x.1 = { s with wgs := ws, hb := h, eops := eo, sends := se, contribs := co, seals := sl, parts := pa, gangs := ga } ∧
      List.Forall₂ (fun a b => b = { a with spoiled := b.spoiled }) s.eops eo ∧ Marked s se co sl pa ga ∧ List.Forall₂ (fun u v => SameButLocal u v ∧
      (u.uid = s.cur.wg → getNum v.ls (c.a + 28) 4 = (d.getseq + 1) % 2 ^ 32) ∧
      (∀ a, (u.uid ≠ s.cur.wg ∨ a < c.a + 28 ∨ c.a + 32 ≤ a) → getByte v.ls a = getByte u.ls a) ∧
      ∀ a, inRanges v.undef a = if d.getseq + 1 = 2 ^ 32 ∧ slotsWrap d.nslot = false ∧ u.uid = s.cur.wg ∧ c.a + 24 ≤ a ∧ a < c.a + 40 then true
        else inRanges u.undef a && !(u.uid == s.cur.wg && c.a + 28 ≤ a && a < c.a + 32)) s.wgs ws) ∧
  (∀ (o : Op) (s : State),
    let caps := s.captureOp { a := .n32, b := .n32 } o
    let s0 := s.raceCbufs caps
    let d (c : Cap) : Cbuf := (s.raceCbufs [c]).cbufAt s.cur.wg c.a
    let r := released s0 .rel .pkg (lanesOf caps)
    Acts s caps → (∀ c ∈ caps, (s.raceCbufs [c]).cbufCheck s.cur.wg c.a = none ∧ c.b < (d c).nslot ∧ (s.wg s.cur.wg).lsBad c.a 64 = false ∧
      (s.wg s.cur.wg).lsBad ((d c).freeph + 16 * c.b) 16 = false) →
    Commits s0 .rel .pkg (lanesOf caps) →
    exec (.cbput o) s = .next (((r.freeOrder 5 (fun c : Cap => c.lane) (r.effective caps)).foldl State.cbputLane r).advance)) ∧
  (∀ (s : State) (caps : List Cap), (∀ c ∈ caps, s.hb.racing (s.me c.lane) (.loc s.cur.wg c.a) 64 = false) → s.raceCbufs caps = s) ∧
  (∀ (s : State) (c : Cap),
    let w := s.cur.wg
    let obj := PhaseRef.loc w ((s.cbufAt w c.a).freeph + 16 * c.b)
    let e := (s.raceObj (s.me c.lane) obj).phaseEvent obj 1 0 (s.me c.lane, s.knownBy c.lane) true
    (s.slotIdle w c.a c.b = false → e.done = false → s.cbputLane c = e.st) ∧
    (s.slotIdle w c.a c.b = false → e.done = true →
      let t := e.st.setCbuf w c.a 9 (((e.st.cbufAt w c.a).freed + 1) % 2 ^ 32)
      s.cbputLane c = t.setCbuf w c.a 8 (((e.st.cbufAt w c.a).filled + 2 ^ 32 - 1) % 2 ^ 32)) ∧
    (s.slotIdle w c.a c.b = true → s.cbputLane c = e.st.updWg w fun x =>
      let d := e.st.cbufAt w c.a
      (x.wildLs (c.a + 32) 8).wildLs (d.base + 128 * d.slotsz * c.b) (128 * d.slotsz))) ∧
  ∀ (s : State) (r : PhaseRef) (cnt bytes : Nat) (ev : Agent × List Nat) (own : Bool),
    (s.phaseEvent r cnt bytes ev own).done = (phaseStep (phaseOfNum (s.phaseNum r)) cnt bytes).2 ∧
    (s.phaseEvent r cnt bytes ev own).phase = BitVec.ofNat 32 (phaseOfNum (s.phaseNum r)).phase

/-- publish, its write-out, buffer application and line eviction. `publish` of open windows, after its commit point, completes with a write-out waiting for each lane. A write-out puts the marked bytes of the shadow into host memory and then one more than its count into the 64-bit counter; every other byte of host memory is as it was, and the map of marks in device memory is cleared; of a window a granule of whose shadow or map has been taken from the partition nothing is written out or cleared but the counter (the model's choice, log 57). In a launch not marked idempotent an entry of the store buffer that no fault holds, with no older entry held or storing to a byte of it, is applied. A line of a peer that a path reaches is written back byte by byte where it is dirty and leaves the cache. -/
def Obligations.PublicationAndApply : Prop :=
  (∀ (o : Op) (s : State),
    let caps := s.captureOp { a := .n32 } o
    let r := released s .rel .sys (lanesOf caps)
    let wins := (r.effective caps).map fun c => (c.a, ({ by_ := r.me c.lane, rank := 6, pubs := r.knownBy c.lane } : Release))
    let s1 := r.updPart r.curPart fun q => { q with publishes := q.publishes ++ wins }
    Acts s caps → (∀ c ∈ caps, s.closed c.a = false) → Commits s .rel .sys (lanesOf caps) →
    exec (.publish o) s = .next ((if wins.isEmpty then s1 else s1.committed).advance)) ∧
  (∀ (s : State) (part win : Nat) (x : Nat × Release), (s.part part).publishes.find? (fun x => x.1 == win) = some x → Memory.wf s.hostMem = true →
    let w := s.window part win
    ∃ h b, exec (.publishWriteout part win) s = .next ({ s.unstaged part w with hostMem := h, hb := b }.updPart part fun q => { q with
        publishes := q.publishes.erase x
        windows := updWhere (fun y => y.idx == win) (fun y => { y with count := w.count + 1 }) q.windows }) ∧
      (∀ a, getByte h a = if w.ctr ≤ a ∧ a < w.ctr + 8 then ((toBytesLE (w.count + 1).toNat 8)[a - w.ctr]?).getD 0
        else if w.haddr ≤ a ∧ a - w.haddr ∈ s.staging part w then s.homeByte (w.shadow + (a - w.haddr)) else getByte s.hostMem a) ∧
      (x.2.pubs ≠ [] → x.2 ∈ readTags b.tags (.host w.ctr) 8)) ∧
  (∀ (s : State) (part : Nat) (w : Window),
    (s.windowOwned part w = false → s.staging part w = [] ∧ s.unstaged part w = s) ∧
    (s.windowOwned part w = true → (∀ i, i / 8 < w.size / 8 → Memory.wf s.mem = true → (i ∈ s.staging part w ↔ bitAt (getByte s.mem (w.shadow + w.size + i / 8)).toNat (i % 8) = true)) ∧
      ∃ m sv po wl ho, s.unstaged part w = { s with mem := m, saves := sv, poison := po, wild := wl, hot := ho } ∧
        ∀ c, c ∈ m ↔ c ∈ s.mem ∧ (c.1 < w.shadow + w.size ∨ w.shadow + w.size + w.size / 8 ≤ c.1))) ∧
  (∀ (s : State) (wg idx : Nat) (e : SbEntry), (s.wg wg).sb[idx]? = some e → (s.launchOf wg).idem = false → e.held = false →
    (∀ x ∈ (s.wg wg).sb.take idx, x.held = false ∧ x.meets e = false) → s.onCore wg = true → s.sbFails wg e = false →
    exec (.storeBufferApply wg idx) s = .next (s.sbApply wg e)) ∧
  (∀ (s : State) (w k : Nat) (e : SbEntry), e.dest = .mem k → isPeer k = false → Memory.wf s.mem = true →
    (∀ a, getByte (s.sbApply w e).mem a = if k ≤ a ∧ a < k + e.bytes.length then (e.bytes[a - k]?).getD 0 else getByte s.mem a) ∧
    List.Forall₂ (fun u v => v = (if u.uid = w then { u with sb := u.sb.filter fun y => y.uid != e.uid, committed := true, undef := v.undef } else { u with undef := v.undef }) ∧
      (Quiet s → v.undef = u.undef)) s.wgs (s.sbApply w e).wgs) ∧
  ∀ (s : State) (die part line : Nat) (l : RdcLine), s.rdcLine? die part line = some l → (∀ x ∈ s.rdc, x.at_ die part line = true → x = l) →
    s.unreachable (128 * line) = false → Memory.wf s.mem = true → l.dirty.Nodup →
    ∃ m wl tg, exec (.rdcLineEvict die ⟨part, line⟩ true) s =
        .next { s with mem := m, wild := wl, rdc := s.rdc.filter fun x => !x.at_ die part line, hb := { s.hb with tags := tg } } ∧
      (∀ a, getByte m a = if 128 * line ≤ a ∧ a - 128 * line ∈ l.dirty then (l.bytes[a - 128 * line]?).getD 0 else getByte s.mem a) ∧
      ∀ a, inRanges wl a = (inRanges s.wild a && !(decide (128 * line ≤ a) && l.dirty.contains (a - 128 * line)))

/-- gcp, gst, gpl, mma and drain enter their engines. Engine commands whose blocks pass, with no uncorrectable word in what their checks read and at least one place free among the workgroup's 32, complete: in ascending lane order as many lanes as there is room for hand over a copy of their block and go on; the others stay at the instruction. An `mma` goes to the lathe that its block names, or, where it names none, to one that has its tile, or, when it is issued again, to the one it stopped on. The accesses of the new operations are recorded; the block of a command in flight that one of these blocks meets has undefined fields from then on, as its own has; nothing else of the machine changes, but that lathes may begin to work on an `mma`. A `drain` of a tile that an `mma` writes whose completion its lane has not acquired has an undefined result. -/
def Obligations.EngineCommands : Prop :=
  ∀ (o : Op),
    let gouge (_ : State) (_ : Cap) (e : EOp) : Prop := let b := gblockOf e.block; e.progress = b.progress ∧ e.status = b.status ∧ e.seq = b.seq
    Issues (.gcp o) o .gcp 64 (fun s a => s.blockCheck s.cur.wg a 64 64 (s.gougeFields .gcp s.cur.wg)) State.gcpReads gouge ∧
    Issues (.gst o) o .gst 64 (fun s a => s.blockCheck s.cur.wg a 64 64 (s.gougeFields .gst s.cur.wg)) (fun _ _ => []) gouge ∧
    Issues (.gpl o) o .gpl 64 (fun s a => s.blockCheck s.cur.wg a 64 64 (s.gougeFields .gpl s.cur.wg)) (fun _ _ => []) gouge ∧
    Issues (.mma o) o .mma 128 (fun s a => s.blockCheck s.cur.wg a 64 128 (s.mmaFields s.cur.wg)) (fun _ _ => [])
      (fun s _ e => let b := mblockOf e.block
        e.progress = b.progress ∧ (b.progress ≠ 0 → e.lathe = bits b.status 5 4) ∧ (b.progress = 0 → b.lathe ≠ 7 → e.lathe = b.lathe) ∧
        (b.progress = 0 → b.lathe = 7 → s.launch.hasTile e.lathe b.tile = true)) ∧
    Issues (.drain o) o .drain 64 (fun s a => s.blockCheck s.cur.wg a 64 64 (s.drainFields s.cur.wg)) (fun _ _ => [])
      (fun s c e => e.lathe = (dblockOf e.block).lathe ∧
        (s.cur.kind = .instr → e.undef = s.hb.tileRacing (s.me c.lane) s.cur.wg ((dblockOf e.block).lathe, (dblockOf e.block).tile)))

/-- A gouge operation works row by row and plane by plane. On a workgroup that is on its core: a producer claim takes a free slot, lowering `FREE` and stepping `PUTSEQ`, and does nothing while `FREE` is 0. A row of a `gcp` whose storage can be read is written with its scales, `PROGRESS` steps or after the last row the operation ends, and the bytes are credited to the completion object, a credit releasing the rows done and the last one the operation; a row of a `gst` or a plane of a `gpl` is written to memory, and after the last one arrival is made. A credit is an event on the phase object, and on a fill phase that it completes `FILLED` grows by one. An operation whose next part meets a fault stops there: it leaves the gouge and one trap becomes pending for its gang. Swizzling twice gives every byte its own place back, and the planes of a `gpl` hold the bits of the elements, the highest first. -/
def Obligations.GougeWork : Prop :=
  (∀ (s : State) (op : Nat) (o : EOp), s.eop op = some o → s.opRuns o = true →
    let b := gblockOf o.block
    let d := s.cbufAt o.wg b.compl
    ((o.unclaimed = true → (s.wg o.wg).lsBad b.compl 64 = false → d.freed = 0 → exec (.cbufProducerClaim op) s = .next s) ∧
    (o.unclaimed = true → (s.wg o.wg).lsBad b.compl 64 = false → d.freed ≠ 0 →
      let s1 := (s.setCbuf o.wg b.compl 9 (d.freed - 1)).setCbuf o.wg b.compl 6 ((d.putseq + 1) % 2 ^ 32)
      ∃ t, exec (.cbufProducerClaim op) s = .next t ∧
        t = { s with
          wgs := t.wgs, eops := t.eops, hb := t.hb, sends := t.sends, contribs := t.contribs, seals := t.seals, parts := t.parts, gangs := t.gangs } ∧
        Marked s t.sends t.contribs t.seals t.parts t.gangs ∧ List.Forall₂ (fun a b => a.uid ≠ op → b = { a with spoiled := b.spoiled }) s.eops t.eops ∧
        List.Forall₂ SameButLocal s.wgs t.wgs ∧
        t.wgs = ((s1.opField o 60 d.putseq).opField o 56 (o.status ||| 2 ^ 30)).wgs ∧
        ∃ dest span sp, t.eop op = some { o with seq := d.putseq, status := o.status ||| 2 ^ 30, dest := dest, span := span, spoiled := sp } ∧
          (o.holds (.loc o.wg b.compl) 64 = false → sp = o.spoiled))) ∧
    (∀ row sc, o.kind = .gcp → o.unclaimed = false → o.progress < b.rows → (b.cmode = true → (s.wg o.wg).lsBad b.compl 64 = false) →
      s.gcpRow (unitGouge (s.wg o.wg).core) o.wg b o.progress = .ok (row, sc) →
      let at_ := (s.gcpTarget o b).1
      let s0 := s.gougeTouch o b
      let s1 := ((s0.landPart o.uid .gcp o.wg o.gang (b.rowDest o.wg at_ o.progress)).opWrite o (at_ + b.laddr + o.progress * b.lpitch)
        (swizzle b.swz o.progress row) s0.uid).opWrite o (at_ + b.lscale + o.progress * sc.length) sc s0.uid
      let last : Prop := o.progress + 1 = b.rows
      exec (.gougeRowDone op) s = .next ((if last then ((s1.opField o 52 b.rows).opField o 56 (o.status ||| 2 ^ 31)).dropOp op
          else s1.updOp op fun p => { p with progress := o.progress + 1, pubs := s0.uid :: o.pubs }).credit o b (s.gcpTarget o b).2 (row.length + sc.length)
        ((s.opEvent o).1, if last then s0.uid :: o.pubs else (s0.uid :: o.pubs).filter fun x => x != o.uid))) ∧
    (∀ l m, o.kind = .gst → o.progress < b.rows → (s.wg o.wg).lsBad (b.laddr + o.progress * b.lpitch) (b.rowBytes .gst) = false →
      s.gstKeys o b o.progress = .ok (l, m) →
      let s1 := (s.gougeTouch o b).applyPieces o.wg (l ++ m)
      let r := gstRow b (swizzle b.swz o.progress (s1.lsRead o.wg (b.laddr + o.progress * b.lpitch) (b.rowBytes .gst)))
      let s2 := ((s1.opPieces o l r.1).opPieces o m r.2.1).commitWg o.wg
      s1.piecesClear o.wg (l ++ m) = true →
      exec (.gstRowDone op) s = .next (if o.progress + 1 = b.rows then s2.gstEnd o b b.rows (o.status ||| r.2.2)
        else s2.updOp op fun p => { p with progress := o.progress + 1, status := o.status ||| r.2.2 })) ∧
    (∀ l, o.kind = .gpl → o.progress < b.nplane → (∀ r < b.rows, (s.wg o.wg).lsBad (b.laddr + r * b.lpitch) b.size0 = false) →
      s.engineKeys (unitGouge (s.wg o.wg).core) o.wg .write (b.gaddr + o.progress * b.plane) b.plane = .ok l →
      let s1 := (s.gougeTouch o b).applyPieces o.wg l
      let s2 := (s1.opPieces o l (gplBytes (s1.gplElems o.wg b) b o.progress)).commitWg o.wg
      s1.piecesClear o.wg l = true →
      exec (.gplPlaneDone op) s = .next (if o.progress + 1 = b.nplane then s2.gstEnd o b b.nplane o.status else s2.updOp op fun p => { p with progress := o.progress + 1 })) ∧
    (∀ f, s.opFault o = some f → exec (.engineStop op) s = .next (s.engineStop o f) ∧
      (o.kind ≠ .mma → o.kind ≠ .drain → ((s.engineStop o f).eop op = none) ∧ ∀ g, s.gangs.find? (fun x => x.wg == o.wg && x.idx == o.gang) = some g →
        ((s.engineStop o f).gang o.wg o.gang).pend.length = g.pend.length + 1))) ∧
  (∀ (s : State) (o : EOp) (b : GBlock) (ph n : Nat) (ev : Agent × List Nat), (s.wg o.wg).lsBad ph 16 = false →
    let e := s.phaseEvent (.loc o.wg ph) 0 n ev
    (e.done = false ∨ b.cmode = false → s.credit o b ph n ev = e.st) ∧
    (e.done = true → b.cmode = true → (e.st.wg o.wg).lsBad b.compl 64 = false →
      s.credit o b ph n ev = e.st.setCbuf o.wg b.compl 8 (((e.st.cbufAt o.wg b.compl).filled + 1) % 2 ^ 32))) ∧
  (∀ (s : State) (o : EOp) (b : GBlock) (total status : Nat),
    let s1 := ((s.opField o 52 total).opField o 56 (status ||| 2 ^ 31)).dropOp o.uid
    (s1.wg o.wg).lsBad b.compl 16 = false → s.gstEnd o b total status = (s1.phaseEvent (.loc o.wg b.compl) 1 0 (s.opEvent o)).st) ∧
  (∀ swz r a, swzByte swz r (swzByte swz r a) = a) ∧
  ∀ (xs : List Byte) (b : GBlock) (j k i : Nat) (x : Byte), i < 8 → (gplBytes xs b j)[k]? = some x →
    bitAt x.toNat i = bitAt ((xs[8 * k + i]?).getD 0).toNat (7 - j)

/-- Lathes ramp up in 64 clocks, rest in 32, and keep ready for a hint. `mhint` completes: each lane that takes effect gives its hint to each lathe that it names (all that have a tile for 7, else the one of its number, none above 3), in order; then the threads advance, and nothing changes but lathes and the computing of an `mma` that one starts. A hint of n > 0 clocks brings an idle lathe with nothing queued to its ramp-up, 64 clocks long, with H n clocks after its end; it makes one that has only drains queued, or that ramps down, ready with H n clocks from now (for the first the model's reading of R297, log 17); and it lifts the H of one that ramps up or is ready to the later of itself and n clocks from now; a hint of 0 clocks changes nothing. The end of a ramp-up makes the lathe ready, or lets it ramp down at once, for 32 clocks, where nothing is queued and H is over; the end of a ramp-down makes it idle, or ramps it up again for a queued `mma`; a ready lathe with nothing queued whose H has passed ramps down. Before their times these events change nothing. In a shadow launch hints are not compared (the model's reading, log 27). All times are of the lathe's own clock. -/
def Obligations.LatheTiming : Prop :=
  (∀ (o : Op) (s : State), s.cur.mism < 2 →
    let caps := s.captureOp { a := .n32, b := .n32 } o
    ∃ th la eo, exec (.mhint o) s = .next { s with threads := th, lathes := la, eops := eo } ∧ Threads s id (nextPlace s) th ∧
      { s with lathes := la, eops := eo } =
        (s.effective caps).foldl (fun s c => (hinted s.launch c.a).foldl (fun s l => s.hint s.core l c.b) s) s ∧
      List.Forall₂ (fun a b => b = { a with due := b.due }) s.eops eo ∧
      ((∀ c ∈ caps, c.b = 0 ∨ (c.a ≠ 7 ∧ 3 < c.a)) → la = s.lathes ∧ eo = s.eops)) ∧
  (∀ (l : Launch) (a i : Nat), i ∈ hinted l a ↔ (a = 7 ∧ i ≤ 3 ∧ ∃ t ≤ 3, l.hasTile i t = true) ∨ (a ≤ 3 ∧ i = a)) ∧
  (∀ (s : State) (core l n : Nat),
    let x := s.lathe core l
    let c := s.latheClk core l
    (n = 0 → s.hint core l n = s) ∧
    (n ≠ 0 → x.phase = .idle → s.latheQueue core l = [] →
      (s.hint core l n).lathe core l = { x with phase := .rampUp, due := c + 64, h := some (c + 64 + n) }) ∧
    (n ≠ 0 → (x.phase = .idle ∧ s.latheQueue core l ≠ []) ∨ x.phase = .rampDown →
      (s.hint core l n).lathe core l = { x with phase := .ready, h := some (c + n) }) ∧
    (n ≠ 0 → x.phase = .rampUp ∨ x.phase = .ready → (s.hint core l n).lathe core l = { x with h := some (max (x.h.getD 0) (c + n)) })) ∧
  (∀ (s : State) (core l : Nat),
    let x := s.lathe core l
    let c := s.latheClk core l
    let over_ := ∀ h, x.h = some h → h ≤ c
    (x.phase = .rampUp → x.due ≤ c → ∃ la eo, exec (.latheRampUpEnd core l) s = .next { s with lathes := la, eops := eo } ∧
      ((s.latheQueue core l = [] ∧ over_) → { s with lathes := la, eops := eo }.lathe core l = { x with phase := .rampDown, due := c + 32, h := none }) ∧
      ((s.latheQueue core l ≠ [] ∨ ¬ over_) → { s with lathes := la, eops := eo }.lathe core l = { x with phase := .ready })) ∧
    (x.phase ≠ .rampUp ∨ c < x.due → exec (.latheRampUpEnd core l) s = .next s) ∧
    (x.phase = .rampDown → x.due ≤ c → ∃ la, exec (.latheRampDownEnd core l) s = .next { s with lathes := la } ∧
      { s with lathes := la }.lathe core l = if (s.latheHead core l).isSome then { x with phase := .rampUp, due := c + 64 } else { x with phase := .idle }) ∧
    (x.phase ≠ .rampDown ∨ c < x.due → exec (.latheRampDownEnd core l) s = .next s) ∧
    (x.phase = .ready → s.latheQueue core l = [] → ∀ h, x.h = some h → h ≤ c → ∃ la, exec (.latheHintExpiry core l) s = .next { s with lathes := la } ∧
      { s with lathes := la }.lathe core l = { x with phase := .rampDown, due := c + 32, h := none }) ∧
    (∀ h, x.h = some h → c < h → exec (.latheHintExpiry core l) s = .next s))

/-- A K group is added to the tile; a drain moves the tile out. When the lathe has computed the next group of an `mma` whose operands can be read, the whole tile becomes the old one (zero where the operation starts in mode 0) with the group added element by element, and `PROGRESS` steps; after the last group the block gets its status, the operation ends and the completion arrival is made. A group in which a checker mismatches adds nothing: it is computed again, and where it mismatches again the `mma` stops with 0x50 at that group. Integer groups add exactly and wrap modulo 2^32, setting overflow where the exact sum does not fit; a scale below 0x7F or equal to 0xFF adds nothing and sets the scale bit. A drain that has its turn, with its destination translated and its buffered stores applied, writes the tile, merges the largest magnitude and makes its arrival; without `ADD` an element is the tile's, or rounded to bf16. -/
def Obligations.MatrixGroupsAndDrains : Prop :=
  (∀ (s : State) (op : Nat) (o : EOp) (A B : GroupIn), s.eop op = some o → o.kind = .mma → o.undef = false →
    let b := mblockOf o.block
    let outs := (s.startTile o b).zipIdx.map fun (x, k) => mmaElem b.a.form b.b.form A B x.toNat (k / 128) (k % 128)
    let st := o.status ||| (if outs.any (·.overflow) then 1 else 0) ||| (if outs.any (·.invscale) then 2 else 0)
    let core := s.opCore o
    let s1 := ((s.groupTouch o b.a).groupTouch o b.b).setTile o.wg o.lathe b.tile (outs.map fun x => BitVec.ofNat 32 x.acc)
    s.groupDue o b = true → s.groupBad o.wg o.progress b.a = false → s.groupBad o.wg o.progress b.b = false → s.groupOps o b = .ok (A, B) →
    (o.progress + 1 ≠ b.k / 32 → ∃ t d, exec (.latheGroupDone ⟨op, 0⟩) s = .next t ∧
      t.tileOf o.wg o.lathe b.tile = outs.map (fun x => BitVec.ofNat 32 x.acc) ∧
      t.eop op = some { o with progress := o.progress + 1, status := st, due := d, retried := false }) ∧
    (o.progress + 1 = b.k / 32 → exec (.latheGroupDone ⟨op, 0⟩) s = .next
      (((((s1.putMma o (b.k / 32) (2 ^ 31 + 16 * o.lathe + st)).dropOp op).engineArrive o.wg b.compl 1 0 (s.opEvent o)).st.latheGo
        core o.lathe).latheRest core o.lathe))) ∧
  (∀ (s : State) (op m : Nat) (o : EOp), s.eop op = some o → o.kind = .mma → s.groupDue o (mblockOf o.block) = true → m ≠ 0 →
    (o.retried = false → exec (.latheGroupDone ⟨op, m⟩) s =
      .next (((s.mismatch (s.partOf o.wg) 1).updOp op fun p => { p with due := none, retried := true }).latheGo (s.opCore o) o.lathe)) ∧
    (o.retried = true → exec (.latheGroupDone ⟨op, m⟩) s =
      .next ((s.mismatch (s.partOf o.wg) 1).mmaStop o (mblockOf o.block) (0x50, 0)))) ∧
  (∀ (acc : Word) (ps : List Int) (sa sb : Nat),
    (intGroup acc.toNat ps 127 127 = { acc := (acc + BitVec.ofInt 32 ps.sum).toNat, overflow := decide (acc.toInt + ps.sum < -2147483648 ∨ 2147483647 < acc.toInt + ps.sum), invscale := false }) ∧
    (sa < 127 ∨ sb < 127 ∨ sa = 255 ∨ sb = 255 → intGroup acc.toNat ps sa sb = { acc := acc.toNat, overflow := false, invscale := true })) ∧
  (∀ (s : State) (op : Nat) (o : EOp) (rows : List (List (Nat × Nat))) (m : List (Nat × Nat)), s.eop op = some o → o.kind = .drain → s.opRuns o = true →
    let b := dblockOf o.block
    let core := s.opCore o
    let s1 := (s.drainTouch o b).applyPieces o.wg (rows.flatten ++ m)
    let es := s1.drainTile o b
    let s2 := if b.dglb then (s1.drainGlobal o b es rows).commitWg o.wg else s1.drainLocal o b es
    s.tileBusy o b.tile = false → s.drainTurn o = true → s.drainBad o b = false → s.drainKeys o b = .ok (rows, m) → s1.piecesClear o.wg (rows.flatten ++ m) = true →
    exec (.drainTileEvent op) s =
      .next (((((s2.amaxMerge o b m (tileAmax es)).dropOp op).engineArrive o.wg b.compl 1 0 (s.opEvent o)).st.latheGo core o.lathe).latheRest core o.lathe)) ∧
  ∀ (b : DBlock) (d a : Word), (b.fmt = 0 → b.add = false → drainElem b d.toNat a.toNat = a.toNat) ∧ (b.fmt = 2 → b.add = true → drainElem b d.toNat a.toNat = (d + a).toNat) ∧
    (b.fmt = 2 → b.add = false → drainElem b d.toNat a.toNat = a.toNat) ∧ (b.fmt = 1 → b.add = false → drainElem b d.toNat a.toNat = (Fmt.bf16.ofVal .rn (Fmt.f32.decode a.toNat)).bits)

/-- cx.bind, cx.send, cx.arm, cx.ctr and cx.red complete. Spindle commands whose blocks and operands pass, with no uncorrectable block, act lane by lane in ascending order, and go on: a binding gives its handle to the peer and counter that its block names, or takes it away; a send enters its spindle, unread; an armed send waits until its counter reaches the threshold, which is when the counter minus the threshold, signed, is not negative; a counter set, or read, holds or gives the value; a contribution enters its spindle with the handle's slot and step. The block of a command in flight that one of these blocks meets has undefined fields from then on, as its own has. Binding a reduce handle that owns slot 0 opens its reduction where none is open, compares what notices were held for it, and holds them no more; binding any other sends a notice with its parameters. Unbinding takes the handle's armed sends and unread contributions with it, and closes the reduction that it roots. That a send or a contribution enters unread, that the spindle reads a send's source whole at one time when it comes to it, which is when the send moves, and that an unbinding also takes a contribution that waits for the window alone, are the model's choices (log 34, from R276 and R304; log 62). -/
def Obligations.SpindleInstructions : Prop :=
  (∀ (o : Op) (s : State),
    let caps := s.captureBlk o
    let eff := s.effective caps
    let lower (c : Cap) : List BindBlk := (eff.filter fun d => d.lane < c.lane % s.launch.maskW).map s.bindAt
    Acts s caps → (∀ c ∈ caps, s.blockCheck s.cur.wg c.a 64 128 (s.bindFields (lower c)) = none ∧ (s.wg s.cur.wg).lsBad c.a 128 = false) →
    (∀ c ∈ eff, (s.bindAt c).kind = 0 → s.handleBusy s.curPart (s.bindAt c).handle = false) →
    exec (.cxBind o) s = .next ((eff.foldl (fun s c => s.bindLane (s.bindAt c) (s.knownBy c.lane)) (caps.foldl State.bindTouch s)).advance)) ∧
  (∀ (s : State) (c : Cap), ∃ tl ho, s.bindTouch c = { s with tlb := tl, hot := ho }) ∧
  (∀ (s : State) (lower : List BindBlk) (h : Nat), (s.handleFree lower h = true ↔ match (lower.filter fun b => b.handle == h).getLast? with
    | some b => b.kind = 0
    | none => s.handle s.curPart h = none)) ∧
  (∀ (s : State) (b : BindBlk) (known : List Nat), (s.part s.curPart).idx = s.curPart → s.curPart < s.parts.length →
    let p := s.curPart
    let t := s.bindLane b known
    let id : Word := BitVec.ofNat 32 b.redid
    let n : Notice := { part := p, redid := id, dev := none, params := b.params }
    let mine (m : Notice) : Bool := m.part == p && m.redid == id
    (b.kind = 1 → t.handle p b.handle = some { idx := b.handle, bind := .p2p b.peer b.rctr, pubs := known } ∧ t = { s with parts := t.parts }) ∧
    (b.kind = 0 → t.handle p b.handle = none ∧ (∀ h, h ≠ b.handle → t.handle p h = s.handle p h) ∧
      t.contribs = s.contribs.filter (fun c => !(c.part == p && c.handle == b.handle && !c.sent)) ∧
      (t.part p).armed = (s.part p).armed.filter (fun a => a.send.handle != b.handle) ∧
      ∀ i dest obj rec_ log first e m, (s.handle p b.handle).map (fun h => h.bind) = some (.reduce i dest obj rec_ 0 log first e m) → t.reduction p i = none) ∧
    (b.kind ≠ 0 → b.kind ≠ 1 → t.handle p b.handle = some
        { idx := b.handle, bind := .reduce id b.dest b.resobj b.statrec b.slotBase b.slotLog b.params.first b.params.e b.params.n, pubs := known } ∧
      (b.slotBase ≠ 0 → t = { s with parts := t.parts, outbox := s.outbox ++ [Msg.notice n] }) ∧
      (b.slotBase = 0 → t = { s with parts := t.parts, reds := t.reds, heldNotices := s.heldNotices.filter fun m => !mine m } ∧
        (s.reduction p id = none → ∃ r, t.reduction p id = some r ∧ r.params = b.params ∧ r.low = b.params.first ∧ r.steps = [] ∧ r.dropped = 0 ∧
          ((∀ m ∈ s.heldNotices, mine m = true → m.dev ≠ none) → none ∈ r.receivers) ∧
          ∀ d : Nat, (∃ m ∈ s.heldNotices, mine m = true ∧ m.dev = some d) →
            ((∀ m ∈ s.heldNotices, mine m = true → m.dev = some d → m.params = b.params) → some d ∈ r.receivers ∧ some d ∉ r.refused) ∧
            ((∀ m ∈ s.heldNotices, mine m = true → m.dev = some d → m.params ≠ b.params) → some d ∈ r.refused ∧ some d ∉ r.receivers))))) ∧
  (∀ (o : Op) (s : State),
    let caps := s.captureBlk o
    Acts s caps → (∀ c ∈ caps, s.blockCheck s.cur.wg c.a 32 32 (s.sendFields s.cur.wg) = none ∧ (s.wg s.cur.wg).lsBad c.a 32 = false) →
    ∃ xs th eo so co sl pa ga, exec (.cxSend o) s = .next { s with
        uid := s.uid + xs.length, sends := so ++ xs, eops := eo, contribs := co, seals := sl, parts := pa, gangs := ga, threads := th } ∧
      Threads s id (nextPlace s) th ∧ OnlySpoils s (∀ c ∈ caps, s.inFlight s.cur.wg c.a 32 = false) (Apart (s.effective caps) 32) so co sl pa ga ∧ List.Forall₂ (fun a b => b = { a with spoiled := b.spoiled }) s.eops eo ∧
      List.Forall₂ (fun (c : Cap × Nat) (x : Send) => x.uid = s.uid + c.2 ∧ x.part = s.curPart ∧ x.by_ = s.issuer c.1.lane ∧ x.send = s.sendAt c.1 ∧
        x.armed = none ∧ x.read = false ∧ x.acked = 0 ∧ x.undef = s.againBad ∧ x.pubs = s.knownBy c.1.lane) (s.effective caps).zipIdx xs) ∧
  (∀ (s : State) (u d : Nat) (x : Send), s.sends.find? (fun x => x.uid == u && !x.read) = some x → x.undef = false → x.send.glb = false → x.send.rden = false →
    s.onCore x.by_.wg = true → (s.part x.part).st ≠ .stopped → s.sendTarget x.part x.send = some d → (s.wg x.by_.wg).lsBad x.send.src x.send.len = false →
    let bs := s.lsRead x.by_.wg x.send.src x.send.len
    let pieces := s.sendPieces (unitHandle x.send.handle) x.part (pages x.send.dst x.send.len) bs
    ∃ c tl ho, s.startSend u = { s.commitWg x.by_.wg with
      tlb := tl, hot := ho
      sends := updWhere (fun y => y.uid == u) (fun y => { y with read := true, bytes := bs, leaves := s.leafSpans (unitHandle x.send.handle) x.part x.send.dst x.send.len }) s.sends
      outbox := s.outbox ++ [Msg.send u pieces.1 d c pieces.2] }) ∧
  (∀ (o : Op) (s : State),
    let caps := s.captureOp { a := .n32, b := .n32, c := .n32 } o
    Acts s caps → (∀ c ∈ caps, s.blockCheck s.cur.wg c.a 32 32 (s.sendFields s.cur.wg) = none ∧ (s.wg s.cur.wg).lsBad c.a 32 = false ∧ c.b ≤ 255) →
    (s.part s.curPart).armed.length + (s.effective caps).length ≤ 64 →
    exec (.cxArm o) s = .next (((s.effective caps).foldl State.armLane s).advance)) ∧
  (∀ (s : State) (w blk n u : Nat),
    (s.inFlight w blk n = false → s.claimBlock w blk n u = (s, false)) ∧
    (s.inFlight w blk n = true → ∃ eo so co sl pa,
      let ga := s.gangs.map fun g => g.spoilEntries (.loc w blk) n
      s.claimBlock w blk n u = ({ s with eops := eo, sends := so, contribs := co, seals := sl, parts := pa, gangs := ga }, true) ∧
      OnlySpoils s False False so co sl pa ga ∧ List.Forall₂ (fun a b => b = { a with spoiled := a.spoiled || (a.uid != u && a.holds (.loc w blk) n) }) s.eops eo ∧
      List.Forall₂ (fun a b => b.spoiled = (a.spoiled || (a.uid != u && (SyncAt.loc w blk).inBlock n a.by_.wg a.send.blk))) s.sends so ∧
      List.Forall₂ (fun a b => b.spoiled = (a.spoiled || (a.uid != u && (SyncAt.loc w blk).inBlock n a.by_.wg a.blk))) s.contribs co)) ∧
  (∀ (s : State) (c : Cap),
    let y := s.claimBlock s.cur.wg c.a 32 s.uid
    (s.firesNow c = false → s.armLane c = { y.1.updPart s.curPart (fun q => { q with armed := q.armed ++
      [{ uid := s.uid, by_ := s.issuer c.lane, send := s.sendAt c, ctr := c.b, thr := BitVec.ofNat 32 c.c, pubs := s.knownBy c.lane, undef := s.againBad
         spoiled := y.2 || s.againBad }] })
      with uid := s.uid + 1 }) ∧
    (s.firesNow c = true → ∃ x, s.armLane c = { y.1 with uid := s.uid + 1, sends := y.1.sends ++ [x] } ∧ x.send = s.sendAt c ∧ x.by_ = s.issuer c.lane ∧ x.read = false ∧
      x.armed = some (c.b, BitVec.ofNat 32 c.c) ∧ x.undef = s.againBad ∧ x.spoiled = (y.2 || s.againBad)) ∧
    (s.firesNow c = true ↔ 0 ≤ (s.ctr s.curPart c.b - BitVec.ofNat 32 c.c).toInt)) ∧
  (∀ (o : Op) (s : State),
    let caps := s.captureOp { a := .n32 } o
    Acts s caps → (∀ c ∈ caps, c.a ≤ 255) →
    exec (.cxCtrGet o) s = .next ((s.returnTo o 1 ((s.effective caps).map fun c => (c.lane, (s.ctr s.curPart c.a).toNat))).advance) ∧
    exec (.cxCtrUnlink o) s = .next (((s.effective caps).foldl (fun s c => s.updPart s.curPart fun q => { q with links := q.links.filter fun l => l.1 != c.a }) s).advance)) ∧
  (∀ (o : Op) (s : State),
    let caps := s.captureOp { a := .n32, b := .n32 } o
    Acts s caps → (∀ c ∈ caps, c.a ≤ 255) →
    exec (.cxCtrSet o) s = .next (((s.effective caps).foldl (fun s c => s.setCtr s.curPart c.a (BitVec.ofNat 32 c.b)) s).advance)) ∧
  (∀ (s : State) (p c : Nat) (v : Word), (s.part p).idx = p → p < s.parts.length → (∀ a ∈ (s.part p).armed, a.ctr ≠ c ∨ reached v a.thr = false) →
    (s.setCtr p c v).ctr p c = v ∧ ∀ d, d ≠ c → (s.setCtr p c v).ctr p d = s.ctr p d) ∧
  (∀ (o : Op) (s : State),
    let caps := s.captureOp { a := .n32, b := .n64 } o
    Acts s caps → (∀ c ∈ caps, ∃ k v, s.linkObj c = .ok (.mem k v)) →
    exec (.cxCtrLink o) s = .next (((placed s.linkObj (s.effective caps)).foldl (fun s r => match r.place with
      | .mem k _ => s.updPart s.curPart fun q => { q with
          links := { ctr := r.cap.a, obj := k, pubs := s.knownBy r.cap.lane } :: q.links.filter fun l => l.ctr != r.cap.a }
      | _ => s) (s.cacheLanes .glb (fun c => c.b) caps)).advance)) ∧
  ∀ (o : Op) (s : State),
    let caps := s.captureBlk o
    Acts s caps → (∀ c ∈ caps, s.blockCheck s.cur.wg c.a 32 32 (s.redFields s.cur.wg) = none ∧ (s.wg s.cur.wg).lsBad c.a 32 = false) →
    ∃ xs th eo so co sl pa ga, exec (.cxRed o) s = .next { s with
        uid := s.uid + xs.length, contribs := co ++ xs, eops := eo, sends := so, seals := sl, parts := pa, gangs := ga, threads := th } ∧
      Threads s id (nextPlace s) th ∧ OnlySpoils s (∀ c ∈ caps, s.inFlight s.cur.wg c.a 32 = false) (Apart (s.effective caps) 32) so co sl pa ga ∧ List.Forall₂ (fun a b => b = { a with spoiled := b.spoiled }) s.eops eo ∧
      List.Forall₂ (fun (c : Cap × Nat) (x : Contrib) => let b := redOf (s.blockAt s.cur.wg c.1.a 32)
        x.uid = s.uid + c.2 ∧ x.by_ = s.issuer c.1.lane ∧ x.part = s.curPart ∧ x.handle = b.handle ∧ x.slot = b.slot ∧ x.step = BitVec.ofNat 32 b.step ∧ x.buf = b.buf ∧
        x.sent = false ∧ x.undef = s.againBad ∧ x.pubs = s.knownBy c.1.lane) (s.effective caps).zipIdx xs

/-- Landings, acknowledgements and link failures. While the links are open, a landing on memory that its partition owns, while that partition runs or is stopped, writes its pieces at their homes and increments the counter; any other changes nothing: the links are closed from the trigger of a hold-up sequence on (the model's reading of R427 and R442, log 36). A counter without a link whose armed sends its new value does not reach grows by one, and nothing else does. A chunk acknowledgement counts one chunk of a send that has been read and whose peer is reached, or of a contribution that has been sent to another root, which is complete once every chunk is acknowledged. A send that has been read ends when every chunk is acknowledged, or when no path is left to its peer; it then writes its status word, with bit 31 set and bit 0 where there was no path, into its block, where its workgroup is on its core; in a block written meanwhile that word is undefined. A send that cannot start stops, with a status word of zero, and its trap becomes pending. The failure of a link marks the open steps, closed results and landing results that hold contributions of its device, and where no path is left it records the device as gone: that the event names a device, and whether a path is left, is the model's choice (log 16). -/
def Obligations.SpindleEvents : Prop :=
  (∀ (s : State) (part ctr : Nat) (pieces : List (Nat × List Byte)),
    (s.linksOpen = true → ((s.part part).st = .running ∨ (s.part part).st = .stopped) → ctr ≤ 255 → (∀ x ∈ pieces, s.ownsRange part x.1 x.2.length = true) →
      exec (.sendLanding part ctr pieces) s = .next ((pieces.foldl (fun t x => t.unitWrite x.1 x.2 s.uid) s.unitItem.1).bumpCtr part ctr [s.uid])) ∧
    (s.linksOpen = false ∨ ((s.part part).st ≠ .running ∧ (s.part part).st ≠ .stopped) ∨ 255 < ctr ∨ (∃ x ∈ pieces, s.ownsRange part x.1 x.2.length = false) →
      exec (.sendLanding part ctr pieces) s = .next s)) ∧
  (∀ (s : State) (p c : Nat) (known : List Nat), (s.part p).idx = p → p < s.parts.length → (s.part p).links.find? (fun l => l.ctr == c) = none →
    (∀ a ∈ (s.part p).armed, a.ctr ≠ c ∨ reached (s.ctr p c + 1) a.thr = false) →
    let t := s.bumpCtr p c known
    t.ctr p c = s.ctr p c + 1 ∧ t.mem = s.mem ∧ t.sends = s.sends ∧ ∀ d, d ≠ c → t.ctr p d = s.ctr p d) ∧
  (∀ (s : State) (id : Nat) (path : Bool) (x : Send), s.sends.find? (fun x => x.uid == id) = some x → x.read = true →
    (if path then x.acked = chunkCount x.send.len else s.sendReaches x = false) → (s.wg x.by_.wg).st ≠ .switchedOut →
    let s1 := { s with sends := s.sends.filter fun y => y.uid != id }
    exec (.sendAck id path) s = .next (if s.onCore x.by_.wg then s1.putStatus x (if path then 0x80000000 else 0x80000001) else s1)) ∧
  (∀ (s : State) (op : Nat) (x : Send) (f : Nat × Nat), s.eop op = none → s.sends.find? (fun x => x.uid == op && !x.read) = some x → s.onCore x.by_.wg = true →
    s.sendFault x = some f →
    let t := s.sendTouch x
    let s1 := { t with sends := t.sends.filter fun y => y.uid != x.uid }.putStatus x 0
    let ct := x.armed.getD (0, 0)
    exec (.engineStop op) s = .next (s1.postEngine x.by_ x.send.blk ct.1 ct.2.toNat (.command x.uid x.uid 32 x.spoiled) f.1 f.2)) ∧
  (∀ (s : State) (x : Send) (v : Nat),
    let t := s.putField x.by_.wg (x.send.blk + 24) v x.uid
    s.putStatus x v = if x.spoiled then t.wildAt (.loc x.by_.wg (x.send.blk + 24)) 4 else t) ∧
  (∀ (s : State) (id : Nat), (∀ c ∈ s.contribs, c.uid ≠ id) →
    exec (.chunkAck id) s = .next { s with
      sends := s.sends.map fun x => if x.uid == id && x.read && decide (x.acked < chunkCount x.send.len) && s.sendReaches x then { x with acked := x.acked + 1 } else x }) ∧
  (∀ (s : State) (id : Nat) (c : Contrib), (∀ x ∈ s.sends, x.uid ≠ id) → s.contribs.filter (fun c => c.uid == id) = [c] → c.sent = true →
    s.reduction c.part c.redid = none →
    let left := if chunkCount (4 * c.words.length) ≤ c.acked + 1 then s.contribs.filter fun x => x.uid != id
      else s.contribs.map fun x => if x.uid == id then { x with acked := x.acked + 1 } else x
    exec (.chunkAck id) s = .next { s with contribs := left }) ∧
  (∀ (s : State) (dev : Nat) (path : Bool), ∃ ds rs qs ls, exec (.linkFailure ⟨dev, path⟩) s = .next { s with linksDown := ds, reds := rs, results := qs, landing := ls } ∧
    (∀ l, l ∈ ds ↔ (l = dev ∧ path = false) ∨ l ∈ s.linksDown) ∧
    List.Forall₂ (fun (r r' : Reduction) => r' = { r with steps := r'.steps, gone := r'.gone } ∧ (∀ l, l ∈ r'.gone ↔ (l = dev ∧ path = false) ∨ l ∈ r.gone) ∧
      List.Forall₂ (fun (x x' : RStep) => x' = { x with restart := x.restart || (x.ontime ++ x.folded).any fun l => l.dev == some dev }) r.steps r'.steps) s.reds rs ∧
    List.Forall₂ (fun (c c' : Closed) => c' = { c with msg := { c.msg with status := c'.msg.status } } ∧ (dev ∉ c.devs → c' = c) ∧
      (dev ∈ c.devs → c'.msg.status.getLsbD 1 = true ∧ (path = false → c'.msg.status.getLsbD 3 = true))) s.results qs ∧
    List.Forall₂ (fun (l l' : Landing) =>
      let mine := qs.find? fun c => c.msg.part == l.msg.part && c.msg.redid == l.msg.redid && c.msg.step == l.msg.step
      (∀ c, mine = some c → l' = { l with msg := c.msg }) ∧ (mine = none → l' = l)) s.landing ls) ∧
  ∀ n : Nat, 65536 * (chunkCount n - 1) < n + 1 ∧ n ≤ 65536 * chunkCount n

/-- Contributions, steps and results of a reduction. An admitted contribution whose buffer can be read is read whole and sent; one for another root is not admitted where that root has refused the handle, and stands as its verdict where it has not. A notice that comes in over an open link is held until its reduction is open, and then makes its device a receiver or, where its parameters differ, a refused one. An arrival that the root takes, after the timers whose clock has ended, is on time for its step while that step is open and its slot is empty, is folded into the lowest open step when it is late by at most D, and is dropped otherwise; a step closes once Q arrivals are on time or its timer has expired, and the next becomes the lowest. The end of the clock of a timer closes its step short of its quorum; before that the event changes nothing. A result of nothing is zero. A result is delivered piece by piece, the oldest first at the root and step by step elsewhere: a piece that is stale by its page's version when it is come to is passed over; one that must let another install on its page go first waits; any other has its bytes land, each old or new while they do, and is then whole, which sets the step of its page, and never lowers it; after the last piece the status record is written and the result object gets one arrival. Where the array could not be written whole, or a device of the step is gone, its bytes are undefined. That a piece lands in two events, that a device delivers in ascending step, that a timer is tested once its clock has ended, and that what comes over closed links changes nothing, are the model's choices (log 34, log 36). -/
def Obligations.Reductions : Prop :=
  (∀ (s : State) (id : Nat) (c : Contrib) (bs : List Byte), s.contribs.find? (fun c => c.uid == id && !c.sent) = some c → s.admits c = true → s.onCore c.by_.wg = true →
    c.undef = false →
    let n := s.redElems c
    s.spindleRead c.handle c.part c.by_ c.glb c.buf (4 * n) = .ok bs → (c.glb = true ∨ (s.wg c.by_.wg).lsBad c.buf (4 * n) = false) →
    let s0 := if c.glb then s.engineTouch (unitHandle c.handle) c.part c.buf (4 * n) else s
    let s1 := { s0.commitWg c.by_.wg with contribs := updWhere (fun x => x.uid == id) (fun x => { x with sent := true, words := wordsOf bs n }) s.contribs }
    let judged (h : Handle) : Handle := { h with verdict := some true, subs := (c.step, c.pubs) :: h.subs }
    let s2 := if s.rootHere c then s1 else
      { s1.updPart c.part (fun q => { q with handles := updWhere (fun h => h.idx == c.handle) judged q.handles }) with
        outbox := s1.outbox ++ [Msg.contribution { part := c.part, redid := c.redid, dev := none, slot := c.slot, step := c.step, words := wordsOf bs n }] }
    exec (.contributionAdmission id) s = .next (if c.rden then (s2.engineArrive c.by_.wg c.rdone 1 0 (s.sender c.by_ c.pubs)).st else s2)) ∧
  (∀ (s : State) (n : Notice),
    (s.linksOpen = false → exec (.bindingNoticeArrival n) s = .next s) ∧
    (s.linksOpen = true → s.reduction n.part n.redid = none → exec (.bindingNoticeArrival n) s = .next { s with heldNotices := s.heldNotices ++ [n] }) ∧
    (∀ r, s.linksOpen = true → s.reduction n.part n.redid = some r → ∃ t r', exec (.bindingNoticeArrival n) s = .next t ∧ t.reduction n.part n.redid = some r' ∧
      (n.params = r.params → n.dev ∈ r'.receivers) ∧ (n.params ≠ r.params → n.dev ∈ r'.refused))) ∧
  (∀ (s : State) (a : Arrival) (r : Reduction) (d : Nat), a.dev = some d →
    let s1 := s.expireTimers a.part a.redid
    s1.linksOpen = true → s1.reduction a.part a.redid = some r → r.takes a = true →
    exec (.contributionArrival a) s = .next ((s1.updRed a.part a.redid fun r => r.arrive a (s1.redClk a.part a.redid)).closeSteps a.part a.redid 8)) ∧
  (∀ (r : Reduction) (a : Arrival) (clk : Nat) (pubs : List Nat),
    let lag := (r.low - a.step).toInt
    let leaf : Leaf := { slot := a.slot, src := a.step, dev := a.dev, words := a.words, pubs := pubs }
    let r' := r.arrive a clk pubs
    (lag ≤ 0 → (∀ l ∈ (r.stepOf a.step).ontime, l.slot ≠ a.slot) → (r'.stepOf a.step).ontime = (r.stepOf a.step).ontime ++ [leaf] ∧
      (r.params.t ≠ 0 → (r.stepOf a.step).ontime = [] → (r'.stepOf a.step).timer = some (clk + r.params.t)) ∧ r'.dropped = r.dropped) ∧
    (lag ≤ 0 → (∃ l ∈ (r.stepOf a.step).ontime, l.slot = a.slot) → r' = { r with dropped := r.dropped + 1 }) ∧
    (0 < lag → lag ≤ (r.params.d : Int) → (r'.stepOf r.low).folded = (r.stepOf r.low).folded ++ [leaf] ∧ r'.dropped = r.dropped) ∧
    ((r.params.d : Int) < lag → 0 < lag → r' = { r with dropped := r.dropped + 1 })) ∧
  (∀ (s : State) (part : Nat) (redid : Word) (r : Reduction), s.reduction part redid = some r →
    ((∀ x ∈ r.steps, ∀ t, x.timer = some t → s.redClk part redid ≤ t) → exec (.reductionTimerExpiry part redid) s = .next s) ∧
    ((∃ x ∈ r.steps, ∃ t, x.timer = some t ∧ t < s.redClk part redid) →
      let due (x : RStep) : Bool := match x.timer with
        | some t => decide (t < s.redClk part redid)
        | none => false
      exec (.reductionTimerExpiry part redid) s = .next ((s.updRed part redid fun r' =>
        { r' with steps := r'.steps.map fun x => if due x then { x with timer := none, expired := x.expired || decide (x.ontime.length < r.params.q) } else x }).closeSteps part redid 8))) ∧
  (∀ (s : State) (p n : Nat) (redid : Word) (r : Reduction), s.reduction p redid = some r →
    ((r.stepOf r.low).ontime.length < r.params.q → (r.stepOf r.low).expired = false → s.closeSteps p redid (n + 1) = s) ∧
    ((r.params.q ≤ (r.stepOf r.low).ontime.length ∨ (r.stepOf r.low).expired = true) → s.closeSteps p redid (n + 1) = (s.closeStep r).closeSteps p redid n ∧
      ∃ r', (s.closeStep r).reduction p redid = some r' ∧ r'.low = r.low + 1 ∧ r'.dropped = 0)) ∧
  (∀ (x : RStep) (p : RedParams), x.ontime = [] → x.folded = [] → x.result p = List.replicate p.e 0) ∧
  (∀ (s : State) (r : ResultMsg) (h : Handle) (id : Word) (dest obj rec_ base log e n : Nat) (first : Word), (s.part r.part).reduceHandle r.redid = some h →
    h.bind = .reduce id dest obj rec_ base log first e n →
    (∀ l, s.landing.find? (fun l => l.msg.part == r.part && l.msg.redid == r.redid) = some l → l.msg = r → exec (.resultDelivery r) s = .next (s.landStep h l dest obj rec_)) ∧
    (s.landing.find? (fun l => l.msg.part == r.part && l.msg.redid == r.redid) = none → r.words.length = e →
      (base ≠ 0 → s.linksOpen = true → (∀ x, h.last = some x → r.step = x + 1) → exec (.resultDelivery r) s = .next (s.landStep h { msg := r } dest obj rec_)) ∧
      (base = 0 → (s.results.find? fun c => c.msg.part == r.part && c.msg.redid == r.redid).map Closed.msg = some r →
        exec (.resultDelivery r) s = .next (s.landStep h { msg := r } dest obj rec_)))) ∧
  (∀ (s : State) (h : Handle) (l : Landing) (dest obj rec_ : Nat),
    let r := l.msg
    ((pages dest (4 * r.words.length))[l.done]? = none → s.landStep h l dest obj rec_ = s.endResult h l dest obj rec_ true) ∧
    ∀ a n, (pages dest (4 * r.words.length))[l.done]? = some (a, n) →
      let s1 := s.cacheRange (unitHandle h.idx) r.part a n
      let bs := ((bytesOfWords r.words).drop (a - dest)).take n
      (l.begun = none → s.pieceKey (unitHandle h.idx) r.part a n = none → s.landStep h l dest obj rec_ = s.endResult h l dest obj rec_ false) ∧
      (∀ k v, l.begun = none → s.pieceKey (unitHandle h.idx) r.part a n = some (k, v) →
        (s1.stale k v (r.step + 1) = true → s.landStep h l dest obj rec_ = s1.putLanding { l with done := l.done + 1 }) ∧
        (s1.stale k v (r.step + 1) = false → s1.pageTaken l k v = true → s.landStep h l dest obj rec_ = s) ∧
        (s1.stale k v (r.step + 1) = false → s1.pageTaken l k v = false → ∃ lf, s.landStep h l dest obj rec_ =
          (s1.unitItem.1.putResult r.status k (s1.unitItem.1.mixBytes k bs) s.uid).putLanding
            { l with begun := some (k, v), items := s.uid :: l.items, leaf := lf })) ∧
      ∀ k v, l.begun = some (k, v) →
        let s2 := s.unitItem.1.putResult r.status k bs s.uid
        s.landStep h l dest obj rec_ = (match v with
          | some i => s2.installStep (homeOf k) i (r.step + 1) (s.uid :: s.resultPubs h l)
          | none => s2).putLanding { l with done := l.done + 1, begun := none, wrote := (k, bs.length) :: l.wrote, items := s.uid :: l.items }) ∧
  (∀ (s : State) (k : Nat) (bs : List Byte) (i : Nat) (x : Byte), (s.mixBytes k bs)[i]? = some x → bs[i]? = some x ∨ x = s.homeByte (k + i)) ∧
  (∀ (s : State) (d i : Nat) (c : Word) (pubs : List Nat), (s.installStep d i c pubs).stepOf d i = (if s.stepOf d i < c then c else s.stepOf d i) ∧
    (c ≤ s.stepOf d i → s.installStep d i c pubs = s)) ∧
  (∀ (s : State) (l : Landing), (s.putLanding l).landing.find? (fun x => x.msg.part == l.msg.part && x.msg.redid == l.msg.redid) = some l ∧
    ∀ x, (x.msg.part ≠ l.msg.part ∨ x.msg.redid ≠ l.msg.redid) → (x ∈ (s.putLanding l).landing ↔ x ∈ s.landing)) ∧
  (∀ (s : State) (k : Nat) (bs : List Byte) (item : Nat) (status : BitVec 128),
    s.putResult status k bs item = if status.getLsbD 3 then (s.unitWrite k bs item).wildMem k bs.length else s.unitWrite k bs item) ∧
  ∀ (s : State) (h : Handle) (l : Landing) (dest obj rec_ : Nat) (ok : Bool) (e1 e2 : Tlb),
    let r := l.msg
    let u := unitHandle h.idx
    let s0 := if ok && !r.status.getLsbD 3 then s else (l.wrote ++ s.restOf h l dest).foldl (fun s x => s.wildMem x.1 x.2) s
    let sh := s0.updPart r.part fun q => { q with
      handles := updWhere (fun x => x.idx == h.idx) (fun x => { x with last := some r.step, subs := x.subs.filter fun y => !(0 ≤ (r.step - y.1).toInt) }) q.handles }
    let s1 := { sh with
      landing := sh.landing.filter fun x => !(x.msg.part == r.part && x.msg.redid == r.redid)
      results := sh.results.eraseP fun c => c.msg.part == r.part && c.msg.redid == r.redid && c.msg.step == r.step }
    let s2 := (if ok then s1 else s1.updPart r.part fun q => q.setCsr 0x206 (q.csrWord 0x206 ||| 4)).unitItem.1
    let s3 := (s2.cacheRange u r.part rec_ 16).unitWrite (e1.key rec_) (toBytesLE (if ok then r.status else r.status ||| 8).toNat 16) s.uid
    s2.xlate u r.part rec_ .write = .ok e1 → isPeer (e1.key rec_) = false → s3.xlate u r.part obj .write = .ok e2 → isPeer (e2.key obj) = false → s3.bad (e2.key obj) 16 = false →
    s.endResult h l dest obj rec_ ok = (s3.cacheRange u r.part obj 16).arrive (.glb (e2.key obj)) 1 0 (.unit, s.uid :: s.resultPubs h l)

/-- Steps, announcements, absence and the allowance. In a launch bound to the training group `step.adv` on an object that passes completes: the buffered stores to its gates being applied first, lane by lane in ascending order the rank's step grows by one, its state is present with no quiet time, the step is announced to the others and returned, and then its gate is recorded and compared with the allowance; `step.get` gives an entry and `step.get.lim` the least step with the allowance. While the links are open an announcement of a rank of the group that is heard makes the rank present with no quiet time and never lowers its step; any other changes nothing. A present rank of a bound group whose quiet time has reached `QUIETMAX` becomes absent. After an event that changes the least step or the last sealed step every recorded gate is compared with the allowance. The least step is that of a present rank and none is below it; the allowance adds S to it, and no more than K to the last sealed step where K is not 0. A gate that the allowance lies ahead of takes the allowance as its phase, an event on it, and any other stays as it is, as does one whose workgroup is gone, and one whose granule has been taken from the partition (the model's choice, log 57). That steps compare as unsigned numbers is the model's choice (log 59); so are which ranks are heard and which devices are told, by the rank table as it stands (R349, R419, R420; log 16, log 60); that the links are closed from the trigger of a hold-up sequence on is its reading of R427 and R442 (log 36). -/
def Obligations.ProgressTable : Prop :=
  (∀ (o : Op) (sp : Space) (s : State), sp ≠ .ver →
    let caps := s.captureOp { a := if wideSpace sp then .n64 else .n32 } o
    let refs := (placed (fun c => s.placeObj sp .write c.a) caps).filter fun r => (s.effective caps).contains r.cap
    let s1 := s.cacheLanes sp (fun c => c.a) caps
    let x := refs.foldl (State.stepAdvLane sp) (contained s1 16 refs, [])
    Acts s caps → Passes (fun c => s.placeObj sp .write c.a) caps → NonePoisoned s (fun c => s.placeObj sp .write c.a) 16 caps → s.launch.tgb = true →
    ContainersClear s1 16 refs →
    exec (.stepAdv o sp) s = .next ((x.1.returnTo o 1 x.2).advance)) ∧
  (∀ (s : State) (sp : Space) (r : LaneRef),
    let p := s.curPart
    let rank := s.launch.rank
    let e := (s.part p).entry rank
    let new := e.step + 1
    let obj := objRef sp r.place
    let gate : Gate := { rank := rank, obj := obj, by_ := s.me r.cap.lane, pubs := s.knownBy r.cap.lane }
    let s1 := { s.rankTouch p with outbox := s.outbox ++ [Msg.announce p rank new (s.rankDevs p rank)] }.updPart p fun q =>
      { q.setEntry rank { step := if e.step < new then new else e.step, state := 1, quiet := 0 } with gates := gate :: q.gates.filter fun g => g.rank != rank }
    (s.part p).idx = p → p < s.parts.length → (s.part p).gates = [] →
    State.stepAdvLane sp (s, []) r = ((s1.raceObj (s1.me r.cap.lane) obj).raiseGate p (s1.part p).allowance gate, [(r.cap.lane, new.toNat)])) ∧
  (∀ (s : State) (p : Nat), s.rankTouch p = { s with hot := (s.rankTouch p).hot }) ∧
  (∀ (s : State) (p rank : Nat) (d : Nat × Bool), d ∈ s.rankDevs p rank ↔ d.1 ≠ s.devNum ∧ ∃ i, i < (s.part p).nrank ∧ i ≠ rank ∧ s.rankEntry p i = some d) ∧
  (∀ (s : State) (p : Nat) (a : Word) (g : Gate),
    let x := phaseOfNum (s.phaseNum g.obj)
    (s.objOwned p g.obj = false ∨ s.objThere g.obj = false → s.raiseGate p a g = s) ∧
    (s.gateBad g.obj = none → s.objOwned p g.obj = true → s.objThere g.obj = true →
      (¬ 0 < (a - BitVec.ofNat 32 x.phase).toInt → s.raiseGate p a g = s) ∧
      (0 < (a - BitVec.ofNat 32 x.phase).toInt →
        s.raiseGate p a g = s.eventAt g.obj (s.phaseNum g.obj - s.phaseNum g.obj % 2 ^ 32 + a.toNat) true (g.by_, g.pubs)))) ∧
  (∀ (o : Op) (s : State),
    let caps := s.captureOp { a := .n32 } o
    s.cur.mism < 2 → s.launch.tgb = true → (∀ c ∈ caps, c.a ≤ 4095) →
    ∃ th, exec (.stepGet o) s = .next { s with threads := th } ∧
      Threads s (written s caps fun u c => u.writeDst o 2 ((s.part s.curPart).entry c.a).num) (nextPlace s) th) ∧
  (∀ (o : Op) (s : State),
    let q := s.part s.curPart
    s.cur.mism < 2 → s.launch.tgb = true →
    ∃ th, exec (.stepGetLim o) s = .next { s with threads := th } ∧
      Threads s (written s (s.captureOp {} o) fun u _ => u.writeDst o 2 (q.minStep.toNat + 2 ^ 32 * q.allowance.toNat)) (nextPlace s) th) ∧
  (∀ (s : State) (part rank : Nat) (step : Word),
    (s.linksOpen = true → rank < (s.part part).nrank → s.hears part rank = true → (s.part part).idx = part → rank < (s.part part).prog.length → (s.part part).gates = [] →
      ∃ t, exec (.announcementReceived part rank step) s = .next t ∧
        (t.part part).entry rank = { step := if ((s.part part).entry rank).step < step then step else ((s.part part).entry rank).step, state := 1, quiet := 0 } ∧
        t = s.updPart part fun q => q.setEntry rank ((t.part part).entry rank)) ∧
    (s.linksOpen = false ∨ (s.part part).nrank ≤ rank ∨ s.hears part rank = false → exec (.announcementReceived part rank step) s = .next s)) ∧
  (∀ (s : State) (part rank : Nat),
    ((s.part part).bound = true → rank < (s.part part).nrank → ((s.part part).entry rank).state < 2 → (s.part part).quietMax ≤ ((s.part part).entry rank).quiet →
      exec (.quietExpiry part rank) s = .next (s.gatesAfter (s.updPart part fun q => q.setEntry rank { (s.part part).entry rank with state := 2 }) part)) ∧
    ((s.part part).bound = false ∨ ((s.part part).entry rank).quiet < (s.part part).quietMax → exec (.quietExpiry part rank) s = .next s)) ∧
  (∀ (s t : State) (p : Nat),
    ((t.part p).minStep = (s.part p).minStep → (t.part p).sealedC = (s.part p).sealedC → s.gatesAfter t p = t) ∧
    ((t.part p).minStep ≠ (s.part p).minStep ∨ (t.part p).sealedC ≠ (s.part p).sealedC →
      s.gatesAfter t p = (t.part p).gates.foldl (fun u g => u.raiseGate p (t.part p).allowance g) t)) ∧
  (∀ (q : Part), (∃ e ∈ q.prog.take q.nrank, e.state < 2) →
    (∀ e ∈ q.prog.take q.nrank, e.state < 2 → q.minStep.toNat ≤ e.step.toNat) ∧ ∃ e ∈ q.prog.take q.nrank, e.state < 2 ∧ q.minStep = e.step) ∧
  ∀ (q : Part), let s := (q.csrWord 0x011).toNat % 2 ^ 8; let k := (q.csrWord 0x013).toNat % 2 ^ 16
    (k = 0 → q.allowance = q.minStep + BitVec.ofNat 32 s) ∧ (k ≠ 0 → q.allowance = BitVec.ofNat 32 (min (q.minStep.toNat + s) (q.sealedC.toNat + k)))

/-- fork, KICK, GLOAD and VACATE. A `fork` whose blocks pass, after its commit point, completes when every lane's child can be made: each lane in order puts its child, with its patched image, join object and priority, into the pending-child queue, or gets a false predicate and no effect where 256 children are pending. A kick of a function without a partition does nothing, of a partition that is not running reports bit 2 of PSTAT; of a running one it enters the nodes of the slot, or records 0x03 for reserved bits or a patch table at or above 2^52, 0x01 for a slot that is empty or being loaded, 0x08 for a full one. A function that administers its partition loads a graph where no kick holds its slot, and an unload empties the slot, as a load does that finds an error, which it records; a load or unload with an invalid field records 0x03, else one of a held slot 0x02; one of any other function does nothing; one that has begun to load ends for the partition that it began for. The order of a kick's refusals and of a load's is the model's choice (log 63), and so is that a load which has begun ends for the partition that it began for, as one does at once that has not (log 52; a function's partition is what R343 says). VACATE holds as many cores as it asks for and the partition has, those held before first. -/
def Obligations.ForkAndKicks : Prop :=
  (∀ (o : Op) (s : State),
    let caps := s.captureBlk o
    let s0 := caps.foldl State.joinTouch s
    let s1 := released s0 .rel .pkg (lanesOf caps)
    let x := (s1.effective caps).foldl State.forkLane (s1, [])
    Acts s caps → (∀ c ∈ caps, s.blockCheck s.cur.wg c.a 64 64 s.forkFields = none ∧ (s.wg s.cur.wg).lsBad c.a 64 = false) →
    Commits s0 .rel .pkg (lanesOf caps) → (∀ c ∈ s1.effective caps, ∃ y, s1.forkChild (s1.forkAt c) = .ok y) →
    exec (.fork o) s = .next ((x.1.updIssue fun t =>
      if (lanesOf caps).contains t.lane then t.setPred o.d2 ((x.2.flatMap fun l => s1.copies l).contains t.lane) else t).advance)) ∧
  (∀ (s : State) (c : Cap) (l : Launch) (im : List Word) (j : Nat), s.forkChild (s.forkAt c) = .ok (l, im) → s.joinObj (s.forkAt c).join = .ok j →
    (s.pendingChildren s.curPart < 256 → (State.forkLane (s, []) c).2 = [c.lane] ∧ (State.forkLane (s, []) c).1.threads = s.threads ∧
      ∃ ps, (State.forkLane (s, []) c).1.nodes = s.nodes ++ [{ uid := s.uid, part := s.curPart, launch := l, image := im, join := some j, prio := (s.forkAt c).prio
                                                               level := (s.forkAt c).prio, eligible := true, pendingChild := true, waitFrom := s.headClk, pubs := ps }]) ∧
    (256 ≤ s.pendingChildren s.curPart → State.forkLane (s, []) c = (s, []))) ∧
  (∀ (s : State) (vf : Nat) (v : BitVec 64),
    (s.vfPart vf = none → exec (.kick vf v) s = .next s) ∧
    ∀ p a, s.vfPart vf = some (p, a) →
      let i := bits v.toNat 3 0
      let x := s.slot p i
      let tab := 64 * bits v.toNat 63 16
      ((s.part p).st ≠ .running → exec (.kick vf v) s = .next (s.updPart p fun q => q.setCsr 0x002 (q.csrWord 0x002 ||| 4))) ∧
      ((s.part p).st = .running →
        (bits v.toNat 15 6 ≠ 0 ∨ 2 ^ 52 ≤ tab → exec (.kick vf v) s = .next (s.slotError p i 0x03 0)) ∧
        (bits v.toNat 15 6 = 0 → tab < 2 ^ 52 →
          (x.loaded = false ∨ x.loading = true → exec (.kick vf v) s = .next (s.slotError p i 0x01 0)) ∧
          (x.loaded = true → x.loading = false → 4 ≤ (s.slotKicks p i).length → exec (.kick vf v) s = .next (s.slotError p i 0x08 0)) ∧
          ∀ ps ims, x.loaded = true → x.loading = false → (s.slotKicks p i).length < 4 → s.patchTable p tab x.patches = .ok ps → s.images p ps x.nodes.zipIdx = .ok ims →
            (∀ n ∈ x.nodes, s.groupOk p n.launch = true) →
            exec (.kick vf v) s = .next ((s.kickTouch p tab x).enterKick p i (bits v.toNat 5 4) x.nodes ims)))) ∧
  (∀ (s : State) (p slot prio : Nat) (g : List GNode) (ims : List (List Word)),
    (∃ k ∈ (s.enterKick p slot prio g ims).kicks, k.part = p ∧ k.slot = slot ∧ k.prio = prio) ∧ (s.enterKick p slot prio g ims).mem = s.mem) ∧
  (∀ (s : State) (p tab : Nat) (x : GSlot), ∃ tl ho, s.kickTouch p tab x = { s with tlb := tl, hot := ho }) ∧
  (∀ (s : State) (c : Cap), ∃ tl ho, s.joinTouch c = { s with tlb := tl, hot := ho }) ∧
  (∀ (s : State) (vf : Nat) (v : BitVec 64),
    let mine (x : Loading) : Bool := x.vf == vf && x.value == v.toNat
    (∀ x, s.gloads.find? mine = some x →
      let t := { s with gloads := s.gloads.eraseP mine }.gloadWrite x.part v.toNat
      exec (.gload vf v) s = .next t ∧ exec (.gloadUnload vf v) s = .next t) ∧
    (s.gloads.find? mine = none →
      ((∀ p, s.vfPart vf ≠ some (p, true)) → exec (.gload vf v) s = .next s ∧ exec (.gloadUnload vf v) s = .next s) ∧
      ∀ p, s.vfPart vf = some (p, true) → exec (.gload vf v) s = .next (s.gloadWrite p v.toNat) ∧ exec (.gloadUnload vf v) s = .next (s.gloadWrite p v.toNat))) ∧
  (∀ (s : State) (p v : Nat),
    let i := bits v 3 0
    let valid := bits v 15 5 = 0 ∧ (bitAt v 4 = false ∨ bits v 63 16 = 0)
    (¬ valid → s.gloadWrite p v = s.slotError p i 0x03 0) ∧
    (valid → s.slotKicks p i ≠ [] → s.gloadWrite p v = s.slotError p i 0x02 0) ∧
    (valid → s.slotKicks p i = [] → bitAt v 4 = true →
      s.gloadWrite p v = s.updSlot p i fun x => { x with loaded := false, loading := false, nodes := [], patches := [] }) ∧
    (∀ ns ps, valid → s.slotKicks p i = [] → bitAt v 4 = false → s.graphAt p (64 * bits v 63 16) = .ok (ns, ps) →
      ∃ tl ho, s.gloadWrite p v = { s.updSlot p i (fun x => { x with loaded := true, loading := false, nodes := ns, patches := ps }) with tlb := tl, hot := ho }) ∧
    (∀ c n, valid → s.slotKicks p i = [] → bitAt v 4 = false → s.graphAt p (64 * bits v 63 16) = .error (c, n) →
      ∃ tl ho, s.gloadWrite p v =
        { (s.updSlot p i fun x => { x with loaded := false, loading := false, nodes := [], patches := [] }).slotError p i c n with tlb := tl, hot := ho })) ∧
  (∀ (s : State) (vf : Nat) (v : BitVec 32) (p : Nat), s.vfPart vf = some (p, true) →
    exec (.vacate vf v) s = .next ((s.updPart p fun q => { q with
      vlevel := bits v.toNat 9 8, ncore := bits v.toNat 6 0, heldCores := holdCores q.heldCores q.qact (bits v.toNat 6 0), vdone := false }).coresFreed p)) ∧
  ∀ (old : List Nat) (mask n : Nat), (holdCores old mask n).length ≤ n ∧ List.IsPrefix (old.take n) (holdCores old mask n) ∧
    ((∀ i < 16, bitAt mask i = true → ∀ j < 4, 4 * i + j ∈ holdCores old mask n) ∨ (holdCores old mask n).length = n)

/-- Declarations of regions and loads of saved ones. A declaration whose lanes meet no fault completes: an acceptable range takes the lowest free region number and, with `.must`, its save units of 64 KiB; an unacceptable one gives all ones and a false predicate and changes nothing; `.drop` frees a region and its units, and gives a false predicate where no region has the number. `keep.qry.ld` of whole regions whose destinations pass, after its commit point, writes their bytes lane by lane, each write racing as a store does, and reports which lanes loaded. -/
def Obligations.KeepInstructions : Prop :=
  (∀ (o : Op) (must : Bool) (s : State),
    let caps := s.captureOp { a := .n64, b := .n32 } o
    let x := (s.effective caps).foldl (State.declLane must) (s, [], [])
    s.cur.mism < 2 → x.2.2 = [] →
    exec (if must then .keepDeclMust o else .keepDeclBest o) s = .next ((x.1.keepTo o x.2.1).advance)) ∧
  (∀ (s : State) (must : Bool) (c : Cap),
    let q := s.part s.curPart
    (q.declines must c.a c.b = true → State.declLane must (s, [], []) c = (s, [{ lane := c.lane, x := 2 ^ 32 - 1, ok := false }], [])) ∧
    (∀ l, q.declines must c.a c.b = false → s.keepRanges c.a c.b = .ok l →
      ∃ tl ho, State.declLane must (s, [], []) c = ({ s.updPart s.curPart (fun q => { q with
          keeps := q.keeps ++ [{ r := (s.part s.curPart).freeRegion, must := must, va := c.a, len := c.b, ranges := l }]
          kused := q.kused + if must then unitsOf c.b else 0 }) with tlb := tl, hot := ho }, [{ lane := c.lane, x := q.freeRegion, ok := true }], []))) ∧
  (∀ (q : Part), q.keeps.length < 64 → q.freeRegion < 64 ∧ (∀ k ∈ q.keeps, k.r ≠ q.freeRegion) ∧ ∀ r, r < q.freeRegion → ∃ k ∈ q.keeps, k.r = r) ∧
  (∀ n : Nat, 65536 * (unitsOf n - 1) < n + 1 ∧ n ≤ 65536 * unitsOf n) ∧
  (∀ (o : Op) (s : State),
    let caps := s.captureOp { a := .n32 } o
    let x := (s.effective caps).foldl State.dropLane (s, [])
    s.cur.mism < 2 → exec (.keepDeclDrop o) s = .next ((x.1.keepTo o x.2).advance)) ∧
  (∀ (s : State) (c : Cap),
    ((∀ k ∈ (s.part s.curPart).keeps, k.r ≠ c.a) → State.dropLane (s, []) c = (s, [{ lane := c.lane, x := 0, ok := false }])) ∧
    ∀ k, (s.part s.curPart).keeps.find? (fun k => k.r == c.a) = some k →
      State.dropLane (s, []) c = (s.updPart s.curPart fun q => { q with keeps := q.keeps.filter (fun y => y.r != c.a), kused := q.kused - if k.must then unitsOf k.len else 0 },
        [{ lane := c.lane, x := 0, ok := true }])) ∧
  (∀ (o : Op) (s : State),
    let caps := s.captureOp { a := .n32, b := .n64 } o
    let go := (s.effective caps).filter fun c => (s.loadable c).isSome
    let s1 := released s .rel .pkg (lanesOf go)
    let outs := (s1.effective caps).map fun c => ({ lane := c.lane, x := 0, ok := (s1.loadable c).isSome } : KeepOut)
    s.cur.mism < 2 → (∀ c ∈ go, ∀ x, s.loadable c = some x → ∃ l, s.engineKeys (unitCore s.core) s.cur.wg .write c.b x.len = .ok l) → Commits s .rel .pkg (lanesOf go) →
    exec (.keepQryLd o) s = .next (((go.foldl State.keepLoadLane s1).keepTo { o with dst := .none } outs).advance)) ∧
  ∀ (s : State) (c : Cap) (x : Saved) (l : List (Nat × Nat)), s.loadable c = some x → s.engineKeys (unitCore s.core) s.cur.wg .write c.b x.len = .ok l →
    x.whole = true ∧ x.r = c.a ∧ x.tag = (s.part s.curPart).hutag ∧ x.epoch = s.reported ∧
    let s1 := ((s.hbAdd s.cur.wg s.cur.gang [c.lane] .store).cacheRange (unitCore s.core) s.curPart c.b x.len).writePieces l x.body (some s.uid)
    s.keepLoadLane c = ((l.foldl (fun t k => (t.wildObjs (s.knownBy c.lane) (.mem k.1) k.2).spoil (.mem k.1) k.2 s.uid) s1).commitWg s.cur.wg)

/-- Writes of CSRs, registers and host windows. `csrw`, `csrw.set` and `csrw.clr` complete: each lane in order reads the old value and writes; a writable bit takes the operand's bit, is set by it, or is cleared by it, a write-one-to-clear bit is cleared by a written one and is never set, every other bit stays. A training-group register of a bound partition is not written and its refusal is reported; a write of one that is taken makes the progress table fresh. The same write comes from a function with `ADMIN` through its registers, in requests of four bytes; requests of other sizes (the model's choice, log 55), and those while the host link is closed (its reading of R341, R427, R442 and R443, log 36), change nothing. A read of a register is answered once the link is ready, with an error from the trigger of a hold-up sequence on. An operator's write sets a partition's quads and units. A function with `ADMIN`, and no other, opens a window with its entry, a clear dirty-byte map and a zero counter, or has an error reported, and closes it. -/
def Obligations.CsrWrites : Prop :=
  (∀ (o : Op) (csr : Nat) (s : State), s.cur.mism < 2 →
    let caps := s.captureOp { a := .n32 } o
    let go (op : CsrOp) := (s.effective caps).foldl (State.csrLane csr op) (s, [])
    exec (.csrw o csr) s = .next (((go .write).1.returnTo o 1 (go .write).2).advance) ∧
    exec (.csrwSet o csr) s = .next (((go .set).1.returnTo o 1 (go .set).2).advance) ∧
    exec (.csrwClr o csr) s = .next (((go .clr).1.returnTo o 1 (go .clr).2).advance)) ∧
  (∀ (s : State) (n : Nat) (op : CsrOp) (c : Cap),
    State.csrLane n op (s, []) c = (s.csrWrite s.curPart n op (BitVec.ofNat 32 c.a), [(c.lane, (s.csrGang n).toNat)])) ∧
  (∀ (n i : Nat) (old a : Word), i < 32 →
    (bitAt (rwMask n) i = true → (csrNew .write n old a).getLsbD i = a.getLsbD i ∧ (csrNew .set n old a).getLsbD i = (old.getLsbD i || a.getLsbD i) ∧
      (csrNew .clr n old a).getLsbD i = (old.getLsbD i && !a.getLsbD i)) ∧
    (bitAt (w1cMask n) i = true → (csrNew .write n old a).getLsbD i = (old.getLsbD i && !a.getLsbD i) ∧ (csrNew .set n old a).getLsbD i = old.getLsbD i ∧
      (csrNew .clr n old a).getLsbD i = (old.getLsbD i && !a.getLsbD i)) ∧
    (bitAt (rwMask n) i = false → bitAt (w1cMask n) i = false → ∀ op, (csrNew op n old a).getLsbD i = old.getLsbD i)) ∧
  (∀ (s : State) (p n : Nat) (op : CsrOp) (a : Word),
    (0x010 ≤ n ∧ n ≤ 0x015 → (s.part p).bound = true → s.csrWrite p n op a = s.updPart p fun q => q.setCsr 0x002 (q.csrWord 0x002 ||| 8)) ∧
    (n = 0x008 ∨ n = 0x009 ∨ n = 0x118 ∨ n = 0x119 ∨ n = 0x207 → s.csrWrite p n op a = s.updPart p fun q => q.setCsr n (csrNew op n ((s.part p).csrWord n) a))) ∧
  (∀ (s : State) (p : Nat) (op : CsrOp) (a : Word), (s.part p).bound = false →
    s.csrWrite p 0x011 op a = s.updPart p fun q => { q.setCsr 0x011 (csrNew op 0x011 ((s.part p).csrWord 0x011) a) with prog := freshProg }) ∧
  (∀ (s : State) (w : RegWrite), (s.hostOpen = false → exec (.registerWrite w) s = .next s) ∧
    (s.hostOpen = true → w.vf = none → w.bar = 0 → exec (.registerWrite w) s = .next (s.pfWrite w.off w.size w.value.toNat)) ∧
    (∀ v, s.hostOpen = true → w.vf = some v → w.bar = 0 → 0x1000 ≤ w.off → w.off % 4 = 0 →
      (w.size = 4 → exec (.registerWrite w) s = .next (s.vfCsr v ((w.off - 0x1000) / 4) (w.value.truncate 32))) ∧ (w.size ≠ 4 → exec (.registerWrite w) s = .next s))) ∧
  (∀ (s : State) (vf : Option Nat) (bar off size : Nat),
    (s.ready.contains 0 = false → s.registerRead vf bar off size = s) ∧
    (s.ready.contains 0 = true → ∃ x, s.registerRead vf bar off size = { s with outbox := s.outbox ++ [Msg.registerAnswer vf bar off x] } ∧
      (s.linksOpen = false → x = none) ∧
      (s.linksOpen = true → bar = 0 → x = match vf with
        | none => some (s.pfRead off size)
        | some v => s.vfRead v off size) ∧
      (s.linksOpen = true → bar = 2 → x = match vf with
        | none => none
        | some v => s.pageRead v off size))) ∧
  (∀ (s : State) (k x : Nat), k < 12 → s.pfWrite (0x100 + 16 * k) 8 x = s.updPart k fun q => { q with qmask := bits x 15 0, saveuReq := bits x 45 32 }) ∧
  (∀ (s : State) (vf n p : Nat) (x : Word), s.vfPart vf = some (p, true) → 0x010 ≤ n → n ≤ 0x015 →
    exec (.tgCsrWrite vf n x) s = .next (s.csrWrite p n .write x)) ∧
  (∀ (s : State) (vf i : Nat), (∀ p, s.vfPart vf ≠ some (p, true)) → exec (.hostWindowOpen vf i) s = .next s ∧ exec (.hostWindowClose vf i) s = .next s) ∧
  ∀ (s : State) (vf p i : Nat), s.vfPart vf = some (p, true) → i < 64 →
    let n := if i < 32 then 0x202 else 0x203
    let b : Word := BitVec.ofNat 32 (2 ^ (i % 32))
    let w := (s.windowEntry p i).1
    (s.openBit p i = true → exec (.hostWindowOpen vf i) s = .next s ∧ exec (.hostWindowClose vf i) s = .next (s.updPart p fun q =>
      { q.setCsr n (q.csrWord n &&& ~~~b) with windows := q.windows.filter (fun x => x.idx != i), publishes := q.publishes.filter fun x => x.1 != i })) ∧
    (s.openBit p i = false → exec (.hostWindowClose vf i) s = .next s ∧
      ((s.windowEntry p i).2 = true → ∃ ho, exec (.hostWindowOpen vf i) s = .next
        { (s.clearMarks w).updPart p (fun q => { q.setCsr n (q.csrWord n ||| b) with windows := w :: q.windows.filter fun x => x.idx != i }) with
          hostMem := setNum s.hostMem w.ctr 8 0, hot := ho }) ∧
      ((s.windowEntry p i).2 = false → ∃ ho, exec (.hostWindowOpen vf i) s = .next
        { s.updPart p (fun q => (q.setCsr n (q.csrWord n &&& ~~~b)).setCsr 0x206 (q.csrWord 0x206 ||| 1)) with hot := ho }))

/-- Taking a trap, its entries, and the return from it. A trap of a gang at kernel level whose handler entry can begin saves cause, program counter, mask, address and up to sixteen entries of the queue in the frame, puts every live thread of the gang at `HENT`, Ready, with no meeting address and all its registers, keeps the instruction word of a decode trap (in a place of the frame that is the model's choice, log 53), and leaves memory, the other threads and the workgroups alone; at handler level, or where the handler cannot begin, it is a kernel error. A kernel error records its reason and cause where no error stands recorded, and ends every workgroup of its node with its threads and operations, applying none of their buffered stores; no node of its kick that has not dispatched starts. A kill is a kernel error for a committed cluster and for one relaunched three times; any other loses every workgroup, thread and operation, and goes back to its queue's front, counted. A gang at kernel level takes its oldest pending trap, with the entries not yet put back behind its own, and those beyond a full queue are kept for later (the model's choices, log 8 and log 24); a thread enters a line that it can read, or traps, and stops before an operation with an enabled breakpoint, unless the slot there raises a decode trap. The last live thread of a gang at `iret` returns it, or kills its cluster where one asked for that, with the cause of the lowest-numbered gang context that carries `.kill`; a return gives each thread its saved registers, program counter and meeting address, leaves handler level, and keeps the pending traps and the entries to be put back. `rq.wr` writes the records in lane order. -/
def Obligations.TrapsAndReturns : Prop :=
  (∀ (s : State) (w g : Nat) (ti : TrapInfo) (x : Gang), s.gangs.find? (fun x => x.wg == w && x.idx == g) = some x →
    (x.handler = false → s.handlerOk (unitCore (s.wg w).core) (s.partOf w) = true → (∃ u ∈ s.threads, u.wg = w ∧ u.gang = g ∧ u.live = true) →
      let t := s.takeTrap w g ti
      let f := (t.gang w g).frame
      (t.gang w g).handler = true ∧ f.cause = ti.cause ∧ f.info = ti.info ∧ f.tpc = ti.pc ∧ f.tmask = ti.mask ∧ f.taddr = ti.addr ∧ f.async = ti.async ∧ f.queue = ti.queue.take 16 ∧ f.word = ti.word ∧
      (t.gang w g).later = ti.queue.drop 16 ++ x.later ∧
      List.Forall₂ (fun u u' => if u.wg = w ∧ u.gang = g ∧ u.live = true then
          u'.pc = (s.part (s.partOf w)).hent ∧ u'.st = .ready ∧ u'.mt = none ∧ u'.v = u.v ∧ u'.p = u.p ∧ u'.ret = u.ret ∧ u'.rng = u.rng else u' = u) s.threads t.threads ∧
      t.mem = s.mem ∧ t.hostMem = s.hostMem ∧ t.wgs = s.wgs) ∧
    (x.handler = false → s.handlerOk (unitCore (s.wg w).core) (s.partOf w) = false → s.takeTrap w g ti = s.kernelError w 2 ti.cause) ∧
    (x.handler = true → s.takeTrap w g ti = if x.fresh then s.kernelError w 2 x.frame.cause else s.kernelError w 1 ti.cause)) ∧
  (∀ (s : State) (w g : Nat) (p : Pending) (r : List Pending), s.mayIssue w = true → s.gangStalls w g = false → (s.gang w g).handler = false → (s.gang w g).pend = p :: r →
    exec (.trapEntry w g) s = .next ((s.updGang w g fun y => { y with pend := r, reinject := [] }).takeTrap w g
      { cause := p.cause, async := true, exited := p.exited, pc := p.pc, mask := p.mask, addr := p.addr, tnum := some p.tnum, queue := p.entry :: (s.gang w g).reinject })) ∧
  (∀ (s : State) (w g lane : Nat) (t : Thread), (s.gangThreads w g).find? (fun t => t.lane == lane && t.canIssue && !t.past && !t.inLine) = some t → s.threadsNext w g = true →
    let s1 := { s with cur := issueAt w g [t] t 0 }
    (∀ l, s1.readLine = .ok l → exec (.lineEntry w g lane) s = .next (s1.touchLine.enterLine l)) ∧
    (∀ c a, s1.readLine = .error (c, a) → exec (.lineEntry w g lane) s = .next (s1.touchLine.trapBefore c a s1.lineWord)) ∧
    (∀ l a, s1.readLine = .error (0x01, a) → s1.textLine w (lineAddr t.pc) = .ok l → s1.lineWord = some (l.wordAt t.pc)) ∧
    s1.touchLine = { s1 with hot := s1.touchLine.hot }) ∧
  (∀ (s : State) (w g lane k : Nat) (t : Thread), (s.gangThreads w g).find? (fun t => t.lane == lane && t.canIssue && !t.past && t.inLine && !t.skipBkpt) = some t → s.threadsNext w g = true →
    (s.part (s.partOf w)).breakpoint t.pc = some k →
    let fetched := t.line.bind fun l => l.fetch (s.launchOf w).ctx t.pc
    (∀ f, fetched = some f → (f.instr.privileged = false ∨ (s.gang w g).handler = true) →
      exec (.breakpoint w g lane) s = .next ({ s with cur := issueAt w g [t] t 0 }.trapOut 0x70 [lane] k)) ∧
    ((fetched = none ∨ ∃ f, fetched = some f ∧ f.instr.privileged = true ∧ (s.gang w g).handler = false) → exec (.breakpoint w g lane) s = .next s)) ∧
  (∀ (gd : Guard) (s : State) (kill : Bool), s.cur.mism < 2 →
    let caps := s.captureNone gd
    let i : Instr := if kill then .iretKill gd else .iret gd
    let s1 := s.updIssue fun t => if (lanesOf caps).contains t.lane then { t with block := .iret kill } else t.goto s.cur.next s.cur.past
    let live := (s1.gangThreads s.cur.wg s.cur.gang).filter Thread.live
    ((∀ t ∈ live, t.block = .iret false) → exec i s = .next (s1.returnTrap s.cur.wg s.cur.gang)) ∧
    ((∀ t ∈ live, ∃ b, t.block = .iret b) → (∃ t ∈ live, t.block = .iret true) → exec i s = .next (s1.kill s.cur.wg (s1.killCause s.cur.wg))) ∧
    ((∃ t ∈ live, ∀ b, t.block ≠ .iret b) → exec i s = .next (s1.settle s.cur.wg s.cur.gang))) ∧
  (∀ (s : State) (w : Nat) (x : Gang),
    let carries (g : Gang) := g.wg = w ∧ ∃ t ∈ s.threads, t.wg = w ∧ t.gang = g.idx ∧ t.live = true ∧ t.block = .iret true
    s.gangs.find? (fun g => g.wg == w && g.idx == x.idx) = some x → carries x → (∀ y ∈ s.gangs, carries y → x.idx ≤ y.idx) → s.killCause w = x.frame.cause) ∧
  (∀ (s : State) (w reason cause : Nat), (s.wgs.map fun x => x.uid).Nodup →
    let n := (s.cluster (s.wg w).cluster).node
    let t := s.kernelError w reason cause
    let gone (c : Nat) : Prop := ∃ x ∈ s.clusters, x.uid = c ∧ x.node = n
    let p := s.partOf w
    (∀ x ∈ t.wgs, ¬ gone x.cluster) ∧ (∀ x ∈ s.wgs, ¬ gone x.cluster → x ∈ t.wgs) ∧
    (∀ x ∈ s.wgs, gone x.cluster → (∀ u ∈ t.threads, u.wg ≠ x.uid) ∧ (∀ g ∈ t.gangs, g.wg ≠ x.uid) ∧ (∀ o ∈ t.eops, o.wg ≠ x.uid) ∧ (∀ r ∈ t.io, r.issue.wg ≠ x.uid)) ∧
    (∀ y ∈ t.nodes, (y.uid = n ∨ ((s.node n).kick ≠ none ∧ y.kick = (s.node n).kick ∧ y.next = 0)) → y.failed = true) ∧
    ((s.node n).kick = none → t.mem = s.mem) ∧ t.hostMem = s.hostMem ∧
    ((s.part p).idx = p → p < s.parts.length →
      (((s.part p).csrWord 0x110).getLsbD 31 = false → (t.part p).csrWord 0x110 = BitVec.ofNat 32 (2 ^ 31 + 256 * reason + cause) ∧
        (t.part p).csrWord 0x111 = BitVec.ofNat 32 (s.wg w).num) ∧
      (((s.part p).csrWord 0x110).getLsbD 31 = true → (t.part p).csrWord 0x110 = (s.part p).csrWord 0x110 ∧ (t.part p).csrWord 0x111 = (s.part p).csrWord 0x111))) ∧
  (∀ (s : State) (w cause : Nat),
    let c := s.cluster (s.wg w).cluster
    let us := (s.clusterWgs c.uid).map fun x => x.uid
    let p := s.partOf w
    let t := s.kill w cause
    ((∃ x ∈ s.clusterWgs c.uid, x.committed = true) → t = s.kernelError w 3 cause) ∧
    ((∀ x ∈ s.clusterWgs c.uid, x.committed = false) → 3 ≤ c.relaunches → t = s.kernelError w 4 cause) ∧
    ((∀ x ∈ s.clusterWgs c.uid, x.committed = false) → c.relaunches < 3 → (s.wgs.map fun x => x.uid).Nodup →
      t.wgs = s.wgs.filter (fun x => x.cluster != c.uid) ∧ t.threads = s.threads.filter (fun u => !us.contains u.wg) ∧ t.gangs = s.gangs.filter (fun g => !us.contains g.wg) ∧
      t.eops = s.eops.filter (fun o => !us.contains o.wg) ∧ t.mem = s.mem ∧ t.hostMem = s.hostMem ∧ t.rdc = s.rdc ∧
      List.Forall₂ (fun a b => b = if a.uid = c.uid then { a with st := .queued, relaunches := a.relaunches + 1, front := b.front, waitFrom := s.headClk } else a)
        s.clusters t.clusters ∧
      ((s.part p).idx = p → p < s.parts.length → (t.part p).csrWord 0x112 = (s.part p).csrWord 0x112 + 1))) ∧
  (∀ (s : State) (w g : Nat) (x : Gang), s.gangs.find? (fun x => x.wg == w && x.idx == g) = some x →
    let t := s.returnTrap w g
    t.threads = s.threads.map (fun u => if u.wg == w && u.gang == g then restoreThread x.frame u else u) ∧ (t.gang w g).handler = false ∧
      (t.gang w g).pend = x.pend ∧ (t.gang w g).returning = true ∧ (t.gang w g).reinject = (x.frame.queue.filter fun e => !e.idle) ++ x.later) ∧
  (∀ (f : Frame) (t : Thread) (r : ResumeRow) (row : SaveRow), f.resume.find? (fun r => r.lane == t.lane) = some r → f.save.find? (fun x => x.lane == t.lane) = some row →
    let u := restoreThread f t
    u.pc = r.pc ∧ u.past = r.past ∧ u.v = row.v ++ t.v.drop 4 ∧ u.mt = (if r.mt.getLsbD 63 then some (r.mt &&& 0x7FFFFFFFFFFFFFFF) else none) ∧ u.block = .none ∧
    u.pred 1 = row.p.getLsbD 0 ∧ u.pred 2 = row.p.getLsbD 1 ∧ u.pred 3 = row.p.getLsbD 2 ∧ (∀ n, 3 < n → n < 96 → u.pred n = t.pred n) ∧ u.ret = t.ret ∧ u.rng = t.rng) ∧
  (∀ (o : Op) (s : State), s.cur.mism < 2 →
    ∃ th, exec (.rqWr o) s = .next { s with
        gangs := s.gangs.map fun g => if g.wg == s.cur.wg && g.idx == s.cur.gang then
          { g with frame := (s.captureOp { a := .n32, b := .n32, c := .n32 } o).foldl (fun f c => f.wr c.a c.b (BitVec.ofNat 32 c.c)) g.frame } else g
        threads := th } ∧ Threads s id (nextPlace s) th)

/-- Shootdowns, answers from outside, and requests of peers and the host. `tlbsd.all` and `tlbsd.va`, after their commit point, record what each lane removes and keep those lanes at the instruction. A shootdown applies the stores that carry a translation that it removes; then, with none of its gang before it and nothing so translated left, it takes those translations of its partition out of every cache and lets its thread go on, and else it waits. An answer with an error, one from a device that no path reaches, and a completion timeout on the host link make the request of that lane fail with 0x15; an answer to no waiting lane changes nothing; the answer of a load's lane fills its line and reads its bytes. That each lane's request is answered by itself, with its own error, which is kept while others wait, and that devices are numbered as those without a path are, are the model's choices (log 25, log 16). The lanes of an atomic that failed trap once the others have what they return; a `.nr` one whose answer was an error goes on and raises 0x20. An `ath` that the link cannot carry whole reads its container and compares and swaps it until the host has not changed it, and fails with 0x1E after 64 failures. A request with lanes still waiting is kept; one with none goes on, and traps where a lane failed. A peer's read or write of memory that its partition owns, while that runs or is stopped, is answered with the bytes or makes them, and is refused elsewhere; a peer's atomic answers the old value and leaves the new one; the aperture of a bound function reads and writes the selected granule, or reports its error. -/
def Obligations.ShootdownsAndRequests : Prop :=
  (∀ (s : State) (g : Guard) (o : Op) (va : Bool), s.cur.mism < 2 → s.cur.replay = false →
    let caps := if va then s.captureOp { a := .n64, b := .n32 } o else s.captureNone g
    let lo (c : Cap) := if va then c.a / 65536 * 65536 else 0
    let hi (c : Cap) := if va then min (2 ^ 52) (c.a / 65536 * 65536 + 65536 * c.b) else 2 ^ 52
    let r := released s .rel .pkg (lanesOf caps)
    caps ≠ [] → (lanesOf caps).Nodup → Commits s .rel .pkg (lanesOf caps) →
    ∃ sh th, exec (if va then .tlbsdVa o else .tlbsdAll g) s = .next { r with uid := r.uid + caps.length, shoots := r.shoots ++ sh, threads := th } ∧
      List.Forall₂ (fun (c : Cap × Nat) (x : Shootdown) => x = { id := r.uid + c.2, wg := r.cur.wg, gang := r.cur.gang, lane := c.1.lane, part := r.curPart, lo := lo c.1, hi := hi c.1 })
        caps.zipIdx sh ∧
      Threads r (fun u => if runs r caps u then { u with block := .shoot (r.uid + caps.findIdx fun c => c.lane == u.lane) } else u)
        (fun u => if runs r caps u then (u.pc, u.past) else nextPlace r u) th) ∧
  (∀ (s : State) (id : Nat) (r : Shootdown), s.shoots.find? (fun r => r.id == id) = some r →
    let s1 := s.shootStores r
    let s2 := { s1 with
      shoots := s1.shoots.filter fun q => q.id != id
      tlb := s1.tlb.filter fun e => !(e.part == r.part && overlap e.va e.span r.lo (r.hi - r.lo)) }
    let after_ (t : Thread) : Thread :=
      let p := nextAddr t.pc 12 (t.line.any fun l => l.last)
      { t with pc := p.1, past := p.2, skipBkpt := false, block := .none }
    ((∃ q ∈ s.shoots, q.wg = r.wg ∧ q.gang = r.gang ∧ q.id < id) → exec (.shootdownComplete id) s = .next s) ∧
    ((∀ q ∈ s.shoots, q.wg = r.wg → q.gang = r.gang → id ≤ q.id) →
      (s1.shootDrained r = false → exec (.shootdownComplete id) s = .next s1) ∧
      (s1.shootDrained r = true → exec (.shootdownComplete id) s = .next
        (({ s2 with threads := s2.threads.map fun (t : Thread) => if t.block == Block.shoot id then after_ t else t }.settle r.wg r.gang).afterIssue r.wg r.gang)))) ∧
  (∀ (s : State) (id lane : Nat) (r : IoReq), s.io.find? (fun r => r.id == id) = some r →
    let s0 := { s with cur := r.issue }
    (laneVal r.waits lane = none → ∀ a, exec (.loadReturn ⟨id, lane⟩ a) s = .next s ∧ exec (.pcieCompletionTimeout ⟨id, lane⟩) s = .next s) ∧
    ∀ p, laneVal r.waits lane = some p →
      exec (.loadReturn ⟨id, lane⟩ .error) s = .next (s0.ioNext (r.fail lane 0x15)) ∧
      (∀ k v, p = .mem k v → s.unreachable k = true → exec (.loadReturn ⟨id, lane⟩ .ok) s = .next (s0.ioNext (r.fail lane 0x15))) ∧
      ((∃ i off host, p = .win i off host) → exec (.pcieCompletionTimeout ⟨id, lane⟩) s = .next (s0.ioNext (r.fail lane 0x15))) ∧
      ((∀ i off host, p ≠ .win i off host) → exec (.pcieCompletionTimeout ⟨id, lane⟩) s = .next s) ∧
      (∀ o w k v, r.instr = .ldg o w → p = .mem k v → s.unreachable k = false →
        let x := State.loadLane .glb w (s0.fillPlace p, []) (r.ref lane p)
        exec (.loadReturn ⟨id, lane⟩ .ok) s = .next (x.1.ioNext (r.gain lane x.2))) ∧
      (∀ o m i off host, r.instr = .ath o m → p = .win i off host → exec (.loadReturn ⟨id, lane⟩ .ok) s = .next
        (if isNative o m then s0.remoteAtomic r o m (r.ref lane p) else s0.casLoop r o m (r.ref lane p)))) ∧
  (∀ (s : State) (r : IoReq) (o : Op) (m : AtMods) (x : LaneRef) (i off host : Nat), x.place = .win i off host →
    let seen := s.numAt (.win i (off / 8 * 8) host) 8
    let l := x.cap.lane
    (laneVal r.tries l = none → s.casLoop r o m x = s.ioNext { r with tries := (l, seen, 0) :: r.tries }) ∧
    ∀ old fails, laneVal r.tries l = some (old, fails) →
      (seen = old → s.casLoop r o m x = s.remoteAtomic r o m x) ∧
      (seen ≠ old → fails = 63 → s.casLoop r o m x = s.ioNext (r.fail l 0x1E)) ∧
      (seen ≠ old → fails ≠ 63 → s.casLoop r o m x = s.ioNext { r with tries := (l, seen, fails + 1) :: r.tries.filter fun t => t.1 != l })) ∧
  (∀ (s : State) (r : IoReq) (o : Op) (m : AtMods) (code : Nat), r.instr = .atg o m ∨ r.instr = .ath o m →
    let failed := r.caps.filter fun c => (laneVal r.bad c.lane).isSome
    let t := s.atomicReturn o m r.caps r.got
    failed ≠ [] → (∀ c ∈ failed, laneVal r.bad c.lane = some code) →
    (m.nr = false ∨ code ≠ 0x15 → ∃ f, s.ioFailed r = t.faultLanes failed f ∧ f.1 = code) ∧
    (m.nr = true → code = 0x15 → s.ioFailed r = (t.ioLate r failed).advance ∧
      ∃ p, t.ioLate r failed = t.addPending r.issue.wg r.issue.gang p ∧ p.cause = 0x20 ∧ p.pc = r.issue.pc ∧ p.mask = lanesOf failed)) ∧
  (∀ (s : State) (r : IoReq),
    (r.waits ≠ [] → s.ioNext r = { s with io := s.io.map fun x => if x.id == r.id then r else x }) ∧
    (r.waits = [] → r.bad ≠ [] → s.ioNext r = ((s.unblock r).ioFailed r).afterIssue r.issue.wg r.issue.gang) ∧
    (r.waits = [] → r.bad = [] → s.ioNext r = ((s.unblock r).ioDone r).afterIssue r.issue.wg r.issue.gang)) ∧
  (∀ (s : State) (r : IoReq) (code : Nat), (∀ o m, r.instr ≠ .atg o m ∧ r.instr ≠ .ath o m) → (∀ x ∈ r.bad, x.2 = code) →
    (∃ c ∈ r.caps, ∃ x ∈ r.bad, x.1 = c.lane) → ∃ f, s.ioFailed r = s.faultLanes r.caps f ∧ f.1 = code) ∧
  (∀ (s : State) (req : FabricReq), Memory.wf s.mem = true →
    let n := if req.bytes.isEmpty then req.len else req.bytes.length
    (s.fabricOk req.part req.pa n = false → exec (.fabricRequest req) s = .next { s with outbox := s.outbox ++ [Msg.fabricAnswer req.dev false []] }) ∧
    (s.fabricOk req.part req.pa n = true → req.bytes = [] → exec (.fabricRequest req) s = .next
      { s.recall req.pa n with outbox := s.outbox ++ [Msg.fabricAnswer req.dev true ((List.range n).map fun i => s.homeByte (req.pa + i))] }) ∧
    (s.fabricOk req.part req.pa n = true → req.bytes ≠ [] → ∃ t, exec (.fabricRequest req) s = .next t ∧ t.outbox = s.outbox ++ [Msg.fabricAnswer req.dev true []] ∧
      ∀ a, getByte t.mem a = if req.pa ≤ a ∧ a < req.pa + req.bytes.length then (req.bytes[a - req.pa]?).getD 0 else getByte s.mem a)) ∧
  (∀ (s : State) (req : PeerAtomicReq),
    let n := req.ty.bits / 8
    let old := ofBytesLE ((List.range n).map fun i => s.homeByte (req.pa + i))
    let b := req.b.toNat % 2 ^ (8 * n)
    let c := req.c.toNat % 2 ^ (8 * n)
    let answer (ok : Bool) (x : Nat) := s.outbox ++ [Msg.atomicAnswer req.dev ok (BitVec.ofNat 64 x)]
    (n = 0 ∨ req.pa % n ≠ 0 ∨ s.fabricOk req.part req.pa n = false → exec (.peerAtomic req) s = .next { s with outbox := answer false 0 }) ∧
    (n ≠ 0 → req.pa % n = 0 → s.fabricOk req.part req.pa n = true → req.op = .cas → old ≠ b →
      exec (.peerAtomic req) s = .next { s.useHot (req.pa / 8) with outbox := answer true old }) ∧
    (n ≠ 0 → req.pa % n = 0 → s.fabricOk req.part req.pa n = true → (req.op ≠ .cas ∨ old = b) →
      let t := (s.useHot (req.pa / 8)).peerRmw req.pa n (atNew req.op req.ty old b c)
      exec (.peerAtomic req) s = .next { t with outbox := answer true old } ∧
      (Memory.wf s.mem = true → ∀ a, getByte t.mem a =
        if req.pa ≤ a ∧ a < req.pa + n then ((toBytesLE (atNew req.op req.ty old b c) n)[a - req.pa]?).getD 0 else getByte s.mem a))) ∧
  (∀ (s : State) (who : Agent) (k : Nat) (bs : List Byte), Memory.wf s.mem = true →
    (∀ a, getByte (s.outerWrite who k bs).mem a = if k ≤ a ∧ a < k + bs.length then (bs[a - k]?).getD 0 else getByte s.mem a) ∧
    (s.outerWrite who k bs).hostMem = s.hostMem ∧ (s.outerWrite who k bs).wgs = s.wgs ∧ (s.outerWrite who k bs).threads = s.threads) ∧
  ∀ (s : State) (vf off p : Nat) (admin : Bool) (bs : List Byte) (len : Nat), s.vfPart vf = some (p, admin) →
    (∀ a, s.aperture p off bs.length admin = some a → exec (.apertureWrite vf off bs) s = .next (s.outerWrite .host a bs)) ∧
    (s.aperture p off bs.length admin = none → exec (.apertureWrite vf off bs) s = .next (s.updPart p fun q => q.setCsr 0x206 (q.csrWord 0x206 ||| 2))) ∧
    (∀ a, s.aperture p off len admin = some a → exec (.apertureRead vf off len) s = .next
      { s.recall a len with outbox := s.outbox ++ [Msg.apertureAnswer vf (some ((List.range len).map fun i => s.homeByte (a + i)))] }) ∧
    (s.aperture p off len admin = none → exec (.apertureRead vf off len) s = .next
      { s.updPart p (fun q => q.setCsr 0x206 (q.csrWord 0x206 ||| 2)) with outbox := s.outbox ++ [Msg.apertureAnswer vf none] })

/-- Placement, switching out, promotion and retirement. In a running partition the cluster that is picked is placed: one with a record is brought back or created anew, the next of a node is dispatched first; nothing fits, nothing happens. A cluster that may leave and must, or yields, is switched out: its registers, program counters, thread states, local stores, tiles and the operations in its engines stay, its latches go, and its buffer is empty or holds a store that a fault holds; every other workgroup's threads and local stores stay as they are, and so does its buffer, but for stores that come back to it from a line of a peer that no path reaches any more. A workgroup that returns stands on its new core with the same state. A workgroup that has waited 2^20 slice clocks qualifies, a waiting cluster moves up a level after 2^22 headstock clocks. A Draining workgroup with nothing left retires with its cluster in turn; an early-freed cluster gives back its cores and local stores. The curve of a slab visits each of its points, the fit takes the lowest free range, and a new thread starts Ready at its stage's entry with zero registers. That the wait of 2^20 slice clocks is counted on what every slice has counted at least is the model's choice (log 9), that a thread which an `iret` holds back loses that at a switch-out and issues it again its reading of R386 (log 28), and so is what comes back from a line of a peer out of reach (log 16, log 29). -/
def Obligations.PlacementAndLife : Prop :=
  (∀ (s : State) (p : Nat),
    ((s.part p).st ≠ .running → exec (.clusterPlace p) s = .next s) ∧
    ((s.part p).st = .running →
      (s.pick p = none → exec (.clusterPlace p) s = .next s) ∧
      (∀ c plans, s.pick p = some (.old c, plans) → exec (.clusterPlace p) s = .next (s.placeCluster (s.cluster c) plans)) ∧
      (∀ n plans, s.pick p = some (.new n, plans) → exec (.clusterPlace p) s = .next ((s.dispatch (s.node n)).1.placeCluster (s.dispatch (s.node n)).2 plans)))) ∧
  (∀ (s : State) (c : Cluster) (plans : List CorePlan) (tb : List (Nat × List Byte)), c.st ≠ .switchedOut → s.clusters.find? (fun x => x.uid == c.uid) = some c →
    s.initTable (s.node c.node).part (s.node c.node).launch = .ok tb →
    ∃ ws gs ts tl ho h, s.placeCluster c plans = { s.updCluster c.uid (fun x => { x with st := .resident, gave := none, away := false, quad := ((plans.head?).map fun p => p.core / 4).getD 0 }) with
        uid := s.uid + plans.length, wgs := s.wgs ++ ws, gangs := s.gangs ++ gs, threads := s.threads ++ ts, tlb := tl, hot := ho, hb := h } ∧
      ws.length = plans.length ∧ ∀ w ∈ ws, w.cluster = c.uid ∧ w.st = .resident ∧ w.sb = [] ∧ w.committed = false) ∧
  (∀ (l : Launch) (w num : Nat) (g : Stage) (idx stage gang lane : Nat),
    let t := newThread l w num g idx stage gang lane
    (gang * l.maskW + lane % l.maskW < g.threads → t.st = .ready ∧ t.pc = l.entry g ∧ t.v = List.replicate l.vregs 0 ∧ t.p = 0 ∧ t.mt = none) ∧
    (g.threads ≤ gang * l.maskW + lane % l.maskW → t.st = .unlaunched)) ∧
  (∀ (taken : List (Nat × Nat)) (size total : Nat),
    (∀ a, firstFit taken size total = some a → a + size ≤ total ∧ (∀ t ∈ taken, overlap t.1 t.2 a size = false) ∧
      ∀ b, b + size ≤ total → (∀ t ∈ taken, overlap t.1 t.2 b size = false) → a ≤ b) ∧
    (firstFit taken size total = none → ∀ b, b + size ≤ total → ∃ t ∈ taken, overlap t.1 t.2 b size = true)) ∧
  (∀ nx ny x y : Nat, (x, y) ∈ curve nx ny ↔ x < nx ∧ y < ny) ∧
  (∀ (s : State) (u : Nat) (areas : List Nat), s.saveAreas (s.cluster u) = some areas →
    (s.canLeave (s.cluster u) = true → (s.vacates (s.cluster u) = true ∨ s.yields (s.cluster u) = true) → exec (.clusterSwitchOut u) s = .next (s.switchOut (s.cluster u) areas
      (if s.vacates (s.cluster u) then none else (s.yieldsTo (s.clusterPart (s.cluster u))).map s.turnOf))) ∧
    (s.canLeave (s.cluster u) = false ∨ (s.vacates (s.cluster u) = false ∧ s.yields (s.cluster u) = false) → exec (.clusterSwitchOut u) s = .next s)) ∧
  (∀ (s : State) (c : Cluster) (areas : List Nat) (gave : Option (Queued × Nat)), areas.length = (s.clusterWgs c.uid).length → (s.wgs.map fun x => x.uid).Nodup →
    let t := s.switchOut c areas gave
    let mine (w : Nat) : Bool := (s.clusterWgs c.uid).any fun x => x.uid == w
    t.threads = s.threads.map (fun u => if mine u.wg then { u with line := none, block := match u.block with
      | .iret _ => .none
      | b => b } else u) ∧
    List.Forall₂ (fun u v => (mine u.uid = true → v = { u with
        sb := v.sb, committed := v.committed, undef := v.undef, st := .switchedOut, saveAt := v.saveAt, idle := none, qualifies := none } ∧
        (v.sb = [] ∨ ∃ e ∈ v.sb, e.held = true)) ∧
      (mine u.uid = false → ∃ l, v = { u with sb := l ++ u.sb, undef := v.undef } ∧ (∀ e ∈ l, e.held = true) ∧ ((∀ k, s.unreachable k = false) → l = []))) s.wgs t.wgs ∧
    List.Forall₂ (fun a b => ∃ l, b = { a with pend := a.pend ++ l } ∧ (mine a.wg = false → (∀ k, s.unreachable k = false) → l = [])) s.gangs t.gangs ∧
    List.Forall₂ (fun a b => b = { a with due := b.due, undef := b.undef }) s.eops t.eops ∧
    (∀ g ∈ s.gangs, mine g.wg = true → ∀ x, t.sliceOf g.wg g.idx = some x → x.wg = g.wg → x.gang = g.idx → x.latches = [] ∧ x.runs = [])) ∧
  (∀ (s : State) (w : Wg) (plan : CorePlan),
    let t := s.returnWg w plan
    t.threads = s.threads ∧ t.eops = s.eops ∧ t.mem = s.mem ∧
    List.Forall₂ (fun u v => v = if u.uid = w.uid then { u with
      st := .resident, core := plan.core, lsBase := plan.base, residentSince := s.sliceClk, idle := none, qualifies := none, saveAt := none } else u) s.wgs t.wgs ∧
    List.Forall₂ (fun a b => b = if a.wg = w.uid then { a with slice := b.slice, col := b.col } else a) s.gangs t.gangs) ∧
  (∀ (s : State) (wg t : Nat), (s.wg wg).idle = some t → s.wgIdle (s.wg wg) = true → (s.wg wg).qualifies = none →
    (max t (s.wg wg).residentSince + 2 ^ 20 ≤ s.sliceClk → exec (.yieldThreshold wg) s = .next (s.updWg wg fun x => { x with qualifies := some s.sliceClk })) ∧
    (s.sliceClk < max t (s.wg wg).residentSince + 2 ^ 20 → exec (.yieldThreshold wg) s = .next s)) ∧
  (∀ (s : State) (u : Nat),
    ((s.cluster u).uid = u → ((s.cluster u).st = .queued ∨ (s.cluster u).st = .switchedOut) → (s.cluster u).level < 3 → (s.cluster u).waitFrom + 2 ^ 22 ≤ s.headClk →
      exec (.agingPromotion (.cluster u)) s = .next (s.updCluster u fun x => { x with level := x.level + 1, waitFrom := s.headClk })) ∧
    ((s.node u).uid = u → (s.node u).eligible = true → (s.node u).next < (s.node u).launch.clusters → (s.node u).level < 3 → (s.node u).waitFrom + 2 ^ 22 ≤ s.headClk →
      exec (.agingPromotion (.node u)) s = .next (s.updNode u fun x => { x with level := x.level + 1, waitFrom := s.headClk }))) ∧
  (∀ (s : State) (wg : Nat), (∃ w ∈ s.wgs, w.uid = wg ∧ w.st = .draining) →
    let s1 := s.commit wg
    let c := s1.cluster (s1.wg wg).cluster
    let s2 := s1.updWg wg fun x => { x with st := .retired }
    s1.spent (s1.wg wg) = true → s1.allDrain c = true → s1.retireTurn c = true →
    exec (.workgroupRetire wg) s = .next (if (s2.clusterWgs c.uid).all fun w => w.st == .retired then s2.clusterRetired c else s2)) ∧
  ∀ (s : State) (u : Nat),
    let c := s.cluster u
    c.st = .resident → (s.node c.node).launch.det = true → s.clusterWgs c.uid ≠ [] → (∀ w ∈ s.clusterWgs c.uid, s.spent w = true) → s.retireTurn c = false →
    exec (.deterministicEarlyFree u) s = .next (({ s with wgs := s.wgs.map fun (w : Wg) => if w.cluster == c.uid then { w with ls := [], poison := [], tiles := [] } else w }.updCluster u
      fun x => { x with st := .freed }).coresFreed (s.clusterPart c))

/-- CREATE, START, STOP, RESET, RESIZE and the granule map. While the host link is open and no command is in progress: CREATE makes an Unconfigured partition, whose quads nobody else has and whose units are left, Stopped with a fresh key generation; START runs a Stopped one with quads; STOP of a Running one ends once nothing is on its cores; RESET of a Stopped one ends once its granules are scrubbed; RESIZE takes effect when the removed quads are empty; a command in a wrong state has result 2, one of a number that names none result 3. A closed link takes nothing (the model's reading of R341, R427, R442 and R443, log 36) and a busy one loses the command. A free granule given to a partition, or a partition's freed, is scrubbed first; the end of a scrub leaves zeros and shows the owner, every other byte being as it was. -/
def Obligations.PartitionCommands : Prop :=
  (∀ (s : State) (part : Nat) (i : Instr), i ∈ [Instr.pcmdCreate part, .pcmdStart part, .pcmdStop part, .pcmdReset part, .pcmdResize part] →
    (s.hostOpen = false → exec i s = .next s) ∧
    (s.hostOpen = true → s.pcmdBusy = true → exec i s = .next { s with pcmdLost := true })) ∧
  (∀ (s : State) (part : Nat), s.hostOpen = true → s.pcmdBusy = false → part < 12 →
    let q := s.part part
    let at_ (n : Nat) : State := { s with pcmdBusy := true, pcmdPart := part, pcmdCmd := n }
    (q.st ≠ .unconfigured → exec (.pcmdCreate part) s = .next ((at_ 1).pcmdEnd 2)) ∧
    (q.st = .unconfigured → q.qmask &&& s.otherQuads part = 0 → s.otherUnits part + q.saveuReq ≤ 12288 → s.quadsReady q.qmask = true →
      exec (.pcmdCreate part) s = .next (({ (at_ 1).updPart part Part.created with grants := s.grants ++ [part] }.dropTlb part).pcmdEnd 0)) ∧
    (q.st = .unconfigured → (q.qmask &&& s.otherQuads part ≠ 0 ∨ 12288 < s.otherUnits part + q.saveuReq) → exec (.pcmdCreate part) s = .next ((at_ 1).pcmdEnd 3)) ∧
    (q.st ≠ .stopped → exec (.pcmdStart part) s = .next ((at_ 2).pcmdEnd 2) ∧ exec (.pcmdReset part) s = .next ((at_ 4).pcmdEnd 2)) ∧
    (q.st = .stopped → q.qact ≠ 0 → s.ready.contains 2 = true →
      exec (.pcmdStart part) s = .next (((at_ 2).updPart part fun q => { q with st := .running }).pcmdEnd 0)) ∧
    (q.st = .stopped → exec (.pcmdReset part) s = .next ((at_ 4).resetPart part)) ∧
    (q.st = .running → exec (.pcmdStop part) s = .next ((at_ 3).updPart part fun q => { q with st := .stopping })) ∧
    (q.st ≠ .running → exec (.pcmdStop part) s = .next ((at_ 3).pcmdEnd 2)) ∧
    (q.st = .running ∨ q.st = .stopped → q.qmask &&& s.otherQuads part = 0 → (q.st = .running → q.qmask ≠ 0) → s.quadsReady q.qmask = true →
      exec (.pcmdResize part) s = .next (((at_ 5).updPart part fun q => { q with resizeTo := some q.qmask }).coresFreed part))) ∧
  (∀ (s : State) (v : BitVec 128), s.hostOpen = true → s.pcmdBusy = false → bits v.toNat 11 8 < 12 → (bits v.toNat 3 0 = 0 ∨ 5 < bits v.toNat 3 0) →
    exec (.registerWrite { vf := none, bar := 0, off := 0, size := 4, value := v }) s =
      .next ({ s with pcmdBusy := true, pcmdPart := bits v.toNat 11 8, pcmdCmd := bits v.toNat 3 0 }.pcmdEnd 3)) ∧
  (∀ (s : State) (r : Nat), s.pcmdEnd r = { s with pcmdBusy := false, pcmdResult := if s.pcmdLost then 1 else r, pcmdLost := false }) ∧
  (∀ (q : Part), (Part.created q).st = .stopped ∧ (Part.created q).qact = q.qmask ∧ (Part.created q).saveu = q.saveuReq ∧ (Part.created q).keygen = q.keygen + 1 ∧
    (Part.created q).meas = List.replicate 64 0 ∧ (Part.created q).csr = [] ∧ (Part.created q).keeps = [] ∧ (Part.created q).handles = []) ∧
  (∀ (s : State) (part : Nat), (s.part part).st = .stopping →
    (∀ w ∈ s.wgs, s.partOf w.uid = part → (w.st = .resident ∨ w.st = .draining) → (s.cluster w.cluster).st ≠ .resident) →
    let t := (s.updPart part fun q => { q with st := .stopped }).dropTlb part
    exec (.stopComplete part) s = .next (if s.pcmdBusy && s.pcmdCmd == 3 && s.pcmdPart == part then t.pcmdEnd 0 else t)) ∧
  (∀ (s : State) (part : Nat), (s.part part).st = .resetting → (∀ x ∈ s.scrub, x.2 ≠ 16 + part) →
    let t := s.updPart part fun q => { q with st := .unconfigured, qact := 0 }
    exec (.resetComplete part) s = .next (if s.pcmdBusy && s.pcmdCmd == 4 && s.pcmdPart == part then t.pcmdEnd 0 else t)) ∧
  (∀ (s : State) (g v : Nat), s.hostOpen = true → g < 768 → s.hbmReady g = true →
    (s.gmapOf g = 0xF → v < 12 → ((s.part v).st = .stopped ∨ (s.part v).st = .running) → exec (.gmapWrite g v) s = .next (s.scrubGranule v v g)) ∧
    (s.gmapOf g < 12 → v = 0xF → ((s.part (s.gmapOf g)).st = .stopped ∨ (s.part (s.gmapOf g)).st = .unconfigured) → exec (.gmapWrite g v) s = .next (s.scrubGranule (s.gmapOf g) 0xF g)) ∧
    (12 ≤ s.gmapOf g → s.gmapOf g ≠ 0xF → exec (.gmapWrite g v) s = .next s)) ∧
  (∀ (s : State) (p who g h : Nat), (s.scrubGranule p who g).gmapOf h = (if h = g then 0xD else s.gmapOf h) ∧ (s.scrubGranule p who g).mem = s.mem) ∧
  ∀ (s : State) (g who : Nat), Memory.wf s.mem = true → s.scrub.find? (fun x => x.1 == g) = some (g, who) →
    ∃ t, exec (.granuleScrubDone g) s = .next t ∧ t.gmapOf g = (if 16 ≤ who then 0xF else who) ∧ (∀ h, h ≠ g → t.gmapOf h = s.gmapOf h) ∧
      (∀ x ∈ t.scrub, x.1 ≠ g) ∧ t.parts = s.parts ∧ t.threads = s.threads ∧
      ∀ a, getByte t.mem a = if 2 ^ 30 * g ≤ a ∧ a < 2 ^ 30 * (g + 1) then 0 else getByte s.mem a

/-- The hold-up sequence, bring-up and the risk monitor. A trigger on an armed controller begins Quiescing with a new epoch; undervoltage or a thermal trip on one that is off or charging makes the module dark (a reserve fault is a trigger of an armed controller alone, whose reserve has fallen below 3.5 J with supply present); during a sequence a trigger starts nothing. Charging ends with the controller armed; Quiescing with the cores down, the reported epoch advanced and the bytes of every region taken; Saving once every must-save region is written, which it then is whole; best-effort writing once every best-effort region is written, or at its time with those whole that have ended before it and the next one torn; and Recording with the module dark: then only what is not volatile is left. Power brings a dark module up cold and units become ready in order, each adding its bit. A health event counts and raises RISK by its weight, no higher than 65535, and RISK decays by a sixteenth; a sample of the temperature comes once per 2^20 monitor clocks, as a decay does. That the bytes of a region are those at the end of step 1, that the store takes 48,000 bytes in each microsecond, and how the microsecond under way counts, byte after byte from class to class, are the model's choices (log 36). -/
def Obligations.HoldupAndHealth : Prop :=
  (∀ (s : State),
    (s.holdup = .armed → exec .supplyUndervoltage s = .next { s with supply := false, holdup := .quiescing, epoch := (s.epoch + 1) % 2 ^ 32, usTrigger := 0 } ∧
      exec .thermalTrip s = .next { s with holdup := .quiescing, epoch := (s.epoch + 1) % 2 ^ 32, usTrigger := 0 } ∧
      (s.supply = true → s.energy < 3500 → exec .reserveFault s = .next { s with holdup := .quiescing, epoch := (s.epoch + 1) % 2 ^ 32, usTrigger := 0 }) ∧
      (s.supply = false ∨ 3500 ≤ s.energy → exec .reserveFault s = .next s)) ∧
    (s.holdup = .off ∨ s.holdup = .charging → exec .supplyUndervoltage s = .next { s with supply := false }.dark ∧ exec .thermalTrip s = .next s.dark ∧ exec .reserveFault s = .next s) ∧
    (s.holdup = .quiescing ∨ s.holdup = .saving ∨ s.holdup = .bestEffort ∨ s.holdup = .recording →
      exec .supplyUndervoltage s = .next { s with supply := false } ∧ exec .thermalTrip s = .next s ∧ exec .reserveFault s = .next s) ∧
    (s.holdup = .charging → 3500 ≤ s.energy → exec .reserveCharged s = .next { s with holdup := .armed, ready := s.ready ++ [2] }) ∧
    (s.holdup = .quiescing → ∃ t, exec .quiesceComplete s = .next t ∧ t.holdup = .saving ∧ t.reported = s.epoch ∧ t.epoch = s.epoch ∧ t.byteStart = 48000 * s.usTrigger ∧ t.store = [] ∧ t.records = [] ∧ t.threads = [] ∧ t.wgs = [] ∧
      t.storing = (s.quiesce.saveList true ++ s.quiesce.saveList false).map s.quiesce.savedOf ∧ t.eops = [] ∧ t.grants = s.grants ∧ t.lineage = s.lineage ∧ t.xidx = s.xidx) ∧
    (s.allWritten = true ↔ savedBytes (s.toStore false) < 48000 * (s.usTrigger + 1) - s.byteStart) ∧
    (s.bestWritten = true ↔ savedBytes (s.toStore true) < min (48000 * (s.usTrigger + 1) - s.byteStart) (48000 * 19700 - s.byteStart)) ∧
    (s.holdup = .saving →
      (s.allWritten = true → exec .guaranteedSaveComplete s = .next { s with
        holdup := .bestEffort, byteStart := s.byteStart + savedBytes (s.toStore false), store := s.store ++ s.toStore false }) ∧
      (s.allWritten = false → exec .guaranteedSaveComplete s = .next s)) ∧
    (s.holdup = .bestEffort →
      (s.bestWritten = true ∨ s.toStore true = [] → exec .bestEffortEnd s = .next { s with holdup := .recording, storing := [], store := s.store ++ s.toStore true }) ∧
      (s.bestWritten = false → 19700 ≤ s.usTrigger →
        exec .bestEffortEnd s = .next { s with
          holdup := .recording, storing := [], store := s.store ++ cutRegions (48000 * 19700 - s.byteStart) (s.toStore true) }) ∧
      (s.bestWritten = false → s.toStore true ≠ [] → s.usTrigger < 19700 → exec .bestEffortEnd s = .next s)) ∧
    (s.holdup = .recording → exec .restartRecordsComplete s = .next
      { s with records := (s.grants.filter fun p => !(s.part p).keeps.isEmpty).map fun p => (p, (s.part p).hutag) }.dark)) ∧
  (∀ (n : Nat) (l : List Saved), ∃ k, (k = 0 ∨ savedBytes (l.take k) < n) ∧ (k < l.length → n ≤ savedBytes (l.take (k + 1))) ∧
    cutRegions n l = l.take k ++ ((l.drop k).head?.toList.map fun x => { x with whole := false, body := [] })) ∧
  (∀ (s : State), s.dark.store = s.store ∧ s.dark.records = s.records ∧ s.dark.lineage = s.lineage ∧ s.dark.xidx = s.xidx ∧ s.dark.epoch = s.epoch ∧ s.dark.reported = s.reported ∧
    s.dark.ready = [] ∧ s.dark.holdup = .off ∧ s.dark.wgs = [] ∧ s.dark.threads = [] ∧ s.dark.gmap = [] ∧ s.dark.vfmap = [] ∧ s.dark.parts = State.reset.parts ∧
    s.dark.hostMem = s.hostMem ∧ ∀ a, a < physSpan → getByte s.dark.mem a = 0) ∧
  (∀ (s : State), s.holdup = .off → s.ready = [] → exec .powerUp s = .next { s.dark with supply := true }) ∧
  (∀ (s : State) (u : Nat), s.supply = true → u < 17 → (∀ v, v < u → v ∈ s.ready) → u ∉ s.ready →
    (u = 2 → exec .unitReady s = .next s) ∧
    (u ≠ 2 → ∃ t, exec .unitReady s = .next t ∧ t.ready = s.ready ++ [u] ∧ t.holdup = (if u = 1 then .charging else s.holdup) ∧ t.mem = s.mem ∧ t.parts = s.parts ∧
      (3 ≤ u → u ≤ 6 → t.gmapOf (192 * (u - 3) + 191) = 0xE) ∧ (11 ≤ u → u ≤ 14 → ∀ j, j < 4 → lookupD t.clkZero (4 * (u - 11) + j) 0 = s.sliceClk))) ∧
  (∀ (s : State),
    (∃ t, exec (.hmEvent 0) s = .next t ∧ t.corrected = s.corrected + 1 ∧ t.risk = min 65535 (s.risk + s.hmWeight 0)) ∧
    (∃ t, exec (.hmEvent 1) s = .next t ∧ t.droops = s.droops + 1 ∧ t.risk = min 65535 (s.risk + s.hmWeight 1)) ∧
    (∃ t, exec (.hmEvent 3) s = .next t ∧ t.retrains = s.retrains + 1 ∧ t.risk = min 65535 (s.risk + s.hmWeight 3)) ∧
    (2 ^ 20 ≤ s.monClk → ∃ t, exec .hmDecay s = .next t ∧ t.monClk = s.monClk - 2 ^ 20 ∧ t.risk = min 65535 (s.risk - s.risk / 16)) ∧
    (s.monClk < 2 ^ 20 → exec .hmDecay s = .next s) ∧
    (∀ temp, s.sampleClk < 2 ^ 20 → exec (.hmTempSample temp) s = .next s) ∧
    (∀ temp, 2 ^ 20 ≤ s.sampleClk → temp ≤ 760 → exec (.hmTempSample temp) s = .next { s with hottest := temp, sampleClk := s.sampleClk - 2 ^ 20 }) ∧
    (∀ temp, 2 ^ 20 ≤ s.sampleClk → 760 < temp → ∃ t, exec (.hmTempSample temp) s = .next t ∧ t.hottest = temp ∧ t.risk = min 65535 (s.risk + s.hmWeight 2)))

/-- Measurements, images, restores and the lineage counters. A `seal` operation without an uncorrectable block completes: a block that is not taken leaves its predicate false and no trace, a taken one becomes a job of its issuer. A measurement job hashes its bytes into the measurement. While the links are open, a peer's request with a greater counter raises this device's counter and is acknowledged, any other is answered with the counter held; an attestation raises the counter and never lowers it; an acknowledgement of a designated peer is counted once, and at the quorum the image becomes valid; a peer's counter not below the job's ends it with result 7. While the links are closed, or while the seal engine or both fabric ports are not ready, these change nothing (the model's reading of R427 and R442, log 36). The hash that a lineage gets from a peer, and what a full table answers, are the model's choices (log 20). A new block that meets one of a command in flight leaves the fields of both undefined. No quorum in time ends the job with result 1. -/
def Obligations.SealEngine : Prop :=
  let sealOpen (s : State) : Bool := s.linksOpen && s.ready.contains 1 && (s.ready.contains 15 || s.ready.contains 16)
  (∀ (o : Op) (op : Nat) (s : State), op < 3 →
    let caps := s.captureBlk o
    let x := (s.effective caps).foldl (State.sealLane op) (s, [])
    Acts s caps → (∀ c ∈ caps, (s.wg s.cur.wg).lsBad c.a 128 = false) →
    exec (if op == 0 then .sealMeas o else if op == 1 then .sealImg o else .sealRst o) s = .next ((x.1.updIssue fun t =>
      if (lanesOf caps).contains t.lane then t.setPred o.d2 ((x.2.flatMap fun l => s.copies l).contains t.lane) else t).advance)) ∧
  (∀ (s : State) (op : Nat) (c : Cap),
    (s.sealTaken op s.cur.wg c.a = false → State.sealLane op (s, []) c = (s, [])) ∧
    (s.sealTaken op s.cur.wg c.a = true → op ≠ 1 →
      let y := s.claimBlock s.cur.wg c.a 128 s.uid
      State.sealLane op (s, []) c = ({ y.1 with uid := s.uid + 1, seals := y.1.seals ++ [{ uid := s.uid, op := op, by_ := s.issuer c.lane, part := s.curPart, blk := c.a, block := s.blockAt s.cur.wg c.a 128, pubs := s.knownBy c.lane, spoiled := y.2 }] }, [c.lane]))) ∧
  (∀ (s : State) (job : Nat) (j : SealJob), s.sealJob job = some j →
    (j.op = 0 → ∃ t : State, exec (.sealEngineDone job) s = .next (t.sealMeas j) ∧ t = { s with tlb := t.tlb, hot := t.hot }) ∧
    (j.op = 2 → ∃ t : State, exec (.sealEngineDone job) s = .next (t.sealRst j) ∧ t = { s with tlb := t.tlb, hot := t.hot }) ∧
    (∀ bs, s.sealRead j (sealOf j.block).src (sealOf j.block).len = some bs →
      s.sealMeas j = (s.updPart j.part fun q => { q with meas := shake256 (q.meas ++ shake256 bs 64) 64 }).sealFinish j 0 none) ∧
    (j.waiting = true → j.due ≤ s.sealClk → exec (.sealTmoExpiry job) s = .next (s.sealFinish j 1 none)) ∧
    (j.waiting = false ∨ s.sealClk < j.due → exec (.sealTmoExpiry job) s = .next s) ∧
    (∀ (dev : Nat) (n : DWord), sealOpen s = true → j.waiting = true → dev ∈ j.peers → dev ∉ j.acks →
      let j1 := { j with acks := dev :: j.acks }
      let s1 := { s with seals := s.seals.map fun x => if x.uid == job then { x with acks := dev :: j.acks } else x }
      ((sealOf j.block).quorum ≤ j.acks.length + 1 → exec (.sealAckReceived job dev n true) s = .next (s1.sealDone j1)) ∧
      (j.acks.length + 1 < (sealOf j.block).quorum → exec (.sealAckReceived job dev n true) s = .next s1) ∧
      (j.c ≤ n → ∃ c, s.lineCounter (sealOf j.block).lin ≤ c ∧ n ≤ c ∧ exec (.sealAckReceived job dev n false) s = .next ((s.setCounter (sealOf j.block).lin s.freeHash c).sealFinish j 7 none))) ∧
    (∀ (dev : Nat) (n : DWord) (ack : Bool), (sealOpen s = false ∨ j.waiting = false ∨ dev ∉ j.peers ∨ dev ∈ j.acks) → exec (.sealAckReceived job dev n ack) s = .next s)) ∧
  (∀ (s : State) (dev : Nat) (lin : BitVec 128) (c : DWord),
    (sealOpen s = false → exec (.sealPeerRequest dev lin c) s = .next s ∧ exec (.sealAttestationReceived lin c) s = .next s) ∧
    (sealOpen s = true → s.lineCounter lin < c → s.lineRoom lin = true → ∃ t, exec (.sealPeerRequest dev lin c) s = .next t ∧ t.lineCounter lin = c ∧
      t.outbox = s.outbox ++ [Msg.sealAck dev lin c true] ∧ ∀ l, l ≠ lin → t.lineCounter l = s.lineCounter l) ∧
    (sealOpen s = true → c ≤ s.lineCounter lin →
      exec (.sealPeerRequest dev lin c) s = .next { s with outbox := s.outbox ++ [Msg.sealAck dev lin (s.lineCounter lin) false] })) ∧
  (∀ (s : State) (lin : BitVec 128) (c : DWord), sealOpen s = true → ∃ ln, exec (.sealAttestationReceived lin c) s = .next { s with lineage := ln } ∧
    (s.lineRoom lin = true → ({ s with lineage := ln } : State).lineCounter lin = if s.lineCounter lin < c then c else s.lineCounter lin) ∧
    ∀ l, l ≠ lin → ({ s with lineage := ln } : State).lineCounter l = s.lineCounter l)

/-- The f32 atomic maximum and minimum. With a NaN on either side an f32 atomic max or min stores the canonical NaN; otherwise it stores one of the two operands unchanged, the larger or the smaller in the order of the real numbers and the infinities, in which -0 is less than +0. -/
def Obligations.AtomicExtrema : Prop :=
  ∀ (x y z : Word),
    let nan (u : Word) : Prop := 0x7F800000 < u.toNat % 2 ^ 31
    let key (u : Word) : Int := if u.msb then -((u.toNat % 2 ^ 31 : Nat) : Int) - 1 else ((u.toNat % 2 ^ 31 : Nat) : Int)
    (nan x ∨ nan y → atNew .max .f32 x.toNat y.toNat z.toNat = 0x7FC00000 ∧ atNew .min .f32 x.toNat y.toNat z.toNat = 0x7FC00000) ∧
    (¬ nan x → ¬ nan y →
      (key x ≤ key y → atNew .max .f32 x.toNat y.toNat z.toNat = y.toNat ∧ atNew .min .f32 x.toNat y.toNat z.toNat = x.toNat) ∧
      (key y ≤ key x → atNew .max .f32 x.toNat y.toNat z.toNat = x.toNat ∧ atNew .min .f32 x.toNat y.toNat z.toNat = y.toNat))

/-- Bit planes and fp4 expand to their values. The first k planes of an element of value v, for k from 2 to 8, give floor(v / 2^(8 - k)); a `gcp` of planes with another count raises a parameter error. Each fp4 code expands to its k6 code, a negative one to the positive image plus 0x20, and both are codes of the same value. -/
def Obligations.BitPlanesAndFp4 : Prop :=
  (∀ (planes : List (List Byte)) (base i : Nat) (v : Int), 2 ≤ planes.length → planes.length ≤ 8 → -128 ≤ v → v < 128 → base / 8 ≤ i / 8 →
    (∀ j p, planes[j]? = some p → ∃ x, p[i / 8 - base / 8]? = some x ∧ bitAt x.toNat (i % 8) = bitAt (v % 256).toNat (7 - j)) →
    planeElem planes base i = v / 2 ^ (8 - planes.length)) ∧
  (∀ (s : State) (w x : Nat), (gblockOf x).sfmt = 9 → (gblockOf x).nplane < 2 ∨ 8 < (gblockOf x).nplane → s.gougeFields .gcp w x ≠ none) ∧
  ((List.range 16).map k6OfFp4 = [0x00, 0x01, 0x02, 0x03, 0x04, 0x06, 0x0C, 0x0E, 0x20, 0x21, 0x22, 0x23, 0x24, 0x26, 0x2C, 0x2E]) ∧
  ((List.range 16).map (fun c => (Fmt.f32.ofVal .rn (Fmt.fp4.decode c)).bits) = (List.range 16).map fun c => (Fmt.f32.ofVal .rn (formVal 0 (k6OfFp4 c))).bits) ∧
  ((List.range 8).map (fun c => (Fmt.f32.ofVal .rn (Fmt.fp4.decode c)).bits) = [0, 0x3F000000, 0x3F800000, 0x3FC00000, 0x40000000, 0x40400000, 0x40800000, 0x40C00000])
end

