-- ==== Sys2Proof/Laws/Threads.lean ====
section
/-! SUPPORT. What the shared thread operations do: updates of threads, meetings, advancing, and THE shape of a register-to-register
instruction. -/

namespace Sys2Proof.Laws

open Sys2Proof.Machine Sys2Proof.Safety

theorem Moved.refl (a : Thread) : Moved a a := ⟨rfl, .inl rfl, .inl rfl, .inl rfl⟩

/-- An update relates every element to its image. -/
theorem updWhere_forall₂ {α : Type} (p : α → Bool) (f : α → α) (l : List α) :
    List.Forall₂ (fun a b => b = if p a then f a else a) l (updWhere p f l) := by
  unfold updWhere
  induction l with
  | nil => exact .nil
  | cons a l ih => exact .cons rfl ih

theorem updWhere_comp {α : Type} (p q : α → Bool) (f g : α → α) (l : List α) :
    updWhere q g (updWhere p f l) = l.map fun a => (fun b => if q b then g b else b) (if p a then f a else a) := by
  simp [updWhere, List.map_map, Function.comp_def]

theorem forall₂_map_same {α β : Type} {R : α → β → Prop} (f : α → β) (l : List α) (h : ∀ a ∈ l, R a (f a)) :
    List.Forall₂ R l (l.map f) := by
  induction l with
  | nil => exact .nil
  | cons a l ih => exact .cons (h a (by simp)) (ih fun b hb => h b (by simp [hb]))

/-- 01 R17, R21: a meeting moves no program counter: it changes the states and meeting addresses of threads alone. -/
theorem settle_threads (s : State) (w g : Nat) :
    List.Forall₂ (fun u u' => Moved u u' ∧ u'.pc = u.pc ∧ u'.past = u.past ∧ u'.skipBkpt = u.skipBkpt) s.threads (s.settle w g).threads := by
  unfold State.settle
  split
  · exact List.forall₂_same.2 fun u _ => ⟨Moved.refl u, rfl, rfl, rfl⟩
  simp only [updWhere_comp]
  refine forall₂_map_same _ _ fun u _ => ?_
  split_ifs with h1 h2 h2
  · refine ⟨⟨rfl, ?_, .inr rfl, .inl rfl⟩, rfl, rfl, rfl⟩
    simp only [Bool.and_eq_true, beq_iff_eq] at h1
    exact .inl h1.1.1.2.symm
  · refine ⟨⟨rfl, ?_, .inl rfl, .inl rfl⟩, rfl, rfl, rfl⟩
    simp only [Bool.and_eq_true, beq_iff_eq] at h1
    exact .inr (.inl ⟨h1.1.1.2, rfl⟩)
  · refine ⟨⟨rfl, ?_, .inr rfl, .inl rfl⟩, rfl, rfl, rfl⟩
    simp only [Bool.and_eq_true, beq_iff_eq] at h2
    exact .inr (.inr ⟨h2.1.2, rfl⟩)
  · exact ⟨Moved.refl _, rfl, rfl, rfl⟩

/-- A meeting changes threads alone. -/
theorem settle_frame (s : State) (w g : Nat) : s.settle w g = { s with threads := (s.settle w g).threads } := by
  unfold State.settle
  split <;> rfl

/-- 15 R385: while a return from a trap is in progress, meetings do nothing. -/
theorem settle_returning (s : State) (w g : Nat) (h : (s.gang w g).returning = true) : s.settle w g = s := by simp [State.settle, h]

/-- What an update of some threads and then a meeting come to. -/
theorem updThreads_settle (s : State) (p : Thread → Bool) (f : Thread → Thread) (w g : Nat) :
    List.Forall₂ (fun u u' => Moved (if p u then f u else u) u' ∧ u'.pc = (if p u then f u else u).pc ∧ u'.past = (if p u then f u else u).past ∧
      u'.skipBkpt = (if p u then f u else u).skipBkpt) s.threads ((s.updThreads p f).settle w g).threads :=
  List.forall₂_map_left_iff.1 (settle_threads (s.updThreads p f) w g)

theorem Moved.goto {a b : Thread} {pc : DWord} {past : Bool} (h : Moved (a.goto pc past) b) : Moved a b := by
  obtain ⟨h1, h2, h3, h4⟩ := h
  refine ⟨?_, h2, h3, ?_⟩
  · rw [h1]; rfl
  · exact .inr (h4.elim (fun h => h) fun h => h)

/-- An instruction that advances: its threads stand after it, and nothing else of them changes but by meetings. -/
theorem advance_threads (s : State) :
    List.Forall₂ (fun u u' => Moved u u' ∧ (u'.pc, u'.past) = nextPlace s u) s.threads s.advance.threads := by
  unfold State.advance nextPlace
  by_cases hr : s.cur.replay = true
  · simp only [hr, if_true, Bool.not_true, Bool.and_false]
    exact List.forall₂_same.2 fun u _ => ⟨Moved.refl u, rfl⟩
  · simp only [hr]
    refine (updThreads_settle s s.inIssue (fun t => t.goto s.cur.next s.cur.past) s.cur.wg s.cur.gang).imp ?_
    intro u u' ⟨h1, h2, h3, _⟩
    by_cases hi : s.inIssue u
    · simp only [hi, if_true] at h1 h2 h3 ⊢
      exact ⟨Moved.goto h1, by rw [h2, h3]; rfl⟩
    · simp only [hi] at h1 h2 h3 ⊢
      exact ⟨h1, by rw [h2, h3]; rfl⟩

theorem advance_frame (s : State) : s.advance = { s with threads := s.advance.threads } := by
  unfold State.advance
  split
  · rfl
  · rw [settle_frame]
    rfl

/-- An advance after an update of the issue that moves no thread between issues. -/
theorem written_advance (s t : State) (f : Thread → Thread) (ht : t.threads = updWhere s.inIssue f s.threads) (hc : t.cur = s.cur)
    (hf : ∀ u, (f u).wg = u.wg ∧ (f u).gang = u.gang ∧ (f u).lane = u.lane ∧ (f u).pc = u.pc ∧ (f u).past = u.past) :
    List.Forall₂ (fun u u' => Moved (if s.inIssue u then f u else u) u' ∧ (u'.pc, u'.past) = nextPlace s u) s.threads t.advance.threads := by
  have h := advance_threads t
  rw [ht] at h
  refine (List.forall₂_map_left_iff.1 h).imp fun u u' ⟨h1, h2⟩ => ⟨h1, ?_⟩
  rw [h2]
  have hi : ∀ u, t.inIssue u = s.inIssue u := fun u => by simp [State.inIssue, hc]
  unfold nextPlace
  rw [hc, hi]
  by_cases hu : s.inIssue u
  · have hfu : s.inIssue (f u) = true := by
      obtain ⟨a, b, c, _⟩ := hf u
      simpa [State.inIssue, a, b, c] using hu
    simp [hu, hfu, (hf u).2.2.2]
  · simp [hu]

/-- The value that results give a lane is that of the lane's first capture. -/
theorem laneVal_map (caps : List Cap) (f : Cap → Nat × Bool) (lane : Nat) :
    laneVal (caps.map fun c => (c.lane, f c)) lane = (caps.find? fun c => c.lane == lane).map f := by
  induction caps with
  | nil => rfl
  | cons c l ih =>
    simp only [List.map_cons, laneVal, List.find?_cons]
    by_cases h : c.lane = lane
    · simp [h]
    · simp [beq_eq_false_iff_ne.2 h, h, ih]

/-- A write of results that keeps whose a thread is and where it stands. -/
def Keeps (write : Thread → Nat → Bool → Thread) : Prop :=
  ∀ u x y, (write u x y).wg = u.wg ∧ (write u x y).gang = u.gang ∧ (write u x y).lane = u.lane ∧ (write u x y).pc = u.pc ∧
    (write u x y).past = u.past

/-- 01 R30: a push changes the slices alone. -/
theorem push_frame (s : State) (v : List LatchVal) : s.push v = { s with slices := (s.push v).slices } := by
  unfold State.push State.updSlice
  dsimp only
  split
  · rfl
  · split <;> rfl

/-- 01 R30: what a push does to the slices does not look at the threads. -/
theorem push_slices (s : State) (th : List Thread) (v : List LatchVal) : (State.push { s with threads := th } v).slices = (s.push v).slices := by
  have hs : State.sliceOf { s with threads := th } s.cur.wg s.cur.gang = s.sliceOf s.cur.wg s.cur.gang := rfl
  have hw : State.wg { s with threads := th } s.cur.wg = s.wg s.cur.wg := rfl
  have hg : State.gang { s with threads := th } s.cur.wg s.cur.gang = s.gang s.cur.wg s.cur.gang := rfl
  unfold State.push State.updSlice
  simp only [hs, hw, hg]
  cases (s.gangs.any fun x => x.wg == s.cur.wg && x.idx == s.cur.gang) <;>
    cases (s.sliceOf s.cur.wg s.cur.gang).isSome <;> rfl

/-- Everything the shape of a register-to-register instruction can do when the checkers have not mismatched twice. -/
theorem aluBy_next (s : State) (o : Op) (src : Thread → Cap) (push : Bool) (f : Nat → Nat → Nat → Nat × Bool)
    (write : Thread → Nat → Bool → Thread) (hw : Keeps write) (hm : s.cur.mism < 2) :
    ∃ th, s.aluBy o src push f write =
        { s with threads := th, slices := pushed s (s.captureBy o.guard src) (fun c => (f c.a c.b c.c).1) (if push then some o else none) } ∧
      Threads s (written s (s.captureBy o.guard src) fun u c =>
        write u (settleBoth o s.cur.word c (f c.a c.b c.c)).1 (settleBoth o s.cur.word c (f c.a c.b c.c)).2) (nextPlace s) th := by
  have hm' : ¬ (s.cur.mism ≥ 2) := by omega
  unfold State.aluBy State.checked
  simp only [hm', decide_false, Bool.false_and]
  set caps := s.captureBy o.guard src
  set res := caps.map fun c => (c.lane, settleBoth o s.cur.word c (f c.a c.b c.c)) with hres
  set s1 := s.writeLanes res write with hs1
  have key : ∀ t : State, t.threads = s1.threads → t.cur = s.cur →
      Threads s (written s caps fun u c =>
        write u (settleBoth o s.cur.word c (f c.a c.b c.c)).1 (settleBoth o s.cur.word c (f c.a c.b c.c)).2) (nextPlace s) t.advance.threads := by
    intro t ht hc
    refine (written_advance s t _ ht hc ?_).imp fun u u' ⟨h1, h2⟩ => ⟨?_, h2⟩
    · intro u
      split
      · exact hw _ _ _
      · exact ⟨rfl, rfl, rfl, rfl, rfl⟩
    · unfold written
      rw [hres, laneVal_map] at h1
      cases hfind : caps.find? (fun c => c.lane == u.lane) with
      | none => simpa [hfind] using h1
      | some c => simpa [hfind] using h1
  cases push with
  | false =>
    refine ⟨s1.advance.threads, ?_, key s1 rfl rfl⟩
    simp only [Bool.false_eq_true, if_false]
    rw [advance_frame]
    rfl
  | true =>
    set vals := caps.map fun c => (c.lane, f c.a c.b c.c) with hvals
    refine ⟨(s1.pushLanes o vals).advance.threads, ?_, key _ ?_ ?_⟩
    · simp only [if_true]
      rw [advance_frame, State.pushLanes, push_frame s1]
      have : (s1.push (vals.map fun r => { lane := r.1, wide := o.wide, x := r.2.1 })).slices =
          (s.push (caps.map fun c => { lane := c.lane, wide := o.wide, x := (f c.a c.b c.c).1 })).slices := by
        rw [hvals, List.map_map]
        exact push_slices s s1.threads _
      simp only [this, pushed]
      rfl
    · rw [State.pushLanes, push_frame]
    · rw [State.pushLanes, push_frame]
      rfl

/-! ### What a write to a thread leaves alone -/

/-- A thread with the identity and the place of another. -/
def SamePlace (t u : Thread) : Prop := u.wg = t.wg ∧ u.gang = t.gang ∧ u.lane = t.lane ∧ u.pc = t.pc ∧ u.past = t.past

theorem SamePlace.refl (t : Thread) : SamePlace t t := ⟨rfl, rfl, rfl, rfl, rfl⟩

theorem SamePlace.trans {a b c : Thread} (h : SamePlace a b) (g : SamePlace b c) : SamePlace a c := by
  obtain ⟨h1, h2, h3, h4, h5⟩ := h
  obtain ⟨g1, g2, g3, g4, g5⟩ := g
  exact ⟨g1.trans h1, g2.trans h2, g3.trans h3, g4.trans h4, g5.trans h5⟩

theorem samePlace_setVs (k : Nat) : ∀ (t : Thread) (n x : Nat), SamePlace t (Thread.setVs t n k x) := by
  induction k with
  | zero => exact fun t _ _ => SamePlace.refl t
  | succ k ih => exact fun t n x => SamePlace.trans ⟨rfl, rfl, rfl, rfl, rfl⟩ (ih (t.setV n (BitVec.ofNat 32 x)) (n + 1) (x / 2 ^ 32))

theorem samePlace_setPred (t : Thread) (n : Nat) (b : Bool) : SamePlace t (t.setPred n b) := by
  unfold Thread.setPred
  split <;> exact ⟨rfl, rfl, rfl, rfl, rfl⟩

theorem samePlace_setPreds (k : Nat) : ∀ (t : Thread) (n x : Nat), SamePlace t (Thread.setPreds t n x k) := by
  induction k with
  | zero => exact fun t _ _ => SamePlace.refl t
  | succ k ih => exact fun t n x => (samePlace_setPred _ _ _).trans (ih _ _ _)

theorem samePlace_writeDst (t : Thread) (o : Op) (w x : Nat) : SamePlace t (t.writeDst o w x) := by
  unfold Thread.writeDst
  split
  · exact samePlace_setVs _ _ _ _
  · exact samePlace_setPred _ _ _
  · exact SamePlace.refl t
  · exact SamePlace.refl t

/-- A write of both destinations keeps identity and place. -/
theorem keeps_writeBoth (o : Op) : Keeps (writeBoth o) := fun _ _ _ => (samePlace_writeDst _ _ _ _).trans (samePlace_setPred _ _ _)

/-- An instruction whose meaning is `alu` computes (06 R157 to R159). -/
theorem computesOp_of_alu (i : Instr) (o : Op) (k : Kinds) (p : Bool) (f : Nat → Nat → Nat → Nat × Bool)
    (h : ∀ s, exec i s = .next (s.alu o k p f)) : ComputesOp i o k p f := by
  intro s hm
  obtain ⟨th, h1, h2⟩ := aluBy_next s o (s.sources k o.a o.b o.c) p f (writeBoth o) (keeps_writeBoth o) hm
  exact ⟨th, (h s).trans (congrArg _ h1), h2⟩

end Sys2Proof.Laws
end

