-- ==== Sys2Proof/Laws/Access.lean ====
section
/-! SUPPORT. The shared frames of instructions with an effect beyond registers: what each of them comes to where its checks pass. -/

namespace Sys2Proof.Laws

open Sys2Proof.Machine Sys2Proof.Safety

/-- Where the checkers have not mismatched twice, an instruction goes on. -/
theorem checked_of_mism {s : State} (caps : List Cap) (k : State → State) (h : s.cur.mism < 2) : s.checked caps k = k s := by
  have : ¬ s.cur.mism ≥ 2 := by omega
  simp [State.checked, this]

/-- 15 R395, R397: where an instruction acts, `acting` is the action. -/
theorem acting_of_acts {s : State} {caps : List Cap} (k : State → State) (h : Acts s caps) : s.acting caps k = k s := by
  unfold State.acting
  rw [checked_of_mism _ _ h.1]
  simp [State.shadowed, h.2]

/-- 04 R119, R125: a release side whose commit point can be applied whole. -/
theorem releasing_of_commits {s : State} {order : Order} {scope : Scope} {lanes : List Nat} (k : State → State) (h : Commits s order scope lanes) :
    s.releasing order scope lanes k = k (released s order scope lanes) := by
  unfold State.releasing released
  cases lanes with
  | nil => rfl
  | cons a r =>
    have h1 := h (by simp)
    simp [h1]

/-- 09 R245: addresses that pass meet no fault. -/
theorem failed_of_passes {f : Cap → Except Nat Place} {addr : Cap → Nat} {caps : List Cap} (h : Passes f caps) : failed f addr caps = [] := by
  unfold failed
  rw [List.filterMap_eq_nil_iff]
  intro c hc
  obtain ⟨p, hp⟩ := h c hc
  simp [hp]

/-- 09 R245: an access whose addresses pass goes on. -/
theorem withPlaces_of_passes {s : State} {sp : Space} {acc : Acc} {n : Nat} {addr : Cap → Nat} {caps : List Cap} (k : State → List LaneRef → State)
    (h : Passes (fun c => s.place sp acc s.cur.wg (addr c) n) caps) :
    s.withPlaces sp acc n addr caps k = k (s.cacheLanes sp addr caps) (placed (fun c => s.place sp acc s.cur.wg (addr c) n) caps) := by
  simp only [State.withPlaces, failed_of_passes h, lowestFault]

/-- 03 R89: lanes that read no uncorrectable word go on. -/
theorem unpoisoned_of_none {s : State} {f : Cap → Except Nat Place} {n : Nat} {caps : List Cap} (k : State → State) (h : NonePoisoned s f n caps) :
    s.unpoisoned n (placed f caps) k = k s := by
  unfold State.unpoisoned
  apply if_neg
  rw [Bool.not_eq_true, List.any_eq_false]
  intro r hr
  unfold placed at hr
  obtain ⟨c, hc, hm⟩ := List.mem_filterMap.mp hr
  cases hp : f c with
  | error e => simp [hp] at hm
  | ok p =>
    simp only [hp, Option.some.injEq] at hm
    subst hm
    cases p with
    | loc w off => simp [h c hc w off hp]
    | mem => simp
    | win => simp

/-- 10 R277: an engine command whose blocks pass and are readable goes on. -/
theorem withBlocks_of_ok {s : State} {caps : List Cap} {al n : Nat} {check : Cap → Option Nat} (k : State → State)
    (hc : ∀ c ∈ caps, check c = none) (hb : ∀ c ∈ caps, (s.wg s.cur.wg).lsBad c.a n = false)
    (more : Cap → List (Nat × Nat) := fun _ => []) (touch : State → Cap → State := fun s _ => s)
    (hr : ∀ c ∈ caps, ∀ r ∈ more c, (s.wg s.cur.wg).lsBad r.1 r.2 = false) :
    s.withBlocks caps al n check k more touch = k (caps.foldl touch s) := by
  unfold State.withBlocks
  have h1 : (caps.any fun c => (s.wg s.cur.wg).lsBad c.a n) = false := by
    rw [List.any_eq_false]
    intro c h
    simp [hb c h]
  have h2 : (caps.filterMap fun c => (check c).map fun x => (c.lane, x, BitVec.ofNat 64 c.a)) = [] := by
    rw [List.filterMap_eq_nil_iff]
    intro c h
    simp [hc c h]
  have h3 : (caps.any fun c => (more c).any fun r => (s.wg s.cur.wg).lsBad r.1 r.2) = false := by
    simp only [List.any_eq_false, Bool.not_eq_true]
    exact hr
  simp only [h1, Bool.and_false, Bool.false_eq_true, if_false, h2, lowestFault, h3]

/-- 03 R104, 09 R263: phase objects whose addresses pass. -/
theorem withObjs_of_passes {s : State} {sp : Space} {acc : Acc} {caps : List Cap} (k : State → List LaneRef → State) (hv : sp ≠ .ver ∨ acc ≠ .write)
    (h : Passes (fun c => s.placeObj sp acc c.a) caps) :
    s.withObjs sp acc caps k = k (s.cacheLanes sp (fun c => c.a) caps) (placed (fun c => s.placeObj sp acc c.a) caps) := by
  have hf : (fun c : Cap => if sp == .ver && acc == .write then Except.error 0x1C else s.placeObj sp acc c.a) = fun c => s.placeObj sp acc c.a := by
    funext c
    have : (sp == .ver && acc == .write) = false := by
      rcases hv with h | h <;> simp [h]
    simp [this]
  unfold State.withObjs
  simp only [hf, failed_of_passes h, lowestFault]

end Sys2Proof.Laws
end

