-- ==== Sys2Proof/Laws/Memory.lean ====
section
/-! SUPPORT. Memories: every operation keeps the canonical form, and a read after a write gives what was written there and what stood
elsewhere. -/

namespace Sys2Proof.Machine

open Host (Cell)

theorem Memory.wfFrom_mono {lo hi : Nat} (h : lo ≤ hi) : ∀ {m : List Cell}, Memory.wfFrom hi m = true → Memory.wfFrom lo m = true
  | [], _ => rfl
  | (a, b) :: m, w => by
    simp only [Memory.wfFrom, Bool.and_eq_true, decide_eq_true_eq] at w ⊢
    exact ⟨⟨by omega, w.1.2⟩, w.2⟩

/-- An address below every cell is unlisted. -/
theorem Memory.getByte_below {x : Nat} : ∀ {m : List Cell} {lo : Nat}, Memory.wfFrom lo m = true → x < lo → getByte m x = emptyByte
  | [], _, _, _ => rfl
  | (a, b) :: m, lo, w, h => by
    simp only [Memory.wfFrom, Bool.and_eq_true, decide_eq_true_eq] at w
    have : a ≠ x := by omega
    simp only [getByte, this, if_false]
    exact Memory.getByte_below w.2 (by omega)

/-- Writing a byte keeps the canonical form. -/
theorem Memory.wfFrom_setByte {x : Nat} {y : Byte} : ∀ {m : List Cell} {lo : Nat}, Memory.wfFrom lo m = true → lo ≤ x →
    Memory.wfFrom lo (setByte m x y) = true
  | [], lo, _, h => by
    simp only [setByte]
    split
    · rfl
    · simp [Memory.wfFrom, *]
  | (a, b) :: m, lo, w, h => by
    have w0 := w
    simp only [Memory.wfFrom, Bool.and_eq_true, decide_eq_true_eq] at w
    simp only [setByte]
    by_cases h1 : x < a
    · simp only [h1, if_true]
      split
      · exact w0
      · simp only [Memory.wfFrom, Bool.and_eq_true, decide_eq_true_eq]
        exact ⟨⟨h, ‹_›⟩, ⟨by omega, w.1.2⟩, w.2⟩
    · simp only [h1, if_false]
      by_cases h2 : x = a
      · simp only [h2, if_true]
        split
        · exact Memory.wfFrom_mono (by omega) w.2
        · simp only [Memory.wfFrom, Bool.and_eq_true, decide_eq_true_eq]
          exact ⟨⟨w.1.1, ‹_›⟩, w.2⟩
      · simp only [h2, if_false, Memory.wfFrom, Bool.and_eq_true, decide_eq_true_eq]
        exact ⟨w.1, Memory.wfFrom_setByte w.2 (by omega)⟩

/-- Read after write: the byte written, and every other byte as it stood. -/
theorem Memory.getByte_setByte {x : Nat} {y : Byte} (z : Nat) : ∀ {m : List Cell} {lo : Nat}, Memory.wfFrom lo m = true →
    getByte (setByte m x y) z = if z = x then y else getByte m z
  | [], _, _ => by
    simp only [setByte]
    split <;> rename_i h
    · subst h; split <;> rfl
    · simp only [getByte, eq_comm (a := x)]
  | (a, b) :: m, lo, w => by
    simp only [Memory.wfFrom, Bool.and_eq_true, decide_eq_true_eq] at w
    simp only [setByte]
    by_cases h1 : x < a
    · simp only [h1, if_true]
      split <;> rename_i h
      · subst h
        split <;> rename_i hz
        · subst hz
          have : a ≠ z := by omega
          simp only [getByte, this, if_false]
          exact Memory.getByte_below w.2 (by omega)
        · rfl
      · simp only [getByte, eq_comm (a := x)]
    · simp only [h1, if_false]
      by_cases h2 : x = a
      · subst h2
        simp only [if_true]
        split <;> rename_i h
        · subst h
          by_cases hz : z = x
          · subst hz
            simp only [if_true]
            exact Memory.getByte_below w.2 (by omega)
          · have : x ≠ z := fun e => hz e.symm
            simp only [hz, if_false, getByte, this]
        · by_cases hz : z = x
          · subst hz; simp only [getByte, if_true]
          · have : x ≠ z := fun e => hz e.symm
            simp only [hz, if_false, getByte, this]
      · simp only [h2, if_false, getByte, Memory.getByte_setByte z w.2]
        by_cases hz : a = z
        · subst hz
          have : a ≠ x := fun e => h2 e.symm
          simp only [if_true, this, if_false]
        · simp only [hz, if_false]

theorem Memory.wfFrom_setBytes {lo : Nat} : ∀ {bs : List Byte} {m : List Cell} {x : Nat}, Memory.wfFrom lo m = true → lo ≤ x →
    Memory.wfFrom lo (setBytes m x bs) = true
  | [], _, _, w, _ => w
  | b :: bs, m, x, w, h => by
    have := Memory.wfFrom_setBytes (bs := bs) (x := x + 1) (Memory.wfFrom_setByte (y := b) w h) (by omega)
    exact this

/-- Writing a byte keeps the canonical form. -/
theorem Memory.wf_setByte {m : List Cell} {x : Nat} {y : Byte} (w : Memory.wf m = true) : Memory.wf (setByte m x y) = true :=
  Memory.wfFrom_setByte w (Nat.zero_le _)

/-- Writing bytes keeps the canonical form. -/
theorem Memory.wf_setBytes {m : List Cell} {x : Nat} {bs : List Byte} (w : Memory.wf m = true) : Memory.wf (setBytes m x bs) = true :=
  Memory.wfFrom_setBytes w (Nat.zero_le _)

/-- Writing a number keeps the canonical form. -/
theorem Memory.wf_setNum {m : List Cell} {x n v : Nat} (w : Memory.wf m = true) : Memory.wf (setNum m x n v) = true := Memory.wf_setBytes w

/-- Read after a write of bytes. -/
theorem Memory.getByte_setBytes (z : Nat) : ∀ {bs : List Byte} {m : List Cell} {x : Nat}, Memory.wf m = true →
    getByte (setBytes m x bs) z = if x ≤ z ∧ z < x + bs.length then (bs[z - x]?).getD 0 else getByte m z
  | [], m, x, _ => by
    have : ¬ (x ≤ z ∧ z < x + ([] : List Byte).length) := by simp only [List.length_nil]; omega
    rw [if_neg this]; rfl
  | b :: bs, m, x, w => by
    rw [setBytes, Memory.getByte_setBytes z (Memory.wf_setByte w), Memory.getByte_setByte z w]
    by_cases h : z = x
    · subst h; simp
    · by_cases h1 : x ≤ z ∧ z < x + (b :: bs).length
      · have h2 : x + 1 ≤ z ∧ z < x + 1 + bs.length := by simp only [List.length_cons] at h1; omega
        rw [if_pos h1, if_pos h2]
        have h3 : z - x = (z - (x + 1)) + 1 := by omega
        rw [h3, List.getElem?_cons_succ]
      · have h2 : ¬ (x + 1 ≤ z ∧ z < x + 1 + bs.length) := by simp only [List.length_cons] at h1; omega
        rw [if_neg h1, if_neg h2, if_neg h]

/-- Dropping cells keeps the canonical form (13 R344: a scrub). -/
theorem Memory.wfFrom_filter (p : Cell → Bool) : ∀ {m : List Cell} {lo : Nat}, Memory.wfFrom lo m = true → Memory.wfFrom lo (m.filter p) = true
  | [], _, _ => rfl
  | (a, b) :: m, lo, w => by
    simp only [Memory.wfFrom, Bool.and_eq_true, decide_eq_true_eq] at w
    simp only [List.filter]
    split
    · simp only [Memory.wfFrom, Bool.and_eq_true, decide_eq_true_eq]
      exact ⟨w.1, Memory.wfFrom_filter p w.2⟩
    · exact Memory.wfFrom_mono (by omega) (Memory.wfFrom_filter p w.2)

theorem Memory.wf_filter (p : Cell → Bool) {m : List Cell} (w : Memory.wf m = true) : Memory.wf (m.filter p) = true := Memory.wfFrom_filter p w

/-- A write at its home keeps the canonical form of package memory. -/
theorem State.wf_homeWrite (s : State) (pa : Nat) (bs : List Byte) (w : Memory.wf s.mem = true) : Memory.wf (s.homeWrite pa bs).mem = true :=
  Memory.wf_setBytes w

/-- The dirty bytes of a line written back keep the canonical form. -/
theorem Memory.wf_writeBack {m : List Cell} {l : RdcLine} (w : Memory.wf m = true) : Memory.wf (writeBack m l) = true := by
  unfold writeBack
  induction l.dirty generalizing m with
  | nil => exact w
  | cons i r ih => exact ih (Memory.wf_setByte w)

theorem Memory.wf_foldl_writeBack : ∀ {ls : List RdcLine} {m : List Cell}, Memory.wf m = true → Memory.wf (ls.foldl writeBack m) = true
  | [], _, w => w
  | l :: ls, m, w => by
    have := Memory.wf_foldl_writeBack (ls := ls) (Memory.wf_writeBack (l := l) w)
    exact this

/-- A write-back of lines keeps the canonical form of package memory. -/
theorem State.wf_rdcWriteBack (s : State) (p : RdcLine → Bool) (w : Memory.wf s.mem = true) : Memory.wf (s.rdcWriteBack p).mem = true :=
  Memory.wf_foldl_writeBack w

end Sys2Proof.Machine
end

