-- ==== Sys2Proof/Laws/State.lean ====
section
/-! SUPPORT. What each update of the machine leaves in each of its fields, one lemma per field per update. -/

namespace Sys2Proof.Machine

/-! ### `updWg` -/

@[simp] theorem State.updWg_agenda (s : State) (u : Nat) (f : Wg → Wg) : (s.updWg u f).agenda = s.agenda := rfl
@[simp] theorem State.updWg_tick (s : State) (u : Nat) (f : Wg → Wg) : (s.updWg u f).tick = s.tick := rfl
@[simp] theorem State.updWg_turns (s : State) (u : Nat) (f : Wg → Wg) : (s.updWg u f).turns = s.turns := rfl
@[simp] theorem State.updWg_since (s : State) (u : Nat) (f : Wg → Wg) : (s.updWg u f).since = s.since := rfl
@[simp] theorem State.updWg_owed (s : State) (u : Nat) (f : Wg → Wg) : (s.updWg u f).owed = s.owed := rfl
@[simp] theorem State.updWg_gloads (s : State) (u : Nat) (f : Wg → Wg) : (s.updWg u f).gloads = s.gloads := rfl
@[simp] theorem State.updWg_uid (s : State) (u : Nat) (f : Wg → Wg) : (s.updWg u f).uid = s.uid := rfl
@[simp] theorem State.updWg_cur (s : State) (u : Nat) (f : Wg → Wg) : (s.updWg u f).cur = s.cur := rfl
@[simp] theorem State.updWg_sliceClk (s : State) (u : Nat) (f : Wg → Wg) : (s.updWg u f).sliceClk = s.sliceClk := rfl
@[simp] theorem State.updWg_spindleClk (s : State) (u : Nat) (f : Wg → Wg) : (s.updWg u f).spindleClk = s.spindleClk := rfl
@[simp] theorem State.updWg_headClk (s : State) (u : Nat) (f : Wg → Wg) : (s.updWg u f).headClk = s.headClk := rfl
@[simp] theorem State.updWg_sealClk (s : State) (u : Nat) (f : Wg → Wg) : (s.updWg u f).sealClk = s.sealClk := rfl
@[simp] theorem State.updWg_monClk (s : State) (u : Nat) (f : Wg → Wg) : (s.updWg u f).monClk = s.monClk := rfl
@[simp] theorem State.updWg_sampleClk (s : State) (u : Nat) (f : Wg → Wg) : (s.updWg u f).sampleClk = s.sampleClk := rfl
@[simp] theorem State.updWg_clkZero (s : State) (u : Nat) (f : Wg → Wg) : (s.updWg u f).clkZero = s.clkZero := rfl
@[simp] theorem State.updWg_supply (s : State) (u : Nat) (f : Wg → Wg) : (s.updWg u f).supply = s.supply := rfl
@[simp] theorem State.updWg_ready (s : State) (u : Nat) (f : Wg → Wg) : (s.updWg u f).ready = s.ready := rfl
@[simp] theorem State.updWg_pcmdBusy (s : State) (u : Nat) (f : Wg → Wg) : (s.updWg u f).pcmdBusy = s.pcmdBusy := rfl
@[simp] theorem State.updWg_pcmdResult (s : State) (u : Nat) (f : Wg → Wg) : (s.updWg u f).pcmdResult = s.pcmdResult := rfl
@[simp] theorem State.updWg_pcmdPart (s : State) (u : Nat) (f : Wg → Wg) : (s.updWg u f).pcmdPart = s.pcmdPart := rfl
@[simp] theorem State.updWg_pcmdCmd (s : State) (u : Nat) (f : Wg → Wg) : (s.updWg u f).pcmdCmd = s.pcmdCmd := rfl
@[simp] theorem State.updWg_pcmdLost (s : State) (u : Nat) (f : Wg → Wg) : (s.updWg u f).pcmdLost = s.pcmdLost := rfl
@[simp] theorem State.updWg_vfmap (s : State) (u : Nat) (f : Wg → Wg) : (s.updWg u f).vfmap = s.vfmap := rfl
@[simp] theorem State.updWg_epmap (s : State) (u : Nat) (f : Wg → Wg) : (s.updWg u f).epmap = s.epmap := rfl
@[simp] theorem State.updWg_gmap (s : State) (u : Nat) (f : Wg → Wg) : (s.updWg u f).gmap = s.gmap := rfl
@[simp] theorem State.updWg_scrub (s : State) (u : Nat) (f : Wg → Wg) : (s.updWg u f).scrub = s.scrub := rfl
@[simp] theorem State.updWg_grants (s : State) (u : Nat) (f : Wg → Wg) : (s.updWg u f).grants = s.grants := rfl
@[simp] theorem State.updWg_devNum (s : State) (u : Nat) (f : Wg → Wg) : (s.updWg u f).devNum = s.devNum := rfl
@[simp] theorem State.updWg_linksDown (s : State) (u : Nat) (f : Wg → Wg) : (s.updWg u f).linksDown = s.linksDown := rfl
@[simp] theorem State.updWg_shut (s : State) (u : Nat) (f : Wg → Wg) : (s.updWg u f).shut = s.shut := rfl
@[simp] theorem State.updWg_parts (s : State) (u : Nat) (f : Wg → Wg) : (s.updWg u f).parts = s.parts := rfl
@[simp] theorem State.updWg_mem (s : State) (u : Nat) (f : Wg → Wg) : (s.updWg u f).mem = s.mem := rfl
@[simp] theorem State.updWg_poison (s : State) (u : Nat) (f : Wg → Wg) : (s.updWg u f).poison = s.poison := rfl
@[simp] theorem State.updWg_hostMem (s : State) (u : Nat) (f : Wg → Wg) : (s.updWg u f).hostMem = s.hostMem := rfl
@[simp] theorem State.updWg_hot (s : State) (u : Nat) (f : Wg → Wg) : (s.updWg u f).hot = s.hot := rfl
@[simp] theorem State.updWg_rdc (s : State) (u : Nat) (f : Wg → Wg) : (s.updWg u f).rdc = s.rdc := rfl
@[simp] theorem State.updWg_vtab (s : State) (u : Nat) (f : Wg → Wg) : (s.updWg u f).vtab = s.vtab := rfl
@[simp] theorem State.updWg_tlb (s : State) (u : Nat) (f : Wg → Wg) : (s.updWg u f).tlb = s.tlb := rfl
@[simp] theorem State.updWg_kicks (s : State) (u : Nat) (f : Wg → Wg) : (s.updWg u f).kicks = s.kicks := rfl
@[simp] theorem State.updWg_nodes (s : State) (u : Nat) (f : Wg → Wg) : (s.updWg u f).nodes = s.nodes := rfl
@[simp] theorem State.updWg_clusters (s : State) (u : Nat) (f : Wg → Wg) : (s.updWg u f).clusters = s.clusters := rfl
@[simp] theorem State.updWg_wgs (s : State) (u : Nat) (f : Wg → Wg) : (s.updWg u f).wgs = updWhere (fun w => w.uid == u) f s.wgs := rfl
@[simp] theorem State.updWg_gangs (s : State) (u : Nat) (f : Wg → Wg) : (s.updWg u f).gangs = s.gangs := rfl
@[simp] theorem State.updWg_threads (s : State) (u : Nat) (f : Wg → Wg) : (s.updWg u f).threads = s.threads := rfl
@[simp] theorem State.updWg_slices (s : State) (u : Nat) (f : Wg → Wg) : (s.updWg u f).slices = s.slices := rfl
@[simp] theorem State.updWg_lathes (s : State) (u : Nat) (f : Wg → Wg) : (s.updWg u f).lathes = s.lathes := rfl
@[simp] theorem State.updWg_eops (s : State) (u : Nat) (f : Wg → Wg) : (s.updWg u f).eops = s.eops := rfl
@[simp] theorem State.updWg_io (s : State) (u : Nat) (f : Wg → Wg) : (s.updWg u f).io = s.io := rfl
@[simp] theorem State.updWg_shoots (s : State) (u : Nat) (f : Wg → Wg) : (s.updWg u f).shoots = s.shoots := rfl
@[simp] theorem State.updWg_sticky (s : State) (u : Nat) (f : Wg → Wg) : (s.updWg u f).sticky = s.sticky := rfl
@[simp] theorem State.updWg_sends (s : State) (u : Nat) (f : Wg → Wg) : (s.updWg u f).sends = s.sends := rfl
@[simp] theorem State.updWg_contribs (s : State) (u : Nat) (f : Wg → Wg) : (s.updWg u f).contribs = s.contribs := rfl
@[simp] theorem State.updWg_reds (s : State) (u : Nat) (f : Wg → Wg) : (s.updWg u f).reds = s.reds := rfl
@[simp] theorem State.updWg_heldNotices (s : State) (u : Nat) (f : Wg → Wg) : (s.updWg u f).heldNotices = s.heldNotices := rfl
@[simp] theorem State.updWg_results (s : State) (u : Nat) (f : Wg → Wg) : (s.updWg u f).results = s.results := rfl
@[simp] theorem State.updWg_outbox (s : State) (u : Nat) (f : Wg → Wg) : (s.updWg u f).outbox = s.outbox := rfl
@[simp] theorem State.updWg_holdup (s : State) (u : Nat) (f : Wg → Wg) : (s.updWg u f).holdup = s.holdup := rfl
@[simp] theorem State.updWg_energy (s : State) (u : Nat) (f : Wg → Wg) : (s.updWg u f).energy = s.energy := rfl
@[simp] theorem State.updWg_epoch (s : State) (u : Nat) (f : Wg → Wg) : (s.updWg u f).epoch = s.epoch := rfl
@[simp] theorem State.updWg_reported (s : State) (u : Nat) (f : Wg → Wg) : (s.updWg u f).reported = s.reported := rfl
@[simp] theorem State.updWg_usTrigger (s : State) (u : Nat) (f : Wg → Wg) : (s.updWg u f).usTrigger = s.usTrigger := rfl
@[simp] theorem State.updWg_store (s : State) (u : Nat) (f : Wg → Wg) : (s.updWg u f).store = s.store := rfl
@[simp] theorem State.updWg_storing (s : State) (u : Nat) (f : Wg → Wg) : (s.updWg u f).storing = s.storing := rfl
@[simp] theorem State.updWg_records (s : State) (u : Nat) (f : Wg → Wg) : (s.updWg u f).records = s.records := rfl
@[simp] theorem State.updWg_seals (s : State) (u : Nat) (f : Wg → Wg) : (s.updWg u f).seals = s.seals := rfl
@[simp] theorem State.updWg_lineage (s : State) (u : Nat) (f : Wg → Wg) : (s.updWg u f).lineage = s.lineage := rfl
@[simp] theorem State.updWg_xidx (s : State) (u : Nat) (f : Wg → Wg) : (s.updWg u f).xidx = s.xidx := rfl
@[simp] theorem State.updWg_risk (s : State) (u : Nat) (f : Wg → Wg) : (s.updWg u f).risk = s.risk := rfl
@[simp] theorem State.updWg_corrected (s : State) (u : Nat) (f : Wg → Wg) : (s.updWg u f).corrected = s.corrected := rfl
@[simp] theorem State.updWg_droops (s : State) (u : Nat) (f : Wg → Wg) : (s.updWg u f).droops = s.droops := rfl
@[simp] theorem State.updWg_retrains (s : State) (u : Nat) (f : Wg → Wg) : (s.updWg u f).retrains = s.retrains := rfl
@[simp] theorem State.updWg_mismatches (s : State) (u : Nat) (f : Wg → Wg) : (s.updWg u f).mismatches = s.mismatches := rfl
@[simp] theorem State.updWg_hottest (s : State) (u : Nat) (f : Wg → Wg) : (s.updWg u f).hottest = s.hottest := rfl
@[simp] theorem State.updWg_powerW (s : State) (u : Nat) (f : Wg → Wg) : (s.updWg u f).powerW = s.powerW := rfl
@[simp] theorem State.updWg_drift (s : State) (u : Nat) (f : Wg → Wg) : (s.updWg u f).drift = s.drift := rfl
@[simp] theorem State.updWg_wild (s : State) (u : Nat) (f : Wg → Wg) : (s.updWg u f).wild = s.wild := rfl
@[simp] theorem State.updWg_saves (s : State) (u : Nat) (f : Wg → Wg) : (s.updWg u f).saves = s.saves := rfl
@[simp] theorem State.updWg_hb (s : State) (u : Nat) (f : Wg → Wg) : (s.updWg u f).hb = s.hb := rfl
@[simp] theorem State.updWg_landing (s : State) (u : Nat) (f : Wg → Wg) : (s.updWg u f).landing = s.landing := rfl
@[simp] theorem State.updWg_byteStart (s : State) (u : Nat) (f : Wg → Wg) : (s.updWg u f).byteStart = s.byteStart := rfl

/-! ### `updGang` -/

@[simp] theorem State.updGang_agenda (s : State) (w g : Nat) (f : Gang → Gang) : (s.updGang w g f).agenda = s.agenda := rfl
@[simp] theorem State.updGang_tick (s : State) (w g : Nat) (f : Gang → Gang) : (s.updGang w g f).tick = s.tick := rfl
@[simp] theorem State.updGang_turns (s : State) (w g : Nat) (f : Gang → Gang) : (s.updGang w g f).turns = s.turns := rfl
@[simp] theorem State.updGang_since (s : State) (w g : Nat) (f : Gang → Gang) : (s.updGang w g f).since = s.since := rfl
@[simp] theorem State.updGang_owed (s : State) (w g : Nat) (f : Gang → Gang) : (s.updGang w g f).owed = s.owed := rfl
@[simp] theorem State.updGang_gloads (s : State) (w g : Nat) (f : Gang → Gang) : (s.updGang w g f).gloads = s.gloads := rfl
@[simp] theorem State.updGang_uid (s : State) (w g : Nat) (f : Gang → Gang) : (s.updGang w g f).uid = s.uid := rfl
@[simp] theorem State.updGang_cur (s : State) (w g : Nat) (f : Gang → Gang) : (s.updGang w g f).cur = s.cur := rfl
@[simp] theorem State.updGang_sliceClk (s : State) (w g : Nat) (f : Gang → Gang) : (s.updGang w g f).sliceClk = s.sliceClk := rfl
@[simp] theorem State.updGang_spindleClk (s : State) (w g : Nat) (f : Gang → Gang) : (s.updGang w g f).spindleClk = s.spindleClk := rfl
@[simp] theorem State.updGang_headClk (s : State) (w g : Nat) (f : Gang → Gang) : (s.updGang w g f).headClk = s.headClk := rfl
@[simp] theorem State.updGang_sealClk (s : State) (w g : Nat) (f : Gang → Gang) : (s.updGang w g f).sealClk = s.sealClk := rfl
@[simp] theorem State.updGang_monClk (s : State) (w g : Nat) (f : Gang → Gang) : (s.updGang w g f).monClk = s.monClk := rfl
@[simp] theorem State.updGang_sampleClk (s : State) (w g : Nat) (f : Gang → Gang) : (s.updGang w g f).sampleClk = s.sampleClk := rfl
@[simp] theorem State.updGang_clkZero (s : State) (w g : Nat) (f : Gang → Gang) : (s.updGang w g f).clkZero = s.clkZero := rfl
@[simp] theorem State.updGang_supply (s : State) (w g : Nat) (f : Gang → Gang) : (s.updGang w g f).supply = s.supply := rfl
@[simp] theorem State.updGang_ready (s : State) (w g : Nat) (f : Gang → Gang) : (s.updGang w g f).ready = s.ready := rfl
@[simp] theorem State.updGang_pcmdBusy (s : State) (w g : Nat) (f : Gang → Gang) : (s.updGang w g f).pcmdBusy = s.pcmdBusy := rfl
@[simp] theorem State.updGang_pcmdResult (s : State) (w g : Nat) (f : Gang → Gang) : (s.updGang w g f).pcmdResult = s.pcmdResult := rfl
@[simp] theorem State.updGang_pcmdPart (s : State) (w g : Nat) (f : Gang → Gang) : (s.updGang w g f).pcmdPart = s.pcmdPart := rfl
@[simp] theorem State.updGang_pcmdCmd (s : State) (w g : Nat) (f : Gang → Gang) : (s.updGang w g f).pcmdCmd = s.pcmdCmd := rfl
@[simp] theorem State.updGang_pcmdLost (s : State) (w g : Nat) (f : Gang → Gang) : (s.updGang w g f).pcmdLost = s.pcmdLost := rfl
@[simp] theorem State.updGang_vfmap (s : State) (w g : Nat) (f : Gang → Gang) : (s.updGang w g f).vfmap = s.vfmap := rfl
@[simp] theorem State.updGang_epmap (s : State) (w g : Nat) (f : Gang → Gang) : (s.updGang w g f).epmap = s.epmap := rfl
@[simp] theorem State.updGang_gmap (s : State) (w g : Nat) (f : Gang → Gang) : (s.updGang w g f).gmap = s.gmap := rfl
@[simp] theorem State.updGang_scrub (s : State) (w g : Nat) (f : Gang → Gang) : (s.updGang w g f).scrub = s.scrub := rfl
@[simp] theorem State.updGang_grants (s : State) (w g : Nat) (f : Gang → Gang) : (s.updGang w g f).grants = s.grants := rfl
@[simp] theorem State.updGang_devNum (s : State) (w g : Nat) (f : Gang → Gang) : (s.updGang w g f).devNum = s.devNum := rfl
@[simp] theorem State.updGang_linksDown (s : State) (w g : Nat) (f : Gang → Gang) : (s.updGang w g f).linksDown = s.linksDown := rfl
@[simp] theorem State.updGang_shut (s : State) (w g : Nat) (f : Gang → Gang) : (s.updGang w g f).shut = s.shut := rfl
@[simp] theorem State.updGang_parts (s : State) (w g : Nat) (f : Gang → Gang) : (s.updGang w g f).parts = s.parts := rfl
@[simp] theorem State.updGang_mem (s : State) (w g : Nat) (f : Gang → Gang) : (s.updGang w g f).mem = s.mem := rfl
@[simp] theorem State.updGang_poison (s : State) (w g : Nat) (f : Gang → Gang) : (s.updGang w g f).poison = s.poison := rfl
@[simp] theorem State.updGang_hostMem (s : State) (w g : Nat) (f : Gang → Gang) : (s.updGang w g f).hostMem = s.hostMem := rfl
@[simp] theorem State.updGang_hot (s : State) (w g : Nat) (f : Gang → Gang) : (s.updGang w g f).hot = s.hot := rfl
@[simp] theorem State.updGang_rdc (s : State) (w g : Nat) (f : Gang → Gang) : (s.updGang w g f).rdc = s.rdc := rfl
@[simp] theorem State.updGang_vtab (s : State) (w g : Nat) (f : Gang → Gang) : (s.updGang w g f).vtab = s.vtab := rfl
@[simp] theorem State.updGang_tlb (s : State) (w g : Nat) (f : Gang → Gang) : (s.updGang w g f).tlb = s.tlb := rfl
@[simp] theorem State.updGang_kicks (s : State) (w g : Nat) (f : Gang → Gang) : (s.updGang w g f).kicks = s.kicks := rfl
@[simp] theorem State.updGang_nodes (s : State) (w g : Nat) (f : Gang → Gang) : (s.updGang w g f).nodes = s.nodes := rfl
@[simp] theorem State.updGang_clusters (s : State) (w g : Nat) (f : Gang → Gang) : (s.updGang w g f).clusters = s.clusters := rfl
@[simp] theorem State.updGang_wgs (s : State) (w g : Nat) (f : Gang → Gang) : (s.updGang w g f).wgs = s.wgs := rfl
@[simp] theorem State.updGang_gangs (s : State) (w g : Nat) (f : Gang → Gang) : (s.updGang w g f).gangs = updWhere (fun x => x.wg == w && x.idx == g) f s.gangs := rfl
@[simp] theorem State.updGang_threads (s : State) (w g : Nat) (f : Gang → Gang) : (s.updGang w g f).threads = s.threads := rfl
@[simp] theorem State.updGang_slices (s : State) (w g : Nat) (f : Gang → Gang) : (s.updGang w g f).slices = s.slices := rfl
@[simp] theorem State.updGang_lathes (s : State) (w g : Nat) (f : Gang → Gang) : (s.updGang w g f).lathes = s.lathes := rfl
@[simp] theorem State.updGang_eops (s : State) (w g : Nat) (f : Gang → Gang) : (s.updGang w g f).eops = s.eops := rfl
@[simp] theorem State.updGang_io (s : State) (w g : Nat) (f : Gang → Gang) : (s.updGang w g f).io = s.io := rfl
@[simp] theorem State.updGang_shoots (s : State) (w g : Nat) (f : Gang → Gang) : (s.updGang w g f).shoots = s.shoots := rfl
@[simp] theorem State.updGang_sticky (s : State) (w g : Nat) (f : Gang → Gang) : (s.updGang w g f).sticky = s.sticky := rfl
@[simp] theorem State.updGang_sends (s : State) (w g : Nat) (f : Gang → Gang) : (s.updGang w g f).sends = s.sends := rfl
@[simp] theorem State.updGang_contribs (s : State) (w g : Nat) (f : Gang → Gang) : (s.updGang w g f).contribs = s.contribs := rfl
@[simp] theorem State.updGang_reds (s : State) (w g : Nat) (f : Gang → Gang) : (s.updGang w g f).reds = s.reds := rfl
@[simp] theorem State.updGang_heldNotices (s : State) (w g : Nat) (f : Gang → Gang) : (s.updGang w g f).heldNotices = s.heldNotices := rfl
@[simp] theorem State.updGang_results (s : State) (w g : Nat) (f : Gang → Gang) : (s.updGang w g f).results = s.results := rfl
@[simp] theorem State.updGang_outbox (s : State) (w g : Nat) (f : Gang → Gang) : (s.updGang w g f).outbox = s.outbox := rfl
@[simp] theorem State.updGang_holdup (s : State) (w g : Nat) (f : Gang → Gang) : (s.updGang w g f).holdup = s.holdup := rfl
@[simp] theorem State.updGang_energy (s : State) (w g : Nat) (f : Gang → Gang) : (s.updGang w g f).energy = s.energy := rfl
@[simp] theorem State.updGang_epoch (s : State) (w g : Nat) (f : Gang → Gang) : (s.updGang w g f).epoch = s.epoch := rfl
@[simp] theorem State.updGang_reported (s : State) (w g : Nat) (f : Gang → Gang) : (s.updGang w g f).reported = s.reported := rfl
@[simp] theorem State.updGang_usTrigger (s : State) (w g : Nat) (f : Gang → Gang) : (s.updGang w g f).usTrigger = s.usTrigger := rfl
@[simp] theorem State.updGang_store (s : State) (w g : Nat) (f : Gang → Gang) : (s.updGang w g f).store = s.store := rfl
@[simp] theorem State.updGang_storing (s : State) (w g : Nat) (f : Gang → Gang) : (s.updGang w g f).storing = s.storing := rfl
@[simp] theorem State.updGang_records (s : State) (w g : Nat) (f : Gang → Gang) : (s.updGang w g f).records = s.records := rfl
@[simp] theorem State.updGang_seals (s : State) (w g : Nat) (f : Gang → Gang) : (s.updGang w g f).seals = s.seals := rfl
@[simp] theorem State.updGang_lineage (s : State) (w g : Nat) (f : Gang → Gang) : (s.updGang w g f).lineage = s.lineage := rfl
@[simp] theorem State.updGang_xidx (s : State) (w g : Nat) (f : Gang → Gang) : (s.updGang w g f).xidx = s.xidx := rfl
@[simp] theorem State.updGang_risk (s : State) (w g : Nat) (f : Gang → Gang) : (s.updGang w g f).risk = s.risk := rfl
@[simp] theorem State.updGang_corrected (s : State) (w g : Nat) (f : Gang → Gang) : (s.updGang w g f).corrected = s.corrected := rfl
@[simp] theorem State.updGang_droops (s : State) (w g : Nat) (f : Gang → Gang) : (s.updGang w g f).droops = s.droops := rfl
@[simp] theorem State.updGang_retrains (s : State) (w g : Nat) (f : Gang → Gang) : (s.updGang w g f).retrains = s.retrains := rfl
@[simp] theorem State.updGang_mismatches (s : State) (w g : Nat) (f : Gang → Gang) : (s.updGang w g f).mismatches = s.mismatches := rfl
@[simp] theorem State.updGang_hottest (s : State) (w g : Nat) (f : Gang → Gang) : (s.updGang w g f).hottest = s.hottest := rfl
@[simp] theorem State.updGang_powerW (s : State) (w g : Nat) (f : Gang → Gang) : (s.updGang w g f).powerW = s.powerW := rfl
@[simp] theorem State.updGang_drift (s : State) (w g : Nat) (f : Gang → Gang) : (s.updGang w g f).drift = s.drift := rfl
@[simp] theorem State.updGang_wild (s : State) (w g : Nat) (f : Gang → Gang) : (s.updGang w g f).wild = s.wild := rfl
@[simp] theorem State.updGang_saves (s : State) (w g : Nat) (f : Gang → Gang) : (s.updGang w g f).saves = s.saves := rfl
@[simp] theorem State.updGang_hb (s : State) (w g : Nat) (f : Gang → Gang) : (s.updGang w g f).hb = s.hb := rfl
@[simp] theorem State.updGang_landing (s : State) (w g : Nat) (f : Gang → Gang) : (s.updGang w g f).landing = s.landing := rfl
@[simp] theorem State.updGang_byteStart (s : State) (w g : Nat) (f : Gang → Gang) : (s.updGang w g f).byteStart = s.byteStart := rfl

/-! ### `updThreads` -/

@[simp] theorem State.updThreads_agenda (s : State) (p : Thread → Bool) (f : Thread → Thread) : (s.updThreads p f).agenda = s.agenda := rfl
@[simp] theorem State.updThreads_tick (s : State) (p : Thread → Bool) (f : Thread → Thread) : (s.updThreads p f).tick = s.tick := rfl
@[simp] theorem State.updThreads_turns (s : State) (p : Thread → Bool) (f : Thread → Thread) : (s.updThreads p f).turns = s.turns := rfl
@[simp] theorem State.updThreads_since (s : State) (p : Thread → Bool) (f : Thread → Thread) : (s.updThreads p f).since = s.since := rfl
@[simp] theorem State.updThreads_owed (s : State) (p : Thread → Bool) (f : Thread → Thread) : (s.updThreads p f).owed = s.owed := rfl
@[simp] theorem State.updThreads_gloads (s : State) (p : Thread → Bool) (f : Thread → Thread) : (s.updThreads p f).gloads = s.gloads := rfl
@[simp] theorem State.updThreads_uid (s : State) (p : Thread → Bool) (f : Thread → Thread) : (s.updThreads p f).uid = s.uid := rfl
@[simp] theorem State.updThreads_cur (s : State) (p : Thread → Bool) (f : Thread → Thread) : (s.updThreads p f).cur = s.cur := rfl
@[simp] theorem State.updThreads_sliceClk (s : State) (p : Thread → Bool) (f : Thread → Thread) : (s.updThreads p f).sliceClk = s.sliceClk := rfl
@[simp] theorem State.updThreads_spindleClk (s : State) (p : Thread → Bool) (f : Thread → Thread) : (s.updThreads p f).spindleClk = s.spindleClk := rfl
@[simp] theorem State.updThreads_headClk (s : State) (p : Thread → Bool) (f : Thread → Thread) : (s.updThreads p f).headClk = s.headClk := rfl
@[simp] theorem State.updThreads_sealClk (s : State) (p : Thread → Bool) (f : Thread → Thread) : (s.updThreads p f).sealClk = s.sealClk := rfl
@[simp] theorem State.updThreads_monClk (s : State) (p : Thread → Bool) (f : Thread → Thread) : (s.updThreads p f).monClk = s.monClk := rfl
@[simp] theorem State.updThreads_sampleClk (s : State) (p : Thread → Bool) (f : Thread → Thread) : (s.updThreads p f).sampleClk = s.sampleClk := rfl
@[simp] theorem State.updThreads_clkZero (s : State) (p : Thread → Bool) (f : Thread → Thread) : (s.updThreads p f).clkZero = s.clkZero := rfl
@[simp] theorem State.updThreads_supply (s : State) (p : Thread → Bool) (f : Thread → Thread) : (s.updThreads p f).supply = s.supply := rfl
@[simp] theorem State.updThreads_ready (s : State) (p : Thread → Bool) (f : Thread → Thread) : (s.updThreads p f).ready = s.ready := rfl
@[simp] theorem State.updThreads_pcmdBusy (s : State) (p : Thread → Bool) (f : Thread → Thread) : (s.updThreads p f).pcmdBusy = s.pcmdBusy := rfl
@[simp] theorem State.updThreads_pcmdResult (s : State) (p : Thread → Bool) (f : Thread → Thread) : (s.updThreads p f).pcmdResult = s.pcmdResult := rfl
@[simp] theorem State.updThreads_pcmdPart (s : State) (p : Thread → Bool) (f : Thread → Thread) : (s.updThreads p f).pcmdPart = s.pcmdPart := rfl
@[simp] theorem State.updThreads_pcmdCmd (s : State) (p : Thread → Bool) (f : Thread → Thread) : (s.updThreads p f).pcmdCmd = s.pcmdCmd := rfl
@[simp] theorem State.updThreads_pcmdLost (s : State) (p : Thread → Bool) (f : Thread → Thread) : (s.updThreads p f).pcmdLost = s.pcmdLost := rfl
@[simp] theorem State.updThreads_vfmap (s : State) (p : Thread → Bool) (f : Thread → Thread) : (s.updThreads p f).vfmap = s.vfmap := rfl
@[simp] theorem State.updThreads_epmap (s : State) (p : Thread → Bool) (f : Thread → Thread) : (s.updThreads p f).epmap = s.epmap := rfl
@[simp] theorem State.updThreads_gmap (s : State) (p : Thread → Bool) (f : Thread → Thread) : (s.updThreads p f).gmap = s.gmap := rfl
@[simp] theorem State.updThreads_scrub (s : State) (p : Thread → Bool) (f : Thread → Thread) : (s.updThreads p f).scrub = s.scrub := rfl
@[simp] theorem State.updThreads_grants (s : State) (p : Thread → Bool) (f : Thread → Thread) : (s.updThreads p f).grants = s.grants := rfl
@[simp] theorem State.updThreads_devNum (s : State) (p : Thread → Bool) (f : Thread → Thread) : (s.updThreads p f).devNum = s.devNum := rfl
@[simp] theorem State.updThreads_linksDown (s : State) (p : Thread → Bool) (f : Thread → Thread) : (s.updThreads p f).linksDown = s.linksDown := rfl
@[simp] theorem State.updThreads_shut (s : State) (p : Thread → Bool) (f : Thread → Thread) : (s.updThreads p f).shut = s.shut := rfl
@[simp] theorem State.updThreads_parts (s : State) (p : Thread → Bool) (f : Thread → Thread) : (s.updThreads p f).parts = s.parts := rfl
@[simp] theorem State.updThreads_mem (s : State) (p : Thread → Bool) (f : Thread → Thread) : (s.updThreads p f).mem = s.mem := rfl
@[simp] theorem State.updThreads_poison (s : State) (p : Thread → Bool) (f : Thread → Thread) : (s.updThreads p f).poison = s.poison := rfl
@[simp] theorem State.updThreads_hostMem (s : State) (p : Thread → Bool) (f : Thread → Thread) : (s.updThreads p f).hostMem = s.hostMem := rfl
@[simp] theorem State.updThreads_hot (s : State) (p : Thread → Bool) (f : Thread → Thread) : (s.updThreads p f).hot = s.hot := rfl
@[simp] theorem State.updThreads_rdc (s : State) (p : Thread → Bool) (f : Thread → Thread) : (s.updThreads p f).rdc = s.rdc := rfl
@[simp] theorem State.updThreads_vtab (s : State) (p : Thread → Bool) (f : Thread → Thread) : (s.updThreads p f).vtab = s.vtab := rfl
@[simp] theorem State.updThreads_tlb (s : State) (p : Thread → Bool) (f : Thread → Thread) : (s.updThreads p f).tlb = s.tlb := rfl
@[simp] theorem State.updThreads_kicks (s : State) (p : Thread → Bool) (f : Thread → Thread) : (s.updThreads p f).kicks = s.kicks := rfl
@[simp] theorem State.updThreads_nodes (s : State) (p : Thread → Bool) (f : Thread → Thread) : (s.updThreads p f).nodes = s.nodes := rfl
@[simp] theorem State.updThreads_clusters (s : State) (p : Thread → Bool) (f : Thread → Thread) : (s.updThreads p f).clusters = s.clusters := rfl
@[simp] theorem State.updThreads_wgs (s : State) (p : Thread → Bool) (f : Thread → Thread) : (s.updThreads p f).wgs = s.wgs := rfl
@[simp] theorem State.updThreads_gangs (s : State) (p : Thread → Bool) (f : Thread → Thread) : (s.updThreads p f).gangs = s.gangs := rfl
@[simp] theorem State.updThreads_threads (s : State) (p : Thread → Bool) (f : Thread → Thread) : (s.updThreads p f).threads = updWhere p f s.threads := rfl
@[simp] theorem State.updThreads_slices (s : State) (p : Thread → Bool) (f : Thread → Thread) : (s.updThreads p f).slices = s.slices := rfl
@[simp] theorem State.updThreads_lathes (s : State) (p : Thread → Bool) (f : Thread → Thread) : (s.updThreads p f).lathes = s.lathes := rfl
@[simp] theorem State.updThreads_eops (s : State) (p : Thread → Bool) (f : Thread → Thread) : (s.updThreads p f).eops = s.eops := rfl
@[simp] theorem State.updThreads_io (s : State) (p : Thread → Bool) (f : Thread → Thread) : (s.updThreads p f).io = s.io := rfl
@[simp] theorem State.updThreads_shoots (s : State) (p : Thread → Bool) (f : Thread → Thread) : (s.updThreads p f).shoots = s.shoots := rfl
@[simp] theorem State.updThreads_sticky (s : State) (p : Thread → Bool) (f : Thread → Thread) : (s.updThreads p f).sticky = s.sticky := rfl
@[simp] theorem State.updThreads_sends (s : State) (p : Thread → Bool) (f : Thread → Thread) : (s.updThreads p f).sends = s.sends := rfl
@[simp] theorem State.updThreads_contribs (s : State) (p : Thread → Bool) (f : Thread → Thread) : (s.updThreads p f).contribs = s.contribs := rfl
@[simp] theorem State.updThreads_reds (s : State) (p : Thread → Bool) (f : Thread → Thread) : (s.updThreads p f).reds = s.reds := rfl
@[simp] theorem State.updThreads_heldNotices (s : State) (p : Thread → Bool) (f : Thread → Thread) : (s.updThreads p f).heldNotices = s.heldNotices := rfl
@[simp] theorem State.updThreads_results (s : State) (p : Thread → Bool) (f : Thread → Thread) : (s.updThreads p f).results = s.results := rfl
@[simp] theorem State.updThreads_outbox (s : State) (p : Thread → Bool) (f : Thread → Thread) : (s.updThreads p f).outbox = s.outbox := rfl
@[simp] theorem State.updThreads_holdup (s : State) (p : Thread → Bool) (f : Thread → Thread) : (s.updThreads p f).holdup = s.holdup := rfl
@[simp] theorem State.updThreads_energy (s : State) (p : Thread → Bool) (f : Thread → Thread) : (s.updThreads p f).energy = s.energy := rfl
@[simp] theorem State.updThreads_epoch (s : State) (p : Thread → Bool) (f : Thread → Thread) : (s.updThreads p f).epoch = s.epoch := rfl
@[simp] theorem State.updThreads_reported (s : State) (p : Thread → Bool) (f : Thread → Thread) : (s.updThreads p f).reported = s.reported := rfl
@[simp] theorem State.updThreads_usTrigger (s : State) (p : Thread → Bool) (f : Thread → Thread) : (s.updThreads p f).usTrigger = s.usTrigger := rfl
@[simp] theorem State.updThreads_store (s : State) (p : Thread → Bool) (f : Thread → Thread) : (s.updThreads p f).store = s.store := rfl
@[simp] theorem State.updThreads_storing (s : State) (p : Thread → Bool) (f : Thread → Thread) : (s.updThreads p f).storing = s.storing := rfl
@[simp] theorem State.updThreads_records (s : State) (p : Thread → Bool) (f : Thread → Thread) : (s.updThreads p f).records = s.records := rfl
@[simp] theorem State.updThreads_seals (s : State) (p : Thread → Bool) (f : Thread → Thread) : (s.updThreads p f).seals = s.seals := rfl
@[simp] theorem State.updThreads_lineage (s : State) (p : Thread → Bool) (f : Thread → Thread) : (s.updThreads p f).lineage = s.lineage := rfl
@[simp] theorem State.updThreads_xidx (s : State) (p : Thread → Bool) (f : Thread → Thread) : (s.updThreads p f).xidx = s.xidx := rfl
@[simp] theorem State.updThreads_risk (s : State) (p : Thread → Bool) (f : Thread → Thread) : (s.updThreads p f).risk = s.risk := rfl
@[simp] theorem State.updThreads_corrected (s : State) (p : Thread → Bool) (f : Thread → Thread) : (s.updThreads p f).corrected = s.corrected := rfl
@[simp] theorem State.updThreads_droops (s : State) (p : Thread → Bool) (f : Thread → Thread) : (s.updThreads p f).droops = s.droops := rfl
@[simp] theorem State.updThreads_retrains (s : State) (p : Thread → Bool) (f : Thread → Thread) : (s.updThreads p f).retrains = s.retrains := rfl
@[simp] theorem State.updThreads_mismatches (s : State) (p : Thread → Bool) (f : Thread → Thread) : (s.updThreads p f).mismatches = s.mismatches := rfl
@[simp] theorem State.updThreads_hottest (s : State) (p : Thread → Bool) (f : Thread → Thread) : (s.updThreads p f).hottest = s.hottest := rfl
@[simp] theorem State.updThreads_powerW (s : State) (p : Thread → Bool) (f : Thread → Thread) : (s.updThreads p f).powerW = s.powerW := rfl
@[simp] theorem State.updThreads_drift (s : State) (p : Thread → Bool) (f : Thread → Thread) : (s.updThreads p f).drift = s.drift := rfl
@[simp] theorem State.updThreads_wild (s : State) (p : Thread → Bool) (f : Thread → Thread) : (s.updThreads p f).wild = s.wild := rfl
@[simp] theorem State.updThreads_saves (s : State) (p : Thread → Bool) (f : Thread → Thread) : (s.updThreads p f).saves = s.saves := rfl
@[simp] theorem State.updThreads_hb (s : State) (p : Thread → Bool) (f : Thread → Thread) : (s.updThreads p f).hb = s.hb := rfl
@[simp] theorem State.updThreads_landing (s : State) (p : Thread → Bool) (f : Thread → Thread) : (s.updThreads p f).landing = s.landing := rfl
@[simp] theorem State.updThreads_byteStart (s : State) (p : Thread → Bool) (f : Thread → Thread) : (s.updThreads p f).byteStart = s.byteStart := rfl

/-! ### `updPart` -/

@[simp] theorem State.updPart_agenda (s : State) (n : Nat) (f : Part → Part) : (s.updPart n f).agenda = s.agenda := rfl
@[simp] theorem State.updPart_tick (s : State) (n : Nat) (f : Part → Part) : (s.updPart n f).tick = s.tick := rfl
@[simp] theorem State.updPart_turns (s : State) (n : Nat) (f : Part → Part) : (s.updPart n f).turns = s.turns := rfl
@[simp] theorem State.updPart_since (s : State) (n : Nat) (f : Part → Part) : (s.updPart n f).since = s.since := rfl
@[simp] theorem State.updPart_owed (s : State) (n : Nat) (f : Part → Part) : (s.updPart n f).owed = s.owed := rfl
@[simp] theorem State.updPart_gloads (s : State) (n : Nat) (f : Part → Part) : (s.updPart n f).gloads = s.gloads := rfl
@[simp] theorem State.updPart_uid (s : State) (n : Nat) (f : Part → Part) : (s.updPart n f).uid = s.uid := rfl
@[simp] theorem State.updPart_cur (s : State) (n : Nat) (f : Part → Part) : (s.updPart n f).cur = s.cur := rfl
@[simp] theorem State.updPart_sliceClk (s : State) (n : Nat) (f : Part → Part) : (s.updPart n f).sliceClk = s.sliceClk := rfl
@[simp] theorem State.updPart_spindleClk (s : State) (n : Nat) (f : Part → Part) : (s.updPart n f).spindleClk = s.spindleClk := rfl
@[simp] theorem State.updPart_headClk (s : State) (n : Nat) (f : Part → Part) : (s.updPart n f).headClk = s.headClk := rfl
@[simp] theorem State.updPart_sealClk (s : State) (n : Nat) (f : Part → Part) : (s.updPart n f).sealClk = s.sealClk := rfl
@[simp] theorem State.updPart_monClk (s : State) (n : Nat) (f : Part → Part) : (s.updPart n f).monClk = s.monClk := rfl
@[simp] theorem State.updPart_sampleClk (s : State) (n : Nat) (f : Part → Part) : (s.updPart n f).sampleClk = s.sampleClk := rfl
@[simp] theorem State.updPart_clkZero (s : State) (n : Nat) (f : Part → Part) : (s.updPart n f).clkZero = s.clkZero := rfl
@[simp] theorem State.updPart_supply (s : State) (n : Nat) (f : Part → Part) : (s.updPart n f).supply = s.supply := rfl
@[simp] theorem State.updPart_ready (s : State) (n : Nat) (f : Part → Part) : (s.updPart n f).ready = s.ready := rfl
@[simp] theorem State.updPart_pcmdBusy (s : State) (n : Nat) (f : Part → Part) : (s.updPart n f).pcmdBusy = s.pcmdBusy := rfl
@[simp] theorem State.updPart_pcmdResult (s : State) (n : Nat) (f : Part → Part) : (s.updPart n f).pcmdResult = s.pcmdResult := rfl
@[simp] theorem State.updPart_pcmdPart (s : State) (n : Nat) (f : Part → Part) : (s.updPart n f).pcmdPart = s.pcmdPart := rfl
@[simp] theorem State.updPart_pcmdCmd (s : State) (n : Nat) (f : Part → Part) : (s.updPart n f).pcmdCmd = s.pcmdCmd := rfl
@[simp] theorem State.updPart_pcmdLost (s : State) (n : Nat) (f : Part → Part) : (s.updPart n f).pcmdLost = s.pcmdLost := rfl
@[simp] theorem State.updPart_vfmap (s : State) (n : Nat) (f : Part → Part) : (s.updPart n f).vfmap = s.vfmap := rfl
@[simp] theorem State.updPart_epmap (s : State) (n : Nat) (f : Part → Part) : (s.updPart n f).epmap = s.epmap := rfl
@[simp] theorem State.updPart_gmap (s : State) (n : Nat) (f : Part → Part) : (s.updPart n f).gmap = s.gmap := rfl
@[simp] theorem State.updPart_scrub (s : State) (n : Nat) (f : Part → Part) : (s.updPart n f).scrub = s.scrub := rfl
@[simp] theorem State.updPart_grants (s : State) (n : Nat) (f : Part → Part) : (s.updPart n f).grants = s.grants := rfl
@[simp] theorem State.updPart_devNum (s : State) (n : Nat) (f : Part → Part) : (s.updPart n f).devNum = s.devNum := rfl
@[simp] theorem State.updPart_linksDown (s : State) (n : Nat) (f : Part → Part) : (s.updPart n f).linksDown = s.linksDown := rfl
@[simp] theorem State.updPart_shut (s : State) (n : Nat) (f : Part → Part) : (s.updPart n f).shut = s.shut := rfl
@[simp] theorem State.updPart_parts (s : State) (n : Nat) (f : Part → Part) : (s.updPart n f).parts = updWhere (fun p => p.idx == n) f s.parts := rfl
@[simp] theorem State.updPart_mem (s : State) (n : Nat) (f : Part → Part) : (s.updPart n f).mem = s.mem := rfl
@[simp] theorem State.updPart_poison (s : State) (n : Nat) (f : Part → Part) : (s.updPart n f).poison = s.poison := rfl
@[simp] theorem State.updPart_hostMem (s : State) (n : Nat) (f : Part → Part) : (s.updPart n f).hostMem = s.hostMem := rfl
@[simp] theorem State.updPart_hot (s : State) (n : Nat) (f : Part → Part) : (s.updPart n f).hot = s.hot := rfl
@[simp] theorem State.updPart_rdc (s : State) (n : Nat) (f : Part → Part) : (s.updPart n f).rdc = s.rdc := rfl
@[simp] theorem State.updPart_vtab (s : State) (n : Nat) (f : Part → Part) : (s.updPart n f).vtab = s.vtab := rfl
@[simp] theorem State.updPart_tlb (s : State) (n : Nat) (f : Part → Part) : (s.updPart n f).tlb = s.tlb := rfl
@[simp] theorem State.updPart_kicks (s : State) (n : Nat) (f : Part → Part) : (s.updPart n f).kicks = s.kicks := rfl
@[simp] theorem State.updPart_nodes (s : State) (n : Nat) (f : Part → Part) : (s.updPart n f).nodes = s.nodes := rfl
@[simp] theorem State.updPart_clusters (s : State) (n : Nat) (f : Part → Part) : (s.updPart n f).clusters = s.clusters := rfl
@[simp] theorem State.updPart_wgs (s : State) (n : Nat) (f : Part → Part) : (s.updPart n f).wgs = s.wgs := rfl
@[simp] theorem State.updPart_gangs (s : State) (n : Nat) (f : Part → Part) : (s.updPart n f).gangs = s.gangs := rfl
@[simp] theorem State.updPart_threads (s : State) (n : Nat) (f : Part → Part) : (s.updPart n f).threads = s.threads := rfl
@[simp] theorem State.updPart_slices (s : State) (n : Nat) (f : Part → Part) : (s.updPart n f).slices = s.slices := rfl
@[simp] theorem State.updPart_lathes (s : State) (n : Nat) (f : Part → Part) : (s.updPart n f).lathes = s.lathes := rfl
@[simp] theorem State.updPart_eops (s : State) (n : Nat) (f : Part → Part) : (s.updPart n f).eops = s.eops := rfl
@[simp] theorem State.updPart_io (s : State) (n : Nat) (f : Part → Part) : (s.updPart n f).io = s.io := rfl
@[simp] theorem State.updPart_shoots (s : State) (n : Nat) (f : Part → Part) : (s.updPart n f).shoots = s.shoots := rfl
@[simp] theorem State.updPart_sticky (s : State) (n : Nat) (f : Part → Part) : (s.updPart n f).sticky = s.sticky := rfl
@[simp] theorem State.updPart_sends (s : State) (n : Nat) (f : Part → Part) : (s.updPart n f).sends = s.sends := rfl
@[simp] theorem State.updPart_contribs (s : State) (n : Nat) (f : Part → Part) : (s.updPart n f).contribs = s.contribs := rfl
@[simp] theorem State.updPart_reds (s : State) (n : Nat) (f : Part → Part) : (s.updPart n f).reds = s.reds := rfl
@[simp] theorem State.updPart_heldNotices (s : State) (n : Nat) (f : Part → Part) : (s.updPart n f).heldNotices = s.heldNotices := rfl
@[simp] theorem State.updPart_results (s : State) (n : Nat) (f : Part → Part) : (s.updPart n f).results = s.results := rfl
@[simp] theorem State.updPart_outbox (s : State) (n : Nat) (f : Part → Part) : (s.updPart n f).outbox = s.outbox := rfl
@[simp] theorem State.updPart_holdup (s : State) (n : Nat) (f : Part → Part) : (s.updPart n f).holdup = s.holdup := rfl
@[simp] theorem State.updPart_energy (s : State) (n : Nat) (f : Part → Part) : (s.updPart n f).energy = s.energy := rfl
@[simp] theorem State.updPart_epoch (s : State) (n : Nat) (f : Part → Part) : (s.updPart n f).epoch = s.epoch := rfl
@[simp] theorem State.updPart_reported (s : State) (n : Nat) (f : Part → Part) : (s.updPart n f).reported = s.reported := rfl
@[simp] theorem State.updPart_usTrigger (s : State) (n : Nat) (f : Part → Part) : (s.updPart n f).usTrigger = s.usTrigger := rfl
@[simp] theorem State.updPart_store (s : State) (n : Nat) (f : Part → Part) : (s.updPart n f).store = s.store := rfl
@[simp] theorem State.updPart_storing (s : State) (n : Nat) (f : Part → Part) : (s.updPart n f).storing = s.storing := rfl
@[simp] theorem State.updPart_records (s : State) (n : Nat) (f : Part → Part) : (s.updPart n f).records = s.records := rfl
@[simp] theorem State.updPart_seals (s : State) (n : Nat) (f : Part → Part) : (s.updPart n f).seals = s.seals := rfl
@[simp] theorem State.updPart_lineage (s : State) (n : Nat) (f : Part → Part) : (s.updPart n f).lineage = s.lineage := rfl
@[simp] theorem State.updPart_xidx (s : State) (n : Nat) (f : Part → Part) : (s.updPart n f).xidx = s.xidx := rfl
@[simp] theorem State.updPart_risk (s : State) (n : Nat) (f : Part → Part) : (s.updPart n f).risk = s.risk := rfl
@[simp] theorem State.updPart_corrected (s : State) (n : Nat) (f : Part → Part) : (s.updPart n f).corrected = s.corrected := rfl
@[simp] theorem State.updPart_droops (s : State) (n : Nat) (f : Part → Part) : (s.updPart n f).droops = s.droops := rfl
@[simp] theorem State.updPart_retrains (s : State) (n : Nat) (f : Part → Part) : (s.updPart n f).retrains = s.retrains := rfl
@[simp] theorem State.updPart_mismatches (s : State) (n : Nat) (f : Part → Part) : (s.updPart n f).mismatches = s.mismatches := rfl
@[simp] theorem State.updPart_hottest (s : State) (n : Nat) (f : Part → Part) : (s.updPart n f).hottest = s.hottest := rfl
@[simp] theorem State.updPart_powerW (s : State) (n : Nat) (f : Part → Part) : (s.updPart n f).powerW = s.powerW := rfl
@[simp] theorem State.updPart_drift (s : State) (n : Nat) (f : Part → Part) : (s.updPart n f).drift = s.drift := rfl
@[simp] theorem State.updPart_wild (s : State) (n : Nat) (f : Part → Part) : (s.updPart n f).wild = s.wild := rfl
@[simp] theorem State.updPart_saves (s : State) (n : Nat) (f : Part → Part) : (s.updPart n f).saves = s.saves := rfl
@[simp] theorem State.updPart_hb (s : State) (n : Nat) (f : Part → Part) : (s.updPart n f).hb = s.hb := rfl
@[simp] theorem State.updPart_landing (s : State) (n : Nat) (f : Part → Part) : (s.updPart n f).landing = s.landing := rfl
@[simp] theorem State.updPart_byteStart (s : State) (n : Nat) (f : Part → Part) : (s.updPart n f).byteStart = s.byteStart := rfl

/-! ### `updCluster` -/

@[simp] theorem State.updCluster_agenda (s : State) (u : Nat) (f : Cluster → Cluster) : (s.updCluster u f).agenda = s.agenda := rfl
@[simp] theorem State.updCluster_tick (s : State) (u : Nat) (f : Cluster → Cluster) : (s.updCluster u f).tick = s.tick := rfl
@[simp] theorem State.updCluster_turns (s : State) (u : Nat) (f : Cluster → Cluster) : (s.updCluster u f).turns = s.turns := rfl
@[simp] theorem State.updCluster_since (s : State) (u : Nat) (f : Cluster → Cluster) : (s.updCluster u f).since = s.since := rfl
@[simp] theorem State.updCluster_owed (s : State) (u : Nat) (f : Cluster → Cluster) : (s.updCluster u f).owed = s.owed := rfl
@[simp] theorem State.updCluster_gloads (s : State) (u : Nat) (f : Cluster → Cluster) : (s.updCluster u f).gloads = s.gloads := rfl
@[simp] theorem State.updCluster_uid (s : State) (u : Nat) (f : Cluster → Cluster) : (s.updCluster u f).uid = s.uid := rfl
@[simp] theorem State.updCluster_cur (s : State) (u : Nat) (f : Cluster → Cluster) : (s.updCluster u f).cur = s.cur := rfl
@[simp] theorem State.updCluster_sliceClk (s : State) (u : Nat) (f : Cluster → Cluster) : (s.updCluster u f).sliceClk = s.sliceClk := rfl
@[simp] theorem State.updCluster_spindleClk (s : State) (u : Nat) (f : Cluster → Cluster) : (s.updCluster u f).spindleClk = s.spindleClk := rfl
@[simp] theorem State.updCluster_headClk (s : State) (u : Nat) (f : Cluster → Cluster) : (s.updCluster u f).headClk = s.headClk := rfl
@[simp] theorem State.updCluster_sealClk (s : State) (u : Nat) (f : Cluster → Cluster) : (s.updCluster u f).sealClk = s.sealClk := rfl
@[simp] theorem State.updCluster_monClk (s : State) (u : Nat) (f : Cluster → Cluster) : (s.updCluster u f).monClk = s.monClk := rfl
@[simp] theorem State.updCluster_sampleClk (s : State) (u : Nat) (f : Cluster → Cluster) : (s.updCluster u f).sampleClk = s.sampleClk := rfl
@[simp] theorem State.updCluster_clkZero (s : State) (u : Nat) (f : Cluster → Cluster) : (s.updCluster u f).clkZero = s.clkZero := rfl
@[simp] theorem State.updCluster_supply (s : State) (u : Nat) (f : Cluster → Cluster) : (s.updCluster u f).supply = s.supply := rfl
@[simp] theorem State.updCluster_ready (s : State) (u : Nat) (f : Cluster → Cluster) : (s.updCluster u f).ready = s.ready := rfl
@[simp] theorem State.updCluster_pcmdBusy (s : State) (u : Nat) (f : Cluster → Cluster) : (s.updCluster u f).pcmdBusy = s.pcmdBusy := rfl
@[simp] theorem State.updCluster_pcmdResult (s : State) (u : Nat) (f : Cluster → Cluster) : (s.updCluster u f).pcmdResult = s.pcmdResult := rfl
@[simp] theorem State.updCluster_pcmdPart (s : State) (u : Nat) (f : Cluster → Cluster) : (s.updCluster u f).pcmdPart = s.pcmdPart := rfl
@[simp] theorem State.updCluster_pcmdCmd (s : State) (u : Nat) (f : Cluster → Cluster) : (s.updCluster u f).pcmdCmd = s.pcmdCmd := rfl
@[simp] theorem State.updCluster_pcmdLost (s : State) (u : Nat) (f : Cluster → Cluster) : (s.updCluster u f).pcmdLost = s.pcmdLost := rfl
@[simp] theorem State.updCluster_vfmap (s : State) (u : Nat) (f : Cluster → Cluster) : (s.updCluster u f).vfmap = s.vfmap := rfl
@[simp] theorem State.updCluster_epmap (s : State) (u : Nat) (f : Cluster → Cluster) : (s.updCluster u f).epmap = s.epmap := rfl
@[simp] theorem State.updCluster_gmap (s : State) (u : Nat) (f : Cluster → Cluster) : (s.updCluster u f).gmap = s.gmap := rfl
@[simp] theorem State.updCluster_scrub (s : State) (u : Nat) (f : Cluster → Cluster) : (s.updCluster u f).scrub = s.scrub := rfl
@[simp] theorem State.updCluster_grants (s : State) (u : Nat) (f : Cluster → Cluster) : (s.updCluster u f).grants = s.grants := rfl
@[simp] theorem State.updCluster_devNum (s : State) (u : Nat) (f : Cluster → Cluster) : (s.updCluster u f).devNum = s.devNum := rfl
@[simp] theorem State.updCluster_linksDown (s : State) (u : Nat) (f : Cluster → Cluster) : (s.updCluster u f).linksDown = s.linksDown := rfl
@[simp] theorem State.updCluster_shut (s : State) (u : Nat) (f : Cluster → Cluster) : (s.updCluster u f).shut = s.shut := rfl
@[simp] theorem State.updCluster_parts (s : State) (u : Nat) (f : Cluster → Cluster) : (s.updCluster u f).parts = s.parts := rfl
@[simp] theorem State.updCluster_mem (s : State) (u : Nat) (f : Cluster → Cluster) : (s.updCluster u f).mem = s.mem := rfl
@[simp] theorem State.updCluster_poison (s : State) (u : Nat) (f : Cluster → Cluster) : (s.updCluster u f).poison = s.poison := rfl
@[simp] theorem State.updCluster_hostMem (s : State) (u : Nat) (f : Cluster → Cluster) : (s.updCluster u f).hostMem = s.hostMem := rfl
@[simp] theorem State.updCluster_hot (s : State) (u : Nat) (f : Cluster → Cluster) : (s.updCluster u f).hot = s.hot := rfl
@[simp] theorem State.updCluster_rdc (s : State) (u : Nat) (f : Cluster → Cluster) : (s.updCluster u f).rdc = s.rdc := rfl
@[simp] theorem State.updCluster_vtab (s : State) (u : Nat) (f : Cluster → Cluster) : (s.updCluster u f).vtab = s.vtab := rfl
@[simp] theorem State.updCluster_tlb (s : State) (u : Nat) (f : Cluster → Cluster) : (s.updCluster u f).tlb = s.tlb := rfl
@[simp] theorem State.updCluster_kicks (s : State) (u : Nat) (f : Cluster → Cluster) : (s.updCluster u f).kicks = s.kicks := rfl
@[simp] theorem State.updCluster_nodes (s : State) (u : Nat) (f : Cluster → Cluster) : (s.updCluster u f).nodes = s.nodes := rfl
@[simp] theorem State.updCluster_clusters (s : State) (u : Nat) (f : Cluster → Cluster) : (s.updCluster u f).clusters = updWhere (fun c => c.uid == u) f s.clusters := rfl
@[simp] theorem State.updCluster_wgs (s : State) (u : Nat) (f : Cluster → Cluster) : (s.updCluster u f).wgs = s.wgs := rfl
@[simp] theorem State.updCluster_gangs (s : State) (u : Nat) (f : Cluster → Cluster) : (s.updCluster u f).gangs = s.gangs := rfl
@[simp] theorem State.updCluster_threads (s : State) (u : Nat) (f : Cluster → Cluster) : (s.updCluster u f).threads = s.threads := rfl
@[simp] theorem State.updCluster_slices (s : State) (u : Nat) (f : Cluster → Cluster) : (s.updCluster u f).slices = s.slices := rfl
@[simp] theorem State.updCluster_lathes (s : State) (u : Nat) (f : Cluster → Cluster) : (s.updCluster u f).lathes = s.lathes := rfl
@[simp] theorem State.updCluster_eops (s : State) (u : Nat) (f : Cluster → Cluster) : (s.updCluster u f).eops = s.eops := rfl
@[simp] theorem State.updCluster_io (s : State) (u : Nat) (f : Cluster → Cluster) : (s.updCluster u f).io = s.io := rfl
@[simp] theorem State.updCluster_shoots (s : State) (u : Nat) (f : Cluster → Cluster) : (s.updCluster u f).shoots = s.shoots := rfl
@[simp] theorem State.updCluster_sticky (s : State) (u : Nat) (f : Cluster → Cluster) : (s.updCluster u f).sticky = s.sticky := rfl
@[simp] theorem State.updCluster_sends (s : State) (u : Nat) (f : Cluster → Cluster) : (s.updCluster u f).sends = s.sends := rfl
@[simp] theorem State.updCluster_contribs (s : State) (u : Nat) (f : Cluster → Cluster) : (s.updCluster u f).contribs = s.contribs := rfl
@[simp] theorem State.updCluster_reds (s : State) (u : Nat) (f : Cluster → Cluster) : (s.updCluster u f).reds = s.reds := rfl
@[simp] theorem State.updCluster_heldNotices (s : State) (u : Nat) (f : Cluster → Cluster) : (s.updCluster u f).heldNotices = s.heldNotices := rfl
@[simp] theorem State.updCluster_results (s : State) (u : Nat) (f : Cluster → Cluster) : (s.updCluster u f).results = s.results := rfl
@[simp] theorem State.updCluster_outbox (s : State) (u : Nat) (f : Cluster → Cluster) : (s.updCluster u f).outbox = s.outbox := rfl
@[simp] theorem State.updCluster_holdup (s : State) (u : Nat) (f : Cluster → Cluster) : (s.updCluster u f).holdup = s.holdup := rfl
@[simp] theorem State.updCluster_energy (s : State) (u : Nat) (f : Cluster → Cluster) : (s.updCluster u f).energy = s.energy := rfl
@[simp] theorem State.updCluster_epoch (s : State) (u : Nat) (f : Cluster → Cluster) : (s.updCluster u f).epoch = s.epoch := rfl
@[simp] theorem State.updCluster_reported (s : State) (u : Nat) (f : Cluster → Cluster) : (s.updCluster u f).reported = s.reported := rfl
@[simp] theorem State.updCluster_usTrigger (s : State) (u : Nat) (f : Cluster → Cluster) : (s.updCluster u f).usTrigger = s.usTrigger := rfl
@[simp] theorem State.updCluster_store (s : State) (u : Nat) (f : Cluster → Cluster) : (s.updCluster u f).store = s.store := rfl
@[simp] theorem State.updCluster_storing (s : State) (u : Nat) (f : Cluster → Cluster) : (s.updCluster u f).storing = s.storing := rfl
@[simp] theorem State.updCluster_records (s : State) (u : Nat) (f : Cluster → Cluster) : (s.updCluster u f).records = s.records := rfl
@[simp] theorem State.updCluster_seals (s : State) (u : Nat) (f : Cluster → Cluster) : (s.updCluster u f).seals = s.seals := rfl
@[simp] theorem State.updCluster_lineage (s : State) (u : Nat) (f : Cluster → Cluster) : (s.updCluster u f).lineage = s.lineage := rfl
@[simp] theorem State.updCluster_xidx (s : State) (u : Nat) (f : Cluster → Cluster) : (s.updCluster u f).xidx = s.xidx := rfl
@[simp] theorem State.updCluster_risk (s : State) (u : Nat) (f : Cluster → Cluster) : (s.updCluster u f).risk = s.risk := rfl
@[simp] theorem State.updCluster_corrected (s : State) (u : Nat) (f : Cluster → Cluster) : (s.updCluster u f).corrected = s.corrected := rfl
@[simp] theorem State.updCluster_droops (s : State) (u : Nat) (f : Cluster → Cluster) : (s.updCluster u f).droops = s.droops := rfl
@[simp] theorem State.updCluster_retrains (s : State) (u : Nat) (f : Cluster → Cluster) : (s.updCluster u f).retrains = s.retrains := rfl
@[simp] theorem State.updCluster_mismatches (s : State) (u : Nat) (f : Cluster → Cluster) : (s.updCluster u f).mismatches = s.mismatches := rfl
@[simp] theorem State.updCluster_hottest (s : State) (u : Nat) (f : Cluster → Cluster) : (s.updCluster u f).hottest = s.hottest := rfl
@[simp] theorem State.updCluster_powerW (s : State) (u : Nat) (f : Cluster → Cluster) : (s.updCluster u f).powerW = s.powerW := rfl
@[simp] theorem State.updCluster_drift (s : State) (u : Nat) (f : Cluster → Cluster) : (s.updCluster u f).drift = s.drift := rfl
@[simp] theorem State.updCluster_wild (s : State) (u : Nat) (f : Cluster → Cluster) : (s.updCluster u f).wild = s.wild := rfl
@[simp] theorem State.updCluster_saves (s : State) (u : Nat) (f : Cluster → Cluster) : (s.updCluster u f).saves = s.saves := rfl
@[simp] theorem State.updCluster_hb (s : State) (u : Nat) (f : Cluster → Cluster) : (s.updCluster u f).hb = s.hb := rfl
@[simp] theorem State.updCluster_landing (s : State) (u : Nat) (f : Cluster → Cluster) : (s.updCluster u f).landing = s.landing := rfl
@[simp] theorem State.updCluster_byteStart (s : State) (u : Nat) (f : Cluster → Cluster) : (s.updCluster u f).byteStart = s.byteStart := rfl

/-! ### `updNode` -/

@[simp] theorem State.updNode_agenda (s : State) (u : Nat) (f : Node → Node) : (s.updNode u f).agenda = s.agenda := rfl
@[simp] theorem State.updNode_tick (s : State) (u : Nat) (f : Node → Node) : (s.updNode u f).tick = s.tick := rfl
@[simp] theorem State.updNode_turns (s : State) (u : Nat) (f : Node → Node) : (s.updNode u f).turns = s.turns := rfl
@[simp] theorem State.updNode_since (s : State) (u : Nat) (f : Node → Node) : (s.updNode u f).since = s.since := rfl
@[simp] theorem State.updNode_owed (s : State) (u : Nat) (f : Node → Node) : (s.updNode u f).owed = s.owed := rfl
@[simp] theorem State.updNode_gloads (s : State) (u : Nat) (f : Node → Node) : (s.updNode u f).gloads = s.gloads := rfl
@[simp] theorem State.updNode_uid (s : State) (u : Nat) (f : Node → Node) : (s.updNode u f).uid = s.uid := rfl
@[simp] theorem State.updNode_cur (s : State) (u : Nat) (f : Node → Node) : (s.updNode u f).cur = s.cur := rfl
@[simp] theorem State.updNode_sliceClk (s : State) (u : Nat) (f : Node → Node) : (s.updNode u f).sliceClk = s.sliceClk := rfl
@[simp] theorem State.updNode_spindleClk (s : State) (u : Nat) (f : Node → Node) : (s.updNode u f).spindleClk = s.spindleClk := rfl
@[simp] theorem State.updNode_headClk (s : State) (u : Nat) (f : Node → Node) : (s.updNode u f).headClk = s.headClk := rfl
@[simp] theorem State.updNode_sealClk (s : State) (u : Nat) (f : Node → Node) : (s.updNode u f).sealClk = s.sealClk := rfl
@[simp] theorem State.updNode_monClk (s : State) (u : Nat) (f : Node → Node) : (s.updNode u f).monClk = s.monClk := rfl
@[simp] theorem State.updNode_sampleClk (s : State) (u : Nat) (f : Node → Node) : (s.updNode u f).sampleClk = s.sampleClk := rfl
@[simp] theorem State.updNode_clkZero (s : State) (u : Nat) (f : Node → Node) : (s.updNode u f).clkZero = s.clkZero := rfl
@[simp] theorem State.updNode_supply (s : State) (u : Nat) (f : Node → Node) : (s.updNode u f).supply = s.supply := rfl
@[simp] theorem State.updNode_ready (s : State) (u : Nat) (f : Node → Node) : (s.updNode u f).ready = s.ready := rfl
@[simp] theorem State.updNode_pcmdBusy (s : State) (u : Nat) (f : Node → Node) : (s.updNode u f).pcmdBusy = s.pcmdBusy := rfl
@[simp] theorem State.updNode_pcmdResult (s : State) (u : Nat) (f : Node → Node) : (s.updNode u f).pcmdResult = s.pcmdResult := rfl
@[simp] theorem State.updNode_pcmdPart (s : State) (u : Nat) (f : Node → Node) : (s.updNode u f).pcmdPart = s.pcmdPart := rfl
@[simp] theorem State.updNode_pcmdCmd (s : State) (u : Nat) (f : Node → Node) : (s.updNode u f).pcmdCmd = s.pcmdCmd := rfl
@[simp] theorem State.updNode_pcmdLost (s : State) (u : Nat) (f : Node → Node) : (s.updNode u f).pcmdLost = s.pcmdLost := rfl
@[simp] theorem State.updNode_vfmap (s : State) (u : Nat) (f : Node → Node) : (s.updNode u f).vfmap = s.vfmap := rfl
@[simp] theorem State.updNode_epmap (s : State) (u : Nat) (f : Node → Node) : (s.updNode u f).epmap = s.epmap := rfl
@[simp] theorem State.updNode_gmap (s : State) (u : Nat) (f : Node → Node) : (s.updNode u f).gmap = s.gmap := rfl
@[simp] theorem State.updNode_scrub (s : State) (u : Nat) (f : Node → Node) : (s.updNode u f).scrub = s.scrub := rfl
@[simp] theorem State.updNode_grants (s : State) (u : Nat) (f : Node → Node) : (s.updNode u f).grants = s.grants := rfl
@[simp] theorem State.updNode_devNum (s : State) (u : Nat) (f : Node → Node) : (s.updNode u f).devNum = s.devNum := rfl
@[simp] theorem State.updNode_linksDown (s : State) (u : Nat) (f : Node → Node) : (s.updNode u f).linksDown = s.linksDown := rfl
@[simp] theorem State.updNode_shut (s : State) (u : Nat) (f : Node → Node) : (s.updNode u f).shut = s.shut := rfl
@[simp] theorem State.updNode_parts (s : State) (u : Nat) (f : Node → Node) : (s.updNode u f).parts = s.parts := rfl
@[simp] theorem State.updNode_mem (s : State) (u : Nat) (f : Node → Node) : (s.updNode u f).mem = s.mem := rfl
@[simp] theorem State.updNode_poison (s : State) (u : Nat) (f : Node → Node) : (s.updNode u f).poison = s.poison := rfl
@[simp] theorem State.updNode_hostMem (s : State) (u : Nat) (f : Node → Node) : (s.updNode u f).hostMem = s.hostMem := rfl
@[simp] theorem State.updNode_hot (s : State) (u : Nat) (f : Node → Node) : (s.updNode u f).hot = s.hot := rfl
@[simp] theorem State.updNode_rdc (s : State) (u : Nat) (f : Node → Node) : (s.updNode u f).rdc = s.rdc := rfl
@[simp] theorem State.updNode_vtab (s : State) (u : Nat) (f : Node → Node) : (s.updNode u f).vtab = s.vtab := rfl
@[simp] theorem State.updNode_tlb (s : State) (u : Nat) (f : Node → Node) : (s.updNode u f).tlb = s.tlb := rfl
@[simp] theorem State.updNode_kicks (s : State) (u : Nat) (f : Node → Node) : (s.updNode u f).kicks = s.kicks := rfl
@[simp] theorem State.updNode_nodes (s : State) (u : Nat) (f : Node → Node) : (s.updNode u f).nodes = updWhere (fun n => n.uid == u) f s.nodes := rfl
@[simp] theorem State.updNode_clusters (s : State) (u : Nat) (f : Node → Node) : (s.updNode u f).clusters = s.clusters := rfl
@[simp] theorem State.updNode_wgs (s : State) (u : Nat) (f : Node → Node) : (s.updNode u f).wgs = s.wgs := rfl
@[simp] theorem State.updNode_gangs (s : State) (u : Nat) (f : Node → Node) : (s.updNode u f).gangs = s.gangs := rfl
@[simp] theorem State.updNode_threads (s : State) (u : Nat) (f : Node → Node) : (s.updNode u f).threads = s.threads := rfl
@[simp] theorem State.updNode_slices (s : State) (u : Nat) (f : Node → Node) : (s.updNode u f).slices = s.slices := rfl
@[simp] theorem State.updNode_lathes (s : State) (u : Nat) (f : Node → Node) : (s.updNode u f).lathes = s.lathes := rfl
@[simp] theorem State.updNode_eops (s : State) (u : Nat) (f : Node → Node) : (s.updNode u f).eops = s.eops := rfl
@[simp] theorem State.updNode_io (s : State) (u : Nat) (f : Node → Node) : (s.updNode u f).io = s.io := rfl
@[simp] theorem State.updNode_shoots (s : State) (u : Nat) (f : Node → Node) : (s.updNode u f).shoots = s.shoots := rfl
@[simp] theorem State.updNode_sticky (s : State) (u : Nat) (f : Node → Node) : (s.updNode u f).sticky = s.sticky := rfl
@[simp] theorem State.updNode_sends (s : State) (u : Nat) (f : Node → Node) : (s.updNode u f).sends = s.sends := rfl
@[simp] theorem State.updNode_contribs (s : State) (u : Nat) (f : Node → Node) : (s.updNode u f).contribs = s.contribs := rfl
@[simp] theorem State.updNode_reds (s : State) (u : Nat) (f : Node → Node) : (s.updNode u f).reds = s.reds := rfl
@[simp] theorem State.updNode_heldNotices (s : State) (u : Nat) (f : Node → Node) : (s.updNode u f).heldNotices = s.heldNotices := rfl
@[simp] theorem State.updNode_results (s : State) (u : Nat) (f : Node → Node) : (s.updNode u f).results = s.results := rfl
@[simp] theorem State.updNode_outbox (s : State) (u : Nat) (f : Node → Node) : (s.updNode u f).outbox = s.outbox := rfl
@[simp] theorem State.updNode_holdup (s : State) (u : Nat) (f : Node → Node) : (s.updNode u f).holdup = s.holdup := rfl
@[simp] theorem State.updNode_energy (s : State) (u : Nat) (f : Node → Node) : (s.updNode u f).energy = s.energy := rfl
@[simp] theorem State.updNode_epoch (s : State) (u : Nat) (f : Node → Node) : (s.updNode u f).epoch = s.epoch := rfl
@[simp] theorem State.updNode_reported (s : State) (u : Nat) (f : Node → Node) : (s.updNode u f).reported = s.reported := rfl
@[simp] theorem State.updNode_usTrigger (s : State) (u : Nat) (f : Node → Node) : (s.updNode u f).usTrigger = s.usTrigger := rfl
@[simp] theorem State.updNode_store (s : State) (u : Nat) (f : Node → Node) : (s.updNode u f).store = s.store := rfl
@[simp] theorem State.updNode_storing (s : State) (u : Nat) (f : Node → Node) : (s.updNode u f).storing = s.storing := rfl
@[simp] theorem State.updNode_records (s : State) (u : Nat) (f : Node → Node) : (s.updNode u f).records = s.records := rfl
@[simp] theorem State.updNode_seals (s : State) (u : Nat) (f : Node → Node) : (s.updNode u f).seals = s.seals := rfl
@[simp] theorem State.updNode_lineage (s : State) (u : Nat) (f : Node → Node) : (s.updNode u f).lineage = s.lineage := rfl
@[simp] theorem State.updNode_xidx (s : State) (u : Nat) (f : Node → Node) : (s.updNode u f).xidx = s.xidx := rfl
@[simp] theorem State.updNode_risk (s : State) (u : Nat) (f : Node → Node) : (s.updNode u f).risk = s.risk := rfl
@[simp] theorem State.updNode_corrected (s : State) (u : Nat) (f : Node → Node) : (s.updNode u f).corrected = s.corrected := rfl
@[simp] theorem State.updNode_droops (s : State) (u : Nat) (f : Node → Node) : (s.updNode u f).droops = s.droops := rfl
@[simp] theorem State.updNode_retrains (s : State) (u : Nat) (f : Node → Node) : (s.updNode u f).retrains = s.retrains := rfl
@[simp] theorem State.updNode_mismatches (s : State) (u : Nat) (f : Node → Node) : (s.updNode u f).mismatches = s.mismatches := rfl
@[simp] theorem State.updNode_hottest (s : State) (u : Nat) (f : Node → Node) : (s.updNode u f).hottest = s.hottest := rfl
@[simp] theorem State.updNode_powerW (s : State) (u : Nat) (f : Node → Node) : (s.updNode u f).powerW = s.powerW := rfl
@[simp] theorem State.updNode_drift (s : State) (u : Nat) (f : Node → Node) : (s.updNode u f).drift = s.drift := rfl
@[simp] theorem State.updNode_wild (s : State) (u : Nat) (f : Node → Node) : (s.updNode u f).wild = s.wild := rfl
@[simp] theorem State.updNode_saves (s : State) (u : Nat) (f : Node → Node) : (s.updNode u f).saves = s.saves := rfl
@[simp] theorem State.updNode_hb (s : State) (u : Nat) (f : Node → Node) : (s.updNode u f).hb = s.hb := rfl
@[simp] theorem State.updNode_landing (s : State) (u : Nat) (f : Node → Node) : (s.updNode u f).landing = s.landing := rfl
@[simp] theorem State.updNode_byteStart (s : State) (u : Nat) (f : Node → Node) : (s.updNode u f).byteStart = s.byteStart := rfl

/-! ### `recall` -/

@[simp] theorem State.recall_agenda (s : State) (a n : Nat) : (s.recall a n).agenda = s.agenda := rfl
@[simp] theorem State.recall_tick (s : State) (a n : Nat) : (s.recall a n).tick = s.tick := rfl
@[simp] theorem State.recall_turns (s : State) (a n : Nat) : (s.recall a n).turns = s.turns := rfl
@[simp] theorem State.recall_since (s : State) (a n : Nat) : (s.recall a n).since = s.since := rfl
@[simp] theorem State.recall_owed (s : State) (a n : Nat) : (s.recall a n).owed = s.owed := rfl
@[simp] theorem State.recall_gloads (s : State) (a n : Nat) : (s.recall a n).gloads = s.gloads := rfl
@[simp] theorem State.recall_uid (s : State) (a n : Nat) : (s.recall a n).uid = s.uid := rfl
@[simp] theorem State.recall_cur (s : State) (a n : Nat) : (s.recall a n).cur = s.cur := rfl
@[simp] theorem State.recall_sliceClk (s : State) (a n : Nat) : (s.recall a n).sliceClk = s.sliceClk := rfl
@[simp] theorem State.recall_spindleClk (s : State) (a n : Nat) : (s.recall a n).spindleClk = s.spindleClk := rfl
@[simp] theorem State.recall_headClk (s : State) (a n : Nat) : (s.recall a n).headClk = s.headClk := rfl
@[simp] theorem State.recall_sealClk (s : State) (a n : Nat) : (s.recall a n).sealClk = s.sealClk := rfl
@[simp] theorem State.recall_monClk (s : State) (a n : Nat) : (s.recall a n).monClk = s.monClk := rfl
@[simp] theorem State.recall_sampleClk (s : State) (a n : Nat) : (s.recall a n).sampleClk = s.sampleClk := rfl
@[simp] theorem State.recall_clkZero (s : State) (a n : Nat) : (s.recall a n).clkZero = s.clkZero := rfl
@[simp] theorem State.recall_supply (s : State) (a n : Nat) : (s.recall a n).supply = s.supply := rfl
@[simp] theorem State.recall_ready (s : State) (a n : Nat) : (s.recall a n).ready = s.ready := rfl
@[simp] theorem State.recall_pcmdBusy (s : State) (a n : Nat) : (s.recall a n).pcmdBusy = s.pcmdBusy := rfl
@[simp] theorem State.recall_pcmdResult (s : State) (a n : Nat) : (s.recall a n).pcmdResult = s.pcmdResult := rfl
@[simp] theorem State.recall_pcmdPart (s : State) (a n : Nat) : (s.recall a n).pcmdPart = s.pcmdPart := rfl
@[simp] theorem State.recall_pcmdCmd (s : State) (a n : Nat) : (s.recall a n).pcmdCmd = s.pcmdCmd := rfl
@[simp] theorem State.recall_pcmdLost (s : State) (a n : Nat) : (s.recall a n).pcmdLost = s.pcmdLost := rfl
@[simp] theorem State.recall_vfmap (s : State) (a n : Nat) : (s.recall a n).vfmap = s.vfmap := rfl
@[simp] theorem State.recall_epmap (s : State) (a n : Nat) : (s.recall a n).epmap = s.epmap := rfl
@[simp] theorem State.recall_gmap (s : State) (a n : Nat) : (s.recall a n).gmap = s.gmap := rfl
@[simp] theorem State.recall_scrub (s : State) (a n : Nat) : (s.recall a n).scrub = s.scrub := rfl
@[simp] theorem State.recall_grants (s : State) (a n : Nat) : (s.recall a n).grants = s.grants := rfl
@[simp] theorem State.recall_devNum (s : State) (a n : Nat) : (s.recall a n).devNum = s.devNum := rfl
@[simp] theorem State.recall_linksDown (s : State) (a n : Nat) : (s.recall a n).linksDown = s.linksDown := rfl
@[simp] theorem State.recall_shut (s : State) (a n : Nat) : (s.recall a n).shut = s.shut := rfl
@[simp] theorem State.recall_parts (s : State) (a n : Nat) : (s.recall a n).parts = s.parts := rfl
@[simp] theorem State.recall_mem (s : State) (a n : Nat) : (s.recall a n).mem = s.mem := rfl
@[simp] theorem State.recall_poison (s : State) (a n : Nat) : (s.recall a n).poison = s.poison := rfl
@[simp] theorem State.recall_hostMem (s : State) (a n : Nat) : (s.recall a n).hostMem = s.hostMem := rfl
@[simp] theorem State.recall_hot (s : State) (a n : Nat) : (s.recall a n).hot = s.hot.filter fun w => !(lineOf a ≤ lineOf (8 * w) && lineOf (8 * w) ≤ lineOf (a + n - 1)) := rfl
@[simp] theorem State.recall_rdc (s : State) (a n : Nat) : (s.recall a n).rdc = s.rdc := rfl
@[simp] theorem State.recall_vtab (s : State) (a n : Nat) : (s.recall a n).vtab = s.vtab := rfl
@[simp] theorem State.recall_tlb (s : State) (a n : Nat) : (s.recall a n).tlb = s.tlb := rfl
@[simp] theorem State.recall_kicks (s : State) (a n : Nat) : (s.recall a n).kicks = s.kicks := rfl
@[simp] theorem State.recall_nodes (s : State) (a n : Nat) : (s.recall a n).nodes = s.nodes := rfl
@[simp] theorem State.recall_clusters (s : State) (a n : Nat) : (s.recall a n).clusters = s.clusters := rfl
@[simp] theorem State.recall_wgs (s : State) (a n : Nat) : (s.recall a n).wgs = s.wgs := rfl
@[simp] theorem State.recall_gangs (s : State) (a n : Nat) : (s.recall a n).gangs = s.gangs := rfl
@[simp] theorem State.recall_threads (s : State) (a n : Nat) : (s.recall a n).threads = s.threads := rfl
@[simp] theorem State.recall_slices (s : State) (a n : Nat) : (s.recall a n).slices = s.slices := rfl
@[simp] theorem State.recall_lathes (s : State) (a n : Nat) : (s.recall a n).lathes = s.lathes := rfl
@[simp] theorem State.recall_eops (s : State) (a n : Nat) : (s.recall a n).eops = s.eops := rfl
@[simp] theorem State.recall_io (s : State) (a n : Nat) : (s.recall a n).io = s.io := rfl
@[simp] theorem State.recall_shoots (s : State) (a n : Nat) : (s.recall a n).shoots = s.shoots := rfl
@[simp] theorem State.recall_sticky (s : State) (a n : Nat) : (s.recall a n).sticky = s.sticky := rfl
@[simp] theorem State.recall_sends (s : State) (a n : Nat) : (s.recall a n).sends = s.sends := rfl
@[simp] theorem State.recall_contribs (s : State) (a n : Nat) : (s.recall a n).contribs = s.contribs := rfl
@[simp] theorem State.recall_reds (s : State) (a n : Nat) : (s.recall a n).reds = s.reds := rfl
@[simp] theorem State.recall_heldNotices (s : State) (a n : Nat) : (s.recall a n).heldNotices = s.heldNotices := rfl
@[simp] theorem State.recall_results (s : State) (a n : Nat) : (s.recall a n).results = s.results := rfl
@[simp] theorem State.recall_outbox (s : State) (a n : Nat) : (s.recall a n).outbox = s.outbox := rfl
@[simp] theorem State.recall_holdup (s : State) (a n : Nat) : (s.recall a n).holdup = s.holdup := rfl
@[simp] theorem State.recall_energy (s : State) (a n : Nat) : (s.recall a n).energy = s.energy := rfl
@[simp] theorem State.recall_epoch (s : State) (a n : Nat) : (s.recall a n).epoch = s.epoch := rfl
@[simp] theorem State.recall_reported (s : State) (a n : Nat) : (s.recall a n).reported = s.reported := rfl
@[simp] theorem State.recall_usTrigger (s : State) (a n : Nat) : (s.recall a n).usTrigger = s.usTrigger := rfl
@[simp] theorem State.recall_store (s : State) (a n : Nat) : (s.recall a n).store = s.store := rfl
@[simp] theorem State.recall_storing (s : State) (a n : Nat) : (s.recall a n).storing = s.storing := rfl
@[simp] theorem State.recall_records (s : State) (a n : Nat) : (s.recall a n).records = s.records := rfl
@[simp] theorem State.recall_seals (s : State) (a n : Nat) : (s.recall a n).seals = s.seals := rfl
@[simp] theorem State.recall_lineage (s : State) (a n : Nat) : (s.recall a n).lineage = s.lineage := rfl
@[simp] theorem State.recall_xidx (s : State) (a n : Nat) : (s.recall a n).xidx = s.xidx := rfl
@[simp] theorem State.recall_risk (s : State) (a n : Nat) : (s.recall a n).risk = s.risk := rfl
@[simp] theorem State.recall_corrected (s : State) (a n : Nat) : (s.recall a n).corrected = s.corrected := rfl
@[simp] theorem State.recall_droops (s : State) (a n : Nat) : (s.recall a n).droops = s.droops := rfl
@[simp] theorem State.recall_retrains (s : State) (a n : Nat) : (s.recall a n).retrains = s.retrains := rfl
@[simp] theorem State.recall_mismatches (s : State) (a n : Nat) : (s.recall a n).mismatches = s.mismatches := rfl
@[simp] theorem State.recall_hottest (s : State) (a n : Nat) : (s.recall a n).hottest = s.hottest := rfl
@[simp] theorem State.recall_powerW (s : State) (a n : Nat) : (s.recall a n).powerW = s.powerW := rfl
@[simp] theorem State.recall_drift (s : State) (a n : Nat) : (s.recall a n).drift = s.drift := rfl
@[simp] theorem State.recall_wild (s : State) (a n : Nat) : (s.recall a n).wild = s.wild := rfl
@[simp] theorem State.recall_saves (s : State) (a n : Nat) : (s.recall a n).saves = s.saves := rfl
@[simp] theorem State.recall_hb (s : State) (a n : Nat) : (s.recall a n).hb = s.hb := rfl
@[simp] theorem State.recall_landing (s : State) (a n : Nat) : (s.recall a n).landing = s.landing := rfl
@[simp] theorem State.recall_byteStart (s : State) (a n : Nat) : (s.recall a n).byteStart = s.byteStart := rfl

/-! ### `noteOld` -/

@[simp] theorem State.noteOld_agenda (s : State) (a : SyncAt) (bs : List Byte) (i : Option Nat) : (s.noteOld a bs i).agenda = s.agenda := by unfold State.noteOld; split <;> rfl
@[simp] theorem State.noteOld_turns (s : State) (a : SyncAt) (bs : List Byte) (i : Option Nat) : (s.noteOld a bs i).turns = s.turns := by unfold State.noteOld; split <;> rfl
@[simp] theorem State.noteOld_since (s : State) (a : SyncAt) (bs : List Byte) (i : Option Nat) : (s.noteOld a bs i).since = s.since := by unfold State.noteOld; split <;> rfl
@[simp] theorem State.noteOld_owed (s : State) (a : SyncAt) (bs : List Byte) (i : Option Nat) : (s.noteOld a bs i).owed = s.owed := by unfold State.noteOld; split <;> rfl
@[simp] theorem State.noteOld_tick (s : State) (a : SyncAt) (bs : List Byte) (i : Option Nat) : (s.noteOld a bs i).tick = s.tick := by unfold State.noteOld; split <;> rfl
@[simp] theorem State.noteOld_uid (s : State) (a : SyncAt) (bs : List Byte) (i : Option Nat) : (s.noteOld a bs i).uid = s.uid := by unfold State.noteOld; split <;> rfl
@[simp] theorem State.noteOld_cur (s : State) (a : SyncAt) (bs : List Byte) (i : Option Nat) : (s.noteOld a bs i).cur = s.cur := by unfold State.noteOld; split <;> rfl
@[simp] theorem State.noteOld_sliceClk (s : State) (a : SyncAt) (bs : List Byte) (i : Option Nat) : (s.noteOld a bs i).sliceClk = s.sliceClk := by unfold State.noteOld; split <;> rfl
@[simp] theorem State.noteOld_spindleClk (s : State) (a : SyncAt) (bs : List Byte) (i : Option Nat) : (s.noteOld a bs i).spindleClk = s.spindleClk := by unfold State.noteOld; split <;> rfl
@[simp] theorem State.noteOld_headClk (s : State) (a : SyncAt) (bs : List Byte) (i : Option Nat) : (s.noteOld a bs i).headClk = s.headClk := by unfold State.noteOld; split <;> rfl
@[simp] theorem State.noteOld_sealClk (s : State) (a : SyncAt) (bs : List Byte) (i : Option Nat) : (s.noteOld a bs i).sealClk = s.sealClk := by unfold State.noteOld; split <;> rfl
@[simp] theorem State.noteOld_monClk (s : State) (a : SyncAt) (bs : List Byte) (i : Option Nat) : (s.noteOld a bs i).monClk = s.monClk := by unfold State.noteOld; split <;> rfl
@[simp] theorem State.noteOld_sampleClk (s : State) (a : SyncAt) (bs : List Byte) (i : Option Nat) : (s.noteOld a bs i).sampleClk = s.sampleClk := by unfold State.noteOld; split <;> rfl
@[simp] theorem State.noteOld_clkZero (s : State) (a : SyncAt) (bs : List Byte) (i : Option Nat) : (s.noteOld a bs i).clkZero = s.clkZero := by unfold State.noteOld; split <;> rfl
@[simp] theorem State.noteOld_drift (s : State) (a : SyncAt) (bs : List Byte) (i : Option Nat) : (s.noteOld a bs i).drift = s.drift := by unfold State.noteOld; split <;> rfl
@[simp] theorem State.noteOld_supply (s : State) (a : SyncAt) (bs : List Byte) (i : Option Nat) : (s.noteOld a bs i).supply = s.supply := by unfold State.noteOld; split <;> rfl
@[simp] theorem State.noteOld_ready (s : State) (a : SyncAt) (bs : List Byte) (i : Option Nat) : (s.noteOld a bs i).ready = s.ready := by unfold State.noteOld; split <;> rfl
@[simp] theorem State.noteOld_pcmdBusy (s : State) (a : SyncAt) (bs : List Byte) (i : Option Nat) : (s.noteOld a bs i).pcmdBusy = s.pcmdBusy := by unfold State.noteOld; split <;> rfl
@[simp] theorem State.noteOld_pcmdResult (s : State) (a : SyncAt) (bs : List Byte) (i : Option Nat) : (s.noteOld a bs i).pcmdResult = s.pcmdResult := by unfold State.noteOld; split <;> rfl
@[simp] theorem State.noteOld_pcmdPart (s : State) (a : SyncAt) (bs : List Byte) (i : Option Nat) : (s.noteOld a bs i).pcmdPart = s.pcmdPart := by unfold State.noteOld; split <;> rfl
@[simp] theorem State.noteOld_pcmdCmd (s : State) (a : SyncAt) (bs : List Byte) (i : Option Nat) : (s.noteOld a bs i).pcmdCmd = s.pcmdCmd := by unfold State.noteOld; split <;> rfl
@[simp] theorem State.noteOld_pcmdLost (s : State) (a : SyncAt) (bs : List Byte) (i : Option Nat) : (s.noteOld a bs i).pcmdLost = s.pcmdLost := by unfold State.noteOld; split <;> rfl
@[simp] theorem State.noteOld_vfmap (s : State) (a : SyncAt) (bs : List Byte) (i : Option Nat) : (s.noteOld a bs i).vfmap = s.vfmap := by unfold State.noteOld; split <;> rfl
@[simp] theorem State.noteOld_epmap (s : State) (a : SyncAt) (bs : List Byte) (i : Option Nat) : (s.noteOld a bs i).epmap = s.epmap := by unfold State.noteOld; split <;> rfl
@[simp] theorem State.noteOld_gmap (s : State) (a : SyncAt) (bs : List Byte) (i : Option Nat) : (s.noteOld a bs i).gmap = s.gmap := by unfold State.noteOld; split <;> rfl
@[simp] theorem State.noteOld_scrub (s : State) (a : SyncAt) (bs : List Byte) (i : Option Nat) : (s.noteOld a bs i).scrub = s.scrub := by unfold State.noteOld; split <;> rfl
@[simp] theorem State.noteOld_grants (s : State) (a : SyncAt) (bs : List Byte) (i : Option Nat) : (s.noteOld a bs i).grants = s.grants := by unfold State.noteOld; split <;> rfl
@[simp] theorem State.noteOld_devNum (s : State) (a : SyncAt) (bs : List Byte) (i : Option Nat) : (s.noteOld a bs i).devNum = s.devNum := by unfold State.noteOld; split <;> rfl
@[simp] theorem State.noteOld_linksDown (s : State) (a : SyncAt) (bs : List Byte) (i : Option Nat) : (s.noteOld a bs i).linksDown = s.linksDown := by unfold State.noteOld; split <;> rfl
@[simp] theorem State.noteOld_shut (s : State) (a : SyncAt) (bs : List Byte) (i : Option Nat) : (s.noteOld a bs i).shut = s.shut := by unfold State.noteOld; split <;> rfl
@[simp] theorem State.noteOld_parts (s : State) (a : SyncAt) (bs : List Byte) (i : Option Nat) : (s.noteOld a bs i).parts = s.parts := by unfold State.noteOld; split <;> rfl
@[simp] theorem State.noteOld_mem (s : State) (a : SyncAt) (bs : List Byte) (i : Option Nat) : (s.noteOld a bs i).mem = s.mem := by unfold State.noteOld; split <;> rfl
@[simp] theorem State.noteOld_poison (s : State) (a : SyncAt) (bs : List Byte) (i : Option Nat) : (s.noteOld a bs i).poison = s.poison := by unfold State.noteOld; split <;> rfl
@[simp] theorem State.noteOld_wild (s : State) (a : SyncAt) (bs : List Byte) (i : Option Nat) : (s.noteOld a bs i).wild = s.wild := by unfold State.noteOld; split <;> rfl
@[simp] theorem State.noteOld_saves (s : State) (a : SyncAt) (bs : List Byte) (i : Option Nat) : (s.noteOld a bs i).saves = s.saves := by unfold State.noteOld; split <;> rfl
@[simp] theorem State.noteOld_hostMem (s : State) (a : SyncAt) (bs : List Byte) (i : Option Nat) : (s.noteOld a bs i).hostMem = s.hostMem := by unfold State.noteOld; split <;> rfl
@[simp] theorem State.noteOld_hot (s : State) (a : SyncAt) (bs : List Byte) (i : Option Nat) : (s.noteOld a bs i).hot = s.hot := by unfold State.noteOld; split <;> rfl
@[simp] theorem State.noteOld_rdc (s : State) (a : SyncAt) (bs : List Byte) (i : Option Nat) : (s.noteOld a bs i).rdc = s.rdc := by unfold State.noteOld; split <;> rfl
@[simp] theorem State.noteOld_vtab (s : State) (a : SyncAt) (bs : List Byte) (i : Option Nat) : (s.noteOld a bs i).vtab = s.vtab := by unfold State.noteOld; split <;> rfl
@[simp] theorem State.noteOld_tlb (s : State) (a : SyncAt) (bs : List Byte) (i : Option Nat) : (s.noteOld a bs i).tlb = s.tlb := by unfold State.noteOld; split <;> rfl
@[simp] theorem State.noteOld_gloads (s : State) (a : SyncAt) (bs : List Byte) (i : Option Nat) : (s.noteOld a bs i).gloads = s.gloads := by unfold State.noteOld; split <;> rfl
@[simp] theorem State.noteOld_kicks (s : State) (a : SyncAt) (bs : List Byte) (i : Option Nat) : (s.noteOld a bs i).kicks = s.kicks := by unfold State.noteOld; split <;> rfl
@[simp] theorem State.noteOld_nodes (s : State) (a : SyncAt) (bs : List Byte) (i : Option Nat) : (s.noteOld a bs i).nodes = s.nodes := by unfold State.noteOld; split <;> rfl
@[simp] theorem State.noteOld_clusters (s : State) (a : SyncAt) (bs : List Byte) (i : Option Nat) : (s.noteOld a bs i).clusters = s.clusters := by unfold State.noteOld; split <;> rfl
@[simp] theorem State.noteOld_wgs (s : State) (a : SyncAt) (bs : List Byte) (i : Option Nat) : (s.noteOld a bs i).wgs = s.wgs := by unfold State.noteOld; split <;> rfl
@[simp] theorem State.noteOld_gangs (s : State) (a : SyncAt) (bs : List Byte) (i : Option Nat) : (s.noteOld a bs i).gangs = s.gangs := by unfold State.noteOld; split <;> rfl
@[simp] theorem State.noteOld_threads (s : State) (a : SyncAt) (bs : List Byte) (i : Option Nat) : (s.noteOld a bs i).threads = s.threads := by unfold State.noteOld; split <;> rfl
@[simp] theorem State.noteOld_slices (s : State) (a : SyncAt) (bs : List Byte) (i : Option Nat) : (s.noteOld a bs i).slices = s.slices := by unfold State.noteOld; split <;> rfl
@[simp] theorem State.noteOld_lathes (s : State) (a : SyncAt) (bs : List Byte) (i : Option Nat) : (s.noteOld a bs i).lathes = s.lathes := by unfold State.noteOld; split <;> rfl
@[simp] theorem State.noteOld_eops (s : State) (a : SyncAt) (bs : List Byte) (i : Option Nat) : (s.noteOld a bs i).eops = s.eops := by unfold State.noteOld; split <;> rfl
@[simp] theorem State.noteOld_io (s : State) (a : SyncAt) (bs : List Byte) (i : Option Nat) : (s.noteOld a bs i).io = s.io := by unfold State.noteOld; split <;> rfl
@[simp] theorem State.noteOld_shoots (s : State) (a : SyncAt) (bs : List Byte) (i : Option Nat) : (s.noteOld a bs i).shoots = s.shoots := by unfold State.noteOld; split <;> rfl
@[simp] theorem State.noteOld_sticky (s : State) (a : SyncAt) (bs : List Byte) (i : Option Nat) : (s.noteOld a bs i).sticky = s.sticky := by unfold State.noteOld; split <;> rfl
@[simp] theorem State.noteOld_sends (s : State) (a : SyncAt) (bs : List Byte) (i : Option Nat) : (s.noteOld a bs i).sends = s.sends := by unfold State.noteOld; split <;> rfl
@[simp] theorem State.noteOld_contribs (s : State) (a : SyncAt) (bs : List Byte) (i : Option Nat) : (s.noteOld a bs i).contribs = s.contribs := by unfold State.noteOld; split <;> rfl
@[simp] theorem State.noteOld_reds (s : State) (a : SyncAt) (bs : List Byte) (i : Option Nat) : (s.noteOld a bs i).reds = s.reds := by unfold State.noteOld; split <;> rfl
@[simp] theorem State.noteOld_heldNotices (s : State) (a : SyncAt) (bs : List Byte) (i : Option Nat) : (s.noteOld a bs i).heldNotices = s.heldNotices := by unfold State.noteOld; split <;> rfl
@[simp] theorem State.noteOld_results (s : State) (a : SyncAt) (bs : List Byte) (i : Option Nat) : (s.noteOld a bs i).results = s.results := by unfold State.noteOld; split <;> rfl
@[simp] theorem State.noteOld_landing (s : State) (a : SyncAt) (bs : List Byte) (i : Option Nat) : (s.noteOld a bs i).landing = s.landing := by unfold State.noteOld; split <;> rfl
@[simp] theorem State.noteOld_outbox (s : State) (a : SyncAt) (bs : List Byte) (i : Option Nat) : (s.noteOld a bs i).outbox = s.outbox := by unfold State.noteOld; split <;> rfl
@[simp] theorem State.noteOld_holdup (s : State) (a : SyncAt) (bs : List Byte) (i : Option Nat) : (s.noteOld a bs i).holdup = s.holdup := by unfold State.noteOld; split <;> rfl
@[simp] theorem State.noteOld_energy (s : State) (a : SyncAt) (bs : List Byte) (i : Option Nat) : (s.noteOld a bs i).energy = s.energy := by unfold State.noteOld; split <;> rfl
@[simp] theorem State.noteOld_epoch (s : State) (a : SyncAt) (bs : List Byte) (i : Option Nat) : (s.noteOld a bs i).epoch = s.epoch := by unfold State.noteOld; split <;> rfl
@[simp] theorem State.noteOld_reported (s : State) (a : SyncAt) (bs : List Byte) (i : Option Nat) : (s.noteOld a bs i).reported = s.reported := by unfold State.noteOld; split <;> rfl
@[simp] theorem State.noteOld_usTrigger (s : State) (a : SyncAt) (bs : List Byte) (i : Option Nat) : (s.noteOld a bs i).usTrigger = s.usTrigger := by unfold State.noteOld; split <;> rfl
@[simp] theorem State.noteOld_byteStart (s : State) (a : SyncAt) (bs : List Byte) (i : Option Nat) : (s.noteOld a bs i).byteStart = s.byteStart := by unfold State.noteOld; split <;> rfl
@[simp] theorem State.noteOld_store (s : State) (a : SyncAt) (bs : List Byte) (i : Option Nat) : (s.noteOld a bs i).store = s.store := by unfold State.noteOld; split <;> rfl
@[simp] theorem State.noteOld_storing (s : State) (a : SyncAt) (bs : List Byte) (i : Option Nat) : (s.noteOld a bs i).storing = s.storing := by unfold State.noteOld; split <;> rfl
@[simp] theorem State.noteOld_records (s : State) (a : SyncAt) (bs : List Byte) (i : Option Nat) : (s.noteOld a bs i).records = s.records := by unfold State.noteOld; split <;> rfl
@[simp] theorem State.noteOld_seals (s : State) (a : SyncAt) (bs : List Byte) (i : Option Nat) : (s.noteOld a bs i).seals = s.seals := by unfold State.noteOld; split <;> rfl
@[simp] theorem State.noteOld_lineage (s : State) (a : SyncAt) (bs : List Byte) (i : Option Nat) : (s.noteOld a bs i).lineage = s.lineage := by unfold State.noteOld; split <;> rfl
@[simp] theorem State.noteOld_xidx (s : State) (a : SyncAt) (bs : List Byte) (i : Option Nat) : (s.noteOld a bs i).xidx = s.xidx := by unfold State.noteOld; split <;> rfl
@[simp] theorem State.noteOld_risk (s : State) (a : SyncAt) (bs : List Byte) (i : Option Nat) : (s.noteOld a bs i).risk = s.risk := by unfold State.noteOld; split <;> rfl
@[simp] theorem State.noteOld_corrected (s : State) (a : SyncAt) (bs : List Byte) (i : Option Nat) : (s.noteOld a bs i).corrected = s.corrected := by unfold State.noteOld; split <;> rfl
@[simp] theorem State.noteOld_droops (s : State) (a : SyncAt) (bs : List Byte) (i : Option Nat) : (s.noteOld a bs i).droops = s.droops := by unfold State.noteOld; split <;> rfl
@[simp] theorem State.noteOld_retrains (s : State) (a : SyncAt) (bs : List Byte) (i : Option Nat) : (s.noteOld a bs i).retrains = s.retrains := by unfold State.noteOld; split <;> rfl
@[simp] theorem State.noteOld_mismatches (s : State) (a : SyncAt) (bs : List Byte) (i : Option Nat) : (s.noteOld a bs i).mismatches = s.mismatches := by unfold State.noteOld; split <;> rfl
@[simp] theorem State.noteOld_hottest (s : State) (a : SyncAt) (bs : List Byte) (i : Option Nat) : (s.noteOld a bs i).hottest = s.hottest := by unfold State.noteOld; split <;> rfl
@[simp] theorem State.noteOld_powerW (s : State) (a : SyncAt) (bs : List Byte) (i : Option Nat) : (s.noteOld a bs i).powerW = s.powerW := by unfold State.noteOld; split <;> rfl

/-! ### `writeMem` -/

@[simp] theorem State.writeMem_agenda (s : State) (a : Nat) (bs : List Byte) (i : Option Nat) : (s.writeMem a bs i).agenda = s.agenda := by simp [State.writeMem]
@[simp] theorem State.writeMem_turns (s : State) (a : Nat) (bs : List Byte) (i : Option Nat) : (s.writeMem a bs i).turns = s.turns := by simp [State.writeMem]
@[simp] theorem State.writeMem_since (s : State) (a : Nat) (bs : List Byte) (i : Option Nat) : (s.writeMem a bs i).since = s.since := by simp [State.writeMem]
@[simp] theorem State.writeMem_owed (s : State) (a : Nat) (bs : List Byte) (i : Option Nat) : (s.writeMem a bs i).owed = s.owed := by simp [State.writeMem]
@[simp] theorem State.writeMem_tick (s : State) (a : Nat) (bs : List Byte) (i : Option Nat) : (s.writeMem a bs i).tick = s.tick := by simp [State.writeMem]
@[simp] theorem State.writeMem_uid (s : State) (a : Nat) (bs : List Byte) (i : Option Nat) : (s.writeMem a bs i).uid = s.uid := by simp [State.writeMem]
@[simp] theorem State.writeMem_cur (s : State) (a : Nat) (bs : List Byte) (i : Option Nat) : (s.writeMem a bs i).cur = s.cur := by simp [State.writeMem]
@[simp] theorem State.writeMem_sliceClk (s : State) (a : Nat) (bs : List Byte) (i : Option Nat) : (s.writeMem a bs i).sliceClk = s.sliceClk := by simp [State.writeMem]
@[simp] theorem State.writeMem_spindleClk (s : State) (a : Nat) (bs : List Byte) (i : Option Nat) : (s.writeMem a bs i).spindleClk = s.spindleClk := by simp [State.writeMem]
@[simp] theorem State.writeMem_headClk (s : State) (a : Nat) (bs : List Byte) (i : Option Nat) : (s.writeMem a bs i).headClk = s.headClk := by simp [State.writeMem]
@[simp] theorem State.writeMem_sealClk (s : State) (a : Nat) (bs : List Byte) (i : Option Nat) : (s.writeMem a bs i).sealClk = s.sealClk := by simp [State.writeMem]
@[simp] theorem State.writeMem_monClk (s : State) (a : Nat) (bs : List Byte) (i : Option Nat) : (s.writeMem a bs i).monClk = s.monClk := by simp [State.writeMem]
@[simp] theorem State.writeMem_sampleClk (s : State) (a : Nat) (bs : List Byte) (i : Option Nat) : (s.writeMem a bs i).sampleClk = s.sampleClk := by simp [State.writeMem]
@[simp] theorem State.writeMem_clkZero (s : State) (a : Nat) (bs : List Byte) (i : Option Nat) : (s.writeMem a bs i).clkZero = s.clkZero := by simp [State.writeMem]
@[simp] theorem State.writeMem_drift (s : State) (a : Nat) (bs : List Byte) (i : Option Nat) : (s.writeMem a bs i).drift = s.drift := by simp [State.writeMem]
@[simp] theorem State.writeMem_supply (s : State) (a : Nat) (bs : List Byte) (i : Option Nat) : (s.writeMem a bs i).supply = s.supply := by simp [State.writeMem]
@[simp] theorem State.writeMem_ready (s : State) (a : Nat) (bs : List Byte) (i : Option Nat) : (s.writeMem a bs i).ready = s.ready := by simp [State.writeMem]
@[simp] theorem State.writeMem_pcmdBusy (s : State) (a : Nat) (bs : List Byte) (i : Option Nat) : (s.writeMem a bs i).pcmdBusy = s.pcmdBusy := by simp [State.writeMem]
@[simp] theorem State.writeMem_pcmdResult (s : State) (a : Nat) (bs : List Byte) (i : Option Nat) : (s.writeMem a bs i).pcmdResult = s.pcmdResult := by simp [State.writeMem]
@[simp] theorem State.writeMem_pcmdPart (s : State) (a : Nat) (bs : List Byte) (i : Option Nat) : (s.writeMem a bs i).pcmdPart = s.pcmdPart := by simp [State.writeMem]
@[simp] theorem State.writeMem_pcmdCmd (s : State) (a : Nat) (bs : List Byte) (i : Option Nat) : (s.writeMem a bs i).pcmdCmd = s.pcmdCmd := by simp [State.writeMem]
@[simp] theorem State.writeMem_pcmdLost (s : State) (a : Nat) (bs : List Byte) (i : Option Nat) : (s.writeMem a bs i).pcmdLost = s.pcmdLost := by simp [State.writeMem]
@[simp] theorem State.writeMem_vfmap (s : State) (a : Nat) (bs : List Byte) (i : Option Nat) : (s.writeMem a bs i).vfmap = s.vfmap := by simp [State.writeMem]
@[simp] theorem State.writeMem_epmap (s : State) (a : Nat) (bs : List Byte) (i : Option Nat) : (s.writeMem a bs i).epmap = s.epmap := by simp [State.writeMem]
@[simp] theorem State.writeMem_gmap (s : State) (a : Nat) (bs : List Byte) (i : Option Nat) : (s.writeMem a bs i).gmap = s.gmap := by simp [State.writeMem]
@[simp] theorem State.writeMem_scrub (s : State) (a : Nat) (bs : List Byte) (i : Option Nat) : (s.writeMem a bs i).scrub = s.scrub := by simp [State.writeMem]
@[simp] theorem State.writeMem_grants (s : State) (a : Nat) (bs : List Byte) (i : Option Nat) : (s.writeMem a bs i).grants = s.grants := by simp [State.writeMem]
@[simp] theorem State.writeMem_devNum (s : State) (a : Nat) (bs : List Byte) (i : Option Nat) : (s.writeMem a bs i).devNum = s.devNum := by simp [State.writeMem]
@[simp] theorem State.writeMem_linksDown (s : State) (a : Nat) (bs : List Byte) (i : Option Nat) : (s.writeMem a bs i).linksDown = s.linksDown := by simp [State.writeMem]
@[simp] theorem State.writeMem_shut (s : State) (a : Nat) (bs : List Byte) (i : Option Nat) : (s.writeMem a bs i).shut = s.shut := by simp [State.writeMem]
@[simp] theorem State.writeMem_parts (s : State) (a : Nat) (bs : List Byte) (i : Option Nat) : (s.writeMem a bs i).parts = s.parts := by simp [State.writeMem]
@[simp] theorem State.writeMem_hostMem (s : State) (a : Nat) (bs : List Byte) (i : Option Nat) : (s.writeMem a bs i).hostMem = s.hostMem := by simp [State.writeMem]
@[simp] theorem State.writeMem_hot (s : State) (a : Nat) (bs : List Byte) (i : Option Nat) : (s.writeMem a bs i).hot = s.hot := by simp [State.writeMem]
@[simp] theorem State.writeMem_rdc (s : State) (a : Nat) (bs : List Byte) (i : Option Nat) : (s.writeMem a bs i).rdc = s.rdc := by simp [State.writeMem]
@[simp] theorem State.writeMem_vtab (s : State) (a : Nat) (bs : List Byte) (i : Option Nat) : (s.writeMem a bs i).vtab = s.vtab := by simp [State.writeMem]
@[simp] theorem State.writeMem_tlb (s : State) (a : Nat) (bs : List Byte) (i : Option Nat) : (s.writeMem a bs i).tlb = s.tlb := by simp [State.writeMem]
@[simp] theorem State.writeMem_gloads (s : State) (a : Nat) (bs : List Byte) (i : Option Nat) : (s.writeMem a bs i).gloads = s.gloads := by simp [State.writeMem]
@[simp] theorem State.writeMem_kicks (s : State) (a : Nat) (bs : List Byte) (i : Option Nat) : (s.writeMem a bs i).kicks = s.kicks := by simp [State.writeMem]
@[simp] theorem State.writeMem_nodes (s : State) (a : Nat) (bs : List Byte) (i : Option Nat) : (s.writeMem a bs i).nodes = s.nodes := by simp [State.writeMem]
@[simp] theorem State.writeMem_clusters (s : State) (a : Nat) (bs : List Byte) (i : Option Nat) : (s.writeMem a bs i).clusters = s.clusters := by simp [State.writeMem]
@[simp] theorem State.writeMem_wgs (s : State) (a : Nat) (bs : List Byte) (i : Option Nat) : (s.writeMem a bs i).wgs = s.wgs := by simp [State.writeMem]
@[simp] theorem State.writeMem_gangs (s : State) (a : Nat) (bs : List Byte) (i : Option Nat) : (s.writeMem a bs i).gangs = s.gangs := by simp [State.writeMem]
@[simp] theorem State.writeMem_threads (s : State) (a : Nat) (bs : List Byte) (i : Option Nat) : (s.writeMem a bs i).threads = s.threads := by simp [State.writeMem]
@[simp] theorem State.writeMem_slices (s : State) (a : Nat) (bs : List Byte) (i : Option Nat) : (s.writeMem a bs i).slices = s.slices := by simp [State.writeMem]
@[simp] theorem State.writeMem_lathes (s : State) (a : Nat) (bs : List Byte) (i : Option Nat) : (s.writeMem a bs i).lathes = s.lathes := by simp [State.writeMem]
@[simp] theorem State.writeMem_eops (s : State) (a : Nat) (bs : List Byte) (i : Option Nat) : (s.writeMem a bs i).eops = s.eops := by simp [State.writeMem]
@[simp] theorem State.writeMem_io (s : State) (a : Nat) (bs : List Byte) (i : Option Nat) : (s.writeMem a bs i).io = s.io := by simp [State.writeMem]
@[simp] theorem State.writeMem_shoots (s : State) (a : Nat) (bs : List Byte) (i : Option Nat) : (s.writeMem a bs i).shoots = s.shoots := by simp [State.writeMem]
@[simp] theorem State.writeMem_sticky (s : State) (a : Nat) (bs : List Byte) (i : Option Nat) : (s.writeMem a bs i).sticky = s.sticky := by simp [State.writeMem]
@[simp] theorem State.writeMem_sends (s : State) (a : Nat) (bs : List Byte) (i : Option Nat) : (s.writeMem a bs i).sends = s.sends := by simp [State.writeMem]
@[simp] theorem State.writeMem_contribs (s : State) (a : Nat) (bs : List Byte) (i : Option Nat) : (s.writeMem a bs i).contribs = s.contribs := by simp [State.writeMem]
@[simp] theorem State.writeMem_reds (s : State) (a : Nat) (bs : List Byte) (i : Option Nat) : (s.writeMem a bs i).reds = s.reds := by simp [State.writeMem]
@[simp] theorem State.writeMem_heldNotices (s : State) (a : Nat) (bs : List Byte) (i : Option Nat) : (s.writeMem a bs i).heldNotices = s.heldNotices := by simp [State.writeMem]
@[simp] theorem State.writeMem_results (s : State) (a : Nat) (bs : List Byte) (i : Option Nat) : (s.writeMem a bs i).results = s.results := by simp [State.writeMem]
@[simp] theorem State.writeMem_landing (s : State) (a : Nat) (bs : List Byte) (i : Option Nat) : (s.writeMem a bs i).landing = s.landing := by simp [State.writeMem]
@[simp] theorem State.writeMem_outbox (s : State) (a : Nat) (bs : List Byte) (i : Option Nat) : (s.writeMem a bs i).outbox = s.outbox := by simp [State.writeMem]
@[simp] theorem State.writeMem_holdup (s : State) (a : Nat) (bs : List Byte) (i : Option Nat) : (s.writeMem a bs i).holdup = s.holdup := by simp [State.writeMem]
@[simp] theorem State.writeMem_energy (s : State) (a : Nat) (bs : List Byte) (i : Option Nat) : (s.writeMem a bs i).energy = s.energy := by simp [State.writeMem]
@[simp] theorem State.writeMem_epoch (s : State) (a : Nat) (bs : List Byte) (i : Option Nat) : (s.writeMem a bs i).epoch = s.epoch := by simp [State.writeMem]
@[simp] theorem State.writeMem_reported (s : State) (a : Nat) (bs : List Byte) (i : Option Nat) : (s.writeMem a bs i).reported = s.reported := by simp [State.writeMem]
@[simp] theorem State.writeMem_usTrigger (s : State) (a : Nat) (bs : List Byte) (i : Option Nat) : (s.writeMem a bs i).usTrigger = s.usTrigger := by simp [State.writeMem]
@[simp] theorem State.writeMem_byteStart (s : State) (a : Nat) (bs : List Byte) (i : Option Nat) : (s.writeMem a bs i).byteStart = s.byteStart := by simp [State.writeMem]
@[simp] theorem State.writeMem_store (s : State) (a : Nat) (bs : List Byte) (i : Option Nat) : (s.writeMem a bs i).store = s.store := by simp [State.writeMem]
@[simp] theorem State.writeMem_storing (s : State) (a : Nat) (bs : List Byte) (i : Option Nat) : (s.writeMem a bs i).storing = s.storing := by simp [State.writeMem]
@[simp] theorem State.writeMem_records (s : State) (a : Nat) (bs : List Byte) (i : Option Nat) : (s.writeMem a bs i).records = s.records := by simp [State.writeMem]
@[simp] theorem State.writeMem_seals (s : State) (a : Nat) (bs : List Byte) (i : Option Nat) : (s.writeMem a bs i).seals = s.seals := by simp [State.writeMem]
@[simp] theorem State.writeMem_lineage (s : State) (a : Nat) (bs : List Byte) (i : Option Nat) : (s.writeMem a bs i).lineage = s.lineage := by simp [State.writeMem]
@[simp] theorem State.writeMem_xidx (s : State) (a : Nat) (bs : List Byte) (i : Option Nat) : (s.writeMem a bs i).xidx = s.xidx := by simp [State.writeMem]
@[simp] theorem State.writeMem_risk (s : State) (a : Nat) (bs : List Byte) (i : Option Nat) : (s.writeMem a bs i).risk = s.risk := by simp [State.writeMem]
@[simp] theorem State.writeMem_corrected (s : State) (a : Nat) (bs : List Byte) (i : Option Nat) : (s.writeMem a bs i).corrected = s.corrected := by simp [State.writeMem]
@[simp] theorem State.writeMem_droops (s : State) (a : Nat) (bs : List Byte) (i : Option Nat) : (s.writeMem a bs i).droops = s.droops := by simp [State.writeMem]
@[simp] theorem State.writeMem_retrains (s : State) (a : Nat) (bs : List Byte) (i : Option Nat) : (s.writeMem a bs i).retrains = s.retrains := by simp [State.writeMem]
@[simp] theorem State.writeMem_mismatches (s : State) (a : Nat) (bs : List Byte) (i : Option Nat) : (s.writeMem a bs i).mismatches = s.mismatches := by simp [State.writeMem]
@[simp] theorem State.writeMem_hottest (s : State) (a : Nat) (bs : List Byte) (i : Option Nat) : (s.writeMem a bs i).hottest = s.hottest := by simp [State.writeMem]
@[simp] theorem State.writeMem_powerW (s : State) (a : Nat) (bs : List Byte) (i : Option Nat) : (s.writeMem a bs i).powerW = s.powerW := by simp [State.writeMem]
@[simp] theorem State.writeMem_mem (s : State) (a : Nat) (bs : List Byte) (i : Option Nat) : (s.writeMem a bs i).mem = setBytes s.mem a bs := rfl
@[simp] theorem State.writeMem_wild (s : State) (a : Nat) (bs : List Byte) (i : Option Nat) :
    (s.writeMem a bs i).wild = cutRange s.wild a bs.length := rfl
@[simp] theorem State.writeMem_saves (s : State) (a : Nat) (bs : List Byte) (i : Option Nat) :
    (s.writeMem a bs i).saves = spoilSaves s.saves a bs.length := rfl
@[simp] theorem State.writeMem_poison (s : State) (a : Nat) (bs : List Byte) (i : Option Nat) :
    (s.writeMem a bs i).poison = s.poison.filter fun w => !(a ≤ 8 * w && 8 * w + 8 ≤ a + bs.length) := rfl

end Sys2Proof.Machine
end

