-- ==== Sys2Proof/Tests/Slice0.lean ====
section
/-! SUPPORT. Tests: words of the spec's encoding for every instruction that has one, terms that the legality checks refuse, single steps with results
worked out by hand from the spec, and for each statement a state and operands that meet its hypotheses. -/

namespace Sys2Proof.Tests

open Sys2Proof.Machine Sys2Proof.Safety

set_option maxRecDepth 20000
set_option Elab.async false

/-! ### Decoding: words put together from the fields of spec/06 R156, R167, R168 and the opcode map R174 -/

/-- Each word, of the given number of bits, decodes to the instruction beside it. -/
def decodesAll (l : List (Nat × Nat × Instr)) : Bool := l.all fun x => decodeTableWord x.1 x.2.1 == some x.2.2

theorem test_decode_control : decodesAll [
    (96, 0x0, .nop),
    (96, 0xFFFFFFB0C021401, .br { neg := true, p := 5 } { disp := -3, slot := 4 }),
    (96, 0x703FF000000044C000002, .brpAny {} 7 (.imm 255) { disp := 2, slot := 1 }),
    (96, 0x5F0409080000000C000402, .brpAll { p := 1 } 95 (.v 9) { disp := -67108864, slot := 0 }),
    (96, 0x7FFFFFF0C000C03, .call { p := 3 } { disp := 67108863, slot := 4 }),
    (96, 0xC000804, .ret { p := 2 }),
    (96, 0xC037C05, .exit { neg := true, p := 95 }),
    (96, 0x28C000006, .meet {} { disp := 1, slot := 2 }),
    (96, 0xC000007, .meetClr {}),
    (96, 0xC020408, .yield { neg := true, p := 1 }),
    (96, 0xF20C001343, .trap { p := 4 } 200)] = true := by decide +kernel

theorem test_decode_predicate : decodesAll [
    (96, 0x3011684060810, .pand { guard := { neg := true, p := 2 }, dst := .p 1, a := .v 90, b := .imm 1 }),
    (96, 0x30116C40A0C11, .por { guard := { neg := true, p := 3 }, dst := .p 2, a := .v 91, b := .imm 1 }),
    (96, 0x30117040E1012, .pxor { guard := { neg := true, p := 4 }, dst := .p 3, a := .v 92, b := .imm 1 }),
    (96, 0x3011744121413, .pandn { guard := { neg := true, p := 5 }, dst := .p 4, a := .v 93, b := .imm 1 }),
    (96, 0xC57C0014, .pnot { dst := .p 95, a := .v 3 }),
    (96, 0xC004180015, .pmov { dst := .p 6, a := .imm 0 }),
    (96, 0x1000440016, .ppack { dst := .v 17, a := .v 64 }),
    (96, 0x845000017, .punpack { dst := .p 64, a := .v 33 }),
    (96, 0x3201000080018, .pcnt { dst := .v 2, a := .v 64, b := .imm 32 })] = true := by decide +kernel

theorem test_decode_integer : decodesAll [
    (96, 0x40006900C0C0290200080, .add { dst := .v 8, wide := true, d2 := 4, ty := .n64, a := .v 10, b := .v 12, c := .v 3 } { cw := true, cr := true }),
    (96, 0x16003FF0040240081, .sub { dst := .v 9, ty := .s16x2, a := .v 1, b := .imm 255 } { sat := true }),
    (96, 0x20015F0080040082, .mul { dst := .v 1, ty := .n32, a := .v 2, b := .g 95 }),
    (96, 0x1002030080040083, .mulh { dst := .v 1, ty := .s32, a := .v 2, b := .l 3 }),
    (96, 0x11010030080040084, .mad { dst := .v 1, ty := .s32, a := .v 2, b := .v 3, c := .v 4 } true),
    (96, 0x24040200C0100085, .madh { dst := .v 4, ty := .n32, a := .v 3, b := .v 2, c := .g 1 }),
    (96, 0xC0000902001C0086, .min { dst := .v 7, ty := .s8x4, a := .v 8, b := .v 9 }),
    (96, 0xD0000902001C0087, .max { dst := .v 7, ty := .n8x4, a := .v 8, b := .v 9 }),
    (96, 0x110000002001C0088, .abs { dst := .v 7, ty := .s32, a := .v 8 } true),
    (96, 0x8000000210180089, .neg { dst := .v 6, wide := true, ty := .s64, a := .v 8 } false)] = true := by decide +kernel

theorem test_decode_logic : decodesAll [
    (96, 0xA00307051000008A, .and { dst := .v 0, wide := true, ty := .b64, a := .v 20, b := .imm 7 }),
    (96, 0xA00308059008008B, .or { dst := .v 2, wide := true, ty := .b64, a := .v 22, b := .imm 8 }),
    (96, 0xA00309061010008C, .xor { dst := .v 4, wide := true, ty := .b64, a := .v 24, b := .imm 9 }),
    (96, 0xA0030A069018008D, .andn { dst := .v 6, wide := true, ty := .b64, a := .v 26, b := .imm 10 }),
    (96, 0x40C014008E, .not { dst := .v 5, a := .g 3 }),
    (96, 0x31F018014008F, .shl { dst := .v 5, a := .v 6, b := .imm 31 }),
    (96, 0x8000070210180090, .shr { dst := .v 6, wide := true, ty := .s64, a := .v 8, b := .v 7 }),
    (96, 0x3050180140091, .rol { dst := .v 5, a := .v 6, b := .imm 5 }),
    (96, 0x1050180140092, .ror { dst := .v 5, a := .v 6, b := .g 5 }),
    (96, 0x20C10030080040093, .fshR { dst := .v 1, a := .v 2, b := .v 3, c := .imm 4 } true),
    (96, 0x10010030080040093, .fshL { dst := .v 1, a := .v 2, b := .v 3, c := .v 4 } false)] = true := by decide +kernel

theorem test_decode_field : decodesAll [
    (96, 0x80040094, .popc { dst := .v 1, a := .v 2 }),
    (96, 0x80040095, .clz { dst := .v 1, a := .v 2 }),
    (96, 0xA000000090100096, .brev { dst := .v 4, wide := true, ty := .b64, a := .v 2 }),
    (96, 0x2003080080040097, .fxt { dst := .v 1, ty := .n32, a := .v 2, b := .imm 8 }),
    (96, 0x10030080040098, .fins { dst := .v 1, a := .v 2, b := .v 3, c := .v 4 }),
    (96, 0x10010030080040099, .bsel { dst := .v 1, a := .v 2, b := .v 3, c := .v 4 } true),
    (96, 0x80015200C02004424009A, .cmp { dst := .p 9, d2 := 8, ty := .n32, a := .v 1, b := .v 2, c := .v 3 } .ge .or),
    (96, 0x17803008004009B, .sel { dst := .v 1, a := .v 2, b := .v 3, c := .v 94 }),
    (96, 0xE00320009C, .mov { dst := .v 200, a := .imm 128 }),
    (96, 0x71C4003011008009D, .lea { dst := .v 2, wide := true, ty := .s32, a := .v 4, b := .v 3, c := .imm 16 } 7),
    (96, 0xC14004009E, .sreg { dst := .v 1, a := .imm 5 }),
    (96, 0xA00000011978009F, .gmov { dst := .g 94, wide := true, ty := .b64, a := .v 4 }),
    (96, 0x4000000000000001082400A0, .gld { dst := .g 9, a := .v 4 } .glb)] = true := by decide +kernel

theorem test_decode_floatFull : decodesAll [
    (96, 0x130033C0080040100, .fadd { dst := .v 1, ty := .f32, a := .v 2, b := .imm 60 } .rz),
    (96, 0x24000030080040101, .fsub { dst := .v 1, ty := .bf16x2, a := .v 2, b := .v 3 } .ru),
    (96, 0x35000030080040102, .fmul { dst := .v 1, ty := .f16x2, a := .v 2, b := .v 3 } .rd),
    (96, 0x43010030080040103, .ffma { dst := .v 1, ty := .f32, a := .v 2, b := .v 3, c := .v 4 } .ro),
    (96, 0x3000030080040104, .fmin { dst := .v 1, ty := .f32, a := .v 2, b := .v 3 }),
    (96, 0x3000030080040105, .fmax { dst := .v 1, ty := .f32, a := .v 2, b := .v 3 }),
    (96, 0x3000030080040106, .fminnum { dst := .v 1, ty := .f32, a := .v 2, b := .v 3 }),
    (96, 0x3000030080040107, .fmaxnum { dst := .v 1, ty := .f32, a := .v 2, b := .v 3 }),
    (96, 0x4000000080040108, .fabs { dst := .v 1, ty := .bf16x2, a := .v 2 }),
    (96, 0x5000000080040109, .fneg { dst := .v 1, ty := .f16x2, a := .v 2 })] = true := by decide +kernel

theorem test_decode_floatSpecial : decodesAll [
    (96, 0x2003E301003008404010A, .fcmp { dst := .p 1, d2 := 2, ty := .f32, a := .v 2, b := .v 3, c := .v 4 } .nan .xor),
    (96, 0x300000008004010B, .fclassV { dst := .v 1, ty := .f32, a := .v 2 }),
    (96, 0x300303008404010B, .fclassP { dst := .p 1, ty := .f32, a := .v 2, b := .imm 3 }),
    (96, 0x43000000080040110, .rcp { dst := .v 1, ty := .f32, a := .v 2 } .ro),
    (96, 0x13000000080040112, .sqrt { dst := .v 1, ty := .f32, a := .v 2 } .rz),
    (96, 0x3000000080040111, .rsq { dst := .v 1, ty := .f32, a := .v 2 }),
    (96, 0x3000000080040113, .exp2 { dst := .v 1, ty := .f32, a := .v 2 }),
    (96, 0x3000000080040114, .log2 { dst := .v 1, ty := .f32, a := .v 2 }),
    (96, 0x3000000080040115, .sin { dst := .v 1, ty := .f32, a := .v 2 }),
    (96, 0x3000000080040116, .cos { dst := .v 1, ty := .f32, a := .v 2 }),
    (96, 0x10080000030080180120, .cvt { dst := .v 6, a := .v 2, b := .v 3 } { pk := true, dst := .bf16 })] = true := by decide +kernel

theorem test_decode_cross : decodesAll [
    (96, 0x40000000FFF0080040180, .xperm { dst := .v 1, d2 := 4, a := .v 2, b := .imm 255, c := .v 3 }),
    (96, 0xC0C090080040181, .xbc { dst := .v 1, a := .v 2, b := .v 9, c := .imm 3 }),
    (96, 0x10000090080040181, .xbcFirst { dst := .v 1, a := .v 2, b := .v 9 }),
    (96, 0x93000090080040182, .xred { dst := .v 1, ty := .f32, a := .v 2, b := .v 9 } .fmax),
    (96, 0x111000090080040183, .xscan { dst := .v 1, ty := .s32, a := .v 2, b := .v 9 } .min true),
    (96, 0x90084040184, .xvoteAny { dst := .p 1, a := .v 2, b := .v 9 }),
    (96, 0x500010000090084040184, .xvoteAll { dst := .p 1, d2 := 5, a := .v 2, b := .v 9 }),
    (96, 0x20000090080040184, .xvoteBallot { dst := .v 1, a := .v 2, b := .v 9 }),
    (96, 0x90080040185, .xmatch { dst := .v 1, a := .v 2, b := .v 9 }),
    (96, 0x20000000000401A1, .rngNext { dst := .v 1, ty := .n32 }),
    (96, 0x900000008C0001A0, .rngJump { ty := .n64, a := .v 2 })] = true := by decide +kernel

theorem test_decode_memory : decodesAll [
    (96, 0x60003FF00901001C0, .ldg { dst := .v 4, wide := true, a := .v 2, b := .imm 255 } .b128),
    (96, 0x1001005008C0001C1, .stg { a := .v 2, b := .v 5, c := .v 4 } .n8),
    (96, 0x1400000030000700801401C2, .atg { dst := .v 5, ty := .f32, a := .v 2, b := .v 7 } { order := .rel, scope := .pkg }),
    (96, 0x30400C01001C8, .ldl { dst := .v 4, a := .v 3, b := .imm 4 } .s8),
    (96, 0x500230400CC0001C9, .stl { a := .v 3, b := .imm 4, c := .v 8 } .b64),
    (96, 0x203000800180500C01001CA, .atl { dst := .v 4, d2 := 3, a := .v 3, b := .v 5, c := .v 6 } { op := .cas, scope := .wg }),
    (96, 0x200030400C01001D0, .ldn { dst := .v 4, a := .v 3, b := .imm 4 } .s16),
    (96, 0x300230400CC0001D1, .stn { a := .v 3, b := .imm 4, c := .v 8 } .n16),
    (96, 0x3000007A0000600D01001D2, .atn { dst := .v 4, wide := true, ty := .b64, a := .v 3, b := .v 6 } { op := .xchg, scope := .cl }),
    (96, 0x300030400801001D8, .ldh { dst := .v 4, a := .v 2, b := .imm 4 } .n16),
    (96, 0x4002304008C0001D9, .sth { a := .v 2, b := .imm 4, c := .v 8 } .b32),
    (96, 0x600000090000600901001DA, .ath { dst := .v 4, wide := true, ty := .n64, a := .v 2, b := .v 6 } { scope := .sys }),
    (96, 0x9000400000300801001E0, .ldv { dst := .v 4, d2 := 9, a := .v 2, b := .v 3 } .b32)] = true := by decide +kernel

theorem test_decode_sync : decodesAll [
    (96, 0x1C00000000000000800C01F0, .mcas { dst := .v 3, a := .v 2 } .acqRel),
    (96, 0x12000000000000000C022640, .fence { neg := true, p := 9 } .rel .wg),
    (96, 0x1703008C000248, .phi { a := .v 2, b := .imm 3, c := .v 5 } .loc),
    (96, 0x200000000003010080040249, .arv { dst := .v 1, a := .v 2, b := .imm 1 } .nbr),
    (96, 0x40000000000F01008C00024A, .arvb { a := .v 2, b := .imm 1, c := .v 3 } .glb),
    (96, 0x60000000000004008C00024B, .wph { a := .v 2, b := .v 4 } .ver),
    (96, 0x30001000307008C00024B, .wphTry { d2 := 3, a := .v 2, b := .imm 7 } .loc),
    (96, 0x600000000000090100250, .cbget { dst := .v 4, wide := true, d2 := 6, a := .v 2 }),
    (96, 0x303008C000251, .cbput { a := .v 2, b := .imm 3 }),
    (96, 0x80040258, .vpub { dst := .v 1, a := .v 2 }),
    (96, 0xCFCC000259, .publish { a := .imm 63 })] = true := by decide +kernel

theorem test_decode_engine : decodesAll [
    (96, 0x420C000280, .gcp { a := .g 8 }),
    (96, 0x420C000281, .gst { a := .g 8 }),
    (96, 0x420C000282, .gpl { a := .g 8 }),
    (96, 0xC0002C0, .ofence {}),
    (96, 0x50C0006C1, .mma { guard := { p := 1 }, a := .v 20 }),
    (96, 0x364C1CC0002C2, .mhint { a := .imm 7, b := .imm 100 }),
    (96, 0xD00C0002C3, .drain { a := .imm 64 }),
    (96, 0x4C000300, .cxBind { a := .v 1 }),
    (96, 0x4C000301, .cxSend { a := .v 1 }),
    (96, 0xC0B05020C000302, .cxArm { a := .v 8, b := .imm 5, c := .imm 2 }),
    (96, 0xC2400C0303, .cxCtrGet { dst := .v 3, a := .imm 9 }),
    (96, 0x1000004C24C000303, .cxCtrSet { a := .imm 9, b := .v 4 }),
    (96, 0x2000004C24C000303, .cxCtrLink { a := .imm 9, b := .v 4 }),
    (96, 0x3000000C24C000303, .cxCtrUnlink { a := .imm 9 }),
    (96, 0x4C000304, .cxRed { a := .v 1 }),
    (96, 0x4000000000000001800C0310, .stepAdv { dst := .v 3, a := .v 6 } .glb),
    (96, 0xC250100311, .stepGet { dst := .v 4, wide := true, a := .imm 9 }),
    (96, 0x10000000010100311, .stepGetLim { dst := .v 4, wide := true }),
    (96, 0x2000000000000CC000340, .fork { d2 := 2, a := .v 3 })] = true := by decide +kernel

theorem test_decode_system : decodesAll [
    (96, 0x2000000000A0200140341, .keepDeclMust { dst := .v 5, d2 := 2, a := .v 8, b := .v 10 }),
    (96, 0x10003100200140341, .keepDeclBest { dst := .v 5, a := .v 8, b := .imm 16 }),
    (96, 0x10002000000CFCC000341, .keepDeclDrop { d2 := 1, a := .imm 63 }),
    (96, 0x140342, .keepQryUse { dst := .v 5 }),
    (96, 0x1000303CFC0140342, .keepQryRec { dst := .v 5, a := .imm 63, b := .imm 3 }),
    (96, 0x70002000004004C000342, .keepQryLd { d2 := 7, a := .v 1, b := .v 4 }),
    (96, 0x200000000000C0360, .csrr { dst := .v 3 } 2),
    (96, 0x2000000014C000361, .csrw { a := .v 5 } 2),
    (96, 0x1118000000014C000361, .csrwSet { a := .v 5 } 0x118),
    (96, 0x2002000000C040040361, .csrwClr { dst := .v 1, a := .imm 1 } 2),
    (96, 0xC000362, .iret {}),
    (96, 0x1000000000C001F62, .iretKill { p := 7 }),
    (96, 0xC040100363, .rqRd { dst := .v 4, a := .imm 1 }),
    (96, 0xB03000C000364, .rqWr { b := .imm 3, c := .v 2 }),
    (96, 0xC000F65, .tlbsdAll { p := 3 }),
    (96, 0x1000004008C000365, .tlbsdVa { a := .v 2, b := .v 4 }),
    (96, 0x30000000000018C000366, .sealMeas { d2 := 3, a := .v 6 }),
    (96, 0x30001000000018C000366, .sealImg { d2 := 3, a := .v 6 }),
    (96, 0x30002000000018C000366, .sealRst { d2 := 3, a := .v 6 }),
    (96, 0xC0C0080367, .hmRd { dst := .v 2, a := .imm 3 })] = true := by decide +kernel

theorem test_decode_compact : decodesAll [
    (48, 0x0, .nopCompact),
    (48, 0x250400834001, .addCompact { dst := 13, ty := .s32, a := .v 2, b := .g 4, sat := true }),
    (48, 0x1F0400834002, .subCompact { dst := 13, ty := .n16x2, a := .v 2, b := .imm 4 }),
    (48, 0x180300804003, .minCompact { dst := 1, ty := .s16x2, a := .v 2, b := .v 3 }),
    (48, 0x80300804004, .maxCompact { dst := 1, ty := .n32, a := .v 2, b := .v 3 }),
    (48, 0x40000804005, .absCompact { dst := 1, ty := .s32, a := .v 2 }),
    (48, 0x180000804006, .negCompact { dst := 1, ty := .s16x2, a := .v 2 }),
    (48, 0x80300804007, .mulCompact { dst := 1, ty := .n32, a := .v 2, b := .v 3 }),
    (48, 0x403008060C8, .madCompact { guard := { neg := true, p := 3 }, dst := 1, ty := .s32, a := .v 2, b := .v 3 }),
    (48, 0x30000808009, .andCompact { dst := 2, a := .v 2, b := .imm 0 }),
    (48, 0x3010080800A, .orCompact { dst := 2, a := .v 2, b := .imm 1 }),
    (48, 0x3020080800B, .xorCompact { dst := 2, a := .v 2, b := .imm 2 }),
    (48, 0x3030080800C, .andnCompact { dst := 2, a := .v 2, b := .imm 3 })] = true := by decide +kernel

theorem test_decode_compactRest : decodesAll [
    (48, 0x8040800D, .notCompact { dst := 2, a := .l 1 }),
    (48, 0x3030240800E, .shlCompact { dst := 2, a := .v 9, b := .imm 3 }),
    (48, 0x4030240800F, .shrCompact { dst := 2, ty := .s32, a := .v 9, b := .v 3 }),
    (48, 0xFFFFD7D0, .movCompact { guard := { p := 95 }, dst := 255, a := .imm 255 }),
    (48, 0xC030080C011, .faddCompact { dst := 3, ty := .f32, a := .v 2, b := .v 3 }),
    (48, 0x10040080C012, .fsubCompact { dst := 3, ty := .bf16x2, a := .v 2, b := .v 4 }),
    (48, 0x14050080C013, .fmulCompact { dst := 3, ty := .f16x2, a := .v 2, b := .v 5 }),
    (48, 0xC060080C014, .ffmaCompact { dst := 3, ty := .f32, a := .v 2, b := .v 6 }),
    (48, 0x10070080C015, .fminCompact { dst := 3, ty := .bf16x2, a := .v 2, b := .v 7 }),
    (48, 0x14080080C016, .fmaxCompact { dst := 3, ty := .f16x2, a := .v 2, b := .v 8 }),
    (48, 0xC090080C017, .fminnumCompact { dst := 3, ty := .f32, a := .v 2, b := .v 9 }),
    (48, 0x100A0080C018, .fmaxnumCompact { dst := 3, ty := .bf16x2, a := .v 2, b := .v 10 }),
    (48, 0xC0000804019, .fabsCompact { dst := 1, ty := .f32, a := .v 2 }),
    (48, 0x14000080401A, .fnegCompact { dst := 1, ty := .f16x2, a := .v 2 })] = true := by decide +kernel


/-- No word of the list decodes. -/
def refusesWords (l : List (Nat × Nat)) : Bool := l.all fun x => decodeTableWord x.1 x.2 == none

/-- R155, R157, R158, R160, R165, R166, R173, R174: an unassigned opcode, guard 96, class `p` on an `add`, `WIDE` on a 32-bit result, a uniform register 96,
a latch 4, a nonzero unused source, a nonzero unused modifier, bit 29, a space and an order a `fence` does not take, type 11, and an event's opcode. -/
theorem test_refused_words : refusesWords [
    (96, 0x380), (96, 0x0C000001 + 96 * 2 ^ 10), (96, 0x84160080 + 2 ^ 60), (96, 0x10140080 + 2 ^ 60), (96, 0x80 + 2 ^ 60 + 352 * 2 ^ 30),
    (96, 0x80 + 2 ^ 60 + 516 * 2 ^ 30), (96, 0x80 + 2 ^ 60 + 2 ^ 50), (96, 0x82 + 2 ^ 60 + 2 ^ 64), (96, 0x80 + 2 ^ 60 + 2 ^ 29),
    (96, 0x0C000240 + 2 ^ 88 * 0x3C), (96, 0x0C000240 + 2 ^ 88 * 0x04), (96, 0x80 + 11 * 2 ^ 60), (96, 0x0C000362 + 2 ^ 65), (96, 0x19)] = true := by
  decide +kernel

/-- R168, R169: compact opcode 0x1B, a nonzero `CMOD`[2:1], a type outside the row, and a `nop` with a destination. -/
theorem test_refused_halves : refusesWords [(48, 0x1B), (48, 0x01 + 2 ^ 42 + 2 ^ 46), (48, 0x09 + 2 ^ 42), (48, 2 ^ 14)] = true := by decide +kernel

/-- R170, R171: two halves of a slot may not both be of the multiply class; a `mul` beside an `add` may stand there. -/
theorem test_pairing : pairOk (.mulCompact { dst := 1, ty := .s32, a := .v 2, b := .v 3 }) (.fmulCompact { dst := 4, ty := .f32, a := .v 6, b := .v 7 }) = false ∧
    pairOk (.mulCompact { dst := 1, ty := .s32, a := .v 2, b := .v 3 }) (.addCompact { dst := 4, ty := .s32, a := .v 5, b := .v 6 }) = true := by decide +kernel

/-! ### Legality -/

/-- A context of 64 vector registers and gangs of 32. -/
def ctx64 : Ctx := { vregs := 64, w := 32 }

/-- Every term of the list is refused. -/
def illegalAll (l : List Instr) : Bool := l.all fun i => !i.wf ctx64

/-- Every term of the list is accepted. -/
def legalAll (l : List Instr) : Bool := l.all fun i => i.wf ctx64

/-- R157 to R167: guards, targets, destinations of each class, sources of each kind, pairs and second destinations. -/
theorem test_ill_formed_fields : illegalAll [
    .ret { p := 96 }, .br {} { disp := 0, slot := 5 }, .brpAny {} 96 (.imm 1) { disp := 0, slot := 0 }, .brpAll {} 1 (.g 96) { disp := 0, slot := 0 }, .trap {} 256,
    .and { dst := .v 64 }, .and { dst := .p 1 }, .and { dst := .g 1 }, .and { dst := .v 1, wide := true }, .and { dst := .v 1, ty := .b64, wide := true }, .and { dst := .v 2, ty := .b64 },
    .and { dst := .v 0, a := .v 64 }, .and { dst := .v 0, a := .g 96 }, .and { dst := .v 0, a := .l 4 }, .and { dst := .v 0, a := .imm 256 },
    .and { dst := .v 0, wide := true, ty := .b64, a := .v 3 }, .and { dst := .v 0, wide := true, ty := .b64, a := .g 95 }, .and { dst := .v 0, d2 := 1 }, .and { dst := .v 0, c := .v 1 },
    .ldl { dst := .v 2, wide := true } .b128, .ldl { dst := .v 60 } .b128, .stl { c := .imm 4 } .b128, .stl { dst := .v 1 } .b32, .gmov { dst := .v 1 }, .gmov { dst := .g 95, wide := true, ty := .b64 },
    .gmov { dst := .g 96 }] = true := by decide +kernel

/-- R195 to R211: predicate, integer, shift, compare, select, address and special-register instructions. -/
theorem test_ill_formed_alu : illegalAll [
    .pand { dst := .p 96 }, .pand { dst := .p 1, a := .v 96 }, .pnot { dst := .p 1, b := .imm 1 }, .ppack { dst := .v 1, a := .v 65 }, .ppack { dst := .v 1, a := .imm 0 },
    .punpack { dst := .p 65 }, .punpack { dst := .p 0, b := .v 1 }, .pcnt { dst := .v 0, a := .v 64, b := .imm 33 }, .pcnt { dst := .v 0, a := .v 65, b := .imm 32 }, .pcnt { dst := .v 0, a := .v 1, b := .imm 0 },
    .add { dst := .v 0, ty := .s32, d2 := 1 } { cw := true }, .add { dst := .v 0, ty := .n32 } { sat := true, cr := true }, .add { dst := .v 0, ty := .n32, c := .imm 2 } { cr := true },
    .mul { dst := .v 0, ty := .s8x4 }, .mulh { dst := .v 0, ty := .s16x2 }, .abs { dst := .v 0, ty := .n32 } false, .and { dst := .v 0, ty := .s32 }, .rol { dst := .v 0, ty := .s32 }, .shl { dst := .v 0, ty := .f32 },
    .fshR { dst := .v 0, ty := .s32 } false, .fxt { dst := .v 0 }, .fins { dst := .v 0, ty := .n32 }, .cmp { dst := .v 1, ty := .s32 } .eq .none, .cmp { dst := .p 1 } .lt .none,
    .cmp { dst := .p 1, ty := .s32, c := .v 1 } .eq .none, .cmp { dst := .p 1, ty := .s32, c := .l 0 } .eq .and, .cmp { dst := .p 1, d2 := 96, ty := .s32 } .eq .none, .sel { dst := .v 0, c := .g 1 },
    .lea { dst := .v 0, wide := true, ty := .s32 } 8, .lea { dst := .v 0, wide := true } 1, .sreg { dst := .v 0, a := .imm 27 }, .sreg { dst := .v 0, a := .imm 23 }, .sreg { dst := .v 0, a := .v 1 },
    .gld { dst := .g 1 } .nbr] = true := by decide +kernel

/-- R213 to R241: cross-lane, floating-point and conversion instructions. -/
theorem test_ill_formed_float : illegalAll [
    .xbc { dst := .v 0, c := .v 1 }, .xbcFirst { dst := .v 0, c := .imm 1 }, .xred { dst := .v 0, ty := .f32 } .add, .xscan { dst := .v 0, ty := .s32 } .fmax true, .xvoteAny { dst := .v 0 },
    .xvoteBallot { dst := .p 1 }, .xvoteAll { dst := .p 1, a := .g 0 }, .xmatch { dst := .v 0, ty := .s32 }, .xperm { dst := .v 0, ty := .f32 }, .rngNext { dst := .v 0 }, .rngJump { dst := .v 0, ty := .n64 },
    .fadd { dst := .v 0, ty := .s32 } .rn, .fcmp { dst := .p 1, ty := .bf16x2 } .eq .none, .fcmp { dst := .p 1, ty := .f32, c := .v 1 } .eq .none, .fclassP { dst := .p 1 }, .rcp { dst := .v 0, ty := .f16x2 } .rn,
    .cvt { dst := .v 0 } {}, .cvt { dst := .v 0 } { rint := true, sat := true }, .cvt { dst := .v 0 } { src := .fp8e4, sel := 4 }, .cvt { dst := .v 0 } { src := .f32, sel := 1, dst := .bf16 },
    .cvt { dst := .v 0 } { pk := true, dst := .fp8e4 }, .cvt { dst := .v 0 } { src := .s8, dst := .s32, rnd := .rz }, .cvt { dst := .v 0 } { src := .s32, dst := .s64 }, .cvt { dst := .v 0, b := .v 1 } { dst := .bf16 }] = true := by
  decide +kernel

/-- R243 to R272: memory, atomic and synchronisation instructions. -/
theorem test_ill_formed_memory : illegalAll [
    .ldg { dst := .v 0, a := .v 1 } .b32, .stg { c := .v 1 } .s8, .stl { c := .v 1 } .s16, .stl { c := .v 1 } .b64, .ldv { dst := .v 0, d2 := 96 } .b32, .ldg { dst := .v 0, d2 := 1 } .b32,
    .atg { dst := .v 0 } { op := .add }, .atl { dst := .v 0, ty := .f32 } { op := .sub }, .atl { dst := .v 0, c := .v 1 } { op := .and }, .atl { dst := .v 0 } { op := .and, nr := true },
    .atl {} { op := .and, nr := true, order := .acq }, .atg { dst := .v 0, wide := true, ty := .b64 } { op := .cas, b128 := true }, .ath { dst := .v 0, wide := true, ty := .b64 } { op := .xchg, b128 := true },
    .ath { dst := .v 0, wide := true, ty := .b64, b := .v 2 } { op := .cas, b128 := true }, .atl { dst := .v 0, d2 := 1 } { op := .and }, .mcas { dst := .v 0, a := .g 96 } .rlx, .fence {} .rlx .wg,
    .phi { dst := .v 0 } .loc, .phi {} .host, .arv { a := .v 1 } .glb, .arv { c := .v 1 } .loc, .wph { d2 := 1 } .loc, .wphTry { d2 := 96 } .loc, .cbget { dst := .v 0, wide := true, d2 := 1 },
    .cbget { dst := .v 0, wide := true, d2 := 64 }, .cbput { c := .v 1 }, .vpub { dst := .v 0, a := .v 1 }, .publish { b := .v 1 }] = true := by decide +kernel

/-- R274, R352, R384, R404, R424, R426, R435 and the compact rows of R169. -/
theorem test_ill_formed_system : illegalAll [
    .gcp { dst := .v 0 }, .mma { b := .v 1 }, .mhint { c := .v 1 }, .cxArm { ty := .s32 }, .cxCtrGet { a := .imm 1, b := .imm 1 }, .cxCtrLink { b := .v 1 }, .stepAdv { dst := .v 0 } .ver, .stepGet { dst := .v 0 },
    .stepGetLim { dst := .v 0, wide := true, a := .v 1 }, .fork { d2 := 96 }, .keepDeclMust { dst := .v 0, a := .v 1 }, .keepDeclDrop { dst := .v 0 }, .keepQryUse { dst := .v 0, a := .v 1 }, .keepQryLd { b := .v 1 },
    .csrr { dst := .v 0 } 0x00B, .csrw {} 0x000, .csrwSet {} 0x300, .csrr { dst := .v 0, a := .v 1 } 2, .iret { p := 96 }, .rqRd { dst := .v 0, c := .v 1 }, .rqWr { dst := .v 0 }, .tlbsdVa { a := .v 1 }, .sealMeas { d2 := 96 },
    .hmRd { dst := .p 1 }, .addCompact { dst := 64, ty := .s32 }, .addCompact { dst := 0 }, .minCompact { dst := 0, ty := .s32, sat := true }, .absCompact { dst := 0, ty := .s32, b := .v 1 },
    .absCompact { dst := 0, ty := .n32 }, .notCompact { dst := 0, ty := .s32 }, .faddCompact { dst := 0, a := .l 4, ty := .f32 }, .trapEntry 0 0, .powerUp] = true := by decide +kernel

/-- Terms at the edges of the same checks are accepted. -/
theorem test_well_formed : legalAll [
    .ret { p := 95 }, .br {} { disp := 0, slot := 4 }, .trap {} 255, .and { dst := .v 63, a := .g 95, b := .l 3 }, .and { dst := .v 62, wide := true, ty := .b64, a := .v 62, b := .imm 255 },
    .gmov { dst := .g 94, wide := true, ty := .b64 }, .pcnt { dst := .v 0, a := .v 64, b := .imm 32 }, .ppack { dst := .v 1, a := .v 64 }, .ldl { dst := .v 60, wide := true } .b128, .stl { c := .v 60 } .b128,
    .sreg { dst := .v 0, wide := true, a := .imm 23 }, .sreg { dst := .v 0, a := .imm 26 }, .cbget { dst := .v 0, wide := true, d2 := 2 }, .csrw {} 0x2C5, .cvt { dst := .v 0 } { src := .fp8e4, sel := 3 }] = true := by
  decide +kernel

/-! ### Single steps -/

/-- The state in which the placed instruction is executed: the issue set up, its line entered and its slice taken. -/
def seen (nbits w : Nat) : State :=
  match (State.reset.withFetchWord nbits w).tickOn.issueGang 0 0 [0] 0 0 with
  | .run _ s => s
  | .done s => s

/-- One thread of partition 0 at a line of full-format `nop`s, in the middle of its issue. -/
def at0 : State :=
  let s := State.reset.withThread false
  { s with
    tick := 1
    mem := [(0x1003C, 32), (0x1003F, 128)]
    threads := s.threads.map fun (t : Thread) => if t.lane == 0 then { t with line := some { addr := 0x10000, raw := 2 ^ 480 * 0x80000020 } } else t
    gangs := [{ wg := 0, idx := 0, stage := 0, num := 0, ages := [(0x10000, 0)] }]
    cur := { wg := 0, gang := 0, lanes := [0], pc := 0x10000, next := 0x1000C }
    slices := [{ core := 0, idx := 0, wg := 0, gang := 0, runs := [{ wg := 0, gang := 0, lanes := [0], line := 0x10000 }] }] }

/-- It is what the first step after reset sees where a `nop` is placed. -/
theorem test_at0 : seen 96 0 = at0 := by decide +kernel

/-- The same at handler level. -/
def atHandler : State := seen 96 0x0C000362

/-- Lane 0 with some registers set. -/
def withV (s : State) (l : List (Nat × Nat)) : State :=
  s.updIssue fun t => l.foldl (fun t x => t.setV x.1 (BitVec.ofNat 32 x.2)) t

/-- What an instruction answers, as a state. -/
def run (i : Instr) (s : State) : State :=
  match exec i s with
  | .next t => t
  | _ => s

/-- Lane 0 of the only gang. -/
def lane0 (s : State) : Thread := (s.threads.head?).getD default

/-- Vector register `n` of lane 0 after an instruction, from the given registers. -/
def vAfter (i : Instr) (l : List (Nat × Nat)) (n : Nat) : Nat := ((lane0 (run i (withV at0 l))).vreg n).toNat

/-- Register `n` and predicate `p` of lane 0 after an instruction. -/
def vpAfter (i : Instr) (l : List (Nat × Nat)) (n p : Nat) : Nat × Bool :=
  let t := lane0 (run i (withV at0 l))
  ((t.vreg n).toNat, t.pred p)

/-- R151, R154: a step of the placed `add v5, v2, 7` writes 7 and moves to slot 1. -/
theorem test_step_runs : (match step (State.reset.withFetchWord 96 (0x80140080 + 2 ^ 32 * 0x10030700)) with
    | .next t => ((lane0 t).vreg 5 == 7) && ((lane0 t).pc == 0x1000C)
    | _ => false) = true := by decide +kernel

/-- R197: `add` wraps and reports the carry; `.sat` clamps; elements do not carry into each other. -/
theorem test_add : vpAfter (.add { dst := .v 1, ty := .n32, d2 := 3, a := .v 2, b := .v 3 } { cw := true }) [(2, 0xFFFFFFFF), (3, 1)] 1 3 = (0, true) ∧
    vAfter (.add { dst := .v 1, ty := .s32, a := .v 2, b := .v 3 } { sat := true }) [(2, 0x7FFFFFFF), (3, 1)] 1 = 0x7FFFFFFF ∧
    vAfter (.add { dst := .v 1, ty := .n16x2, a := .v 2, b := .v 3 } {}) [(2, 0x0001FFFF), (3, 0x00010001)] 1 = 0x00020000 := by decide +kernel

/-- R197, R201: `mulh` of -1 and 2, an arithmetic shift by 40, `madh` with its addend, `abs` of the smallest value. -/
theorem test_integer : vAfter (.mulh { dst := .v 1, ty := .s32, a := .v 2, b := .imm 2 }) [(2, 0xFFFFFFFF)] 1 = 0xFFFFFFFF ∧
    vAfter (.shr { dst := .v 1, ty := .s32, a := .v 2, b := .imm 40 }) [(2, 0x80000000)] 1 = 0xFFFFFFFF ∧
    vAfter (.madh { dst := .v 1, ty := .n32, a := .v 2, b := .v 2, c := .imm 1 }) [(2, 0xFFFFFFFF)] 1 = 0xFFFFFFFF ∧
    vAfter (.abs { dst := .v 1, ty := .s32, a := .v 2 } true) [(2, 0x80000000)] 1 = 0x7FFFFFFF := by decide +kernel

/-- R205, by its table: source bytes 4, 5 and 4, and the fill byte (notes/assumptions/41.md on its example). -/
theorem test_bsel : vAfter (.bsel { dst := .v 1, a := .v 2, b := .v 3, c := .v 4 } false) [(2, 0x44332211), (3, 0x88776655), (4, 0x00008454)] 1 = 0x00556655 := by decide +kernel

/-- R220 to R222: the spec's two draws from state 0. -/
theorem test_rng : rngStep 0 = 1 ∧ rngJump 0 2 = 0x9E3779B97F4A7C16 := by decide +kernel

/-- R227, R169: the spec's fused and unfused sequences on 1 + 2^-12. -/
theorem test_ffma : vAfter (.ffma { dst := .v 4, ty := .f32, a := .v 1, b := .v 2, c := .v 3 } .rn) [(1, 0x3F800800), (2, 0x3F800800), (3, 0xBF800000)] 4 = 0x3A000400 ∧
    vAfter (.fmulCompact { dst := 5, ty := .f32, a := .v 1, b := .v 2 }) [(1, 0x3F800800), (2, 0x3F800800)] 5 = 0x3F801000 ∧
    vAfter (.fadd { dst := .v 4, ty := .f32, a := .v 5, b := .v 3 } .rn) [(5, 0x3F801000), (3, 0xBF800000)] 4 = 0x3A000000 := by decide +kernel

/-- R235 to R241: the spec's conversion examples. -/
theorem test_cvt : vpAfter (.cvt { dst := .v 4, d2 := 5, a := .v 1 } { dst := .bf16 }) [(1, 0x3F808000)] 4 5 = (0x3F80, false) ∧
    vpAfter (.cvt { dst := .v 4, d2 := 5, a := .v 1 } { dst := .bf16, rnd := .ro }) [(1, 0x3F808000)] 4 5 = (0x3F81, false) ∧
    vpAfter (.cvt { dst := .v 4, d2 := 5, a := .v 1 } { dst := .fp8e4 }) [(1, 0x43FA0000)] 4 5 = (0x7E, true) ∧
    vpAfter (.cvt { dst := .v 4, d2 := 5, a := .v 1 } { dst := .fp8e5 }) [(1, 0x7F800000)] 4 5 = (0x7C, false) ∧
    vpAfter (.cvt { dst := .v 4, d2 := 5, a := .v 1 } { dst := .fp4 }) [(1, 0x7FC00000)] 4 5 = (0, true) ∧
    vpAfter (.cvt { dst := .v 4, d2 := 5, a := .v 1 } { dst := .s32, rnd := .rd }) [(1, 0xC0200000)] 4 5 = (0xFFFFFFFD, false) := by decide +kernel

/-- R235 to R241: the integer conversions and the element of a pair among them. -/
theorem test_cvt_integer : vpAfter (.cvt { dst := .v 4, d2 := 5, a := .v 1 } { src := .s32, dst := .s8, sat := true }) [(1, 300)] 4 5 = (0x7F, true) ∧
    vpAfter (.cvt { dst := .v 4, d2 := 5, a := .v 1 } { src := .s32, dst := .s8 }) [(1, 300)] 4 5 = (0x2C, false) ∧
    vpAfter (.cvt { dst := .v 4, d2 := 5, a := .v 1 } { src := .bf16, sel := 1 }) [(1, 0xC0403F80)] 4 5 = (0xC0400000, false) ∧
    vpAfter (.cvt { dst := .v 4, d2 := 5, a := .v 1 } { dst := .s32, rnd := .rz }) [(1, 0x4F32D05E)] 4 5 = (0x7FFFFFFF, true) := by decide +kernel

/-- R217 to R219: the tree and the sequential sum of the spec's example. -/
theorem test_xred_example : xreduce .fadd .f32 [some 0x4B800000, some 0x3F800000, some 0x3F800000, some 0x3F800000, none, some 0x3F800000, none, none] = 0x4B800002 ∧
    [0x4B800000, 0x3F800000, 0x3F800000, 0x3F800000, 0x3F800000].foldl (xcombine .fadd .f32) (xidentity .fadd .f32) = 0x4B800000 := by decide +kernel

/-- R58, R62: three planes of -45 read -2; fp4 code 9 is k6 0x21. -/
theorem test_planes : planeElem [[1], [1], [0]] 0 0 = -2 ∧ k6OfFp4 9 = 0x21 := by decide +kernel

/-- R76 to R79: the spec's K group on an accumulator of 2^24 rounds once, to 16,777,218. -/
theorem test_group_example : (Fmt.f32.ofVal .rn (Fmt.f32.decode 0x4B800001)).bits = 0x4B800001 ∧
    (Fmt.f32.add .rn 0x4B800000 0x3FC00000) = 0x4B800001 := by decide +kernel

/-- R81: f32 atomic adds of 2^24, 1 and 1 in two orders. -/
theorem test_atomic_add_orders : atNew .add .f32 (atNew .add .f32 (atNew .add .f32 0 0x4B800000 0) 0x3F800000 0) 0x3F800000 0 = 0x4B800000 ∧
    atNew .add .f32 (atNew .add .f32 (atNew .add .f32 0 0x3F800000 0) 0x3F800000 0) 0x4B800000 0 = 0x4B800001 := by decide +kernel

/-- R186: a taken `br` to slot 0 stands there; R190: `exit` leaves the thread Exited. -/
theorem test_control : (lane0 (run (.br {} { disp := 0, slot := 0 }) at0)).pc = 0x10000 ∧ (lane0 (run (.exit {}) at0)).st = .exited ∧
    (lane0 (run (.br { neg := true } { disp := 0, slot := 0 }) at0)).pc = 0x1000C := by decide +kernel

/-- R244, R247: `stl.b16` stores two bytes, which `ldl.s16` reads back sign-extended. -/
theorem test_local : (getBytes ((run (.stl { a := .imm 4, c := .v 2 } .n16) (withV at0 [(2, 0x1234FEDC)])).wg 0).ls 3 4 = [0, 0xDC, 0xFE, 0]) ∧
    ((lane0 (run (.ldl { dst := .v 3, a := .imm 4 } .s16) (run (.stl { a := .imm 4, c := .v 2 } .n16) (withV at0 [(2, 0x1234FEDC)])))).vreg 3 = 0xFFFFFEDC) := by decide +kernel

/-- R252: an `atl` compare-and-swap that finds its value stores the new one, returns the old and sets its predicate. -/
theorem test_atl : (let t := run (.atl { dst := .v 4, d2 := 3, a := .imm 8, b := .v 2, c := .v 3 } { op := .cas }) (withV at0 [(2, 0), (3, 77)])
    getNum (t.wg 0).ls 8 4 = 77 ∧ (lane0 t).vreg 4 = 0 ∧ (lane0 t).pred 3 = true) := by decide +kernel

/-- R247, R125: `stg` enters the buffer and leaves memory as it was. -/
theorem test_stg : (let t := run (.stg { a := .v 2, b := .imm 64, c := .v 4 } .b32) (withV at0 [(2, 0x10000), (3, 0), (4, 9)])
    (t.wg 0).sb.map (fun e => e.bytes) = [[9, 0, 0, 0]] ∧ t.mem = at0.mem) := by decide +kernel

/-! ### Witnesses: for each statement, states and operands that meet the hypotheses of its clauses -/

/-- `at0` after one mismatch: the last issue that still computes. -/
def atMism1 : State := { at0 with cur := { at0.cur with mism := 1 } }

theorem witness_PredicateInstructions : atMism1.cur.mism < 2 ∧
    (lane0 (run (.pandn { dst := .p 95, a := .imm 1, b := .v 2 }) atMism1)).pred 95 = true := by decide +kernel

theorem witness_IntegerAndLogicInstructions : atMism1.cur.mism < 2 ∧
    ((lane0 (run (.madCompact { dst := 255, ty := .s32, a := .imm 3, b := .imm 255 }) atMism1)).vreg 255 = 0xFFFFFFFD) ∧
    ((lane0 (run (.fins { dst := .v 0, a := .imm 0, b := .imm 255, c := .imm 8 }) atMism1)).vreg 0 = 255) := by decide +kernel

theorem witness_SelectMoveInstructions : atMism1.cur.mism < 2 ∧ (lane0 (run (.cmp { dst := .p 1, ty := .s32, a := .imm 255, b := .imm 0 } .lt .none) atMism1)).pred 1 = true ∧
    ((lane0 (run (.lea { dst := .v 2, wide := true, ty := .s32, a := .imm 1, b := .imm 255, c := .imm 0 } 2) atMism1)).vregs 2 2 = 2 ^ 64 - 3) := by decide +kernel

theorem witness_FloatInstructions : atMism1.cur.mism < 2 ∧ ((lane0 (run (.faddCompact { dst := 1, ty := .f32, a := .imm 0x38, b := .imm 0x38 }) atMism1)).vreg 1 = 0x40000000) ∧
    ((lane0 (run (.sqrt { dst := .v 1, ty := .f32, a := .imm 0x48 } .rn) atMism1)).vreg 1 = 0x40000000) := by decide +kernel

theorem witness_RandomAndQueryInstructions : atMism1.cur.mism < 2 ∧
    (lane0 (run (.rngJump { ty := .n64, a := .imm 1 }) { atMism1 with threads := atMism1.threads.map fun (t : Thread) => { t with rng := 0 } })).rng = 1 := by decide +kernel

theorem witness_FullFormatRoundTrip : (256 : Nat) ≤ 256 ∧
    (Instr.add { guard := { neg := true, p := 95 }, dst := .v 255, ty := .s32, a := .v 2, b := .imm 255 } {}).toRaw.isSome = true ∧
    (Instr.add { guard := { neg := true, p := 95 }, dst := .v 255, ty := .s32, a := .v 2, b := .imm 255 } {}).wf { vregs := 256, w := 8 } = true := by decide +kernel

theorem witness_CompactRoundTrip : (Instr.addCompact { dst := 255, ty := .s32, a := .v 2, b := .l 3, sat := true }).toCRaw.isSome = true ∧
    (Instr.addCompact { dst := 255, ty := .s32, a := .v 2, b := .l 3, sat := true }).wf { vregs := 256, w := 8 } = true ∧
    (Instr.fabsCompact { dst := 0, ty := .f32, a := .g 95 }).wf { vregs := 256, w := 8 } = true ∧
    pairOk (.addCompact { dst := 255, ty := .s32, a := .v 2, b := .l 3, sat := true }) (.fabsCompact { dst := 0, ty := .f32, a := .g 95 }) = true := by decide +kernel

theorem witness_DecodedIsLegal : (match decodeFull { vregs := 256, w := 8 } 0x0C000362 with
      | .ok i => i == .iret {}
      | .error _ => false) = true ∧
    (match decodeHalf { vregs := 8, w := 64 } 0x050400834001 with
      | .ok _ => false
      | .error _ => true) = true ∧
    (match decodeHalf { vregs := 14, w := 64 } 0x050400834001 with
      | .ok i => i == .addCompact { dst := 13, ty := .s32, a := .v 2, b := .g 4 }
      | .error _ => false) = true := by decide +kernel

/-- The state before the step that issues the placed instruction. -/
def before (nbits w : Nat) : State := State.reset.withFetchWord nbits w

/-- The line of the placed instruction and the operation at the program counter, as `StepRunsDecoded` names them. -/
def bootIssue (s : State) : State :=
  { s.tickOn.countIssue 0 0 0x10000 with cur := { wg := 0, gang := 0, lanes := (s.tickOn.chosen 0 0 [0] (lane0 s.tickOn)).map (·.lane), pc := 0x10000 } }

/-- What the line before the placed instruction holds at its program counter. -/
def fetched (s : State) : Option Fetched :=
  match (bootIssue s).readLine with
  | .ok l => l.fetch (bootIssue s).launch.ctx (bootIssue s).cur.pc
  | .error _ => none

theorem witness_StepRunsDecoded :
    let s := before 96 (0x80140080 + 2 ^ 32 * 0x10030700)
    s.action = .issue 0 0 [0] 0 0 ∧ s.tickOn.duePick 0 0 [0] = [0] ∧ s.tickOn.runFirst 0 0 = none ∧ s.tickOn.mayIssue 0 = true ∧ s.tickOn.gangStalls 0 0 = false ∧ s.tickOn.yieldsNow 0 0 = false ∧
    ((s.tickOn.gang 0 0).handler = true ∨ (s.tickOn.gang 0 0).pend = []) ∧ (s.tickOn.gang 0 0).reinject = [] ∧
    (s.tickOn.gangThreads 0 0).find? (fun t => [0].contains t.lane && t.canIssue) = some (lane0 s) ∧ (lane0 s).past = false ∧ (lane0 s).pc = 0x10000 ∧
    (bootIssue s).readLine.isOk = true ∧
    (fetched s).any (fun f => f.instr == .add { dst := .v 5, ty := .s32, a := .v 2, b := .imm 7 } {} && !f.instr.privileged) = true ∧
    ((lane0 s).inLine = false) ∧ ((lane0 at0).inLine = true ∧ (lane0 at0).line.isSome = true) ∧
    (s.part 0).breakpoint 0x10000 = none := by decide +kernel

/-- The placed `iret` outside a handler. -/
def iretOutside : State := { before 96 0x0C000362 with gangs := (before 96 0x0C000362).gangs.map fun (g : Gang) => { g with handler := false } }

theorem witness_IllegalAndPrivileged : (bootIssue (before 96 0x380)).readLine.isOk = true ∧ (fetched (before 96 0x380)).isNone = true ∧
    (fetched iretOutside).any (fun f => f.instr.privileged) = true ∧ ((bootIssue iretOutside).gang 0 0).handler = false ∧
    (Instr.hmRd { dst := .v 1, a := .imm 0 }).toRaw.any (fun r => r.op == 0x367) = true ∧ (0x10030 : DWord).toNat % 64 = 12 * 4 ∧ (0x10036 : DWord).toNat % 64 = 12 * 4 + 6 ∧
    (({ addr := 0, raw := 0 } : Line).pair 4 = false) ∧ (({ addr := 0, raw := 2 ^ 512 - 1 } : Line).pair 4 = true) := by decide +kernel

/-- Canonical memories stay canonical through a step of a placed instruction, and a step there answers a next state. -/
theorem witness_MemoriesCanonical : Memory.wf (before 96 0).mem = true ∧ Memory.wf (before 96 0).hostMem = true ∧ (before 96 0).mem ≠ [] ∧
    (match step (before 96 0) with
      | .next t => Memory.wf t.mem && t.cur != (before 96 0).cur
      | _ => false) = true := by decide +kernel

theorem witness_LocalStoresCanonical : (∀ w ∈ (before 96 0).wgs, Memory.wf w.ls = true) ∧ (before 96 0).wgs ≠ [] := by decide +kernel

theorem witness_MemoryReadWrite :
    let m : List Host.Cell := [(3, 1), (2 ^ 52, 255)]
    let st := run (.stg { a := .v 2, b := .imm 64, c := .v 4 } .b32) (withV at0 [(2, 0x10000), (4, 9)])
    Memory.wf m = true ∧ m ≠ [] ∧ (0 : Nat) < 4 ∧ (3 : Nat) < 4 ∧
    (((st.wg 0).sb.reverse.find? fun e => e.touches (.mem (0x10040 + 3)) 1).map fun e => e.dest) = some (.mem 0x10040) ∧
    (∀ e ∈ (st.wg 0).sb, e.touches (.mem (0x10044 + 0)) 1 = false) ∧ (∀ e ∈ (st.wg 0).sb, e.touches (.mem (0x1003F + 0)) 1 = false) ∧
    (∃ e ∈ (st.wg 0).sb, e.touches (.mem 0x10040) 1 = true) := by decide +kernel

theorem witness_PredicateRegisters : (1 : Nat) ≤ 1 ∧ (1 : Nat) ≤ 95 ∧ (95 : Nat) ≤ 95 ∧ at0.cur.replay = false ∧ at0.executes { neg := false, p := 0 } (lane0 at0) = true ∧
    ({ dst := .p 0 } : Op).d2 = 0 ∧ ({ dst := .p 0 } : Op).dst = .p 0 ∧ ({} : Op).dst = .none ∧ ((lane0 at0).setPred 95 true).pred 95 = true ∧ ((lane0 at0).setPred 95 true).pred 94 = false := by
  decide +kernel

theorem destinations : (lane0 at0).v.length = 256 ∧ 254 + ({ dst := .v 254, wide := true } : Op).words ≤ 256 ∧ 255 + ({ dst := .v 255 } : Op).words ≤ 256 ∧
    ((writeBoth { dst := .v 254, wide := true } (lane0 at0) (2 ^ 64 - 1) false).vregs 254 2 = 2 ^ 64 - 1) ∧
    ((writeBoth { dst := .p 1, d2 := 95 } (lane0 at0) 1 true).pred 1 = true) ∧ ((writeBoth { dst := .p 95, d2 := 0 } (lane0 at0) 1 true).pred 95 = true) ∧
    ((writeBoth { dst := .v 0, d2 := 1 } (lane0 at0) 1 true).pred 1 = true) ∧ ({ dst := .p 95, d2 := 95 } : Op).dst = .p 95 ∧ ({ dst := .p 95, d2 := 95 } : Op).d2 ≠ 0 ∧ ({ dst := .p 95, d2 := 94 } : Op).dst ≠ .p 94 := by decide +kernel

theorem witness_DestinationWrites : 254 + ({ dst := .v 254, wide := true } : Op).words ≤ (lane0 at0).v.length ∧ (∀ n, ({ dst := .v 3 } : Op).dst = .p n → n ≤ 95) ∧
    (∀ n, ({ dst := .p 3 } : Op).dst ≠ .v n) ∧ ({ lane := 0, a := 1, b := 2, c := 3 } : Cap).a = ({ lane := 1, a := 1, b := 2, c := 3 } : Cap).a :=
  by
  refine ⟨by decide +kernel, ?_, ?_, rfl⟩ <;> intro n h <;> cases h

theorem witness_IntegerValues : 3 < Ty.elems .s8x4 ∧ 0 < Ty.elems .n64 ∧ 1 < Ty.elems .n16x2 ∧ intOp .s8x4 true (fun x y _ => x + y) 0x7F000000 0x01000000 0 = 0x7F000000 := by
  decide +kernel

theorem witness_RandomJump : rngJump 5 3 = rngStep (rngStep (rngStep 5)) := by decide +kernel

/-- A slice with one pushed value for lane 0. -/
def pushed0 : State := at0.push [{ lane := 0, wide := false, x := 7 }]

theorem witness_LatchPush : (pushed0.sliceOf 0 0).any (fun x => x.wg == 0 && x.gang == 0 && x.latches.length == 1) = true ∧ pushed0.cur.wg = 0 ∧ pushed0.cur.gang = 0 ∧
    (pushed0.sliceOf 0 0).any (fun x => !x.runs.isEmpty && x.runs.all fun r => r.of 0 0 && r.lanes.contains 0 && pushed0.cur.lanes.all r.lanes.contains) = true ∧
    (pushed0.gangs.any fun g => g.wg == 0 && g.idx == 0) = true ∧ (lane0 pushed0).wg = 0 ∧ (lane0 pushed0).gang = 0 ∧
    ([({ lane := 0, wide := false, x := 9 } : LatchVal)].find? fun u => u.lane == (lane0 pushed0).lane).isSome = true ∧
    ([({ lane := 3, wide := false, x := 9 } : LatchVal)].find? fun u => u.lane == (lane0 pushed0).lane) = none ∧ (2 : Nat) < 3 ∧
    (pushed0.push [{ lane := 0, wide := false, x := 9 }]).latch (lane0 pushed0) 1 false = 7 := by decide +kernel

/-- Lane 0 with a return stack. -/
def withRet (s : State) (r : List (DWord × Bool)) : State := s.updIssue fun t => { t with ret := r }

/-- Slot 0 of the current line, which has `TGT` set, and slot 1, which has not. -/
def here (slot : Nat) : Target := { disp := 0, slot := slot }

theorem acts_at0 : Acts at0 (at0.captureNone {}) := ⟨by decide +kernel, by decide +kernel⟩

theorem witness_BranchAndCall : Acts at0 (at0.captureNone {}) ∧ at0.captureNone {} ≠ [] ∧ at0.noTarget (targetAddr at0.cur.pc (here 0)) = false ∧
    at0.noTarget (targetAddr at0.cur.pc (here 1)) = true ∧
    (∀ u ∈ (withRet at0 (List.replicate 15 (0, false))).threads, runs (withRet at0 (List.replicate 15 (0, false))) ((withRet at0 (List.replicate 15 (0, false))).captureNone {}) u = true → u.ret.length < 16) ∧
    (at0.captureNone { neg := true } = []) ∧
    Acts (withRet at0 (List.replicate 16 (0, false))) ((withRet at0 (List.replicate 16 (0, false))).captureNone {}) ∧
    ((withRet at0 (List.replicate 16 (0, false))).captureNone {}).length = 1 ∧
    (let s := withRet at0 (List.replicate 16 (0, false))
     let deep (s : State) (c : Cap) : Bool := s.issued.any fun u => (lanesOf (s.captureNone {})).contains u.lane && 16 ≤ u.ret.length && u.lane == c.lane
     (∃ c ∈ s.captureNone {}, deep s c = true) ∧ (∃ c ∈ at0.captureNone {}, deep at0 c = false) ∧ s.noTarget (targetAddr s.cur.pc (here 0)) = false ∧
     s.noTarget (targetAddr s.cur.pc (here 1)) = true ∧ ∀ c ∈ s.captureNone {}, deep s c = true) := by
  unfold Acts
  and_intros <;> decide +kernel

/-- The pairs on top of the return stacks of the lanes that execute are such as `ReturnAndExit` asks for. -/
def returnsOk (s : State) : Bool :=
  s.threads.all fun u => !runs s (s.captureNone {}) u || match u.ret with
    | (a, past) :: _ => past || !s.noTarget a
    | [] => false

theorem returns_of {s : State} (h : returnsOk s = true) :
    ∀ u ∈ s.threads, runs s (s.captureNone {}) u = true → ∃ a past r, u.ret = (a, past) :: r ∧ (past = true ∨ s.noTarget a = false) := by
  intro u hu hr
  have := List.all_eq_true.mp h u hu
  simp only [hr, Bool.not_true, Bool.false_or] at this
  split at this
  · next a past r hs => exact ⟨a, past, r, hs, by simpa using this⟩
  · cases this

theorem noneSync_at0 : NoneSync at0 0 0 := by unfold NoneSync; decide +kernel

theorem witness_ReturnAndExit :
    (Acts (withRet at0 [(0x10000, false)]) ((withRet at0 [(0x10000, false)]).captureNone {}) ∧ NoneSync (withRet at0 [(0x10000, false)]) 0 0 ∧
      (∃ u ∈ (withRet at0 [(0x10000, false)]).threads, u.wg = 0 ∧ u.live = true) ∧
      (∀ u ∈ (withRet at0 [(0x10000, false)]).threads, runs (withRet at0 [(0x10000, false)]) ((withRet at0 [(0x10000, false)]).captureNone {}) u = true →
        ∃ a past r, u.ret = (a, past) :: r ∧ (past = true ∨ (withRet at0 [(0x10000, false)]).noTarget a = false))) ∧
    returnsOk (withRet at0 [(0x1003C, true), (0, false)]) = true ∧
    (at0.cur.mism < 2 ∧ NoneSync at0 0 0 ∧ (at0.gang 0 0).handler = false) := by
  refine ⟨⟨⟨by decide +kernel, by decide +kernel⟩, by unfold NoneSync; decide +kernel, by decide +kernel, returns_of (by decide +kernel)⟩, by decide +kernel, by decide +kernel,
    noneSync_at0, by decide +kernel⟩

/-- Lane 0 in a handler, with an empty return stack; and a continuation that is no target. -/
theorem witness_ReturnAndExit_stops :
    let s := atHandler
    (s.cur.mism < 2 ∧ (s.gang 0 0).handler = true ∧ s.captureNone {} ≠ [] ∧ Acts s (s.captureNone {})) ∧
    ((∃ u ∈ s.threads, runs s (s.captureNone {}) u = true) ∧ ∀ u ∈ s.threads, runs s (s.captureNone {}) u = true → u.ret = []) ∧
    (∀ u ∈ at0.threads, runs at0 (at0.captureNone { neg := true }) u = false) ∧
    (let s := withRet at0 [(0x1000C, false)]
     Acts s (s.captureNone {}) ∧ ∃ u ∈ s.threads, runs s (s.captureNone {}) u = true ∧ u.ret = [(0x1000C, false)] ∧ s.noTarget 0x1000C = true) := by
  unfold Acts
  and_intros <;> decide +kernel

theorem witness_PlainControl : at0.cur.mism < 2 ∧ (at0.captureNone {} ≠ [] → at0.noTarget (targetAddr at0.cur.pc (here 0)) = false) ∧ at0.captureNone {} ≠ [] ∧
    at0.noTarget (targetAddr at0.cur.pc (here 1)) = true ∧ at0.hb.pend = [] ∧ at0.captureNone { neg := true } = [] ∧ (at0.gang at0.cur.wg at0.cur.gang).reinject = [] ∧
    ((run (.trap {} 255) at0).gang 0 0).handler = false := by decide +kernel

/-- Lane 0 Held at its meeting address, and lane 1 live, elsewhere, with the same one. -/
def meeting (two : Bool) : State := { at0 with threads := at0.threads.map fun (t : Thread) =>
  if t.lane == 0 then { t with st := .held, mt := some t.pc } else if two && t.lane == 1 then { t with st := .ready, mt := some 0x10000, pc := 0x1000C } else t }

theorem witness_MeetingRelease :
    (∀ x ∈ (meeting false).threads, x.wg = 0 → x.gang = 0 → x.live = true → x.mt = some 0x10000 → x.pc = 0x10000) ∧ (lane0 (meeting false)).mt = some 0x10000 ∧ (lane0 (meeting false)).st = .held ∧
    (∃ x ∈ (meeting true).threads, x.wg = 0 ∧ x.gang = 0 ∧ x.live = true ∧ x.mt = some 0x10000 ∧ x.pc ≠ 0x10000) ∧
    (lane0 ((meeting false).settle 0 0)).st = .ready ∧ (lane0 ((meeting true).settle 0 0)).st = .held ∧ (lane0 at0).mt = none ∧
    (at0.gang 0 0).returning = false ∧ ((at0.updGang 0 0 (fun g => { g with returning := true })).gang 0 0).returning = true := by decide +kernel

theorem witness_CrossLaneMeets : at0.cur.mism < 2 ∧ at0.launch.shadow = false ∧
    AllHere at0 (arrivals at0 (.xvoteBallot { dst := .v 1, a := .imm 1, b := .imm 1 }) {} { a := .pred, b := at0.maskKind } (.imm 1) (.imm 1) (.v 0)) ∧
    AllHere at0 (arrivals at0 (.brpAll {} 0 (.imm 255) (here 0)) {} { a := .pred, b := at0.maskKind } (.v 0) (.imm 255) (.v 0)) ∧
    at0.noTarget (targetAddr at0.cur.pc (here 0)) = false ∧
    (lane0 (run (.xvoteBallot { dst := .v 1, a := .imm 1, b := .imm 1 }) at0)).vreg 1 = 1 ∧
    at0.noTarget (targetAddr at0.cur.pc (here 1)) = true ∧
    (let arr := arrivals at0 (.brpAll {} 0 (.imm 255) (here 1)) {} { a := .pred, b := at0.maskKind } (.v 0) (.imm 255) (.v 0)
     ∃ u ∈ at0.threads, at0.inIssue u = true ∧ (laneVal arr u.lane).any (fun r => r.on && (xOutcome at0.launch.maskW arr u.lane r).taken) = true) := by
  refine ⟨by decide +kernel, by decide +kernel, ?_, ?_, by decide +kernel, by decide +kernel, by decide +kernel, by decide +kernel⟩ <;> unfold AllHere <;> decide +kernel

/-- What a lane brings to a meeting of the given instruction. -/
def brings (i : Instr) (mask a c : Nat) (on : Bool := true) : SyncRec := { instr := i, at_ := 0, next := 12, past := false, mask := mask, on := on, a := a, c := c }

theorem witness_CrossLaneValues :
    let i : Instr := .xperm { dst := .v 1 }
    let b : Instr := .xbcFirst { dst := .v 1 }
    let rs := [(0, brings i 3 5 1), (1, brings i 3 6 2)]
    bitAt 3 (0 % 8) = true ∧ ((xSuppliers 8 rs 0 (brings i 3 5 1)).find? fun x => x.1 == 1).isSome = true ∧ (xSuppliers 8 rs 1 (brings i 3 6 2)).find? (fun x => x.1 == 2) = none ∧
    (xSuppliers 8 [(0, brings b 3 5 0), (1, brings b 3 6 0)] 0 (brings b 3 5 0)).head?.isSome = true ∧
    xOutcome 8 rs 0 (brings i 3 5 1) = { d := some 6, ok := true } ∧ xOutcome 8 rs 1 (brings i 3 6 2) = { d := some 6, ok := false } ∧
    bitAt 2 (0 % 8) = false ∧ xOutcome 8 [(0, brings i 2 5 1)] 0 (brings i 2 5 1) = { d := some 5, ok := false } ∧ (brings i 0 5 1).mask = 0 ∧
    (let v : Instr := .xvoteBallot { dst := .v 1 }
     let m : Instr := .xmatch { dst := .v 1 }
     (brings v 1 1 0).a < 2 ∧ bitAt 1 (3 % 8) = false ∧ xOutcome 8 [(3, brings v 1 1 0)] 3 (brings v 1 1 0) = { d := some 8, ok := false } ∧
     xOutcome 8 [(3, brings m 1 5 0)] 3 (brings m 1 5 0) = { d := some 8, ok := false }) ∧
    bitAt 128 (7 % 8) = true := by decide +kernel

/-- Every address of the list passes. -/
def passes (f : Cap → Except Nat Place) (caps : List Cap) : Bool := caps.all fun c => (f c).isOk

theorem passes_of {f : Cap → Except Nat Place} {caps : List Cap} (h : passes f caps = true) : Passes f caps := by
  intro c hc
  have := List.all_eq_true.mp h c hc
  revert this
  cases f c with
  | ok p => exact fun _ => ⟨p, rfl⟩
  | error _ => intro h; cases h

/-- No lane's local-store place is uncorrectable. -/
def unpoisonedAll (s : State) (f : Cap → Except Nat Place) (n : Nat) (caps : List Cap) : Bool :=
  caps.all fun c => match f c with
    | .ok (.loc w off) => !(s.wg w).lsBad off n
    | _ => true

theorem nonePoisoned_of {s : State} {f : Cap → Except Nat Place} {n : Nat} {caps : List Cap} (h : unpoisonedAll s f n caps = true) : NonePoisoned s f n caps := by
  intro c hc w off hf
  have := List.all_eq_true.mp h c hc
  rw [hf] at this
  simpa using this

/-- No lane's place has to be asked for. -/
def asksNone (s : State) (sp : Space) (f : Cap → Except Nat Place) (n : Nat) (caps : List Cap) : Bool :=
  caps.all fun c => match f c with
    | .ok p => !s.leaves s.cur.wg p n && (sp != .ver || match p with
        | .mem k _ => !isPeer k
        | _ => true)
    | .error _ => true

theorem noneAsks_of {s : State} {sp : Space} {f : Cap → Except Nat Place} {n : Nat} {caps : List Cap} (h : asksNone s sp f n caps = true) : NoneAsks s sp f n caps := by
  intro c hc p hf
  have := List.all_eq_true.mp h c hc
  rw [hf] at this
  simp only [Bool.and_eq_true, Bool.not_eq_true'] at this
  refine ⟨this.1, fun hsp k v hp hk => ?_⟩
  subst hsp; subst hp
  have h2 := this.2
  simp [hk] at h2

/-- 03 R104: a phase object that expects one arrival, at a phase. -/
def phaseNum (phase : Word) (pend : Nat) : Nat := phaseToNum { phase := phase.toNat, arrExp := 1, arrPend := pend, bytExp := 0, bytPend := 0 }

/-- A local store with a one-entry `mcas` block at 0 (03 R106), a circular buffer of two slots at 64 (03 R108) with its phase objects at 512 and 576, and two
phase objects at 640. -/
def richLs : List Host.Cell :=
  [(0, 1), (1, 4), (2, 4), (17, 1), (18, 1), (32, 9), (65, 4), (72, 1), (76, 2), (81, 2), (84, 64), (85, 2), (92, 255), (93, 255), (94, 255),
   (95, 255), (512, 1), (516, 1), (518, 1), (528, 1), (532, 1), (534, 1), (580, 1), (582, 1), (596, 1), (598, 2), (644, 1), (646, 1), (656, 255),
   (657, 255), (658, 255), (659, 255), (660, 1), (662, 1)]

theorem test_richLs : richLs = (
    let block := setNum (setNum (setNum [] 0 16 0x00040401) 16 8 0x10100) 32 8 9
    let cbuf := setNum block 64 64 (1024 + 2 ^ 64 + 2 ^ 97 + 2 ^ 128 * 512 + 2 ^ 160 * 576 + 2 ^ 224 * (2 ^ 32 - 1))
    let phases := setNum (setNum (setNum (setNum cbuf 512 16 (phaseNum 1 1)) 528 16 (phaseNum 1 1)) 576 16 (phaseNum 0 1)) 592 16 (phaseNum 0 2)
    setNum (setNum phases 640 16 (phaseNum 0 1)) 656 16 (phaseNum 0xFFFFFFFF 1)) := by decide +kernel

/-- `at0` with a versioned page at 0x20000, an open host window 0 with its first 16 bytes marked behind its shadow, and `richLs` as its local store. -/
def rich : State :=
  { at0 with
    tlb := at0.tlb ++ [{ unit := unitCore 0, part := 0, va := 0x20000, span := 65536, base := 0x20000, dev := none, x := false, w := true, vers := some 3 }]
    mem := at0.mem ++ [(0x31000, 255), (0x31001, 255)]
    parts := updWhere (fun q => q.idx == 0) (fun q => { q with
      windows := [{ idx := 0, haddr := 0x1000, noao := false, vf := 0, size := 4096, shadow := 0x30000, ctr := 0x5000 }] }) at0.parts
    wgs := at0.wgs.map fun (w : Wg) => { w with ls := richLs } }

/-- Registers with the addresses 0x10000, 0x20000 and 0 in pairs. -/
def richV : State := withV rich [(2, 0x10000), (4, 0x20000), (8, 0x10100)]

/-- The places of a load. -/
def loadPlace (s : State) (sp : Space) (n : Nat) (c : Cap) : Except Nat Place := s.place sp .read s.cur.wg (effAddr (wideSpace sp) c) n

/-- The hypotheses of `Loads`, for one load. -/
def LoadReady (s : State) (sp : Space) (o : Op) (w : Width) : Prop :=
  let caps := s.captureOp (loadKinds sp (if sp == .ver then .n32 else .unused)) o
  s.cur.mism < 2 ∧ caps ≠ [] ∧ Passes (loadPlace s sp (WF.widthBytes w)) caps ∧ NonePoisoned s (loadPlace s sp (WF.widthBytes w)) (WF.widthBytes w) caps ∧
    NoneAsks s sp (loadPlace s sp (WF.widthBytes w)) (WF.widthBytes w) caps

theorem witness_LoadsComplete :
    LoadReady richV .glb { dst := .v 0, a := .v 2, b := .imm 4 } .b32 ∧ LoadReady richV .loc { dst := .v 0, a := .imm 255 } .s8 ∧ LoadReady richV .nbr { dst := .v 0, a := .imm 4 } .b32 ∧
    LoadReady richV .host { dst := .v 0, wide := true, a := .v 6 } .b128 ∧ LoadReady richV .ver { dst := .v 0, a := .v 4, c := .imm 1 } .b32 := by
  refine ⟨?_, ?_, ?_, ?_, ?_⟩ <;>
    exact ⟨by decide +kernel, by decide +kernel, passes_of (by decide +kernel), nonePoisoned_of (by decide +kernel), noneAsks_of (by decide +kernel)⟩

/-- An `ldv` whose page's step 0 is below the 1 it asks for clears its predicate. -/
theorem test_ldv : let t := run (.ldv { dst := .v 1, d2 := 7, a := .v 4, c := .imm 1 } .b32) (withV rich [(1, 5), (4, 0x20000)])
    (lane0 t).pred 7 = false ∧ (lane0 t).vreg 1 = 5 ∧ (lane0 (run (.ldv { dst := .v 1, d2 := 7, a := .v 4, c := .imm 0 } .b32) (withV rich [(1, 5), (4, 0x20000)]))).pred 7 = true := by
  decide +kernel

/-- The places of a store. -/
def storePlace (s : State) (sp : Space) (n : Nat) (c : Cap) : Except Nat Place := s.place sp .write s.cur.wg (effAddr (wideSpace sp) c) n

theorem witness_LocalStoresComplete :
    let caps1 := richV.captureOp (loadKinds .loc .n32) { a := .imm 255, c := .v 2 }
    let caps2 := richV.captureOp (loadKinds .nbr .quad) { a := .imm 16, c := .v 4 }
    richV.cur.mism < 2 ∧ richV.shadowDiff caps1 (fun c d => effAddr false c == effAddr false d && c.c % 2 ^ 8 == d.c % 2 ^ 8) = [] ∧ caps1 ≠ [] ∧
    Passes (storePlace richV .loc 1) caps1 ∧ NonePoisoned richV (storePlace richV .loc 1) 1 caps1 ∧ (∀ u ∈ richV.wgs, Memory.wf u.ls = true) ∧ richV.wgs ≠ [] ∧
    Passes (storePlace richV .nbr 16) caps2 := by
  refine ⟨by decide +kernel, by decide +kernel, by decide +kernel, passes_of (by decide +kernel), nonePoisoned_of (by decide +kernel), by decide +kernel, by decide +kernel, passes_of (by decide +kernel)⟩

theorem witness_BufferedStoresComplete :
    let capsG := richV.captureOp (loadKinds .glb .n64) { a := .v 2, b := .imm 8, c := .v 4 }
    let capsH := richV.captureOp (loadKinds .host .n32) { a := .v 6, c := .v 4 }
    richV.cur.mism < 2 ∧ richV.shadowDiff capsG (fun c d => effAddr true c == effAddr true d && c.c % 2 ^ 64 == d.c % 2 ^ 64) = [] ∧
    Passes (storePlace richV .glb 8) capsG ∧ placed (storePlace richV .glb 8) (richV.effective capsG) ≠ [] ∧ sbSize (richV.wg 0).sb + 8 * 1 ≤ 65536 ∧
    Passes (storePlace richV .host 4) capsH ∧ placed (storePlace richV .host 4) (richV.effective capsH) ≠ [] ∧
    richV.captureOp (loadKinds .glb .n64) { guard := { neg := true }, a := .v 2, b := .imm 8, c := .v 4 } = [] := by
  refine ⟨by decide +kernel, by decide +kernel, passes_of (by decide +kernel), by decide +kernel, by decide +kernel, passes_of (by decide +kernel), by decide +kernel,
    by decide +kernel⟩

/-- A write of a uniform register by lane 0 of another gang, which lane 0 of gang 0 has seen and lane 1 has not. -/
def regWritten : Hb := { pend := [{ uid := 9, what := .reg 95 7, wg := 0, gang := 1, lanes := [0], seen := [.thread 1 0 0 0] }] }

theorem witness_UniformWrites :
    let o : Op := { dst := .g 95, a := .imm 0 }
    richV.cur.mism < 2 ∧ Passes (fun c => richV.place .loc .read richV.cur.wg c.a 4) (richV.captureOp { a := .n32 } o) ∧
    NonePoisoned richV (fun c => richV.place .loc .read richV.cur.wg c.a 4) 4 (richV.captureOp { a := .n32 } o) ∧
    NoneAsks richV .loc (fun c => richV.place .loc .read richV.cur.wg c.a 4) 4 (richV.captureOp { a := .n32 } o) ∧
    Passes (fun c => richV.place .glb .read richV.cur.wg c.a 8) (richV.captureOp { a := .n64 } { dst := .g 94, wide := true, ty := .b64, a := .v 2 }) ∧
    (richV.wgs.find? fun u => u.uid == richV.cur.wg).any (fun w => decide (95 < w.g.length)) = true ∧ (∀ l ∈ richV.cur.lanes, richV.hb.regWritten 0 95 0 (richV.me l) = []) ∧
    (∀ v ∈ [((0 : Nat), (7 : Nat))], v.2 = 7 ∧ v.1 ∈ richV.cur.lanes) ∧ (lane0 richV).lane ∈ richV.cur.lanes ∧ (richV.writeG 95 [(0, 7)]).greg (lane0 richV) 95 = 7 ∧
    (∃ t ∈ richV.threads, t.wg = 0 ∧ t.lane ∉ richV.cur.lanes ∧ richV.hb.regOlds t.wg 95 (richV.agent t.wg t.gang t.lane) = []) ∧ ({ lane0 richV with wg := 1 } : Thread).wg ≠ richV.cur.wg ∧
    regWritten.regOlds 0 95 (.thread 1 0 0 0) = [] ∧ regWritten.regOlds 0 95 (.thread 1 0 0 1) = [7] ∧ (∀ u ∈ regWritten.pend, u.regOld 0 94 = none) ∧
    (regWritten.pend.find? fun u => (u.regOld 0 95).isSome).any (fun u => u.before (.thread 1 0 0 0)) = true := by
  refine ⟨by decide +kernel, passes_of (by decide +kernel), nonePoisoned_of (by decide +kernel), noneAsks_of (by decide +kernel), passes_of (by decide +kernel), ?_⟩
  and_intros <;> decide +kernel

/-- The places of an atomic. -/
def atomicPlace (s : State) (sp : Space) (n : Nat) (c : Cap) : Except Nat Place := s.place sp .write s.cur.wg c.a n

/-- What an atomic of one lane asks for, in each space. -/
def AtomicReady (s : State) (sp : Space) (o : Op) (m : AtMods) (k : Kind) : Prop :=
  let caps := s.captureOp { a := if wideSpace sp then .n64 else .n32, b := k, c := if m.op == .cas then k else .unused } o
  let n := atBytes o m
  let refs := (placed (atomicPlace s sp n) caps).filter fun r => (s.effective caps).contains r.cap
  let home := refs.filter fun r => !leavesAtomic r.place
  let s0 := s.cacheLanes sp (fun c => c.a) caps
  let s1 := contained s0 n refs
  let lanes := if s1.atomicWrites o m home then lanesOf (home.map fun r => r.cap) else []
  Acts s caps ∧ caps ≠ [] ∧ Passes (atomicPlace s sp n) caps ∧ NonePoisoned s (atomicPlace s sp n) n (s.effective caps) ∧ ContainersClear s0 n refs ∧
    Commits s1 m.order m.scope lanes

/-- The window that a lane's place lies in, if any, takes atomics. -/
def windowsTake (s : State) (f : Cap → Except Nat Place) (caps : List Cap) : Bool :=
  caps.all fun c => match f c with
    | .ok (.win j ..) => !(s.window s.curPart j).noao
    | _ => true

theorem windows_of {s : State} {f : Cap → Except Nat Place} {caps : List Cap} (h : windowsTake s f caps = true) :
    ∀ c ∈ caps, ∀ j off host, f c = .ok (.win j off host) → (s.window s.curPart j).noao = false := by
  intro c hc j off host hf
  have := List.all_eq_true.mp h c hc
  rw [hf] at this
  simpa using this

theorem witness_AtomicsComplete :
    AtomicReady richV .loc { dst := .v 0, ty := .n32, a := .imm 252, b := .imm 1 } { op := .add, order := .acqRel, scope := .sys } (.ty .n32) ∧
    AtomicReady richV .nbr { dst := .v 0, a := .imm 252, b := .imm 1, c := .imm 2 } { op := .cas } (.ty .b32) ∧
    AtomicReady richV .glb { dst := .v 0, ty := .n32, a := .v 2, b := .imm 1 } { op := .add, order := .rel, scope := .pkg } (.ty .n32) ∧
    AtomicReady richV .host { dst := .v 0, wide := true, ty := .n64, a := .v 6, b := .v 6 } { op := .add } (.ty .n64) ∧
    windowsTake richV (atomicPlace richV .host 8) (richV.captureOp { a := .n64, b := .ty .n64, c := .unused } { dst := .v 0, wide := true, ty := .n64, a := .v 6, b := .v 6 }) = true := by
  refine ⟨?_, ?_, ?_, ?_, by decide +kernel⟩ <;>
    exact ⟨⟨by decide +kernel, by decide +kernel⟩, by decide +kernel, passes_of (by decide +kernel), nonePoisoned_of (by decide +kernel), by unfold ContainersClear; decide +kernel,
      by unfold Commits; decide +kernel⟩

/-- The host-window atomic asks outside; the answer `ok` finds its request. -/
theorem witness_AtomicsComplete_answer :
    let t := run (.ath { dst := .v 0, wide := true, ty := .n64, a := .v 6, b := .v 6 } { op := .add }) richV
    (t.io.map fun r => (r.id, r.instr)) = [(richV.uid, .ath { dst := .v 0, wide := true, ty := .n64, a := .v 6, b := .v 6 } { op := .add })] ∧
    isNative { dst := .v 0, wide := true, ty := .n64, a := .v 6, b := .v 6 } { op := .add } = true ∧
    (t.io.find? fun r => r.id == richV.uid).any (fun r => laneVal r.waits 0 == some (.win 0 0 0x1000) && !t.noAnswer (.win 0 0 0x1000) && !r.waits.isEmpty && r.bad.isEmpty) = true ∧
    (∀ order scope, Commits t order scope []) ∧ (run (.loadReturn ⟨richV.uid, 0⟩ .ok) t).io = [] := by
  and_intros <;> first | decide +kernel | exact fun _ _ h => absurd rfl h

theorem witness_AtomicOneLane : ({ op := .cas } : AtMods).order = .rlx ∧ richV.launch.shadow = false ∧ (∀ u ∈ richV.wgs, Memory.wf u.ls = true) ∧
    getNum (richV.wg 0).ls 24 4 = 0 ∧ richV.hb.racing (richV.me 0) (.loc 0 24) 4 = false ∧
    getNum ((richV.atomicEvents { dst := .v 0 } { op := .cas } [{ cap := { lane := 0, a := 24, b := 0, c := 5 }, place := .loc 0 24 }]).1.wg 0).ls 24 4 = 5 := by
  decide +kernel

theorem witness_FenceOrders : richV.cur.mism < 2 ∧ Commits richV .acqRel .sys (lanesOf (richV.captureNone {})) ∧ lanesOf (richV.captureNone {}) ≠ [] ∧
    scopeRank .wg < 3 ∧ scopeRank .cl = 3 ∧ scopeRank .pod = 5 ∧ scopeRank .t = 0 ∧ isRelease .acqRel = true ∧ isAcquire .acqRel = true ∧ isRelease .acq = false ∧ isAcquire .rel = false := by
  refine ⟨by decide +kernel, by unfold Commits; decide +kernel, by decide +kernel, by decide +kernel⟩

/-- A thread's event on an object, the full fence of another gang after it, and what lane 0 has observed of that gang's release. -/
def fenced : State :=
  let x : Release := { by_ := .thread 1 0 1 0, rank := scopeRank .wg, pubs := [9] }
  { richV with hb :=
    { pend := [{ uid := 9, what := .event (.loc 0 640), wg := 0, gang := 1, lanes := [0] }], views := [{ by_ := .thread 1 0 0 0, obs := [(1, x)] }], fences := [x] } }

theorem witness_FenceOrders_sync : fenced.hb.pend ≠ [] ∧ fenced.me 0 = .thread 1 0 0 0 ∧
    (∃ x ∈ (fenced.hb.view (fenced.me 0)).obs, x.1 ≤ 2 ∧ x.2.by_.shares (fenced.me 0) (min 2 x.2.rank) = true ∧
      ∃ u ∈ fenced.hb.pend, u.uid ∈ x.2.pubs ∧ u.what.shown (min 2 x.2.rank) = true) ∧
    (∃ r ∈ fenced.hb.fences, r.by_.shares (fenced.me 0) (min 2 r.rank) = true ∧ ∃ u ∈ fenced.hb.pend, u.uid ∈ r.pubs) ∧
    (∀ r ∈ fenced.hb.fences, r.by_.shares (fenced.me 0) (min 1 r.rank) = false) ∧
    9 ∉ fenced.hb.known (fenced.me 0) ∧ 9 ∈ (fenced.fenceSync .acqRel .wg [0]).hb.known (fenced.me 0) ∧ 9 ∉ (fenced.fenceSync .acqRel .gang [0]).hb.known (fenced.me 0) := by decide +kernel

/-- What a release and an acquire leave: a buffer with a store, dirty lines of two peers of which one cannot be reached, and a clean line. -/
theorem witness_FenceOrders_memory :
    let line (n : Nat) (d : List Nat) : RdcLine := { die := 0, part := 0, line := n, bytes := List.replicate 128 7, dirty := d }
    let s : State := { run (.stg { a := .v 2, b := .imm 64, c := .v 4 } .b32) richV with linksDown := [3], rdc := [line (4 * physSpan / 128) [0], line (2 ^ 50) [1], line 0 []] }
    let c := s.commit 0
    (s.wg 0).sb ≠ [] ∧ (c.wg 0).sb = [] ∧ Memory.wf c.mem = true ∧ ((s.released .rel .pod).1.rdc.map fun l => (l.line, l.dirty)) = [(4 * physSpan / 128, [0]), (2 ^ 50, []), (0, [])] ∧
    (∃ l ∈ c.rdc, l.dirty ≠ [] ∧ c.unreachable (128 * l.line) = true) ∧ (∃ l ∈ c.rdc, l.dirty ≠ [] ∧ c.unreachable (128 * l.line) = false) ∧
    (∃ l ∈ s.rdc, l.die = s.die ∧ l.dirty ≠ []) ∧ ({ line 0 [] with die := 1 } : RdcLine).die ≠ s.die := by decide +kernel

theorem witness_PhaseObjectRule :
    let p : PhaseObj := { phase := 2 ^ 32 - 1, arrExp := 1, arrPend := 1, bytExp := 0, bytPend := 0 }
    p.arrPend - 1 = 0 ∧ p.bytPend - 0 = 0 ∧ (phaseStep p 1 0).1.phase = 0 ∧ ({ p with bytPend := 5 } : PhaseObj).bytPend - 4 ≠ 0 ∧
    (let z : PhaseObj := { phase := 0, arrExp := 0, arrPend := 0, bytExp := 0, bytPend := 0 }; z.arrExp = 0 ∧ z.bytExp = 0 ∧ (phaseStep z 0 0).2 = true) ∧
    (p.phase < 2 ^ 32 ∧ p.arrExp < 2 ^ 16 ∧ p.arrPend < 2 ^ 16 ∧ p.bytExp < 2 ^ 32 ∧ p.bytPend < 2 ^ 32) ∧
    phasePassed 0 0xFFFFFFFF = true ∧ phasePassed 0x80000000 0 = false := by decide +kernel

theorem witness_PhaseInstructionsComplete :
    let ol : Op := { a := .v 6, b := .imm 1 }
    let og : Op := { a := .v 2, b := .imm 1 }
    let place (sp : Space) (acc : Acc) (c : Cap) := richV.placeObj sp acc c.a
    let capsL := richV.captureOp (phaseKinds .loc) ol
    let capsG := richV.captureOp (phaseKinds .glb) og
    (Acts richV capsL ∧ capsL ≠ [] ∧ Passes (place .loc .write) capsL ∧ NonePoisoned richV (place .loc .write) 16 capsL) ∧
    (Acts richV capsG ∧ Passes (place .glb .write) capsG ∧ (placed (place .glb .write) capsG).filter (fun r => (richV.effective capsG).contains r.cap) ≠ [] ∧ sbSize (richV.wg 0).sb + 16 ≤ 65536) ∧
    (let caps := richV.captureOp { phaseKinds .loc with c := .unused } ol
     Acts richV caps ∧ Passes (place .loc .write) caps ∧ NonePoisoned richV (place .loc .write) 16 caps ∧ Commits (richV.cacheLanes .loc (fun c => c.a) caps) .rel .pkg (lanesOf caps) ∧
     Passes (place .loc .read) caps ∧ NonePoisoned richV (place .loc .read) 16 caps) ∧
    (Passes (place .ver .read) (richV.captureOp { phaseKinds .ver with c := .unused } { a := .v 4, b := .imm 0 })) ∧
    (Acts richV (richV.captureOp (phaseKinds .ver) { a := .v 4, b := .imm 0 }) ∧ richV.captureOp (phaseKinds .ver) { a := .v 4, b := .imm 0 } ≠ []) ∧
    (lanesOf (richV.captureOp { phaseKinds .loc with c := .unused } ol)).Nodup ∧ richV.captureOp (phaseKinds .glb) { og with guard := { neg := true } } = [] ∧
    (richV.captureOp { phaseKinds .ver with c := .unused } { a := .v 4, b := .imm 0 } ≠ [] ∧ (Space.glb ≠ .ver)) ∧
    (placed (place .loc .write) capsL).all (fun r => !richV.hb.storeRace (objRef .loc r.place) (richV.knownBy r.cap.lane)) = true ∧
    ((PhaseRef.loc 0 640).sync.isSome = true ∧ (PhaseRef.loc 0 640).sync.all (fun a => !richV.hb.racing (richV.me 0) a 16) = true) := by
  refine ⟨⟨⟨by decide +kernel, by decide +kernel⟩, by decide +kernel, passes_of (by decide +kernel), nonePoisoned_of (by decide +kernel)⟩,
    ⟨⟨by decide +kernel, by decide +kernel⟩, passes_of (by decide +kernel), by decide +kernel, by decide +kernel⟩,
    ⟨⟨by decide +kernel, by decide +kernel⟩, passes_of (by decide +kernel), nonePoisoned_of (by decide +kernel), by unfold Commits; decide +kernel, passes_of (by decide +kernel),
      nonePoisoned_of (by decide +kernel)⟩, passes_of (by decide +kernel), ⟨⟨by decide +kernel, by decide +kernel⟩, by decide +kernel⟩, by decide +kernel⟩

/-- A `wph` on a phase that has passed goes on; on one that has not, its thread waits. -/
theorem test_wph : (lane0 (run (.wph { a := .imm 128, b := .imm 0 } .loc) { richV with wgs := richV.wgs.map fun (w : Wg) => { w with ls := setNum w.ls 128 16 (phaseNum 1 1) } })).pc = 0x1000C ∧
    (lane0 (run (.wph { a := .imm 128, b := .imm 1 } .loc) { richV with wgs := richV.wgs.map fun (w : Wg) => { w with ls := setNum w.ls 128 16 (phaseNum 1 1) } })).st = .waiting := by decide +kernel

theorem witness_McasAndVpub :
    let o : Op := { dst := .v 0, a := .v 20 }
    let caps := richV.captureOp { a := .n32 } o
    let m : McasLane := { lane := 0, off := 0, blk := richV.mcasBlock 0 0, keys := [0x10100] }
    let c0 : Cap := { lane := 0, a := 0, b := 0, c := 0 }
    let s0 := caps.foldl State.mcasTouch richV
    let s1 := ([(0x10100, 4)] : List (Nat × Nat)).foldl (fun s r => s.commitRange s.cur.wg (.mem r.1) r.2) s0
    Acts richV caps ∧ caps.map (fun c => c.a) = [0] ∧ ((richV.mcasLaneCheck c0).toOption == some m) = true ∧ (richV.effective caps).map (fun c => c.lane) = [0] ∧
    (richV.wg 0).lsBad m.off m.size = false ∧ s1.mcasWrites .rel [m] = true ∧ Commits s1 .rel .pkg (lanesOf caps) ∧ s1.rangeClear s1.cur.wg (.mem 0x10100) 4 = true ∧ m.keys.length = m.blk.entries.length ∧
    Memory.wf richV.mem = true ∧ (∀ k ∈ m.keys, isPeer k = false) ∧ anyOverlap m.blk.width m.keys = false ∧ (∀ u ∈ richV.wgs, Memory.wf u.ls = true) ∧ (1 : Nat) < 2 ^ 8 ∧
    (m.keys.map fun k => richV.numBy 0 (.mem k none) m.blk.width) = m.blk.entries.map (fun e => e.expect) ∧
    bitAt (mcasMask 0 m.blk.entries [1]) 0 = true ∧ m.blk.entries.length = [1].length ∧ richV.mcasKept = [] ∧ m.spoiled = false ∧
    (richV.mcasKeep [m]).mcasKept = [m] ∧ (((richV.mcasKeep [m]).mcasLaneCheck c0).toOption == some m) = true := by
  unfold Acts Commits
  and_intros <;> decide +kernel

theorem witness_McasAndVpub_vpub :
    let o : Op := { dst := .v 0, a := .v 4 }
    let caps := richV.captureOp { a := .n64 } o
    let s0 := richV.cacheLanes .ver (fun c => c.a) caps
    let x := (placed (fun c => richV.placeVer c.a) (richV.effective caps)).foldl State.vpubLane (released s0 .rel .pkg (lanesOf caps), [], [])
    Acts richV caps ∧ caps.all (fun c => (richV.placeVer c.a).isOk) = true ∧ Commits s0 .rel .pkg (lanesOf caps) ∧ x.2.2 = [] ∧
    (let s : State := { richV with vtab := [(homeOf 0x20000, 3, 0xFFFFFFFF)] }
     ((placed (fun c => s.placeVer c.a) (s.effective caps)).foldl State.vpubLane (released (s.cacheLanes .ver (fun c => c.a) caps) .rel .pkg (lanesOf caps), [], [])).2.2 ≠ []) ∧
    richV.stepOf (homeOf 0x20000) 3 ≠ 0xFFFFFFFF ∧ ({ richV with vtab := [(homeOf 0x20000, 3, 0xFFFFFFFF)] } : State).stepOf (homeOf 0x20000) 3 = 0xFFFFFFFF := by
  refine ⟨⟨by decide +kernel, by decide +kernel⟩, by decide +kernel, by unfold Commits; decide +kernel, by decide +kernel, by decide +kernel, by decide +kernel, by decide +kernel⟩

theorem witness_CircularBuffers :
    let get : Op := { dst := .v 0, wide := true, a := .imm 64 }
    let put : Op := { a := .imm 64, b := .imm 1 }
    let phase (k : Nat) : PhaseRef := .loc 0 ((richV.cbufAt 0 64).freeph + 16 * k)
    Acts richV (richV.captureOp { a := .n32 } get) ∧ (∀ c ∈ richV.captureOp { a := .n32 } get, (richV.raceCbufs [c]).cbufCheck richV.cur.wg c.a = none ∧ richV.hb.racing (richV.me c.lane) (.loc richV.cur.wg c.a) 64 = false ∧
      (richV.wg richV.cur.wg).lsBad c.a 64 = false) ∧
    (∀ u ∈ richV.wgs, Memory.wf u.ls = true) ∧ (richV.cbufAt 0 64).getseq = 2 ^ 32 - 1 ∧
    Acts richV (richV.captureOp { a := .n32, b := .n32 } put) ∧
    (∀ c ∈ richV.captureOp { a := .n32, b := .n32 } put, (richV.raceCbufs [c]).cbufCheck richV.cur.wg c.a = none ∧ c.b < ((richV.raceCbufs [c]).cbufAt richV.cur.wg c.a).nslot ∧
      (richV.wg richV.cur.wg).lsBad c.a 64 = false ∧ (richV.wg richV.cur.wg).lsBad (((richV.raceCbufs [c]).cbufAt richV.cur.wg c.a).freeph + 16 * c.b) 16 = false) ∧
    Commits (richV.raceCbufs (richV.captureOp { a := .n32, b := .n32 } put)) .rel .pkg (lanesOf (richV.captureOp { a := .n32, b := .n32 } put)) ∧
    richV.slotIdle 0 64 0 = false ∧ (phaseStep (phaseOfNum (richV.phaseNum (phase 0))) 1 0).2 = true ∧
    richV.slotIdle 0 64 1 = false ∧ (phaseStep (phaseOfNum (richV.phaseNum (phase 1))) 1 0).2 = false ∧ slotsWrap 3 = false ∧ slotsWrap 64 = true ∧
    ({ richV with wgs := richV.wgs.map fun (w : Wg) => { w with ls := setNum w.ls 576 16 (phaseNum 5 1) } } : State).slotIdle 0 64 0 = true := by
  unfold Acts Commits
  and_intros <;> decide +kernel

/-- A store in the buffer, and a write-out that waits. -/
def buffering : State := run (.publish { a := .imm 0 }) (run (.stg { a := .v 2, b := .imm 64, c := .v 4 } .b32) richV)

/-- A dirty line of the RDC of die 0. -/
def cached : State := { richV with rdc := [{ die := 0, part := 0, line := 2 ^ 50, bytes := List.replicate 128 7, dirty := [0, 127] }] }

theorem witness_PublicationAndApply :
    let st := run (.stg { a := .v 2, b := .imm 64, c := .v 4 } .b32) richV
    let caps := richV.captureOp { a := .n32 } { a := .imm 0 }
    (Acts richV caps ∧ (∀ c ∈ caps, richV.closed c.a = false) ∧ Commits richV .rel .sys (lanesOf caps)) ∧
    (((buffering.part 0).publishes.find? fun x => x.1 == 0).isSome = true ∧ Memory.wf buffering.hostMem = true) ∧
    ((st.wg 0).sb[0]?.any (fun e => e.held == false && !st.sbFails 0 e && e.dest == .mem 0x10040) = true ∧ (st.launchOf 0).idem = false ∧
      ((st.wg 0).sb.take 0 = []) ∧ st.onCore 0 = true ∧ isPeer 0x10040 = false ∧ Memory.wf st.mem = true) ∧
    ((buffering.part 0).publishes.any (fun x => x.1 == 0 && x.2.pubs != []) = true ∧ ({ richV with gmap := [(0, 1)] } : State).windowOwned 0 (richV.window 0 0) = false ∧
      (let s : State := { richV with gmap := [(0, 0)] }
       s.windowOwned 0 (s.window 0 0) = true ∧ s.staging 0 (s.window 0 0) ≠ [] ∧ (0 : Nat) / 8 < (s.window 0 0).size / 8)) ∧
    ((cached.rdcLine? 0 0 (2 ^ 50)).any (fun l => decide l.dirty.Nodup) = true ∧ cached.unreachable (128 * 2 ^ 50) = false ∧ Memory.wf cached.mem = true) := by
  unfold Acts Commits
  and_intros <;> decide +kernel

/-! ### Engines -/

/-- Engine blocks (10 R281, R291, R298): a `gcp` of two rows of 16 s8 at 2048, one into the circular buffer at 2112, a `gst` of one row of s32 at 2176, a `gpl` of
eight planes at 2240, an `mma` with one group of zeros at 2304, a `drain` of tile 0 at 2432. -/
def engineLs : List Host.Cell := richLs ++
  [(2050, 1), (2064, 16), (2066, 2), (2068, 1), (2070, 1), (2072, 16), (2084, 16), (2089, 16), (2091, 14), (2096, 128), (2097, 2), (2114, 1),
   (2128, 16), (2130, 2), (2132, 1), (2134, 1), (2136, 16), (2148, 16), (2155, 14), (2160, 64), (2162, 64), (2177, 1), (2178, 1), (2192, 4),
   (2194, 1), (2196, 1), (2198, 1), (2212, 16), (2217, 16), (2219, 11), (2224, 128), (2225, 2), (2241, 2), (2242, 1), (2256, 16), (2258, 1),
   (2260, 1), (2262, 1), (2276, 16), (2281, 16), (2282, 64), (2283, 14), (2287, 2), (2288, 128), (2289, 2), (2304, 3), (2316, 2), (2321, 32),
   (2336, 3), (2348, 2), (2353, 64), (2368, 32), (2372, 128), (2373, 2), (2434, 1), (2449, 2), (2452, 128), (2453, 2), (2457, 1)]

/-- The numbers of those blocks. -/
def gcpBlock : Nat := 0x10000 + 2 ^ 128 * 16 + 2 ^ 144 * 2 + 2 ^ 160 + 2 ^ 176 + 2 ^ 192 * 16 + 2 ^ 288 * 16 + 2 ^ 320 * 4096 + 2 ^ 342 * 8 + 2 ^ 346 * 3 + 2 ^ 384 * 640
def claimBlock : Nat := 0x10000 + 2 ^ 128 * 16 + 2 ^ 144 * 2 + 2 ^ 160 + 2 ^ 176 + 2 ^ 192 * 16 + 2 ^ 288 * 16 + 2 ^ 342 * 8 + 2 ^ 346 * 3 + 2 ^ 384 * 64 + 2 ^ 406
def gstBlock : Nat := 0x10100 + 2 ^ 128 * 4 + 2 ^ 144 + 2 ^ 160 + 2 ^ 176 + 2 ^ 288 * 16 + 2 ^ 320 * 4096 + 2 ^ 342 * 12 + 2 ^ 346 * 2 + 2 ^ 384 * 640
def gplBlock : Nat := 0x10200 + 2 ^ 128 * 16 + 2 ^ 144 + 2 ^ 160 + 2 ^ 176 + 2 ^ 288 * 16 + 2 ^ 320 * 4096 + 2 ^ 342 * 9 + 2 ^ 346 * 3 + 2 ^ 374 * 8 + 2 ^ 384 * 640
def mmaBlock : Nat := 3 + 2 ^ 92 * 32 + 2 ^ 128 * 8192 + 2 ^ 256 * (3 + 2 ^ 92 * 32 + 2 ^ 128 * 16384) + 2 ^ 512 * (32 + 2 ^ 32 * 640)
def drainBlock : Nat := 0x10000 + 2 ^ 128 * 512 + 2 ^ 160 * 640 + 2 ^ 200

theorem test_engineLs : getNum engineLs 2048 64 = gcpBlock ∧ getNum engineLs 2112 64 = claimBlock ∧ getNum engineLs 2176 64 = gstBlock ∧ getNum engineLs 2240 64 = gplBlock ∧
    getNum engineLs 2304 128 = mmaBlock ∧ getNum engineLs 2432 64 = drainBlock := by decide +kernel

/-- `rich` with those blocks, the page at 0x10000 cached in other units too, and a launch that may use every tile; lane 0 names a block in `v1`. -/
def engines (blk : Nat) : State :=
  withV { rich with
    tlb := rich.tlb ++ [unitGouge 0, unitLathe 0 0, unitHandle 0, unitHandle 1, unitHead].map fun u =>
      { unit := u, part := 0, va := 0x10000, span := 65536, base := 0x10000, dev := none, x := false, w := true, vers := none }
    wgs := rich.wgs.map fun (w : Wg) => { w with ls := engineLs }
    nodes := rich.nodes.map fun (n : Node) => { n with launch := { n.launch with accmask := 2 ^ 16 - 1 } } } [(1, blk)]

/-- The block of an engine command. -/
def blkOp : Op := { a := .v 1 }

/-- The hypotheses of `Issues`. -/
def IssueReady (s : State) (n : Nat) (check : Nat → Option Nat) (more : Nat → List (Nat × Nat)) : Prop :=
  s.captureBlk blkOp ≠ [] ∧ EngineReady s (s.captureBlk blkOp) 64 n check more

theorem witness_EngineCommands :
    let k (e : EKind) (blk : Nat) (a : Nat) := (engines blk).blockCheck 0 a 64 64 ((engines blk).gougeFields e 0)
    IssueReady (engines 2048) 64 (k .gcp 2048) (engines 2048).gcpReads ∧ IssueReady (engines 2112) 64 (k .gcp 2112) (engines 2112).gcpReads ∧
    IssueReady (engines 2176) 64 (k .gst 2176) (fun _ => []) ∧ IssueReady (engines 2240) 64 (k .gpl 2240) (fun _ => []) ∧
    IssueReady (engines 2304) 128 (fun a => (engines 2304).blockCheck 0 a 64 128 ((engines 2304).mmaFields 0)) (fun _ => []) ∧
    IssueReady (engines 2432) 64 (fun a => (engines 2432).blockCheck 0 a 64 64 ((engines 2432).drainFields 0)) (fun _ => []) := by
  unfold IssueReady EngineReady Acts
  and_intros <;> decide +kernel

/-- Blocks that name a lathe, and none; a stopped one; a tile that an operation writes whose completion lane 0 has not acquired. -/
theorem witness_EngineCommands_takes : (mblockOf mmaBlock).progress = 0 ∧ (mblockOf mmaBlock).lathe ≠ 7 ∧ (mblockOf (2 ^ 576 + 2 ^ 608 * 16)).progress ≠ 0 ∧
    (∃ x, (mblockOf x).progress = 0 ∧ (mblockOf x).lathe = 7) ∧ (engines 2432).cur.kind = .instr ∧
    ({ pend := [{ uid := 9, what := .op .mma [] [(0, 0)], wg := 0 }] } : Hb).tileRacing (.thread 1 0 0 0) 0 (0, 0) = true := by
  refine ⟨by decide +kernel, by decide +kernel, by decide +kernel, ⟨7 * 2 ^ 528, by decide +kernel⟩, by decide +kernel, by decide +kernel⟩

/-- The operation that an engine command of lane 0 makes from a block. -/
def operation (kind : EKind) (blk block : Nat) : EOp := { uid := 3, kind := kind, wg := 0, gang := 0, lane := 0, tnum := 0, pc := 0x10000, word := 0, blk := blk, block := block }

/-- The engines with that operation in one of them. -/
def working (o : EOp) : State := { engines o.blk with eops := [o] }

/-- An engine command makes it. -/
theorem test_gcp : ((run (.gcp blkOp) (engines 2048)).eops.map fun e => { e with dest := [], span := [], born := 0, pubs := [], sees := [] }) = [operation .gcp 2048 gcpBlock] := by decide +kernel

theorem test_mma : ((run (.mma blkOp) (engines 2304)).eops.map fun e => { e with due := none, dest := [], span := [], born := 0, pubs := [], sees := [] }) = [operation .mma 2304 mmaBlock] := by decide +kernel

theorem witness_GougeWork_gcp :
    let o := operation .gcp 2048 gcpBlock
    let s := working o
    s.eop o.uid = some o ∧ s.opRuns o = true ∧ o.kind = .gcp ∧ o.unclaimed = false ∧ o.progress < (gblockOf o.block).rows ∧
    (s.gcpRow (unitGouge 0) 0 (gblockOf o.block) o.progress).isOk = true ∧
    (({ s with tlb := [] } : State).opFault o).isSome = true ∧ o.kind ≠ .mma ∧ o.kind ≠ .drain ∧ (s.gangs.find? fun x => x.wg == 0 && x.idx == 0).isSome = true := by decide +kernel

theorem witness_GougeWork_claim :
    let o := operation .gcp 2112 claimBlock
    let s := working o
    o.unclaimed = true ∧ (s.cbufAt 0 64).freed = 0 ∧ o.holds (.loc o.wg (gblockOf o.block).compl) 64 = false ∧
    (({ s with wgs := s.wgs.map fun (w : Wg) => { w with ls := setNum w.ls (64 + 36) 4 1 } } : State).cbufAt 0 64).freed ≠ 0 := by decide +kernel

theorem witness_GougeWork_stores :
    (let o := operation .gst 2176 gstBlock
     o.kind = .gst ∧ o.progress < (gblockOf o.block).rows ∧ ((working o).wg 0).lsBad 4096 16 = false ∧
     ((working o).gstKeys o (gblockOf o.block) 0).toOption.any (fun x => ((working o).applyPieces 0 (x.1 ++ x.2)).piecesClear 0 (x.1 ++ x.2)) = true) ∧
    (let o := operation .gpl 2240 gplBlock
     o.kind = .gpl ∧ o.progress < (gblockOf o.block).nplane ∧ (∀ r < 1, ((working o).wg 0).lsBad (4096 + r * 16) 16 = false) ∧
     ((working o).engineKeys (unitGouge 0) 0 .write (0x10200 + 0 * (gblockOf o.block).plane) (gblockOf o.block).plane).toOption.any
       (fun l => ((working o).applyPieces 0 l).piecesClear 0 l) = true) := by decide +kernel

theorem witness_LatheTiming :
    let s : State := { engines 2304 with lathes := [{ core := 0, idx := 0, phase := .rampUp, due := 0 }, { core := 0, idx := 1, phase := .rampDown, due := 0 }, { core := 0, idx := 2, phase := .ready, h := some 0 },
      { core := 0, idx := 3, phase := .rampUp, due := 64 }] }
    s.cur.mism < 2 ∧ (∀ c ∈ s.captureOp { a := .n32, b := .n32 } { a := .imm 4, b := .imm 5 }, c.b = 0 ∨ (c.a ≠ 7 ∧ 3 < c.a)) ∧ s.captureOp { a := .n32, b := .n32 } { a := .imm 4, b := .imm 5 } ≠ [] ∧
    (1 : Nat) ≠ 0 ∧ ((engines 2304).lathe 0 0).phase = .idle ∧ (s.lathe 0 0).phase = .rampUp ∧ (s.lathe 0 0).due ≤ s.sliceClk ∧ s.latheQueue 0 0 = [] ∧ (s.lathe 0 0).h = none ∧
    s.sliceClk < (s.lathe 0 3).due ∧ (s.lathe 0 1).phase = .rampDown ∧ (s.lathe 0 1).due ≤ s.sliceClk ∧ (s.lathe 0 1).phase ≠ .rampUp ∧ (s.lathe 0 2).phase = .ready ∧ s.latheQueue 0 2 = [] ∧
    (s.lathe 0 2).h = some 0 ∧ (0 : Nat) ≤ s.sliceClk ∧ (working (operation .mma 2304 mmaBlock)).latheQueue 0 0 ≠ [] ∧
    ((working (operation .drain 2432 drainBlock)).lathe 0 0).phase = .idle ∧ (working (operation .drain 2432 drainBlock)).latheQueue 0 0 ≠ [] ∧
    hinted (engines 2304).launch 7 = [0, 1, 2, 3] ∧ hinted (engines 2304).launch 4 = [] := by decide +kernel

/-- An `mma` whose first and last group is due: its lathe ready and its group's clocks over. -/
def groupReady : State :=
  { working { operation .mma 2304 mmaBlock with due := some 0 } with lathes := [{ core := 0, idx := 0, phase := .ready }] }

theorem witness_MatrixGroupsAndDrains_mma :
    let o := { operation .mma 2304 mmaBlock with due := some 0 }
    let b := mblockOf mmaBlock
    groupReady.eop o.uid = some o ∧ o.kind = .mma ∧ o.undef = false ∧ groupReady.groupDue o b = true ∧ o.retried = false ∧ ({ o with retried := true } : EOp).retried = true ∧ o.progress + 1 = b.k / 32 ∧
    groupReady.groupBad 0 0 b.a = false ∧ groupReady.groupBad 0 0 b.b = false ∧ (groupReady.groupOps o b).isOk = true := by decide +kernel

theorem witness_MatrixGroupsAndDrains_drain :
    let o := operation .drain 2432 drainBlock
    let b := dblockOf drainBlock
    (working o).eop o.uid = some o ∧ o.kind = .drain ∧ (working o).opRuns o = true ∧ (working o).tileBusy o b.tile = false ∧ (working o).drainTurn o = true ∧ (working o).drainBad o b = false ∧
    ((working o).drainKeys o b).toOption.any (fun x => ((working o).applyPieces 0 (x.1.flatten ++ x.2)).piecesClear 0 (x.1.flatten ++ x.2)) = true := by decide +kernel

/-! ### Spindles, reductions and the progress table -/

/-- Spindle blocks (10 R302, R303, R307): a point-to-point bind of handle 2 at 2048, an unbind of handle 0 at 2176, a send on handle 0 at 2304 and a contribution to handle 1
at 2336. -/
def groupLs : List Host.Cell := richLs ++ [(2048, 2), (2049, 1), (2050, 1), (2052, 5), (2305, 16), (2313, 1), (2314, 1), (2320, 16), (2337, 16), (2350, 1)]

theorem test_groupLs : getNum groupLs 2048 128 = 2 + 2 ^ 8 + 2 ^ 16 + 2 ^ 32 * 5 ∧ getNum groupLs 2176 128 = 0 ∧ getNum groupLs 2304 32 = 4096 + 2 ^ 64 * 0x10100 + 2 ^ 128 * 16 ∧
    getNum groupLs 2336 32 = 4096 + 2 ^ 112 := by decide +kernel

/-- The parameters of a reduction of four elements from two slots, with a quorum of one. -/
def redParams : RedParams := { e := 4, n := 2, q := 1, t := 0, k := 0, d := 1, first := 0 }

/-- The reduction, rooted here. -/
def red0 : Reduction := { part := 0, redid := 9, params := redParams, low := 0 }

/-- A partition of a training group of two ranks, with handle 0 to rank 1 and handle 1 to a reduction. -/
def groupPart (q : Part) : Part :=
  { q with
    csr := [(0x010, 2), (0x012, 0), (0x014, 0x40000)]
    bound := true
    prog := [{}, {}]
    handles := [{ idx := 0, bind := .p2p 1 5 }, { idx := 1, bind := .reduce 9 0x10400 0x10500 0x10600 0 0 0 4 2 }] }

/-- `rich` in that group; lane 0 names a block in `v1`. -/
def grouped (blk : Nat) : State :=
  withV { rich with
    tlb := rich.tlb ++ [unitHandle 0, unitHandle 1, unitHandle 2].map fun u =>
      { unit := u, part := 0, va := 0x10000, span := 65536, base := 0x10000, dev := none, x := false, w := true, vers := none }
    gmap := [(0, 0)]
    mem := rich.mem ++ [(0x40007, 128)]
    reds := [red0]
    parts := updWhere (fun q => q.idx == 0) groupPart rich.parts
    wgs := rich.wgs.map fun (w : Wg) => { w with ls := groupLs }
    nodes := rich.nodes.map fun (n : Node) => { n with launch := { n.launch with tgb := true, rank := 1 } } } [(1, blk), (2, 0x10000)]

/-- The handle of the reduction. -/
def redHandle : Handle := { idx := 1, bind := .reduce 9 0x10400 0x10500 0x10600 0 0 0 4 2 }

/-- `grouped` with notices of devices 3 and 4 for a reduction that is not open yet. -/
def redNotices : State := { grouped 0 with
  heldNotices := [{ part := 0, redid := 8, dev := some 3, params := redParams }, { part := 0, redid := 8, dev := some 4, params := { redParams with e := 5 } }] }

theorem acts_of {s : State} {caps : List Cap} (h : s.cur.mism < 2 ∧ s.shadowDiff caps sameCaps = []) : Acts s caps := h

theorem witness_SpindleInstructions :
    (Acts (grouped 2048) ((grouped 2048).captureBlk blkOp) ∧
      (∀ c ∈ (grouped 2048).captureBlk blkOp, (grouped 2048).blockCheck 0 c.a 64 128 ((grouped 2048).bindFields []) = none ∧ ((grouped 2048).wg 0).lsBad c.a 128 = false)) ∧
    (Acts (grouped 2176) ((grouped 2176).captureBlk blkOp) ∧
      (∀ c ∈ (grouped 2176).captureBlk blkOp, (grouped 2176).blockCheck 0 c.a 64 128 ((grouped 2176).bindFields []) = none ∧ ((grouped 2176).bindAt c).kind = 0 ∧
        (grouped 2176).handleBusy 0 ((grouped 2176).bindAt c).handle = false)) ∧
    (((grouped 2048).part 0).idx = 0 ∧ 0 < (grouped 2048).parts.length ∧ (bindOf (getNum groupLs 2048 128)).kind = 1 ∧ ((grouped 2048).handle 0 1).map (fun h => h.bind) = some redHandle.bind ∧
      (grouped 2048).reduction 0 8 = none ∧ (grouped 2048).handle 0 7 = none ∧ redNotices.heldNotices.any (fun m => m.part == 0 && m.redid == 8 && m.dev == some 3) = true ∧
      redNotices.heldNotices.any (fun m => m.params == redParams) = true ∧ redNotices.heldNotices.any (fun m => m.params != redParams) = true) ∧
    (Acts (grouped 2304) ((grouped 2304).captureBlk blkOp) ∧
      (∀ c ∈ (grouped 2304).captureBlk blkOp, (grouped 2304).blockCheck 0 c.a 32 32 ((grouped 2304).sendFields 0) = none ∧ ((grouped 2304).wg 0).lsBad c.a 32 = false)) ∧
    (let s := grouped 2304
     let x := (sendOf 2304 (getNum groupLs 2304 32)).1
     x.glb = false ∧ x.rden = false ∧ s.onCore 0 = true ∧ (s.part 0).st ≠ .stopped ∧ (s.sendTarget 0 x).isSome = true ∧ (s.wg 0).lsBad x.src x.len = false ∧
     ((run (.cxSend blkOp) s).sends.find? fun y => y.uid == s.uid && !y.read).any (fun y => !y.undef && y.send == x && y.by_.wg == 0 && y.part == 0) = true) ∧
    (Acts (grouped 2336) ((grouped 2336).captureBlk blkOp) ∧
      (∀ c ∈ (grouped 2336).captureBlk blkOp, (grouped 2336).blockCheck 0 c.a 32 32 ((grouped 2336).redFields 0) = none ∧ ((grouped 2336).wg 0).lsBad c.a 32 = false)) := by
  unfold Acts
  and_intros <;> decide +kernel

theorem witness_SpindleInstructions_counters :
    let s := grouped 2304
    let arm : Op := { a := .v 1, b := .imm 255, c := .imm 1 }
    let link : Op := { a := .imm 255, b := .v 2 }
    let caps := s.captureOp { a := .n32, b := .n32, c := .n32 } arm
    (Acts s caps ∧ (∀ c ∈ caps, s.blockCheck 0 c.a 32 32 (s.sendFields 0) = none ∧ (s.wg 0).lsBad c.a 32 = false ∧ c.b ≤ 255 ∧ s.firesNow c = false) ∧ (s.part 0).armed.length + (s.effective caps).length ≤ 64) ∧
    (Acts s (s.captureOp { a := .n32 } { a := .imm 255 }) ∧ (∀ c ∈ s.captureOp { a := .n32 } { a := .imm 255 }, c.a ≤ 255)) ∧
    s.firesNow { lane := 0, a := 0, b := 0, c := 0 } = true ∧ (grouped 2304).inFlight 0 2304 32 = false ∧ (run (.cxSend blkOp) (grouped 2304)).inFlight 0 2304 32 = true ∧
    (∀ a ∈ (s.part 0).armed, a.ctr ≠ 255 ∨ reached 7 a.thr = false) ∧ (s.setCtr 0 255 7).ctr 0 255 = 7 ∧
    (s.captureOp { a := .n32, b := .n64 } link).all (fun c => match s.linkObj c with
      | .ok (.mem _ _) => true
      | _ => false) = true ∧
    reached 0x80000000 1 = true ∧ reached 0 1 = false := by
  unfold Acts
  and_intros <;> decide +kernel

/-- A send under way: its source has been read. -/
def sending : State := (run (.cxSend blkOp) (grouped 2304)).startSend (grouped 2304).uid

/-- A contribution of handle 1 sent to a root elsewhere. -/
def contributed : Contrib :=
  { uid := 70, by_ := { wg := 0, gang := 0, lane := 0, tnum := 0, pc := 0, word := 0 }, part := 0, redid := 8, handle := 1, slot := 0, step := 0, buf := 4096, glb := false, rden := false, rdone := 0
    blk := 2336, sent := true, words := [1, 2, 3, 4] }

theorem witness_SpindleEvents :
    let s := grouped 2304
    s.linksOpen = true ∧ ({ s with holdup := .saving } : State).linksOpen = false ∧ (s.part 0).st = .running ∧ (255 : Nat) ≤ 255 ∧ s.ownsRange 0 0x10100 16 = true ∧ (s.part 1).st ≠ .running ∧ (s.part 1).st ≠ .stopped ∧ s.ownsRange 1 0x10100 16 = false ∧ (255 : Nat) < 256 ∧
    (s.part 0).idx = 0 ∧ (s.part 0).links.find? (fun l => l.1 == 5) = none ∧ (∀ a ∈ (s.part 0).armed, a.ctr ≠ 5 ∨ reached (s.ctr 0 5 + 1) a.thr = false) ∧
    (sending.sends.find? fun x => x.uid == s.uid).any (fun x => x.read && sending.onCore x.by_.wg && chunkCount x.send.len == 1) = true ∧ (∀ c ∈ sending.contribs, c.uid ≠ s.uid) ∧
    ({ sending with sends := sending.sends.map fun (x : Send) => { x with acked := 1 } } : State).sends.all (fun x => x.acked == chunkCount x.send.len && !x.spoiled) = true ∧
    sending.sends.all (fun x => sending.sendReaches x) = true ∧ sending.sends.all (fun x => !({ sending with devNum := 1, linksDown := [0] } : State).sendReaches x) = true ∧
    (sending.wg 0).st ≠ .switchedOut ∧
    (let t : State := { run (.cxSend blkOp) s with tlb := [] }
     t.eop s.uid = none ∧ (t.sends.find? fun x => x.uid == s.uid && !x.read).any (fun x => t.onCore x.by_.wg && (t.sendFault x).isSome && !x.spoiled) = true) ∧
    (let t : State := { s with contribs := [contributed] }
     (∀ x ∈ t.sends, x.uid ≠ 70) ∧ t.contribs.filter (fun c => c.uid == 70) = [contributed] ∧ contributed.sent = true ∧ t.reduction 0 8 = none) := by decide +kernel

/-- A reduction with an arrival from device 3 in an open step, and a closed step's result that holds another. -/
theorem witness_SpindleEvents_failure :
    let x : RStep := { step := 0, ontime := [{ slot := 0, src := 0, dev := some 3, words := [] }] }
    let c : Closed := { msg := { part := 0, redid := 9, step := 0, words := [], status := 0 }, devs := [3] }
    ((x.ontime ++ x.folded).any fun l => l.dev == some 3) = true ∧ 3 ∈ c.devs ∧ 4 ∉ c.devs ∧
    ({ grouped 0 with results := [c], landing := [{ msg := c.msg }] } : State).landing.all (fun l => [c].any fun d => d.msg.part == l.msg.part && d.msg.redid == l.msg.redid && d.msg.step == l.msg.step) = true := by decide +kernel

/-- A contribution that waits for its admission. -/
def contributing : State := run (.cxRed blkOp) (grouped 2336)

/-- An arrival from device 3 for a step and a slot. -/
def arrival (step : Word) (slot : Nat) : Arrival := { part := 0, redid := 9, dev := some 3, slot := slot, step := step, words := [1, 2, 3, 4] }

/-- The result of step 0, here at its root, and that state; and the page of its destination versioned. -/
def result0 : ResultMsg := { part := 0, redid := 9, step := 0, words := [1, 2, 3, 4], status := 0 }
def delivering : State := { grouped 0 with results := [{ msg := result0, devs := [] }] }
def versioned : State := { delivering with
  vtab := [(homeOf 0x10400, 3, 5)]
  tlb := delivering.tlb.map fun (e : Tlb) => { e with vers := some 3 } }

theorem witness_Reductions :
    (let s := contributing
     (s.contribs.find? fun c => c.uid == (grouped 2336).uid && !c.sent).any (fun c => s.admits c && s.onCore c.by_.wg && !c.undef && !c.glb && !(s.wg c.by_.wg).lsBad c.buf (4 * s.redElems c) &&
       (s.spindleRead c.handle c.part c.by_ c.glb c.buf (4 * s.redElems c)).isOk) = true) ∧
    ((grouped 0).linksOpen = true ∧ (grouped 0).reduction 0 8 = none ∧ (grouped 0).reduction 0 9 = some red0 ∧ ({ redParams with e := 5 } : RedParams) ≠ red0.params) ∧
    ((arrival 0 0).dev = some 3 ∧ ((grouped 0).expireTimers 0 9).linksOpen = true ∧ ((grouped 0).expireTimers 0 9).reduction 0 9 = some red0 ∧ red0.takes (arrival 0 0) = true ∧ red0.takes (arrival 7 1) = true ∧ red0.takes (arrival 8 1) = false) ∧
    ((red0.low - (arrival 7 1).step).toInt ≤ 0 ∧ (∀ l ∈ (red0.stepOf 7).ontime, l.slot ≠ 1) ∧ (∃ l ∈ ((red0.arrive (arrival 7 1) 0).stepOf 7).ontime, l.slot = 1) ∧
      (let late := { red0 with low := 5 }
       0 < (late.low - (arrival 4 0).step).toInt ∧ (late.low - (arrival 4 0).step).toInt ≤ (red0.params.d : Int) ∧ (red0.params.d : Int) < (late.low - (arrival 3 0).step).toInt)) ∧
    ((red0.stepOf red0.low).ontime.length < red0.params.q ∧ (red0.stepOf red0.low).expired = false ∧ red0.params.q ≤ ((red0.arrive (arrival 0 0) 0).stepOf 0).ontime.length) ∧
    (({ step := 0 } : RStep).ontime = [] ∧ ({ step := 0 } : RStep).folded = []) ∧
    (((grouped 0).part 0).reduceHandle 9 = some redHandle ∧ ({ part := 0, redid := 9, step := 0, words := [1, 2, 3, 4], status := 0 } : ResultMsg).words.length = 4 ∧
      ((delivering.results.find? fun c => c.msg.part == 0 && c.msg.redid == 9).map Closed.msg) = some result0 ∧ (delivering.landing.find? fun l => l.msg.part == 0 && l.msg.redid == 9) = none ∧
      redHandle.bind = .reduce 9 0x10400 0x10500 0x10600 0 0 0 4 2) := by decide +kernel

/-- A step whose timer has expired, one whose clock is still to end; a piece of a result that lands, one whose page's step is past, one on no page, none left; a record and an object that are mapped. -/
theorem witness_Reductions_timers :
    let r : Reduction := { red0 with steps := [{ step := 0, timer := some 4 }] }
    let s : State := { grouped 0 with reds := [r], spindleClk := 4 }
    let t : State := { s with spindleClk := 5 }
    s.reduction 0 9 = some r ∧ (∀ x ∈ r.steps, ∀ y ∈ x.timer, s.redClk 0 9 ≤ y) ∧ (∃ x ∈ r.steps, ∃ y ∈ x.timer, y < t.redClk 0 9) ∧
    (pages 0x10400 16)[0]? = some (0x10400, 16) ∧ (pages 0x10400 16)[1]? = none ∧ delivering.pieceKey (unitHandle 1) 0 0x10400 16 = some (0x10400, none) ∧
    delivering.stale 0x10400 none 1 = false ∧ delivering.pieceKey (unitHandle 1) 0 0x90000 16 = none ∧
    versioned.pieceKey (unitHandle 1) 0 0x10400 16 = some (0x10400, some 3) ∧ versioned.stale 0x10400 (some 3) 1 = true ∧ versioned.stale 0x10400 (some 3) 9 = false ∧
    (delivering.xlate (unitHandle 1) 0 0x10600 .write).isOk = true ∧ isPeer 0x10600 = false ∧ delivering.bad 0x10500 16 = false ∧
    ({ redHandle with last := some 0 } : Handle).last = some 0 ∧
    delivering.pageTaken { msg := result0 } 0x10400 none = false ∧
    ({ versioned with landing := [{ msg := { result0 with redid := 8 }, begun := some (0x10400, some 3) }] } : State).pageTaken { msg := { result0 with step := 9 } } 0x10400 (some 3) = true ∧
    (delivering.mixBytes 0x10400 [1, 2]).length = 2 ∧ versioned.stepOf (homeOf 0x10400) 3 < 9 ∧ result0.status.getLsbD 3 = false ∧ (8 : BitVec 128).getLsbD 3 = true := by decide +kernel

/-- Rank 1 is device 5, reached over Ethernet, with no endpoint. -/
def rankDown : State := { grouped 0 with mem := [(0x40004, 5), (0x40007, 0xC0)] }

theorem witness_ProgressTable :
    let s := grouped 0
    let o : Op := { dst := .v 0, a := .v 10 }
    let q := s.part 0
    let caps := s.captureOp { a := .n32 } o
    (Acts s caps ∧ Passes (fun c => s.placeObj .loc .write c.a) (s.captureOp { a := .n32 } o) ∧
      ContainersClear (s.cacheLanes .loc (fun c => c.a) caps) 16 ((placed (fun c => s.placeObj .loc .write c.a) caps).filter fun r => (s.effective caps).contains r.cap) ∧
      NonePoisoned s (fun c => s.placeObj .loc .write c.a) 16 (s.captureOp { a := .n32 } o) ∧ s.launch.tgb = true) ∧
    (s.cur.mism < 2 ∧ (∀ c ∈ s.captureOp { a := .n32 } { dst := .v 0, wide := true, a := .imm 255 }, c.a ≤ 4095)) ∧
    (s.linksOpen = true ∧ s.hears 0 1 = true ∧ (1 : Nat) < q.nrank ∧ q.idx = 0 ∧ 0 < s.parts.length ∧ 1 < q.prog.length ∧ q.gates = []) ∧
    (s.gateBad (.loc 0 640) = none ∧ 0 < (1 - BitVec.ofNat 32 (phaseOfNum (s.phaseNum (.loc 0 640))).phase).toInt) ∧
    (rankDown.hears 0 1 = false ∧ q.nrank ≤ 2) ∧ s.objOwned 0 (.loc 0 640) = true ∧ s.objOwned 0 (.glb (2 ^ 30)) = false ∧ s.objThere (.loc 0 640) = true ∧ s.objThere (.loc 9 640) = false ∧
    ((s.updPart 0 fun q => { q with prog := [{ step := 3, state := 1 }, { step := 4, state := 1 }] }).part 0).minStep ≠ q.minStep ∧
    ((1 : Nat), false) ∉ s.rankDevs 0 0 ∧ (∃ i, i < q.nrank ∧ i ≠ 0 ∧ (rankDown.rankEntry 0 i).any (fun d => d.1 != rankDown.devNum) = true) ∧
    (q.bound = true ∧ (q.entry 1).state < 2 ∧ q.quietMax ≤ (q.entry 1).quiet) ∧
    (∃ e ∈ q.prog.take q.nrank, e.state < 2) ∧
    ((q.csrWord 0x013).toNat % 2 ^ 16 = 0 ∧ (({ q with csr := [(0x013, 0xFFFF)] } : Part).csrWord 0x013).toNat % 2 ^ 16 ≠ 0) := by
  refine ⟨⟨acts_of (by decide +kernel), passes_of (by decide +kernel), by unfold ContainersClear; decide +kernel, nonePoisoned_of (by decide +kernel), by decide +kernel⟩, ?_⟩
  and_intros <;> decide +kernel

/-! ### Kicks, regions, registers, traps -/

/-- A graph object at 0x10200 (14 R358 to R360) of one node, with its record at 0x10280: text 0x10000, one workgroup of one thread; and the host-window entry 0 at 0x800
(16 R411). -/
def hostMemory : List Host.Cell :=
  [(0x801, 0x20), (0x80B, 0x10), (0x812, 3), (0x819, 0x50), (0x1003C, 32), (0x1003F, 128), (0x10200, 0x42), (0x10201, 0x4F), (0x10202, 0x47), (0x10203, 0x4D), (0x10204, 1), (0x10206, 1),
   (0x10210, 0x40), (0x10214, 0x80), (0x10282, 1), (0x102C0, 1), (0x102C2, 1), (0x102C4, 1)]

/-- The launch of that record. -/
def hostLaunch : Launch := launchRec (0x10000 + 2 ^ 512 + 2 ^ 528 + 2 ^ 544)

/-- Partition 0 with a handler at 0x10000, its windows listed at 0x800, a loaded slot 1 and eight save units. -/
def hostPart (q : Part) : Part :=
  { q with csr := [(0x008, 0x10000), (0x204, 0x800), (0x207, 0)], saveu := 8, slots := q.slots.set 1 { loaded := true, nodes := [{ launch := hostLaunch, regions := [] }] } }

/-- A running machine with two functions of partition 0, of which the first administers it, and a saved region of that partition. -/
def hosted : State :=
  { richV with
    ready := List.range 17
    vfmap := [{ idx := 0, valid := true, admin := true, part := 0 }, { idx := 1, valid := true, admin := false, part := 0 }, { idx := 2, valid := true, admin := true, part := 5 }]
    gmap := [(0, 0)]
    mem := hostMemory
    tlb := { unit := unitHead, part := 0, va := 0x10000, span := 65536, base := 0x10000, dev := none, x := false, w := true, vers := none } :: richV.tlb
    store := [{ tag := List.replicate 8 0, r := 63, best := false, va := 0x10100, len := 16, body := List.replicate 16 7, whole := true }]
    parts := updWhere (fun q => q.idx == 0) hostPart richV.parts
    wgs := richV.wgs.map fun (w : Wg) => { w with ls := richLs ++ [(2048, 0x80), (2049, 2), (2050, 1), (2057, 5), (2058, 1)] } }

/-- `hosted` with 256 children pending. -/
def full : State := { hosted with nodes := List.replicate 256 ({ uid := 9, part := 0, launch := hostLaunch, pendingChild := true } : Node) ++ hosted.nodes }

theorem witness_ForkAndKicks_fork :
    let s := withV hosted [(1, 2048)]
    let caps := s.captureBlk blkOp
    let s0 := caps.foldl State.joinTouch s
    Acts s caps ∧ (∀ c ∈ caps, s.blockCheck 0 c.a 64 64 s.forkFields = none ∧ (s.wg 0).lsBad c.a 64 = false) ∧ Commits s0 .rel .pkg (lanesOf caps) ∧
    (s.effective caps).all (fun c => ((released s0 .rel .pkg (lanesOf caps)).forkChild ((released s0 .rel .pkg (lanesOf caps)).forkAt c)).isOk) = true ∧
    (s.effective caps).all (fun c => (s.forkChild (s.forkAt c)).isOk && (s.joinObj (s.forkAt c).join).isOk) = true ∧ s.pendingChildren 0 < 256 ∧ 256 ≤ full.pendingChildren 0 := by
  unfold Acts Commits
  and_intros <;> decide +kernel

/-- Slot 1 while a load of it is under way. -/
def loadingSlot : State := hosted.updSlot 0 1 fun x => { x with loading := true }

theorem witness_ForkAndKicks_kick :
    hosted.vfPart 9 = none ∧ hosted.vfPart 1 = some (0, false) ∧ hosted.vfPart 2 = some (5, true) ∧ (hosted.part 5).st ≠ .running ∧ (hosted.part 0).st = .running ∧ bits (2 ^ 6) 15 6 ≠ 0 ∧ bits 0x31 15 6 = 0 ∧
    64 * bits 0x31 63 16 < 2 ^ 52 ∧ 2 ^ 52 ≤ 64 * bits (2 ^ 63) 63 16 ∧ (hosted.slot 0 0).loaded = false ∧ (hosted.slot 0 1).loaded = true ∧ (hosted.slot 0 1).loading = false ∧ (loadingSlot.slot 0 1).loading = true ∧ (hosted.slotKicks 0 1).length < 4 ∧
    4 ≤ (({ hosted with kicks := List.replicate 4 { uid := 9, part := 0, slot := 1, prio := 0 } } : State).slotKicks 0 1).length ∧
    (hosted.patchTable 0 0 (hosted.slot 0 1).patches).isOk = true ∧ (hosted.images 0 [] (hosted.slot 0 1).nodes.zipIdx).isOk = true ∧ (∀ n ∈ (hosted.slot 0 1).nodes, hosted.groupOk 0 n.launch = true) ∧
    hosted.vfPart 0 = some (0, true) ∧ hosted.vfPart 1 = some (0, false) ∧ bits (0x0408 * 2 ^ 16) 15 5 = 0 ∧ bitAt (0x0408 * 2 ^ 16) 4 = false ∧ bitAt 16 4 = true ∧ bits 16 63 16 = 0 ∧
    hosted.slotKicks 0 0 = [] ∧ (hosted.graphAt 0 (64 * bits (0x0408 * 2 ^ 16) 63 16)).isOk = true ∧
    ({ hosted with kicks := [{ uid := 9, part := 0, slot := 1, prio := 0 }] } : State).slotKicks 0 1 ≠ [] ∧ bits 0x20 15 5 ≠ 0 ∧
    hosted.gloads.find? (fun x => x.vf == 0 && x.value == 16) = none ∧
    (({ hosted with gloads := [{ vf := 0, value := 16, part := 5 }] } : State).gloads.find? fun x => x.vf == 0 && x.value == 16) = some { vf := 0, value := 16, part := 5 } ∧
    (hosted.graphAt 0 0).isOk = false := by decide +kernel

/-- A function without `ADMIN` administers no partition. -/
theorem witness_noAdmin (p : Nat) : hosted.vfPart 1 ≠ some (p, true) := by
  rw [show hosted.vfPart 1 = some (0, false) by decide +kernel]
  exact fun h => nomatch h

theorem witness_KeepInstructions :
    let s := withV hosted [(2, 0x10000), (4, 0x10100)]
    let q := s.part 0
    let ld : Op := { d2 := 1, a := .imm 63, b := .v 4 }
    let caps := s.captureOp { a := .n32, b := .n64 } ld
    s.cur.mism < 2 ∧ ((s.effective (s.captureOp { a := .n64, b := .n32 } { dst := .v 0, a := .v 2, b := .imm 16 })).foldl (State.declLane true) (s, [], [])).2.2 = [] ∧
    q.declines true 0x10000 0 = true ∧ q.declines true 0x10000 (8 * 65536) = false ∧ q.declines true 0x10000 (8 * 65536 + 16) = true ∧ q.declines false 0x10000 16 = false ∧ (s.keepRanges 0x10000 16).isOk = true ∧
    q.keeps.length < 64 ∧ (∀ k ∈ q.keeps, k.r ≠ 63) ∧ (63 : Nat) < 64 ∧
    (({ q with keeps := [{ r := 63, must := true, va := 0x10000, len := 16, ranges := [] }] } : Part).keeps.find? fun k => k.r == 63).isSome = true ∧
    caps.all (fun c => (s.loadable c).any fun x => (s.engineKeys (unitCore s.core) 0 .write c.b x.len).isOk) = true ∧ Commits s .rel .pkg (lanesOf caps) := by
  unfold Commits
  and_intros <;> decide +kernel

theorem witness_CsrWrites :
    let open63 : State := hosted.updPart 0 fun q => q.setCsr 0x203 0x80000000
    at0.cur.mism < 2 ∧ bitAt (rwMask 0x008) 31 = true ∧ bitAt (w1cMask 0x002) 2 = true ∧ bitAt (rwMask 0x207) 31 = false ∧ bitAt (w1cMask 0x207) 31 = false ∧
    ((grouped 0).part 0).bound = true ∧ (0x010 : Nat) ≤ 0x015 ∧ at0.hostOpen = false ∧ hosted.hostOpen = true ∧
    (({ vf := none, bar := 0, off := 0x100, size := 8, value := 0 } : RegWrite).vf = none ∧ ({ vf := some 0, bar := 0, off := 0x1008, size := 4, value := 0 } : RegWrite).size = 4 ∧
      ({ vf := some 0, bar := 0, off := 0x1008, size := 8, value := 0 } : RegWrite).size ≠ 4 ∧ (0x1000 : Nat) ≤ 0x1008 ∧ 0x1008 % 4 = 0) ∧ (11 : Nat) < 12 ∧ hosted.vfPart 0 = some (0, true) ∧
    hosted.vfPart 1 = some (0, false) ∧ ((hosted.part 0).bound = false) ∧ at0.ready.contains 0 = false ∧ hosted.ready.contains 0 = true ∧ hosted.linksOpen = true ∧
    ({ hosted with holdup := .saving } : State).linksOpen = false ∧ (63 : Nat) < 64 ∧ open63.openBit 0 63 = true ∧ hosted.openBit 0 0 = false ∧ (hosted.windowEntry 0 0).2 = true ∧ (hosted.windowEntry 0 63).2 = false := by decide +kernel

/-- `hosted` with a pending trap of its gang. -/
def trapping : State :=
  { hosted with gangs := hosted.gangs.map fun (g : Gang) => { g with pend := [{ cause := 0x15, pc := 0x10000, mask := [0], addr := 0, tnum := 0, entry := default }] } }

/-- `hosted` in a handler, with its only thread's rows saved. -/
def handling (fresh : Bool) : State :=
  { hosted with gangs := hosted.gangs.map fun (g : Gang) => { g with
      handler := true
      fresh := fresh
      frame := { save := [{ lane := 0, v := [1, 2, 3, 4], p := 5 }]
                 resume := [{ lane := 0, pc := 0x1000C, past := false, mt := 0x8000000000010000, st := .ready, sync := none, wait := none }] } } }

/-- Lane 0 before its line is entered, or in it with its breakpoint not yet passed. -/
def standing (inLine : Bool) (text : DWord) : State :=
  { hosted with threads := hosted.threads.map fun (t : Thread) => { t with line := if inLine then t.line else none, skipBkpt := false, pc := text } }

/-- Lane 0 before a line whose bits 15:11 are not zero. -/
def badHeader : State :=
  let s : State := { standing false 0x10000 with mem := setNum hostMemory 0x1003C 4 0x820 }
  { s with cur := issueAt 0 0 [lane0 s] (lane0 s) 0 }

theorem witness_TrapsAndReturns :
    ((hosted.gangs.find? fun x => x.wg == 0 && x.idx == 0).any (fun x => !x.handler) = true ∧ hosted.handlerOk (unitCore 0) (hosted.partOf 0) = true ∧
      (∃ u ∈ hosted.threads, u.wg = 0 ∧ u.gang = 0 ∧ u.live = true) ∧ at0.handlerOk (unitCore 0) (at0.partOf 0) = false ∧
      ((match badHeader.readLine with
        | .error (c, _) => c == 0x01
        | .ok _ => false) && (badHeader.textLine 0 (lineAddr 0x10000)).isOk) = true ∧
      ((handling true).gangs.find? fun x => x.wg == 0 && x.idx == 0).any (fun x => x.handler && x.fresh) = true ∧ ((handling false).gang 0 0).fresh = false) ∧
    (trapping.mayIssue 0 = true ∧ trapping.gangStalls 0 0 = false ∧ (trapping.gang 0 0).handler = false ∧ (trapping.gang 0 0).pend.length = 1) ∧
    (((standing false 0x10000).gangThreads 0 0).find? (fun t => t.lane == 0 && t.canIssue && !t.past && !t.inLine) |>.isSome) = true ∧ (standing false 0x10000).threadsNext 0 0 = true ∧
    ({ standing false 0x10000 with cur := issueAt 0 0 [lane0 (standing false 0x10000)] (lane0 (standing false 0x10000)) 0 } : State).readLine.isOk = true ∧
    ({ standing false 0x90000 with cur := issueAt 0 0 [lane0 (standing false 0x90000)] (lane0 (standing false 0x90000)) 0 } : State).readLine.isOk = false ∧
    (let b : State := (standing true 0x10000).updPart 0 fun q => q.setCsr 0x118 0x10001
     ((b.gangThreads 0 0).find? (fun t => t.lane == 0 && t.canIssue && !t.past && t.inLine && !t.skipBkpt)).isSome = true ∧ b.threadsNext 0 0 = true ∧ (b.part (b.partOf 0)).breakpoint 0x10000 = some 0 ∧
      (((lane0 b).line.bind fun l => l.fetch (b.launchOf 0).ctx (lane0 b).pc).any fun f => !f.instr.privileged) = true ∧
      ((some { addr := 0x10000, raw := 0x380 : Line }).bind fun l => l.fetch (b.launchOf 0).ctx (lane0 b).pc).isNone = true ∧
      (((some { addr := 0x10000, raw := 0x0C000362 : Line }).bind fun l => l.fetch (b.launchOf 0).ctx (lane0 b).pc).any fun f => f.instr.privileged) = true ∧
      (b.gang 0 0).handler = false) ∧
    (let f := ((handling false).gang 0 0).frame
     (f.resume.find? fun r => r.lane == (lane0 hosted).lane).isSome = true ∧ (f.save.find? fun x => x.lane == (lane0 hosted).lane).isSome = true ∧ (restoreThread f (lane0 hosted)).pc = 0x1000C) := by
  decide +kernel

/-- A kernel error and a kill: workgroups with distinct numbers, the error recorded or not, a committed cluster, one relaunched three times, one that is neither. -/
theorem witness_TrapsAndReturns_kill :
    let kills (s : State) : State := s.updIssue fun t => { t with block := .iret true }
    let carries (g : Gang) := g.wg = 0 ∧ ∃ t ∈ (kills (handling false)).threads, t.wg = 0 ∧ t.gang = g.idx ∧ t.live = true ∧ t.block = .iret true
    (hosted.wgs.map fun x => x.uid).Nodup ∧ (hosted.part 0).idx = 0 ∧ 0 < hosted.parts.length ∧ ((hosted.part 0).csrWord 0x110).getLsbD 31 = false ∧
    ((hosted.updPart 0 fun q => q.setCsr 0x110 0x80000000).part 0 |>.csrWord 0x110).getLsbD 31 = true ∧ (hosted.node (hosted.cluster (hosted.wg 0).cluster).node).kick = none ∧
    (∃ x ∈ hosted.clusters, x.uid = (hosted.wg 0).cluster ∧ x.node = (hosted.cluster (hosted.wg 0).cluster).node) ∧
    (∀ x ∈ hosted.clusterWgs 1, x.committed = false) ∧ hosted.clusterWgs 1 ≠ [] ∧ (hosted.cluster 1).relaunches < 3 ∧
    (∃ x ∈ (hosted.commitWg 0).clusterWgs 1, x.committed = true) ∧ 3 ≤ ((hosted.updCluster 1 fun c => { c with relaunches := 3 }).cluster 1).relaunches ∧
    (∃ x ∈ (kills (handling false)).gangs, carries x ∧ ∀ y ∈ (kills (handling false)).gangs, carries y → x.idx ≤ y.idx) := by decide +kernel

/-- After lane 0's `iret` in a handler no live thread is left there, so it returns; `.kill` asks for the kill; a lane whose guard is false stays. -/
theorem witness_TrapsAndReturns_iret :
    let s := handling false
    let after (g : Guard) (kill : Bool) : State := s.updIssue fun t => if (lanesOf (s.captureNone g)).contains t.lane then { t with block := .iret kill } else t.goto s.cur.next s.cur.past
    (∀ t ∈ ((after {} false).gangThreads 0 0).filter Thread.live, t.block = .iret false) ∧ ((after {} false).gangThreads 0 0).filter Thread.live ≠ [] ∧
    (∃ t ∈ ((after {} true).gangThreads 0 0).filter Thread.live, t.block = .iret true) ∧ ((after { neg := true } true).gangThreads 0 0).filter Thread.live ≠ [] ∧
    ((after { neg := true } true).gangThreads 0 0).all (fun t => t.block == .none) = true := by decide +kernel

/-- A shootdown, and a request of a host-window atomic, under way. -/
def shooting : State := run (.tlbsdVa { a := .v 2, b := .imm 1 }) hosted

/-- A load of one lane from a peer's memory, or from a window, whose answer is awaited. -/
def peerLoad (p : Place) : IoReq :=
  { id := 8, instr := .ldg { dst := .v 0, a := .v 2 } .b32, issue := hosted.cur, caps := [{ lane := 0, a := 0x10000, b := 0, c := 0 }], waits := [(0, p)] }
def asking : State := run (.ath { dst := .v 0, wide := true, ty := .n64, a := .v 6, b := .v 6 } { op := .add }) hosted
def askingLoad : State := run (.ldh { dst := .v 0, a := .v 6, b := .imm 64 } .b32) hosted

theorem witness_ShootdownsAndRequests :
    let s := hosted
    let caps := s.captureOp { a := .n64, b := .n32 } { a := .v 2, b := .imm 1 }
    (s.cur.mism < 2 ∧ s.cur.replay = false ∧ caps ≠ [] ∧ (lanesOf caps).Nodup ∧ Commits s .rel .pkg (lanesOf caps)) ∧
    ((shooting.shoots.find? fun r => r.id == s.uid).any (fun r => (shooting.shoots.all fun q => decide (s.uid ≤ q.id)) && (shooting.shootStores r).shootDrained r) = true) ∧
    ((let q : Shootdown := { id := 4, wg := 0, gang := 0, lane := 0, part := 0, lo := 0, hi := 65536 }
      q.wg = 0 ∧ q.gang = 0 ∧ q.id < 5) ∧
      (shooting.shoots.all fun r => !({ shooting with io := [{ peerLoad (.mem (4 * physSpan) none) with spans := [(0x10000, 65536)] }] } : State).shootDrained r) = true) ∧
    ((asking.io.find? fun r => r.id == s.uid).any (fun r => (laneVal r.waits 1).isNone && laneVal r.waits 0 == some (.win 0 0 0x1000)) = true ∧
      (askingLoad.io.find? fun r => r.id == s.uid).any (fun r => laneVal r.waits 0 == some (.win 0 64 0x1000)) = true ∧
      ({ s with linksDown := [3] } : State).unreachable (4 * physSpan) = true ∧ s.unreachable (4 * physSpan) = false ∧ (peerLoad (.mem (4 * physSpan) none)).waits ≠ [] ∧
      (let r := (peerLoad (.mem (4 * physSpan) none)).fail 0 0x15
       r.waits = [] ∧ r.bad ≠ [] ∧ (∀ x ∈ r.bad, x.2 = 0x15) ∧ (∃ c ∈ r.caps, ∃ x ∈ r.bad, x.1 = c.lane)) ∧
      ((peerLoad (.mem (4 * physSpan) none)).gain 0 [(0, some 7)]).bad = []) ∧
    (let m : AtMods := { op := .add, nr := true }
     let r : IoReq := { peerLoad (.win 0 4 0x1000) with instr := .ath { ty := .n32, a := .v 6, b := .imm 1 } m, waits := [], bad := [(0, 0x15)] }
     m.nr = true ∧ (r.caps.filter fun c => (laneVal r.bad c.lane).isSome) ≠ [] ∧ (∀ c ∈ r.caps.filter (fun c => (laneVal r.bad c.lane).isSome), laneVal r.bad c.lane = some 0x15) ∧
     laneVal r.tries 0 = none ∧ laneVal ({ r with tries := [(0, 7, 63)] } : IoReq).tries 0 = some (7, 63) ∧ s.numAt (.win 0 0 0x1000) 8 = 0 ∧ isNative { ty := .n32 } { op := .max } = false) ∧
    (Memory.wf s.mem = true ∧ s.fabricOk 0 0x10200 4 = true ∧ s.fabricOk 0 (2 ^ 30 - 2) 4 = false) ∧
    (Ty.bits .n32 / 8 ≠ 0 ∧ 0x10200 % (Ty.bits .n32 / 8) = 0 ∧ 0x10202 % (Ty.bits .n32 / 8) ≠ 0) ∧
    (s.vfPart 0 = some (0, true) ∧ s.aperture 0 0x10200 4 true = some 0x10200 ∧ s.aperture 0 0x1027E 4 true = none ∧ s.aperture 0 0x10200 4 false = none) := by
  unfold Commits
  and_intros <;> decide +kernel

/-! ### Placement, partitions, hold-up, seal -/

/-- `hosted` with a new node of one cluster that waits, or with its cluster queued instead. -/
def waitingNode : State := { hosted with nodes := { uid := 9, part := 0, launch := hostLaunch, eligible := true } :: hosted.nodes, headClk := 2 ^ 22 }
def waitingCluster : State := { hosted with
  wgs := [], gangs := [], threads := [], slices := []
  clusters := hosted.clusters.map fun (c : Cluster) => { c with st := .queued }, headClk := 2 ^ 22 }

/-- The gang's thread exited and its workgroup Draining. -/
def draining : State := { hosted with
  wgs := hosted.wgs.map fun (w : Wg) => { w with st := .draining }
  threads := hosted.threads.map fun (t : Thread) => { t with st := .exited } }

theorem witness_PlacementAndLife_place :
    (hosted.part 5).st ≠ .running ∧ (hosted.part 0).st = .running ∧ hosted.pick 0 = none ∧ (waitingCluster.pick 0).any (fun x => x.1 == .old 1 && x.2.length == 1) = true ∧
    (waitingNode.pick 0).any (fun x => x.1 == .new 9) = true ∧ (waitingCluster.cluster 1).st ≠ .switchedOut ∧ (waitingCluster.clusters.find? fun x => x.uid == 1) = some (waitingCluster.cluster 1) ∧
    (waitingCluster.initTable (waitingCluster.node (waitingCluster.cluster 1).node).part (waitingCluster.node (waitingCluster.cluster 1).node).launch).isOk = true ∧
    (0 * bootLaunch.maskW + 0 % bootLaunch.maskW < 1 ∧ (1 : Nat) ≤ 0 * bootLaunch.maskW + 1 % bootLaunch.maskW) ∧
    firstFit [(0, 4), (6, 2)] 2 8 = some 4 ∧ firstFit [(0, 4), (6, 2)] 3 8 = none ∧ (curve 3 2).length = 6 := by decide +kernel

theorem witness_PlacementAndLife_leave :
    let page : Tlb := { unit := unitHead, part := 0, va := 2 ^ 21, span := 2 ^ 21, base := 2 ^ 21, dev := none, x := false, w := true, vers := none }
    let s := ({ hosted with tlb := page :: hosted.tlb } : State).updPart 0 fun q => { (q.setCsr 0x122 16).setCsr 0x120 (2 ^ 21) with st := .stopping }
    let idle : State := { hosted with sliceClk := 2 ^ 20, wgs := hosted.wgs.map fun (w : Wg) => { w with idle := some 0 }, threads := hosted.threads.map fun (t : Thread) => { t with st := .exited } }
    (s.saveAreas (s.cluster 1)).isSome = true ∧ s.canLeave (s.cluster 1) = true ∧ s.vacates (s.cluster 1) = true ∧
    ((s.saveAreas (s.cluster 1)).getD []).length = (s.clusterWgs 1).length ∧ (s.wgs.map fun x => x.uid).Nodup ∧
    (s.clusterWgs 1).any (fun w => s.gangs.any fun g => g.wg == w.uid && (s.sliceOf w.uid g.idx).any fun x => x.wg == w.uid && x.gang == g.idx && !x.runs.isEmpty) = true ∧
    ({ s with clusters := s.clusters.map fun (c : Cluster) => { c with st := .switchedOut } } : State).canLeave { s.cluster 1 with st := .switchedOut } = false ∧
    hosted.vacates (hosted.cluster 1) = false ∧ hosted.yields (hosted.cluster 1) = false ∧
    ((idle.wg 0).idle = some 0 ∧ idle.wgIdle (idle.wg 0) = true ∧ (idle.wg 0).qualifies = none ∧ max 0 (idle.wg 0).residentSince + 2 ^ 20 ≤ idle.sliceClk) ∧
    ((waitingCluster.cluster 1).uid = 1 ∧ (waitingCluster.cluster 1).st = .queued ∧ (waitingCluster.cluster 1).level < 3 ∧ (waitingCluster.cluster 1).waitFrom + 2 ^ 22 ≤ waitingCluster.headClk) ∧
    ((waitingNode.node 9).uid = 9 ∧ (waitingNode.node 9).eligible = true ∧ (waitingNode.node 9).next < (waitingNode.node 9).launch.clusters ∧ (waitingNode.node 9).level < 3 ∧
      (waitingNode.node 9).waitFrom + 2 ^ 22 ≤ waitingNode.headClk) := by decide +kernel

/-- No device is out of reach where no link is down and nothing shut. -/
theorem witness_PlacementAndLife_reach (k : Nat) : hosted.unreachable k = false := by
  have h : hosted.linksDown = [] ∧ hosted.shut = [] := by decide +kernel
  simp [State.unreachable, h.1, h.2]

theorem witness_PlacementAndLife_retire :
    ((∃ w ∈ draining.wgs, w.uid = 0 ∧ w.st = .draining) ∧ (draining.commit 0).spent ((draining.commit 0).wg 0) = true ∧
      (draining.commit 0).allDrain ((draining.commit 0).cluster ((draining.commit 0).wg 0).cluster) = true ∧ (draining.commit 0).retireTurn ((draining.commit 0).cluster ((draining.commit 0).wg 0).cluster) = true) ∧
    (let s : State := { draining with
        nodes := draining.nodes.map fun (n : Node) => { n with launch := { n.launch with det := true, nwx := 2 }, next := 2 }
        clusters := { (draining.cluster 1) with uid := 0, clid := 0 } :: draining.clusters.map fun (c : Cluster) => { c with clid := 1 } }
     (s.cluster 1).st = .resident ∧ (s.node (s.cluster 1).node).launch.det = true ∧ s.clusterWgs 1 ≠ [] ∧ (∀ w ∈ s.clusterWgs 1, s.spent w = true) ∧ s.retireTurn (s.cluster 1) = false) := by decide +kernel

/-- Every unit ready, nothing configured. -/
def up : State := { State.reset with ready := List.range 17 }

/-- The same with one partition in a state, its quad mask and its active quads set. -/
def withPart (n : Nat) (st : PState) (qmask qact : Nat) : State := up.updPart n fun q => { q with st := st, qmask := qmask, qact := qact }

theorem witness_PartitionCommands :
    (State.reset.hostOpen = false ∧ up.hostOpen = true ∧ up.pcmdBusy = false ∧ ({ up with pcmdBusy := true } : State).pcmdBusy = true ∧ Instr.pcmdResize 11 ∈ [Instr.pcmdCreate 11, .pcmdStart 11, .pcmdStop 11, .pcmdReset 11, .pcmdResize 11]) ∧
    ((withPart 11 .stopped 1 1).part 11).st ≠ .unconfigured ∧
    (let s := withPart 11 .unconfigured 0xFFFF 0
     (s.part 11).st = .unconfigured ∧ (s.part 11).qmask &&& s.otherQuads 11 = 0 ∧ s.otherUnits 11 + (s.part 11).saveuReq ≤ 12288 ∧ s.quadsReady (s.part 11).qmask = true) ∧
    (let s := (withPart 0 .stopped 1 1).updPart 11 fun q => { q with qmask := 1 }
     (s.part 11).st = .unconfigured ∧ (s.part 11).qmask &&& s.otherQuads 11 ≠ 0) ∧
    (let s := withPart 11 .stopped 1 1
     (s.part 11).st = .stopped ∧ (s.part 11).qact ≠ 0 ∧ s.ready.contains 2 = true ∧ (s.part 11).st ≠ .running) ∧
    (bits 0xB06 11 8 < 12 ∧ 5 < bits 0xB06 3 0 ∧ bits 0xB00 3 0 = 0) ∧
    (let s := withPart 11 .running 2 1
     (s.part 11).st = .running ∧ (s.part 11).st ≠ .stopped ∧ (s.part 11).qmask &&& s.otherQuads 11 = 0 ∧ (s.part 11).qmask ≠ 0 ∧ s.quadsReady (s.part 11).qmask = true) ∧
    (((withPart 11 .stopping 1 1).part 11).st = .stopping ∧ (withPart 11 .stopping 1 1).wgs = []) ∧
    (((withPart 11 .resetting 1 1).part 11).st = .resetting ∧ (withPart 11 .resetting 1 1).scrub = []) ∧
    (let s := { withPart 11 .stopped 1 1 with gmap := [(1, 11), (2, 0xE)] }
     (767 : Nat) < 768 ∧ s.hbmReady 767 = true ∧ s.gmapOf 767 = 0xF ∧ s.gmapOf 1 < 12 ∧ (s.part (s.gmapOf 1)).st = .stopped ∧ 12 ≤ s.gmapOf 2 ∧ s.gmapOf 2 ≠ 0xF) ∧
    (({ up with scrub := [(767, 11)], gmap := [(767, 0xD)] } : State).scrub.find? fun x => x.1 == 767) = some (767, 11) ∧ Memory.wf up.mem = true := by decide +kernel

/-- A machine in a hold-up phase. -/
def phase (h : HState) (energy us : Nat) : State := { up with holdup := h, energy := energy, usTrigger := us }

/-- A region that is to be written. -/
def region (best : Bool) (len : Nat) : Saved := { tag := [], r := 0, best := best, va := 0, len := len, body := [], whole := true }

theorem witness_HoldupAndHealth :
    ((phase .armed 3499 0).holdup = .armed ∧ (phase .armed 3499 0).supply = true ∧ (phase .armed 3499 0).energy < 3500 ∧ 3500 ≤ (phase .armed 3500 0).energy) ∧
    (State.reset.holdup = .off ∧ (phase .charging 3500 0).holdup = .charging ∧ 3500 ≤ (phase .charging 3500 0).energy) ∧
    ((phase .quiescing 0 0).holdup = .quiescing ∧ (phase .saving 0 0).holdup = .saving ∧ (phase .bestEffort 0 19699).holdup = .bestEffort ∧ (phase .bestEffort 0 19699).usTrigger < 19700 ∧ 19700 ≤ (phase .bestEffort 0 19700).usTrigger ∧
      (phase .saving 0 0).allWritten = true ∧ ({ phase .saving 0 0 with storing := [region false 48000] } : State).allWritten = false ∧
      (phase .bestEffort 0 0).bestWritten = true ∧ (phase .bestEffort 0 0).toStore true = [] ∧
      (let s : State := { phase .bestEffort 0 19700 with storing := [region true (19701 * 48000)] }
       s.bestWritten = false ∧ s.toStore true ≠ []) ∧ cutRegions 48000 [region true 47999, region true 1, region true 5] = [region true 47999, { region true 1 with whole := false, body := [] }] ∧
      (phase .recording 0 0).holdup = .recording) ∧
    (State.reset.ready = [] ∧ State.reset.supply = true ∧ (0 : Nat) < 17 ∧ 16 ∉ ({ State.reset with ready := List.range 16 } : State).ready ∧
      (∀ v, v < 16 → v ∈ ({ State.reset with ready := List.range 16 } : State).ready)) ∧
    (2 ^ 20 ≤ ({ up with monClk := 2 ^ 20 } : State).monClk ∧ up.monClk < 2 ^ 20 ∧ 2 ^ 20 ≤ ({ up with sampleClk := 2 ^ 20 } : State).sampleClk ∧ up.sampleClk < 2 ^ 20 ∧ (760 : Nat) ≤ 760 ∧ (760 : Nat) < 761 ∧ 0 < physSpan) := by decide +kernel

/-- A `seal.img` job that waits for one acknowledgement of peers 3 and 4. -/
def sealJob : SealJob := { uid := 7, op := 1, by_ := { wg := 0, gang := 0, lane := 0, tnum := 0, pc := 0, word := 0 }, part := 0, blk := 0, block := 0, waiting := true, c := 5, peers := [3, 4], acks := [4], due := 10 }

/-- The state that holds it. -/
def jobs (j : SealJob) : State := { hosted with seals := [j], sealClk := 10, lineage := [{ lin := 1, counter := 5, hash := 0 }] }

theorem witness_SealEngine :
    let s := jobs sealJob
    let caps := s.captureBlk { a := .v 6 }
    (Acts s caps ∧ (∀ c ∈ caps, (s.wg 0).lsBad c.a 128 = false) ∧ (2 : Nat) < 3) ∧ s.sealTaken 2 0 1 = false ∧ s.sealTaken 2 0 3072 = true ∧ (s.sealRead { sealJob with op := 0 } 0 0).isSome = true ∧
    (s.sealJob 7 = some sealJob ∧ sealJob.waiting = true ∧ sealJob.due ≤ s.sealClk ∧ s.sealClk < ({ sealJob with due := 11 } : SealJob).due ∧ ({ sealJob with waiting := false } : SealJob).waiting = false) ∧
    (3 ∈ sealJob.peers ∧ 3 ∉ sealJob.acks ∧ 4 ∈ sealJob.acks ∧ 5 ∉ sealJob.peers ∧ (sealOf sealJob.block).quorum ≤ sealJob.acks.length + 1 ∧ sealJob.c ≤ 5) ∧
    (({ sealJob with op := 0 } : SealJob).op = 0 ∧ ({ sealJob with op := 2 } : SealJob).op = 2) ∧
    (s.linksOpen = true ∧ s.ready.contains 1 = true ∧ s.ready.contains 15 = true ∧ ({ s with holdup := .quiescing } : State).linksOpen = false ∧ State.reset.ready.contains 1 = false ∧ sealJob.acks.length + 1 < (sealOf (3 * 2 ^ 440)).quorum) ∧
    (s.lineCounter 1 < 6 ∧ s.lineRoom 1 = true ∧ 5 ≤ s.lineCounter 1 ∧ (2 : BitVec 128) ≠ 1) := by
  unfold Acts
  and_intros <;> decide +kernel

theorem witness_AtomicExtrema :
    let nan (u : Word) : Prop := 0x7F800000 < u.toNat % 2 ^ 31
    nan 0xFF800001 ∧ ¬ nan 0x7F800000 ∧ ¬ nan 0x80000000 ∧ atNew .max .f32 0x80000000 0 0 = 0 ∧ atNew .min .f32 0 0x80000000 0 = 0x80000000 ∧ atNew .max .f32 0xFF800001 0 0 = 0x7FC00000 := by decide +kernel

theorem witness_BitPlanesAndFp4 :
    ((2 : Nat) ≤ [[(1 : Byte)], [1]].length ∧ (8 : Nat) ≤ 8 ∧ (-128 : Int) ≤ -45 ∧ (-45 : Int) < 128 ∧ 0 / 8 ≤ 0 / 8 ∧ ([[1], [1], [0]] : List (List Byte)).length ≤ 8) ∧
    bitAt ((-45 : Int) % 256).toNat 7 = true ∧ bitAt ((-45 : Int) % 256).toNat 6 = true ∧ bitAt ((-45 : Int) % 256).toNat 5 = false ∧
    (gblockOf (2 ^ 342 * 9 + 2 ^ 374)).sfmt = 9 ∧ (gblockOf (2 ^ 342 * 9 + 2 ^ 374)).nplane < 2 ∧ 8 < (gblockOf (2 ^ 342 * 9 + 2 ^ 374 * 9)).nplane := by decide +kernel

end Sys2Proof.Tests
end

section
/-! SUPPORT. The canonical form of memories is kept by every operation of the machine: one lemma per operation, named after it, so that
a proof reads as the operation's own text does. -/

namespace Sys2Proof.Machine

/-! ### The invariant -/

/-- The memories that are written down in canonical form (00 R4, 03 R87, R95). -/
inductive MemKind where
  | package | host | locals

/-- Every local store of some workgroups is in canonical form. -/
def WgsCanon (ws : List Wg) : Prop := ∀ w ∈ ws, Memory.wf w.ls = true

/-- The memories of a kind are in canonical form. -/
def Canon (κ : MemKind) (s : State) : Prop :=
  match κ with
  | .package => Memory.wf s.mem = true
  | .host => Memory.wf s.hostMem = true
  | .locals => WgsCanon s.wgs

/-- The same of the next state that an instruction or event answers, if it answers one. -/
def CanonOut (κ : MemKind) (o : Host.Outcome State Fault Refusal) : Prop := ∀ t, o = .next t → Canon κ t

/-- The same of the state in which an issue leaves off. -/
def CanonPrep (κ : MemKind) : Prep → Prop
  | .done s => Canon κ s
  | .run _ s => Canon κ s

theorem WgsCanon.updWhere {p : Wg → Bool} {f : Wg → Wg} {ws : List Wg}
    (hf : ∀ w, Memory.wf w.ls = true → Memory.wf (f w).ls = true) (h : WgsCanon ws) :
    WgsCanon (updWhere p f ws) := by
  intro w hw
  obtain ⟨v, hv, rfl⟩ := List.mem_map.1 hw
  split
  · exact hf v (h v hv)
  · exact h v hv

theorem WgsCanon.map {f : Wg → Wg} {ws : List Wg} (hf : ∀ w, Memory.wf w.ls = true → Memory.wf (f w).ls = true) (h : WgsCanon ws) :
    WgsCanon (ws.map f) := by
  intro w hw
  obtain ⟨v, hv, rfl⟩ := List.mem_map.1 hw
  exact hf v (h v hv)

theorem WgsCanon.filter {p : Wg → Bool} {ws : List Wg} (h : WgsCanon ws) : WgsCanon (ws.filter p) := fun w hw => h w (List.mem_of_mem_filter hw)

variable {κ : MemKind} {s t : State}

/-! ### The rules for states -/

/-- An update keeps the form of every memory where it does so for each kind. -/
theorem Canon.of (h : Canon κ s) (hm : Memory.wf s.mem = true → Memory.wf t.mem = true) (hh : Memory.wf s.hostMem = true → Memory.wf t.hostMem = true)
    (hw : WgsCanon s.wgs → WgsCanon t.wgs) : Canon κ t := by
  cases κ with
  | package => exact hm h
  | host => exact hh h
  | locals => exact hw h

/-- Whatever an update does to the rest of a state, its memories are those that it takes over. -/
theorem Canon.update
    {agenda} {turns} {since} {owed} {tick} {uid} {cur} {sliceClk} {spindleClk} {headClk} {sealClk} {monClk} {sampleClk} {clkZero} {drift} {supply}
    {ready} {pcmdBusy} {pcmdResult} {pcmdPart} {pcmdCmd} {pcmdLost} {vfmap} {epmap} {gmap} {scrub} {grants} {devNum} {linksDown} {shut} {parts}
    {poison} {wild} {saves} {hot} {rdc} {vtab} {tlb} {hb} {gloads} {kicks} {nodes} {clusters} {gangs} {threads} {slices} {lathes} {eops} {io}
    {shoots} {sticky} {sends} {contribs} {reds} {heldNotices} {results} {landing} {outbox} {holdup} {energy} {epoch} {reported} {usTrigger}
    {byteStart} {store} {storing} {records} {seals} {lineage} {xidx} {risk} {corrected} {droops} {retrains} {mismatches} {hottest} {powerW}
    (h : Canon κ s) : Canon κ {
      agenda, turns, since, owed, tick, uid, cur, sliceClk, spindleClk, headClk, sealClk, monClk, sampleClk, clkZero, drift, supply, ready, pcmdBusy,
      pcmdResult, pcmdPart, pcmdCmd, pcmdLost, vfmap, epmap, gmap, scrub, grants, devNum, linksDown, shut, parts, mem := s.mem, poison, wild, saves,
      hostMem := s.hostMem, hot, rdc, vtab, tlb, hb, gloads, kicks, nodes, clusters, wgs := s.wgs, gangs, threads, slices, lathes, eops, io, shoots,
      sticky, sends, contribs, reds, heldNotices, results, landing, outbox, holdup, energy, epoch, reported, usTrigger, byteStart, store, storing,
      records, seals, lineage, xidx, risk, corrected, droops, retrains, mismatches, hottest, powerW } := h

theorem Canon.ite {c : Prop} {_ : Decidable c} (hs : Canon κ s) (ht : Canon κ t) : Canon κ (if c then s else t) := by
  split
  · exact hs
  · exact ht

theorem Canon.ite_fst {α : Type} {c : Prop} {_ : Decidable c} {x y : State × α} (hx : Canon κ x.1) (hy : Canon κ y.1) :
    Canon κ (if c then x else y).1 := by
  split
  · exact hx
  · exact hy

theorem Canon.foldl {α : Type} {f : State → α → State} {l : List α} (h : Canon κ s) (hf : ∀ s x, Canon κ s → Canon κ (f s x)) :
    Canon κ (l.foldl f s) := by
  induction l generalizing s with
  | nil => exact h
  | cons x l ih => exact ih (hf s x h)

theorem Canon.foldl_fst {α β : Type} {f : State × β → α → State × β} {l : List α} {x : State × β} (h : Canon κ x.1)
    (hf : ∀ x a, Canon κ x.1 → Canon κ (f x a).1) : Canon κ (l.foldl f x).1 := by
  induction l generalizing x with
  | nil => exact h
  | cons a l ih => exact ih (hf x a h)

theorem Canon.elim {α : Type} {o : Option α} {f : α → State} (h : Canon κ s) (hf : ∀ x, Canon κ (f x)) : Canon κ (o.elim s f) := by
  cases o with
  | none => exact h
  | some x => exact hf x

theorem CanonOut.next (h : Canon κ s) : CanonOut κ (.next s) := by
  rintro _ ⟨⟩
  exact h

theorem CanonOut.ite {c : Prop} {_ : Decidable c} {x y : Host.Outcome State Fault Refusal} (hx : CanonOut κ x) (hy : CanonOut κ y) :
    CanonOut κ (if c then x else y) := by
  split
  · exact hx
  · exact hy

theorem CanonPrep.done (h : Canon κ s) : CanonPrep κ (.done s) := h

theorem CanonPrep.run {i : Instr} (h : Canon κ s) : CanonPrep κ (.run i s) := h

theorem CanonPrep.ite {c : Prop} {_ : Decidable c} {x y : Prep} (hx : CanonPrep κ x) (hy : CanonPrep κ y) : CanonPrep κ (if c then x else y) := by
  split
  · exact hx
  · exact hy

theorem CanonOut.afterNext {f : State → State} {o : Host.Outcome State Fault Refusal} (h : CanonOut κ o) (hf : ∀ s, Canon κ s → Canon κ (f s)) :
    CanonOut κ (afterNext f o) := by
  cases o with
  | next s => exact .next (hf s (h s rfl))
  | fault x => rintro _ ⟨⟩
  | refused r => rintro _ ⟨⟩

/-! ### Machine/State -/

theorem Canon.reset : Canon κ State.reset := by
  cases κ with
  | package => rfl
  | host => rfl
  | locals => exact List.forall_mem_nil _

/-! ### Machine/Mem -/

theorem Canon.updPart {n : Nat} {f : Part → Part} (h : Canon κ s) : Canon κ (s.updPart n f) := .update h

theorem Canon.recall {a n : Nat} (h : Canon κ s) : Canon κ (s.recall a n) := .update h

theorem Canon.noteOld {a : SyncAt} {old : List Byte} {item : Option Nat} (h : Canon κ s) : Canon κ (s.noteOld a old item) := .ite h (.update h)

theorem Canon.writeMem {a : Nat} {bs : List Byte} {item : Option Nat} (h : Canon κ s) : Canon κ (s.writeMem a bs item) :=
  h.of Memory.wf_setBytes (by simp) (by simp)

theorem Canon.wildMem {a n : Nat} (h : Canon κ s) : Canon κ (s.wildMem a n) := .update h

theorem Canon.incoming {k : State → State} (h : Canon κ s) (hk : ∀ s, Canon κ s → Canon κ (k s)) : Canon κ (s.incoming k) := .ite (hk _ h) h

theorem Canon.setStep {die idx : Nat} {x : Word} (h : Canon κ s) : Canon κ (s.setStep die idx x) := .update h

theorem Canon.rdcFill {die part line : Nat} {tag : Word} (h : Canon κ s) : Canon κ (s.rdcFill die part line tag) := by
  unfold State.rdcFill
  split
  · exact .ite h (.update h)
  · exact .update h

theorem Canon.rdcStore {die part key : Nat} {bs : List Byte} {rels : List Release} (h : Canon κ s) : Canon κ (s.rdcStore die part key bs rels) :=
  .update (.ite h (.update h))

theorem Canon.rdcPatch {die key : Nat} {bs : List Byte} (h : Canon κ s) : Canon κ (s.rdcPatch die key bs) := .update h

theorem Canon.rdcBack {p : RdcLine → Bool} {r : Option (Nat × Nat)} (h : Canon κ s) : Canon κ (s.rdcBack p r) := h.of Memory.wf_foldl_writeBack id id

theorem Canon.rdcWriteBack {p : RdcLine → Bool} (h : Canon κ s) : Canon κ (s.rdcWriteBack p) := .rdcBack h

theorem Canon.rdcAcquire {die : Nat} (h : Canon κ s) : Canon κ (s.rdcAcquire die) := .update h

/-! ### Machine/Csr -/

theorem Canon.clearMarks {w : Window} (h : Canon κ s) : Canon κ (s.clearMarks w) := h.of (Memory.wf_filter _) id id

theorem Canon.setMarks {w : Window} {off n : Nat} (h : Canon κ s) : Canon κ (s.setMarks w off n) := .foldl h fun _ _ h => .writeMem h

theorem Canon.recallWindow {w : Window} {off n : Nat} (h : Canon κ s) : Canon κ (s.recallWindow w off n) := .recall (.recall h)

theorem Canon.unstaged {p : Nat} {w : Window} (h : Canon κ s) : Canon κ (s.unstaged p w) := .ite (.clearMarks (.recallWindow h)) h

theorem Canon.openWindow {p i : Nat} (h : Canon κ s) : Canon κ (s.openWindow p i) := by
  unfold State.openWindow
  generalize s.windowEntry p i = x
  obtain ⟨w, ok⟩ := x
  dsimp -zeta only
  extract_lets s1 s2 n b
  have h2 : Canon κ s2 := .ite (.recall (.recall h)) (.recall h)
  clear_value s2
  split
  · exact (Canon.clearMarks h2).of id Memory.wf_setNum id
  · exact .updPart h2

theorem Canon.closeWindow {p i : Nat} (h : Canon κ s) : Canon κ (s.closeWindow p i) := .updPart h

theorem Canon.changeOpen {p base : Nat} {old new : Word} (h : Canon κ s) : Canon κ (s.changeOpen p base old new) :=
  .foldl h fun _ _ h => .ite h (.ite (.openWindow h) (.closeWindow h))

theorem Canon.csrWrite {p n : Nat} {op : CsrOp} {a : Word} (h : Canon κ s) : Canon κ (s.csrWrite p n op a) :=
  .ite (.ite (.updPart h) (.updPart h)) (.ite (.changeOpen h) (.ite (.changeOpen h) (.ite h (.updPart h))))

/-! ### Machine/Xlate -/

theorem Canon.walkRecall {unit p va : Nat} (h : Canon κ s) : Canon κ (s.walkRecall unit p va) := .ite h (.foldl h fun _ _ h => .recall h)

theorem Canon.cache {unit p va : Nat} (h : Canon κ s) : Canon κ (s.cache unit p va) := by
  unfold State.cache
  split
  · exact .update (.walkRecall h)
  · exact .walkRecall h

theorem Canon.cachePages {unit p : Nat} {l : List (Nat × Nat)} (h : Canon κ s) : Canon κ (s.cachePages unit p l) := by
  induction l generalizing s with
  | nil => exact h
  | cons x l ih =>
    unfold State.cachePages
    split
    · exact ih (.cache h)
    · exact .cache h

theorem Canon.cacheRange {unit p a n : Nat} (h : Canon κ s) : Canon κ (s.cacheRange unit p a n) := .cachePages h

/-! ### Machine/Hb -/

theorem Canon.hbAdd {w g : Nat} {lanes : List Nat} {x : HbWhat} (h : Canon κ s) : Canon κ (s.hbAdd w g lanes x) := .update h

theorem Canon.noteItem {who : Agent} {x : HbWhat} (h : Canon κ s) : Canon κ (s.noteItem who x).1 := .ite_fst h (.update h)

theorem Canon.setG {w g : Nat} {lanes : List Nat} {n : Nat} {x : Word} (h : Canon κ s) : Canon κ (s.setG w g lanes n x) :=
  h.of id id (.updWhere fun _ hw => hw)

theorem Canon.wildAt {a : SyncAt} {n : Nat} (h : Canon κ s) : Canon κ (s.wildAt a n) := by
  cases a with
  | loc w off => exact h.of id id (.updWhere fun _ hw => hw)
  | mem k => exact .wildMem h
  | host x => exact h

theorem Canon.wildAll {l : List (SyncAt × Nat)} (h : Canon κ s) : Canon κ (s.wildAll l) := .foldl h fun _ _ h => .wildAt h

theorem Canon.landPart {op : Nat} {kind : EKind} {w g : Nat} {bytes : List (SyncAt × Nat)} (h : Canon κ s) : Canon κ (s.landPart op kind w g bytes) :=
  .update h

theorem Canon.wildObj {o : PhaseRef} (h : Canon κ s) : Canon κ (s.wildObj o) := by
  unfold State.wildObj
  split
  · exact .wildAt h
  · exact h

theorem Canon.wildObjs {known : List Nat} {a : SyncAt} {n : Nat} (h : Canon κ s) : Canon κ (s.wildObjs known a n) :=
  .foldl h fun _ _ h => .ite (.wildObj h) h

theorem Canon.raceBytes {who : Agent} {a : SyncAt} {n : Nat} (h : Canon κ s) : Canon κ (s.raceBytes who a n) :=
  .ite h (.foldl h fun _ _ h => .ite (.wildAt h) h)

theorem Canon.recordStore {w g l : Nat} {a : SyncAt} {n : Nat} (h : Canon κ s) : Canon κ (s.recordStore w g l a n) := .update (.hbAdd h)

theorem Canon.fenceRelLanes {w g rank : Nat} {lanes : List Nat} (h : Canon κ s) : Canon κ (s.fenceRelLanes w g rank lanes) := .update h

theorem Canon.fenceAcqLanes {w g rank : Nat} {lanes : List Nat} (h : Canon κ s) : Canon κ (s.fenceAcqLanes w g rank lanes) := .update h

theorem Canon.spoilBlocks {a : SyncAt} {n : Nat} {but : Option Nat} (h : Canon κ s) : Canon κ (s.spoilBlocks a n but) := .update h

theorem Canon.spoilMcas {a : SyncAt} {n : Nat} (h : Canon κ s) : Canon κ (s.spoilMcas a n) := .update h

theorem Canon.spoilReads {a : SyncAt} {n item : Nat} (h : Canon κ s) : Canon κ (s.spoilReads a n item) := .update h

theorem Canon.spoilData {a : SyncAt} {n item : Nat} (h : Canon κ s) : Canon κ (s.spoilData a n item) := .spoilReads (.update (.wildAll h))

theorem Canon.unitSpoil {a : SyncAt} {n item : Nat} (h : Canon κ s) : Canon κ (s.unitSpoil a n item) := .spoilBlocks (.spoilReads h)

theorem Canon.spoil {a : SyncAt} {n item : Nat} (h : Canon κ s) : Canon κ (s.spoil a n item) := .spoilMcas (.spoilBlocks (.spoilData h))

/-! ### Machine/Ops -/

theorem Canon.textTouch {w : Nat} {addr : DWord} (h : Canon κ s) : Canon κ (s.textTouch w addr) := by
  unfold State.textTouch
  dsimp only
  split
  · exact .recall (.walkRecall h)
  · exact .walkRecall h

theorem Canon.updWg {u : Nat} {f : Wg → Wg} (h : Canon κ s) (hf : ∀ w, Memory.wf w.ls = true → Memory.wf (f w).ls = true) : Canon κ (s.updWg u f) :=
  h.of id id (.updWhere hf)

theorem Canon.updGang {w g : Nat} {f : Gang → Gang} (h : Canon κ s) : Canon κ (s.updGang w g f) := .update h

theorem Canon.updCluster {u : Nat} {f : Cluster → Cluster} (h : Canon κ s) : Canon κ (s.updCluster u f) := .update h

theorem Canon.updNode {u : Nat} {f : Node → Node} (h : Canon κ s) : Canon κ (s.updNode u f) := .update h

theorem Canon.updThreads {p : Thread → Bool} {f : Thread → Thread} (h : Canon κ s) : Canon κ (s.updThreads p f) := .update h

theorem Canon.updIssue {f : Thread → Thread} (h : Canon κ s) : Canon κ (s.updIssue f) := .updThreads h

theorem Canon.updSlice {w g : Nat} {f : Slice → Slice} (h : Canon κ s) : Canon κ (s.updSlice w g f) := .ite h (.ite (.update h) (.update h))

theorem Canon.ownSlice {w g : Nat} (h : Canon κ s) : Canon κ (s.ownSlice w g) := .updSlice h

theorem Canon.dropLatches {w g : Nat} (h : Canon κ s) : Canon κ (s.dropLatches w g) := .updSlice h

theorem Canon.push {vals : List LatchVal} (h : Canon κ s) : Canon κ (s.push vals) := .updSlice h

theorem Canon.settle {w g : Nat} (h : Canon κ s) : Canon κ (s.settle w g) := .ite h (.update h)

theorem Canon.advance (h : Canon κ s) : Canon κ s.advance := .ite h (.settle (.updIssue h))

theorem Canon.stage {p w off : Nat} {bs : List Byte} (h : Canon κ s) : Canon κ (s.stage p w off bs) := by
  unfold State.stage
  split
  · exact h
  · exact .ite (.setMarks (.writeMem (.recallWindow h))) h

theorem Canon.rdcWriter {die part key w : Nat} {e : SbEntry} (h : Canon κ s) : Canon κ (s.rdcWriter die part key w e) := .update h

theorem Canon.addPending {w g : Nat} {p : Pending} (h : Canon κ s) : Canon κ (s.addPending w g p) := .updGang h

theorem Canon.sbTrap {w : Nat} {e : SbEntry} (h : Canon κ s) : Canon κ (s.sbTrap w e) := .addPending h

theorem Canon.sbFault {w : Nat} {e : SbEntry} (h : Canon κ s) : Canon κ (s.sbFault w e) := .sbTrap (.updWg h fun _ hw => hw)

theorem Canon.writersFail {l : List (Nat × SbEntry)} (h : Canon κ s) : Canon κ (s.writersFail l) :=
  .foldl (h.of id id (.map fun _ hw => hw)) fun _ _ h => .sbTrap h

theorem Canon.rdcEvict {l : RdcLine} {ok : Bool} (h : Canon κ s) : Canon κ (s.rdcEvict l ok) :=
  .ite (.update h) (.ite (.update (.rdcWriteBack h)) (.writersFail (.update h)))

theorem Canon.rdcRoom {die part line : Nat} (h : Canon κ s) : Canon κ (s.rdcRoom die part line) := by
  unfold State.rdcRoom
  refine .ite h ?_
  split
  · exact .rdcEvict h
  · exact h

theorem Canon.olderBack {die p k : Nat} {e : SbEntry} (h : Canon κ s) : Canon κ (s.olderBack die p k e) := .rdcBack h

theorem Canon.sbApply {s0 : State} {w : Nat} {e : SbEntry} (h : Canon κ s0) : Canon κ (s0.sbApply w e) := by
  unfold State.sbApply
  extract_lets p die n s1
  have h1 : Canon κ s1 := .updWg h fun _ hw => hw
  split
  · exact .spoilData (.wildObjs (.ite (.rdcWriter (.rdcStore (.noteOld (.olderBack (.rdcRoom h1))))) (.update (.writeMem (.recall h1)))))
  · exact .update (.stage h1)

theorem Canon.sbApplyList {w : Nat} {l : List SbEntry} (h : Canon κ s) : Canon κ (s.sbApplyList w l) := by
  induction l generalizing s with
  | nil => exact h
  | cons e l ih => exact .ite (.sbFault h) (.ite (.sbApply h) (ih (.sbApply h)))

theorem Canon.commit {w : Nat} (h : Canon κ s) : Canon κ (s.commit w) :=
  .ite (.updWg (.ite h (.sbApplyList h)) fun _ hw => hw) (.ite h (.sbApplyList h))

theorem Canon.commitRange {w : Nat} {d : Dest} {n : Nat} (h : Canon κ s) : Canon κ (s.commitRange w d n) := .ite h (.sbApplyList h)

theorem Canon.sbPut {w : Nat} {e : SbEntry} (h : Canon κ s) : Canon κ (s.sbPut w e) := h.of id id (.updWhere fun _ hw => hw)

theorem Canon.msix {p : Nat} (h : Canon κ s) : Canon κ (s.msix p) := .update h

theorem Canon.stopWg {w : Nat} {st : WState} (h : Canon κ s) : Canon κ (s.stopWg w st) := h.of id id (.updWhere fun _ hw => hw)

theorem Canon.settleNode (h : Canon κ s) : Canon κ s.settleNode := .update h

theorem Canon.dropCluster {c : Nat} (h : Canon κ s) : Canon κ (s.dropCluster c) := h.of id id .filter

theorem Canon.pcmdEnd {r : Nat} (h : Canon κ s) : Canon κ (s.pcmdEnd r) := .update h

theorem Canon.coresFreed {p : Nat} (h : Canon κ s) : Canon κ (s.coresFreed p) := by
  unfold State.coresFreed
  dsimp only
  split
  · exact .ite h (.updPart h)
  · exact .ite (.ite h (.updPart h)) (.pcmdEnd (.updPart (.ite h (.updPart h))))

theorem Canon.wakeNodes (h : Canon κ s) : Canon κ s.wakeNodes := .update h

theorem Canon.updateBound {p : Nat} (h : Canon κ s) : Canon κ (s.updateBound p) := .ite h (.ite (.updPart h) (.updPart h))

theorem Canon.startKick {p slot : Nat} (h : Canon κ s) : Canon κ (s.startKick p slot) := by
  unfold State.startKick
  refine .ite h ?_
  split
  · exact h
  · exact .wakeNodes (.update h)

theorem Canon.endKicks (h : Canon κ s) : Canon κ s.endKicks := by
  unfold State.endKicks
  split
  · exact h
  · exact .startKick (.updateBound (.msix (.update (.updPart (.rdcWriteBack h)))))

theorem Canon.recordError {p reason cause wgNum : Nat} (h : Canon κ s) : Canon κ (s.recordError p reason cause wgNum) := .ite h (.msix (.updPart h))

theorem Canon.withhold {p core base n : Nat} (h : Canon κ s) : Canon κ (s.withhold p core base n) := .updPart h

theorem Canon.failNode {n : Nat} (h : Canon κ s) : Canon κ (s.failNode n) := by
  unfold State.failNode
  extract_lets cs placed s1 s2 k s3 p s4
  have h4 : Canon κ s4 :=
    .settleNode (.coresFreed (.update (.foldl (.foldl h fun _ _ h => .stopWg (.ite (.withhold h) h)) fun _ _ h => .dropCluster h)))
  exact .ite (.endKicks (.updateBound h4)) (.updateBound (.update h4))

theorem Canon.kernelError {w reason cause : Nat} (h : Canon κ s) : Canon κ (s.kernelError w reason cause) := .failNode (.recordError h)

theorem Canon.kill {w cause : Nat} (h : Canon κ s) : Canon κ (s.kill w cause) := by
  unfold State.kill
  extract_lets c p lsz ws s1 s2 s3
  have h3 : Canon κ s3 := .updCluster (.dropCluster (.foldl h fun _ _ h => .withhold (.stopWg h)))
  exact .ite (.kernelError h) (.ite (.kernelError h) (.coresFreed (.update (.updPart h3))))

theorem Canon.enterHandler {w g : Nat} {t : TrapInfo} (h : Canon κ s) : Canon κ (s.enterHandler w g t) := .dropLatches (.updGang (.update h))

theorem Canon.takeTrap {w g : Nat} {t : TrapInfo} (h : Canon κ s) : Canon κ (s.takeTrap w g t) :=
  .ite (.ite (.kernelError h) (.kernelError h)) (.ite (.kernelError h) (.enterHandler h))

theorem Canon.trapIssue {cause : Nat} {mask lanes : List Nat} {caps : List Cap} {addr : DWord} {info : Nat} (h : Canon κ s) :
    Canon κ (s.trapIssue cause mask lanes caps addr info) :=
  .ite (.update h) (.takeTrap (.updGang (.ite h (.ite (.updIssue h) (.updIssue h)))))

theorem Canon.trapOut {cause : Nat} {mask : List Nat} {info : Nat} {word : Option Nat} (h : Canon κ s) : Canon κ (s.trapOut cause mask info word) :=
  .takeTrap (.updGang h)

theorem Canon.drainIfDone {w : Nat} (h : Canon κ s) : Canon κ (s.drainIfDone w) := .ite h (.updWg h fun _ hw => by split <;> exact hw)

/-! ### Machine/Operands -/

theorem Canon.checked {caps : List Cap} {k : State → State} (h : Canon κ s) (hk : ∀ s, Canon κ s → Canon κ (k s)) : Canon κ (s.checked caps k) :=
  .ite (.trapIssue h) (hk _ h)

theorem Canon.faultLanes {caps : List Cap} {f : Nat × List Nat × DWord} {info : Nat} (h : Canon κ s) : Canon κ (s.faultLanes caps f info) :=
  .trapIssue h

theorem Canon.writeLanes {res : List (Nat × Nat × Bool)} {write : Thread → Nat → Bool → Thread} (h : Canon κ s) : Canon κ (s.writeLanes res write) :=
  .updIssue h

theorem Canon.pushLanes {o : Op} {res : List (Nat × Nat × Bool)} (h : Canon κ s) : Canon κ (s.pushLanes o res) := .push h

theorem Canon.aluBy {o : Op} {src : Thread → Cap} {push : Bool} {f : Nat → Nat → Nat → Nat × Bool} {write : Thread → Nat → Bool → Thread}
    (h : Canon κ s) :
    Canon κ (s.aluBy o src push f write) :=
  .checked h fun _ h => .advance (.ite (.pushLanes (.writeLanes h)) (.writeLanes h))

theorem Canon.alu {o : Op} {k : Kinds} {push : Bool} {f : Nat → Nat → Nat → Nat × Bool} (h : Canon κ s) : Canon κ (s.alu o k push f) := .aluBy h

theorem Canon.alu3 {o : Op} {f : Nat → Nat → Nat → Nat} (h : Canon κ s) : Canon κ (s.alu3 o f) := .alu h

theorem Canon.endRun (h : Canon κ s) : Canon κ s.endRun := .updSlice h

theorem Canon.runWaits (h : Canon κ s) : Canon κ s.runWaits := .updSlice h

theorem Canon.waitHere (h : Canon κ s) : Canon κ s.waitHere := .ite (.updGang h) (.runWaits h)

theorem Canon.shadowed {caps : List Cap} {same : Cap → Cap → Bool} {k : State → State} {pair : List Cap}
    (h : Canon κ s) (hk : ∀ s, Canon κ s → Canon κ (k s)) :
    Canon κ (s.shadowed caps same k pair) :=
  .ite (hk _ h) (.trapIssue h)

theorem Canon.acting {caps : List Cap} {k : State → State} {pair : List Cap} (h : Canon κ s) (hk : ∀ s, Canon κ s → Canon κ (k s)) :
    Canon κ (s.acting caps k pair) :=
  .checked h fun _ h => .shadowed h fun _ h => hk _ h

/-! ### Machine/FloatOps -/

theorem Canon.floatAlu {o : Op} {f : Fmt → Nat → Nat → Nat → Nat} (h : Canon κ s) : Canon κ (s.floatAlu o f) := .alu3 h

theorem Canon.special {o : Op} {f : Nat → Nat} (h : Canon κ s) : Canon κ (s.special o f) := .alu h

/-! ### Machine/Integer -/

theorem Canon.addSub {o : Op} {m : AddMods} {f : Int → Int → Int → Int} (h : Canon κ s) : Canon κ (s.addSub o m f) := .alu h

theorem Canon.intAlu {o : Op} {sat : Bool} {f : Int → Int → Int → Int} (h : Canon κ s) : Canon κ (s.intAlu o sat f) := .alu3 h

/-! ### Machine/Cross -/

theorem Canon.resolveOnce {w g : Nat} (h : Canon κ s) : Canon κ (s.resolveOnce w g) := by
  unfold State.resolveOnce
  refine .ite h ?_
  dsimp only
  split
  · exact .settle (.updThreads h)
  · exact .ite (.takeTrap (.updGang (.settle (.updThreads h)))) (.takeTrap (.updGang (.settle (.updThreads h))))

theorem Canon.resolveGo {w g n : Nat} (h : Canon κ s) : Canon κ (State.resolveGo w g n s) := by
  induction n generalizing s with
  | zero => exact h
  | succ n ih => exact .ite (ih (.resolveOnce h)) h

theorem Canon.resolveSync {w g : Nat} (h : Canon κ s) : Canon κ (s.resolveSync w g) := .ite h (.resolveGo h)

theorem Canon.crossAgain {i : Instr} (h : Canon κ s) : Canon κ (s.crossAgain i) :=
  .ite (.trapOut (.updIssue h)) (.ite (.trapIssue h) (.settle (.updIssue h)))

theorem Canon.cross {i : Instr} {g : Guard} {k : Kinds} {a b c : Src} (h : Canon κ s) : Canon κ (s.cross i g k a b c) :=
  .checked h fun _ h => .ite (.crossAgain h) (.ite (.endRun (.resolveSync (.updIssue h))) (.resolveSync (.updIssue h)))

theorem Canon.crossTy {i : Instr} {o : Op} {c : Kind} (h : Canon κ s) : Canon κ (s.crossTy i o c) := .cross h

theorem Canon.crossPred {i : Instr} {o : Op} (h : Canon κ s) : Canon κ (s.crossPred i o) := .cross h

/-! ### Machine/Phase -/

theorem Canon.lsWrite {w off : Nat} {bs : List Byte} {item : Option Nat} (h : Canon κ s) : Canon κ (s.lsWrite w off bs item) :=
  .update (.updWg (.noteOld h) fun _ hw => Memory.wf_setBytes hw)

theorem Canon.homeWrite {pa : Nat} {bs : List Byte} {item : Option Nat} (h : Canon κ s) : Canon κ (s.homeWrite pa bs item) :=
  .update (.writeMem (.recall h))

theorem Canon.setPhaseNum {r : PhaseRef} {x item : Nat} (h : Canon κ s) : Canon κ (s.setPhaseNum r x item) := by
  unfold State.setPhaseNum
  split
  · exact .lsWrite h
  · exact .homeWrite h
  · exact h

theorem Canon.raceObj {who : Agent} {r : PhaseRef} (h : Canon κ s) : Canon κ (s.raceObj who r) := by
  unfold State.raceObj
  split
  · exact .raceBytes h
  · exact h

theorem Canon.passWait {t : Thread} (h : Canon κ s) : Canon κ (s.passWait t) := by
  unfold State.passWait
  split
  · exact .update h
  · exact h

theorem Canon.wakeIf {p : Thread → Bool} (h : Canon κ s) : Canon κ (s.wakeIf p) :=
  .foldl (.updThreads h) fun _ _ h => .resolveSync (.settle (.passWait h))

theorem Canon.wake {r : PhaseRef} (h : Canon κ s) : Canon κ (s.wake r) := .wakeIf h

theorem Canon.testAgain {p : Thread → Bool} (h : Canon κ s) : Canon κ (s.testAgain p) := by
  unfold State.testAgain
  split
  · exact .kill h
  · exact .wakeIf h

theorem Canon.freeBuffered {r : PhaseRef} {known : List Nat} (h : Canon κ s) : Canon κ (s.freeBuffered r known) := h.of id id (.map fun _ hw => hw)

theorem Canon.eventRaces {hb : Hb} {r : PhaseRef} {known : List Nat} (h : Canon κ s) : Canon κ (s.eventRaces hb r known) :=
  .ite (.freeBuffered (.wildObj h)) h

theorem Canon.eventAt {r : PhaseRef} {num : Nat} {done : Bool} {ev : Agent × List Nat} {own : Bool} (h : Canon κ s) :
    Canon κ (s.eventAt r num done ev own) := by
  unfold State.eventAt
  dsimp -zeta only
  extract_lets s1 _ s2 s3
  have h2 : Canon κ s2 := .eventRaces (.update (.setPhaseNum (.hbAdd h)))
  have h3 : Canon κ s3 := by
    unfold s3
    split
    · exact .ite (.spoil h2) (.unitSpoil h2)
    · exact h2
  exact .wake (.update h3)

theorem Canon.phaseEvent {r : PhaseRef} {cnt bytes : Nat} {ev : Agent × List Nat} {own : Bool} (h : Canon κ s) :
    Canon κ (s.phaseEvent r cnt bytes ev own).st :=
  .eventAt h

theorem Canon.arrive {r : PhaseRef} {cnt bytes : Nat} {ev : Agent × List Nat} (h : Canon κ s) : Canon κ (s.arrive r cnt bytes ev) := .phaseEvent h

theorem Canon.finishReturn {w g : Nat} (h : Canon κ s) : Canon κ (s.finishReturn w g) :=
  .ite h (.drainIfDone (.resolveSync (.testAgain (.settle (.updGang (.updThreads h))))))

theorem Canon.holdEndsRun {w g : Nat} (h : Canon κ s) : Canon κ (s.holdEndsRun w g) := by
  unfold State.holdEndsRun
  dsimp only
  split
  · exact .ite (.updSlice h) h
  · exact h

theorem Canon.afterIssue {w g : Nat} (h : Canon κ s) : Canon κ (s.afterIssue w g) := .holdEndsRun (.finishReturn (.resolveSync h))

/-! ### Machine/Control -/

theorem Canon.transfer {f : Thread → Option Thread} (h : Canon κ s) : Canon κ (s.transfer f) := .settle (.updIssue h)

theorem CanonOut.execBr {g : Guard} {t : Target} (h : Canon κ s) : CanonOut κ (execBr g t s) :=
  .next (.acting h fun _ h => .ite (.faultLanes h) (.ite (.advance h) (.endRun (.transfer h))))

theorem CanonOut.execCall {g : Guard} {t : Target} (h : Canon κ s) : CanonOut κ (execCall g t s) := by
  unfold Machine.execCall
  refine .next (.acting h fun _ h => ?_)
  dsimp only
  split
  · exact .faultLanes h
  · exact .ite (.advance h) (.endRun (.transfer h))

theorem Canon.leaving {lanes : List Nat} {f : Thread → Option Thread} (h : Canon κ s) : Canon κ (s.leaving lanes f) :=
  .ite (.kernelError h) (.drainIfDone (.resolveSync (.settle (.ite (.transfer h) (.endRun (.transfer h))))))

theorem CanonOut.execRet {g : Guard} (h : Canon κ s) : CanonOut κ (execRet g s) :=
  .next (.acting h fun _ h => .ite (.faultLanes (.updIssue h)) (.ite (.leaving h) (.endRun (.leaving h))))

theorem CanonOut.execMeet {g : Guard} {t : Target} (h : Canon κ s) : CanonOut κ (execMeet g t s) :=
  .next (.checked h fun _ h => .ite (.faultLanes h) (.settle (.advance (.updIssue h))))

theorem CanonOut.execMeetClr {g : Guard} (h : Canon κ s) :
    CanonOut κ (execMeetClr g s) := .next (.checked h fun _ h => .settle (.advance (.updIssue h)))

theorem CanonOut.execYield {g : Guard} (h : Canon κ s) : CanonOut κ (execYield g s) :=
  .next (.checked h fun _ h => .ite (.advance h) (.updSlice (.advance h)))

theorem CanonOut.execTrap {g : Guard} {code : Nat} (h : Canon κ s) : CanonOut κ (execTrap g code s) :=
  .next (.checked h fun _ h => .ite (.advance h) (.trapOut (.advance h)))

/-! ### Machine/Access -/

theorem Canon.cacheLanes {sp : Space} {addr : Cap → Nat} {caps : List Cap} (h : Canon κ s) : Canon κ (s.cacheLanes sp addr caps) := by
  unfold State.cacheLanes
  split
  · exact .foldl h fun _ _ h => .cache h
  · exact .foldl h fun _ _ h => .cache h
  · exact h

theorem Canon.recallLanes {sp : Space} {addr : Cap → Nat} {caps : List Cap} (h : Canon κ s) : Canon κ (s.recallLanes sp addr caps) := by
  unfold State.recallLanes
  split
  · exact .foldl h fun _ _ h => .walkRecall h
  · exact .foldl h fun _ _ h => .walkRecall h
  · exact h

theorem Canon.withPlaces {sp : Space} {acc : Acc} {n : Nat} {addr : Cap → Nat} {caps : List Cap} {k : State → List LaneRef → State}
    (h : Canon κ s) (hk : ∀ s x, Canon κ s → Canon κ (k s x)) :
    Canon κ (s.withPlaces sp acc n addr caps k) := by
  unfold State.withPlaces
  dsimp only
  split
  · exact .faultLanes (.recallLanes h)
  · exact hk _ _ (.cacheLanes h)

theorem Canon.unpoisoned {n : Nat} {refs : List LaneRef} {k : State → State} (h : Canon κ s) (hk : ∀ s, Canon κ s → Canon κ (k s)) :
    Canon κ (s.unpoisoned n refs k) :=
  .ite (.kill h) (hk _ h)

theorem Canon.fillPlace {p : Place} (h : Canon κ s) : Canon κ (s.fillPlace p) := by
  unfold State.fillPlace
  split
  · exact .ite (.rdcFill (.rdcRoom h)) h
  · exact h

theorem Canon.recallAt {p : Place} {n : Nat} (h : Canon κ s) : Canon κ (s.recallAt p n) := by
  unfold State.recallAt
  split
  · exact .ite h (.recall h)
  · split
    · exact .ite (.recallWindow h) h
    · exact h
  · exact h

theorem Canon.ask {i : Instr} {caps : List Cap} {addr : Cap → Nat} {out : List LaneRef} {got : List (Nat × Option Nat)} (h : Canon κ s) :
    Canon κ (s.ask i caps addr out got) :=
  .updIssue (.update h)

theorem Canon.readSync {tags : List SyncTag} {order : Order} {scope : Scope} {lane : Nat} {p : Place} {n : Nat} (h : Canon κ s) :
    Canon κ (s.readSync tags order scope lane p n) :=
  .update h

theorem Canon.loadSync {lane : Nat} {p : Place} {n : Nat} (h : Canon κ s) : Canon κ (s.loadSync lane p n) := .readSync h

theorem Canon.released {order : Order} {scope : Scope} (h : Canon κ s) : Canon κ (s.released order scope).1 :=
  .ite_fst h (.ite_fst (.commit h) (.ite (.rdcWriteBack (.commit h)) (.commit h)))

theorem Canon.committing {k : State → State} (h : Canon κ s) (hk : ∀ s, Canon κ s → Canon κ (k s)) : Canon κ (s.committing k) :=
  .ite (hk _ (.commit h)) (.waitHere (.commit h))

theorem Canon.releasing {order : Order} {scope : Scope} {lanes : List Nat} {k : State → State} (h : Canon κ s) (hk : ∀ s, Canon κ s → Canon κ (k s)) :
    Canon κ (s.releasing order scope lanes k) :=
  .ite (hk _ h) (.ite (hk _ (.released h)) (.waitHere (.released h)))

theorem Canon.acquiring {order : Order} {scope : Scope} {lanes : List Nat} (h : Canon κ s) : Canon κ (s.acquiring order scope lanes) :=
  .ite (.rdcAcquire h) h

theorem Canon.releasingObj {lanes : List Nat} {k : State → State} (h : Canon κ s) (hk : ∀ s, Canon κ s → Canon κ (k s)) :
    Canon κ (s.releasingObj lanes k) :=
  .releasing h fun _ h => hk _ h

/-! ### Machine/LoadStore -/

theorem Canon.observeStep {sp : Space} {r : LaneRef} (h : Canon κ s) : Canon κ (s.observeStep sp r) := by
  unfold State.observeStep
  split
  · exact .update h
  · exact h

theorem Canon.loadLane {sp : Space} {w : Width} {x : State × List (Nat × Option Nat)} {r : LaneRef} (h : Canon κ x.1) :
    Canon κ (State.loadLane sp w x r).1 := by
  unfold State.loadLane
  dsimp only
  split
  · exact .recallAt h
  · exact .observeStep (.loadSync (.recallAt h))

theorem Canon.loadDone {o : Op} {w : Width} {got : List (Nat × Option Nat)} (h : Canon κ s) : Canon κ (s.loadDone o w got) := .advance (.updIssue h)

theorem Canon.loadOp {i : Instr} {sp : Space} {o : Op} {w : Width} (h : Canon κ s) : Canon κ (s.loadOp i sp o w) :=
  .checked h fun _ h => .withPlaces h fun _ _ h => .unpoisoned h fun _ h =>
    .ite (.ask (.foldl_fst h fun _ _ h => .loadLane h)) (.loadDone (.foldl_fst h fun _ _ h => .loadLane h))

theorem Canon.storeIssued (h : Canon κ s) : Canon κ s.storeIssued := .ite h (.updWg h fun _ hw => hw)

theorem Canon.laneWrite {order : Order} {scope : Scope} {lane w off : Nat} {bs : List Byte} (h : Canon κ s) :
    Canon κ (s.laneWrite order scope lane w off bs) :=
  .spoil (.update (.foldl (.wildObjs (.lsWrite (.hbAdd h))) fun _ _ h => .ite (.updWg h fun _ hw => hw) h))

theorem Canon.storeLocal {n : Nat} {refs : List LaneRef} (h : Canon κ s) : Canon κ (s.storeLocal n refs) := by
  unfold State.storeLocal
  refine .foldl h fun _ _ h => ?_
  split
  · exact .laneWrite h
  · exact h

theorem Canon.storeGlobal {n va : Nat} {r : LaneRef} {k : Nat} {v : Option Nat} {undef : Bool} (h : Canon κ s) :
    Canon κ (s.storeGlobal n va r k v undef) :=
  .wildObjs (.spoil (.sbPut (.recordStore h)))

theorem Canon.storeBuffered {n : Nat} {addr : Cap → Nat} {refs : List LaneRef} {undef : LaneRef → Bool} (h : Canon κ s) :
    Canon κ (s.storeBuffered n addr refs undef) := by
  unfold State.storeBuffered
  refine .foldl h fun _ _ h => ?_
  split
  · exact .storeGlobal h
  · exact .sbPut h
  · exact h

theorem Canon.withRoom {n : Nat} {k : State → State} (h : Canon κ s) (hk : ∀ s, Canon κ s → Canon κ (k s)) : Canon κ (s.withRoom n k) :=
  .ite (hk _ h) (.committing h fun _ h => hk _ h)

theorem Canon.storeOp {sp : Space} {o : Op} {w : Width} (h : Canon κ s) : Canon κ (s.storeOp sp o w) := by
  unfold State.storeOp
  refine .checked h fun _ h => .shadowed h fun _ h => .withPlaces h fun _ _ h => ?_
  split
  · exact .ite (.unpoisoned h fun _ h => .advance (.storeLocal h)) (.advance (.storeLocal h))
  · exact .ite (.unpoisoned h fun _ h => .advance (.storeLocal h)) (.advance (.storeLocal h))
  · exact .ite (.advance h) (.withRoom h fun _ h => .advance (.storeBuffered (.storeIssued h)))

theorem Canon.writeG {n : Nat} {vals : List (Nat × Nat)} (h : Canon κ s) : Canon κ (s.writeG n vals) := .ite h (.setG h)

theorem Canon.writeGs {o : Op} {vals : List (Nat × Nat)} (h : Canon κ s) : Canon κ (s.writeGs o vals) := by
  unfold State.writeGs
  split
  · exact .ite (.writeG (.writeG h)) (.writeG h)
  · exact h

theorem CanonOut.execGmov {o : Op} (h : Canon κ s) : CanonOut κ (execGmov o s) := .next (.checked h fun _ h => .advance (.pushLanes (.writeGs h)))

theorem Canon.gldLane {o : Op} {x : State × List (Nat × Option Nat)} {r : LaneRef} (h : Canon κ x.1) : Canon κ (State.gldLane o x r).1 :=
  .loadSync (.recallAt h)

theorem Canon.gldDone {o : Op} {got : List (Nat × Option Nat)} (h : Canon κ s) : Canon κ (s.gldDone o got) := .advance (.pushLanes (.writeGs h))

theorem CanonOut.execGld {o : Op} {sp : Space} (h : Canon κ s) : CanonOut κ (execGld o sp s) :=
  .next (.checked h fun _ h => .withPlaces h fun _ _ h => .unpoisoned h fun _ h =>
    .ite (.ask (.foldl_fst h fun _ _ h => .gldLane h)) (.gldDone (.foldl_fst h fun _ _ h => .gldLane h)))

/-! ### Machine/Logic -/

theorem Canon.shiftAlu {o : Op} {f : Ty → Nat → Nat → Nat} (h : Canon κ s) : Canon κ (s.shiftAlu o f) := .alu h

/-! ### Machine/Predicate -/

theorem Canon.predAlu {o : Op} {two : Bool} {f : Bool → Bool → Bool} (h : Canon κ s) : Canon κ (s.predAlu o two f) := .alu h

/-! ### Machine/Atomic -/

theorem Canon.containersApplied {n : Nat} {refs : List LaneRef} {k : State → State} (h : Canon κ s) (hk : ∀ s, Canon κ s → Canon κ (k s)) :
    Canon κ (s.containersApplied n refs k) :=
  .ite (hk _ (.foldl h fun _ _ h => .commitRange h)) (.waitHere (.foldl h fun _ _ h => .commitRange h))

theorem Canon.putAt {p : Place} {n x item : Nat} (h : Canon κ s) : Canon κ (s.putAt p n x item) := by
  cases p with
  | loc w off => exact .lsWrite h
  | mem k v => exact .ite (.update (.writeMem h)) (.homeWrite h)
  | win w off host => exact h.of id Memory.wf_setNum id

theorem Canon.putRmw {order : Order} {scope : Scope} {lane : Nat} {p : Place} {n x : Nat} (h : Canon κ s) :
    Canon κ (s.putRmw order scope lane p n x) :=
  .spoil (.update (.foldl (.putAt (.hbAdd h)) fun _ _ h => .ite (.wildAt h) h))

theorem Canon.ownDirty {p : Place} {n : Nat} (h : Canon κ s) : Canon κ (s.ownDirty p n) := by
  unfold State.ownDirty
  split
  · exact .ite (.rdcBack h) h
  · exact h

theorem Canon.copyPeer {p : Place} {n : Nat} (h : Canon κ s) : Canon κ (s.copyPeer p n) := by
  unfold State.copyPeer
  split
  · exact .ite (.rdcPatch h) h
  · exact h

theorem Canon.atomicLane {o : Op} {m : AtMods} {x : State × List (Nat × Option Nat)} {r : LaneRef} (h : Canon κ x.1) :
    Canon κ (State.atomicLane o m x r).1 :=
  .copyPeer (.ite (.putRmw (.readSync (.recallAt (.ownDirty h)))) (.readSync (.recallAt (.ownDirty h))))

theorem Canon.committed (h : Canon κ s) : Canon κ s.committed := .updWg h fun _ hw => hw

theorem Canon.atomicEvents {o : Op} {m : AtMods} {refs : List LaneRef} (h : Canon κ s) : Canon κ (s.atomicEvents o m refs).1 :=
  .ite (.committed (.foldl_fst h fun _ _ h => .atomicLane h)) (.foldl_fst h fun _ _ h => .atomicLane h)

theorem Canon.atomicReturn {o : Op} {m : AtMods} {caps : List Cap} {got : List (Nat × Option Nat)} (h : Canon κ s) :
    Canon κ (s.atomicReturn o m caps got) :=
  .updIssue (.acquiring h)

theorem Canon.atomicOp {i : Instr} {sp : Space} {o : Op} {m : AtMods} (h : Canon κ s) : Canon κ (s.atomicOp i sp o m) := by
  unfold State.atomicOp
  refine .acting h fun _ h => .withPlaces h fun _ _ h => ?_
  dsimp only
  split
  · exact .faultLanes h
  · exact .unpoisoned h fun _ h => .containersApplied h fun _ h => .releasing h fun _ h =>
      .ite (.advance (.atomicReturn (.atomicEvents h))) (.ask (.atomicEvents h))

theorem Canon.refetch {p : Place} (h : Canon κ s) : Canon κ (s.refetch p) := by
  unfold State.refetch
  split
  · exact .ite (.update h) h
  · exact h

theorem Canon.unblock {r : IoReq} (h : Canon κ s) : Canon κ (s.unblock r) := .update h

theorem Canon.ioDone {r : IoReq} (h : Canon κ s) : Canon κ (s.ioDone r) := by
  unfold State.ioDone
  split
  · exact .loadDone h
  · exact .loadDone h
  · exact .loadDone h
  · exact .gldDone h
  · exact .advance (.atomicReturn h)
  · exact .advance (.atomicReturn h)
  · exact .advance h

theorem Canon.ioLate {r : IoReq} {caps : List Cap} (h : Canon κ s) : Canon κ (s.ioLate r caps) := .ite h (.addPending h)

theorem Canon.ioFailed {r : IoReq} (h : Canon κ s) : Canon κ (s.ioFailed r) := by
  unfold State.ioFailed
  extract_lets fault failed
  split
  case h_3 =>
    split
    · exact .faultLanes h
    · exact .advance h
  all_goals
    extract_lets late now s1
    have h1 : Canon κ s1 := .ioLate (.atomicReturn h)
    split
    · exact .faultLanes h1
    · exact .advance h1

theorem Canon.ioNext {r : IoReq} (h : Canon κ s) : Canon κ (s.ioNext r) :=
  .ite (.update h) (.afterIssue (.ite (.ioDone (.unblock h)) (.ioFailed (.unblock h))))

theorem Canon.remoteAtomic {r : IoReq} {o : Op} {m : AtMods} {x : LaneRef} (h : Canon κ s) : Canon κ (s.remoteAtomic r o m x) :=
  .ite (.ite_fst (.released h) h) (.ioNext (.atomicEvents (.ite_fst (.released h) h)))

theorem Canon.casLoop {r : IoReq} {o : Op} {m : AtMods} {x : LaneRef} (h : Canon κ s) : Canon κ (s.casLoop r o m x) := by
  unfold State.casLoop
  dsimp only
  split
  · exact .ioNext h
  · exact .ite (.remoteAtomic h) (.ite (.ioNext h) (.ioNext h))

theorem Canon.answered {s0 : State} {r : IoReq} {x : LaneRef} (h : Canon κ s0) : Canon κ (s0.answered r x) := by
  unfold State.answered
  extract_lets s1 s lane
  have hs : Canon κ s := by
    unfold s
    split
    · exact .update h
    · exact .update h
    · exact .fillPlace (.update h)
  split
  · dsimp only
    exact .ioNext (.loadLane hs)
  · dsimp only
    exact .ioNext (.loadLane hs)
  · dsimp only
    exact .ioNext (.loadLane (.refetch hs))
  · exact .ioNext (.gldLane hs)
  · exact .remoteAtomic hs
  · exact .ite (.remoteAtomic hs) (.casLoop hs)
  · exact .ioNext hs

theorem CanonOut.execLoadReturn {req : ReqLane} {answer : Answer} (h : Canon κ s) : CanonOut κ (execLoadReturn req answer s) := by
  unfold Machine.execLoadReturn
  refine .next ?_
  split
  · exact h
  · split
    · exact h
    · exact .ite (.ioNext (.update h)) (.answered h)

theorem CanonOut.execPcieCompletionTimeout {req : ReqLane} (h : Canon κ s) : CanonOut κ (execPcieCompletionTimeout req s) := by
  unfold Machine.execPcieCompletionTimeout
  refine .next ?_
  split
  · exact h
  · split
    · exact h
    · exact .ite (.ioNext (.update h)) h

/-! ### Machine/Sync -/

theorem Canon.fenceSync {order : Order} {scope : Scope} {lanes : List Nat} (h : Canon κ s) : Canon κ (s.fenceSync order scope lanes) := by
  unfold State.fenceSync
  extract_lets k s1 s2
  have h1 : Canon κ s1 := .ite (.fenceAcqLanes h) h
  have h2 : Canon κ s2 := .ite (.update h1) h1
  exact .ite h (.ite (.fenceRelLanes h2) h2)

theorem CanonOut.execFence {g : Guard} {order : Order} {scope : Scope} (h : Canon κ s) : CanonOut κ (execFence g order scope s) :=
  .next (.checked h fun _ h => .releasing h fun _ h => .advance (.fenceSync (.acquiring h)))

theorem Canon.withObjs {sp : Space} {acc : Acc} {caps : List Cap} {k : State → List LaneRef → State}
    (h : Canon κ s) (hk : ∀ s x, Canon κ s → Canon κ (k s x)) :
    Canon κ (s.withObjs sp acc caps k) := by
  unfold State.withObjs
  dsimp only
  split
  · exact .faultLanes (.recallLanes h)
  · exact hk _ _ (.cacheLanes h)

theorem Canon.phiLane {sp : Space} {raced : LaneRef → Bool} {r : LaneRef} (h : Canon κ s) : Canon κ (State.phiLane sp raced s r) :=
  .ite (.wildObj (.hbAdd h)) (.hbAdd h)

theorem CanonOut.execPhi {o : Op} {sp : Space} (h : Canon κ s) : CanonOut κ (execPhi o sp s) :=
  .next (.acting h fun _ h => .withObjs h fun _ _ h =>
    .ite (.ite (.advance h) (.withRoom h fun _ h => .advance (.foldl (.storeBuffered (.storeIssued h)) fun _ _ h => .phiLane h)))
      (.advance (.foldl (.storeLocal h) fun _ _ h => .phiLane h)))

theorem Canon.arriveLanes {sp : Space} {refs : List LaneRef} (h : Canon κ s) : Canon κ (s.arriveLanes sp refs).1 :=
  .foldl_fst h fun _ _ h => .phaseEvent (.raceObj h)

theorem Canon.returnTo {o : Op} {words : Nat} {res : List (Nat × Nat)} (h : Canon κ s) : Canon κ (s.returnTo o words res) := .updIssue h

theorem Canon.arriveOp {o : Op} {sp : Space} {bytes : Bool} (h : Canon κ s) : Canon κ (s.arriveOp o sp bytes) :=
  .acting h fun _ h => .withObjs h fun _ _ h => .unpoisoned h fun _ h => .releasingObj h fun _ h => .advance (.returnTo (.arriveLanes h))

theorem Canon.passLanes {sp : Space} {refs : List LaneRef} (h : Canon κ s) : Canon κ (s.passLanes sp refs) := .update h

theorem CanonOut.execWph {o : Op} {sp : Space} (h : Canon κ s) : CanonOut κ (execWph o sp s) := by
  refine .next (.checked h fun _ h => .withObjs h fun _ refs h => .unpoisoned h fun s h => ?_)
  extract_lets s0 wait pass at_ s1 s2
  have h2 : Canon κ s2 := .settle (.updIssue (.passLanes (.foldl h fun _ _ h => .recallAt h)))
  exact .ite h2 (.endRun h2)

theorem CanonOut.execWphTry {o : Op} {sp : Space} (h : Canon κ s) : CanonOut κ (execWphTry o sp s) :=
  .next (.checked h fun _ h => .withObjs h fun _ _ h => .unpoisoned h fun _ h =>
    .advance (.updIssue (.passLanes (.foldl h fun _ _ h => .recallAt h))))

theorem Canon.releaseStep {r : PhaseRef} {who : Agent} {known : List Nat} (h : Canon κ s) : Canon κ (s.releaseStep r who known) := .update h

theorem Canon.vpubLane {x : State × List (Nat × Nat) × List Nat} {r : LaneRef} (h : Canon κ x.1) : Canon κ (State.vpubLane x r).1 := by
  unfold State.vpubLane
  split
  · exact .ite_fst h (.wake (.releaseStep (.setStep h)))
  · exact h

theorem CanonOut.execVpub {o : Op} (h : Canon κ s) : CanonOut κ (execVpub o s) := by
  unfold Machine.execVpub
  refine .next (.acting h fun _ h => ?_)
  split
  · exact .faultLanes (.recallLanes h)
  · extract_lets refs
    refine .releasingObj (.cacheLanes h) fun s h => ?_
    have h1 : Canon κ (refs.foldl State.vpubLane (s, [], [])).1 := .foldl_fst h fun _ _ h => .vpubLane h
    generalize refs.foldl State.vpubLane (s, [], []) = x at h1
    obtain ⟨s1, res, full⟩ := x
    dsimp -zeta only
    extract_lets s2
    have h2 : Canon κ s2 := .returnTo (.ite h1 (.committed h1))
    exact .ite (.advance h2) (.trapIssue h2)

theorem CanonOut.execPublish {o : Op} (h : Canon κ s) : CanonOut κ (execPublish o s) := by
  unfold Machine.execPublish
  refine .next (.acting h fun _ h => ?_)
  split
  · exact .faultLanes h
  · exact .releasing h fun _ h => .advance (.ite (.updPart h) (.committed (.updPart h)))

theorem Memory.wf_writeOut {w : Window} {m : List Host.Cell} {l : List Nat} (hm : Memory.wf m = true) : Memory.wf (writeOut s w m l) = true := by
  induction l generalizing m with
  | nil => exact hm
  | cons i l ih => exact ih (Memory.wf_setByte hm)

theorem CanonOut.execPublishWriteout {part win : Nat} (h : Canon κ s) : CanonOut κ (execPublishWriteout part win s) := by
  refine .next ?_
  split
  · exact h
  · exact .updPart (h.of (Canon.unstaged (κ := .package)) (fun hm => Memory.wf_setNum (Memory.wf_writeOut hm)) (Canon.unstaged (κ := .locals)))

/-! ### Machine/Mcas -/

theorem Canon.putExpects {lane w at_ : Nat} {l : List Nat} (h : Canon κ s) : Canon κ (s.putExpects lane w at_ l) := by
  induction l generalizing s at_ with
  | nil => exact h
  | cons x l ih => exact ih (.laneWrite h)

theorem Canon.mcasEvent {order : Order} {m : McasLane} (h : Canon κ s) : Canon κ (s.mcasEvent order m).1 := by
  unfold State.mcasEvent
  extract_lets n s0 obs mask s1
  have h1 : Canon κ s1 := .foldl (.foldl h fun _ _ h => .recall h) fun _ _ h => .readSync h
  exact .ite (.foldl (.committed h1) fun _ _ h => .putRmw h) h1

theorem Canon.mcasBlockWrites {m : McasLane} {mask : Nat} {obs : List Nat} (h : Canon κ s) : Canon κ (s.mcasBlockWrites m mask obs) :=
  .laneWrite (.ite h (.putExpects h))

theorem Canon.mcasShared {m : McasLane} (h : Canon κ s) :
    Canon κ (s.mcasShared m) :=   .updWg h fun _ hw => List.foldlRecOn (motive := fun x : Wg => Memory.wf x.ls = true) _ _ hw fun _ hx _ _ => hx

theorem Canon.mcasLane {order : Order} {ms : List McasLane} {x : State × List (Nat × Nat × Bool)} {m : McasLane} (h : Canon κ x.1) :
    Canon κ (State.mcasLane order ms x m).1 :=   .ite_fst (.updWg (.mcasBlockWrites (.mcasEvent h)) fun _ hw => hw)
    (.ite (.mcasShared (.mcasBlockWrites (.mcasEvent h))) (.mcasBlockWrites (.mcasEvent h)))

theorem Canon.mcasEvents {order : Order} {ms : List McasLane} (h : Canon κ s) : Canon κ (s.mcasEvents order ms).1 :=
  .foldl_fst h fun _ _ h => .mcasLane h

theorem Canon.mcasNow {o : Op} {order : Order} {ms : List McasLane} (h : Canon κ s) : Canon κ (s.mcasNow o order ms) :=
  .advance (.updIssue (.acquiring (.mcasEvents h)))

theorem Canon.mcasKeep {ms : List McasLane} (h : Canon κ s) : Canon κ (s.mcasKeep ms) := .ite h (.updGang h)

theorem Canon.mcasRun {o : Op} {order : Order} {caps : List Cap} {ms : List McasLane} (h : Canon κ s) : Canon κ (s.mcasRun o order caps ms) := by
  unfold State.mcasRun
  extract_lets ranges s1
  have h1 : Canon κ s1 := .foldl h fun _ _ h => .commitRange h
  have h2 : Canon κ (if caps.isEmpty then (s1, true) else s1.released order .pkg).1 := .ite_fst h1 (.released h1)
  exact .ite (.mcasKeep (.waitHere h1)) (.ite (.mcasNow (.mcasKeep h1)) (.ite (.mcasNow (.mcasKeep h2)) (.mcasKeep (.waitHere h2))))

theorem Canon.mcasTouch {c : Cap} (h : Canon κ s) : Canon κ (s.mcasTouch c) := by
  unfold State.mcasTouch
  dsimp only
  split
  · exact .foldl h fun _ _ h => .cache h
  · exact h

theorem CanonOut.execMcas {o : Op} {order : Order} (h : Canon κ s) : CanonOut κ (execMcas o order s) := by
  unfold Machine.execMcas
  refine .next (.acting h fun _ h => ?_)
  dsimp only
  split
  · exact .faultLanes (.foldl h fun _ _ h => .mcasTouch h)
  · exact .ite (.kill h) (.mcasRun (.foldl h fun _ _ h => .mcasTouch h))

theorem Canon.setCbuf {w off word x : Nat} (h : Canon κ s) : Canon κ (s.setCbuf w off word x) := .unitSpoil (.lsWrite h)

theorem Canon.raceCbufs {caps : List Cap} (h : Canon κ s) : Canon κ (s.raceCbufs caps) := .foldl h fun _ _ h => .raceBytes h

theorem Canon.withCbufs {caps : List Cap} {bad : Cap → Bool} {reads : Cap → List (Nat × Nat)} {k : State → State}
    (h : Canon κ s) (hk : ∀ s, Canon κ s → Canon κ (k s)) :
    Canon κ (s.withCbufs caps bad reads k) := by
  unfold State.withCbufs
  dsimp only
  split
  · exact .faultLanes h
  · exact .ite (.kill h) (hk _ (.raceCbufs h))

theorem Canon.cbgetLane {x : State × List (Nat × Nat × Nat)} {c : Cap} (h : Canon κ x.1) : Canon κ (State.cbgetLane x c).1 :=
  .ite (.updWg (.setCbuf h) fun _ hw => hw) (.setCbuf h)

theorem CanonOut.execCbget {o : Op} (h : Canon κ s) : CanonOut κ (execCbget o s) :=
  .next (.acting h fun _ h => .withCbufs h fun _ h => .advance (.updIssue (.foldl_fst h fun _ _ h => .cbgetLane h)))

theorem Canon.slotFreed {w off : Nat} (h : Canon κ s) : Canon κ (s.slotFreed w off) := .setCbuf (.setCbuf h)

theorem Canon.slotLost {w off i : Nat} (h : Canon κ s) : Canon κ (s.slotLost w off i) := .updWg h fun _ hw => hw

theorem Canon.cbputLane {c : Cap} (h : Canon κ s) : Canon κ (s.cbputLane c) :=
  .ite (.slotLost (.phaseEvent (.raceObj h))) (.ite (.slotFreed (.phaseEvent (.raceObj h))) (.phaseEvent (.raceObj h)))

theorem CanonOut.execCbput {o : Op} (h : Canon κ s) : CanonOut κ (execCbput o s) :=
  .next (.acting h fun _ h => .withCbufs h fun _ h => .releasingObj h fun _ h => .advance (.foldl h fun _ _ h => .cbputLane h))

/-! ### Machine/Engine -/

theorem Canon.withBlocks {caps : List Cap} {al n : Nat} {check : Cap → Option Nat} {k : State → State} {more : Cap → List (Nat × Nat)}
    {touch : State → Cap → State}
    (h : Canon κ s) (hk : ∀ s, Canon κ s → Canon κ (k s)) (htouch : ∀ s x, Canon κ s → Canon κ (touch s x)) :
    Canon κ (s.withBlocks caps al n check k more touch) := by
  unfold State.withBlocks
  refine .ite (.kill h) ?_
  split
  · exact .faultLanes (.foldl h fun _ _ h => htouch _ _ h)
  · exact .ite (.kill h) (hk _ (.foldl h fun _ _ h => htouch _ _ h))

theorem Canon.advanceBut {later : List Cap} (h : Canon κ s) : Canon κ (s.advanceBut later) :=
  .ite (.advance h) (.ite (.updGang h) (.settle (.updIssue h)))

theorem Canon.reuse {a : SyncAt} {n uid : Nat} (h : Canon κ s) : Canon κ (s.reuse a n uid) := .spoilBlocks h

theorem Canon.claimBlock {w blk n uid : Nat} (h : Canon κ s) : Canon κ (s.claimBlock w blk n uid).1 := .ite_fst (.reuse h) h

theorem Canon.addOp {o : EOp} {bytes : List (SyncAt × Nat)} {tiles : List (Nat × Nat)} (h : Canon κ s) : Canon κ (s.addOp o bytes tiles) :=
  .update (.claimBlock h)

theorem Canon.engineOp {o : Op} {al n : Nat} {check : State → Nat → Option Nat} {accept : State → Cap → State} {more : State → Nat → List (Nat × Nat)}
    (h : Canon κ s) (haccept : ∀ s x, Canon κ s → Canon κ (accept s x)) :
    Canon κ (s.engineOp o al n check accept more) :=
  .acting h fun _ h => .withBlocks h (fun _ h => .ite (.waitHere h) (.advanceBut (.foldl h fun _ _ h => haccept _ _ h))) fun _ _ h => h

theorem Canon.updOp {u : Nat} {f : EOp → EOp} (h : Canon κ s) : Canon κ (s.updOp u f) := .update h

theorem Canon.dropOp {u : Nat} (h : Canon κ s) : Canon κ (s.dropOp u) := .update h

theorem Canon.postEngine {b : Issuer} {blk ctr thr : Nat} {kind : EntryKind} {code addr : Nat} (h : Canon κ s) :
    Canon κ (s.postEngine b blk ctr thr kind code addr) :=
  .addPending h

theorem Canon.stopOp {o : EOp} {code addr : Nat} (h : Canon κ s) : Canon κ (s.stopOp o code addr) := .postEngine (.dropOp h)

theorem Canon.putField {w off x uid : Nat} (h : Canon κ s) : Canon κ (s.putField w off x uid) := .spoilBlocks (.lsWrite h)

theorem Canon.opField {o : EOp} {off x : Nat} (h : Canon κ s) : Canon κ (s.opField o off x) := .ite (.wildAt (.putField h)) (.putField h)

theorem Canon.opPut {o : EOp} {off : Nat} {bs : List Byte} {item : Nat} (h : Canon κ s) : Canon κ (s.opPut o off bs item) := .unitSpoil (.lsWrite h)

theorem Canon.opWrite {o : EOp} {off : Nat} {bs : List Byte} {item : Nat} (h : Canon κ s) : Canon κ (s.opWrite o off bs item) :=
  .ite (.wildAt (.opPut h)) (.opPut h)

theorem Canon.engineArrive {w off cnt bytes : Nat} {ev : Agent × List Nat} (h : Canon κ s) : Canon κ (s.engineArrive w off cnt bytes ev).st := by
  unfold State.engineArrive
  split
  · exact .kill h
  · exact .phaseEvent h

theorem Canon.engineTouch {unit p a n : Nat} (h : Canon κ s) : Canon κ (s.engineTouch unit p a n) := by
  unfold State.engineTouch
  refine .ite (.cacheRange h) ?_
  split
  · exact .cacheRange h
  · exact .foldl (.cacheRange h) fun _ _ h => .recall h

theorem Canon.globalWrite {k : Nat} {bs : List Byte} {item : Option Nat} (h : Canon κ s) : Canon κ (s.globalWrite k bs item) :=
  .ite (.update (.writeMem (.update (.rdcWriteBack h)))) (.homeWrite h)

theorem Canon.unitItem (h : Canon κ s) : Canon κ s.unitItem.1 := .hbAdd h

theorem Canon.outerWrite {who : Agent} {k : Nat} {bs : List Byte} (h : Canon κ s) : Canon κ (s.outerWrite who k bs) :=
  .update (.spoilReads (.wildObjs (.writeMem (.recall (.noteItem h)))))

theorem Canon.writePieces {l : List (Nat × Nat)} {bs : List Byte} {item : Option Nat} (h : Canon κ s) : Canon κ (s.writePieces l bs item) := by
  induction l generalizing s bs with
  | nil => exact h
  | cons k l ih => exact ih (.globalWrite h)

theorem Canon.storePieces {l : List (Nat × Nat)} {bs : List Byte} {item : Nat} (h : Canon κ s) : Canon κ (s.storePieces l bs item) :=
  .foldl (.writePieces h) fun _ _ h => .spoilReads h

theorem Canon.opPieces {o : EOp} {l : List (Nat × Nat)} {bs : List Byte} (h : Canon κ s) : Canon κ (s.opPieces o l bs) :=
  .ite (.wildAll (.storePieces h)) (.storePieces h)

theorem Canon.applyPieces {w : Nat} {l : List (Nat × Nat)} (h : Canon κ s) : Canon κ (s.applyPieces w l) := .foldl h fun _ _ h => .commitRange h

theorem Canon.commitWg {w : Nat} (h : Canon κ s) : Canon κ (s.commitWg w) := .updWg h fun _ hw => hw

/-! ### Machine/Gouge -/

theorem Canon.acceptGouge {k : EKind} {c : Cap} (h : Canon κ s) : Canon κ (State.acceptGouge k s c) := .addOp h

theorem Canon.claim {o : EOp} (h : Canon κ s) : Canon κ (s.claim o) :=
  .ite (.kill h) (.ite h (.update (.updOp (.opField (.opField (.setCbuf (.setCbuf h)))))))

theorem CanonOut.execCbufProducerClaim {op : Nat} (h : Canon κ s) : CanonOut κ (execCbufProducerClaim op s) := by
  unfold Machine.execCbufProducerClaim
  refine .next ?_
  split
  · exact .ite (.claim h) h
  · exact h

theorem Canon.putGouge {o : EOp} {progress status : Nat} (h : Canon κ s) : Canon κ (s.putGouge o progress status) := .opField (.opField h)

theorem Canon.credit {o : EOp} {b : GBlock} {ph n : Nat} {ev : Agent × List Nat} (h : Canon κ s) : Canon κ (s.credit o b ph n ev) :=
  .ite (.ite (.kill (.engineArrive h)) (.setCbuf (.engineArrive h))) (.engineArrive h)

theorem Canon.gcpEnd {o : EOp} {b : GBlock} (h : Canon κ s) : Canon κ (s.gcpEnd o b) := .dropOp (.putGouge h)

theorem Canon.gougeTouch {o : EOp} {b : GBlock} (h : Canon κ s) : Canon κ (s.gougeTouch o b) := by
  unfold State.gougeTouch
  extract_lets touch r n s1
  have h1 : Canon κ s1 := .ite (.foldl h fun _ _ h => .engineTouch h) (.engineTouch h)
  exact .ite (.engineTouch h) (.ite h1 (.engineTouch h1))

theorem Canon.gcpStep {o : EOp} {b : GBlock} (h : Canon κ s) : Canon κ (s.gcpStep o b) := by
  unfold State.gcpStep
  generalize s.gcpTarget o b = x
  obtain ⟨base, ph⟩ := x
  dsimp -zeta only
  refine .ite (.gcpEnd h) (.ite (.kill h) ?_)
  split
  · exact h
  · extract_lets r s0 u s1 s2 pubs last s3
    have h2 : Canon κ s2 := .opWrite (.opWrite (.landPart (.gougeTouch h)))
    exact .credit (.ite (.gcpEnd h2) (.updOp h2))

theorem CanonOut.execGougeRowDone {op : Nat} (h : Canon κ s) : CanonOut κ (execGougeRowDone op s) := by
  unfold Machine.execGougeRowDone
  refine .next ?_
  split
  · exact .ite (.gcpStep h) h
  · exact h

theorem Canon.gstEnd {o : EOp} {b : GBlock} {total status : Nat} (h : Canon κ s) : Canon κ (s.gstEnd o b total status) :=
  .engineArrive (.dropOp (.putGouge h))

theorem Canon.gstStep {o : EOp} {b : GBlock} (h : Canon κ s) : Canon κ (s.gstStep o b) := by
  unfold State.gstStep
  extract_lets r off n
  refine .ite (.gstEnd h) (.ite (.kill h) ?_)
  split
  · exact h
  · extract_lets s1
    have h1 : Canon κ s1 := .applyPieces (.gougeTouch h)
    exact .ite h1 (.ite (.gstEnd (.commitWg (.opPieces (.opPieces h1)))) (.updOp (.commitWg (.opPieces (.opPieces h1)))))

theorem CanonOut.execGstRowDone {op : Nat} (h : Canon κ s) : CanonOut κ (execGstRowDone op s) := by
  unfold Machine.execGstRowDone
  refine .next ?_
  split
  · exact .ite (.gstStep h) h
  · exact h

theorem Canon.gplStep {o : EOp} {b : GBlock} (h : Canon κ s) : Canon κ (s.gplStep o b) := by
  unfold State.gplStep
  extract_lets j
  refine .ite (.gstEnd h) (.ite (.kill h) ?_)
  split
  · exact h
  · extract_lets s1 s2
    have h1 : Canon κ s1 := .applyPieces (.gougeTouch h)
    have h2 : Canon κ s2 := .commitWg (.opPieces h1)
    exact .ite h1 (.ite (.gstEnd h2) (.updOp h2))

theorem CanonOut.execGplPlaneDone {op : Nat} (h : Canon κ s) : CanonOut κ (execGplPlaneDone op s) := by
  unfold Machine.execGplPlaneDone
  refine .next ?_
  split
  · exact .ite (.gplStep h) h
  · exact h

theorem Canon.gougeStop {o : EOp} {f : Nat × Nat} (h : Canon κ s) : Canon κ (s.gougeStop o f) := .stopOp (.putGouge (.gougeTouch h))

/-! ### Machine/Health -/

theorem Canon.hmArrive {p : Nat} (h : Canon κ s) : Canon κ (s.hmArrive p) := by
  unfold State.hmArrive
  refine .ite h ?_
  split
  · exact .ite (.cache h) (.arrive (.cache h))
  · exact .cache h

theorem Canon.hmTest {p : Nat} (h : Canon κ s) : Canon κ (s.hmTest p) := .ite h (.ite (.hmArrive (.updPart h)) (.ite (.updPart h) h))

theorem Canon.setRisk {x : Nat} (h : Canon κ s) : Canon κ (s.setRisk x) := .foldl (.update h) fun _ _ h => .hmTest h

theorem Canon.riskEvent {k : Nat} (h : Canon κ s) : Canon κ (s.riskEvent k) := .setRisk h

theorem Canon.mismatch {p n : Nat} (h : Canon κ s) : Canon κ (s.mismatch p n) := .foldl h fun _ _ h => .riskEvent (.updPart (.update h))

theorem CanonOut.execHmEvent {kind : Nat} (h : Canon κ s) : CanonOut κ (execHmEvent kind s) := by
  unfold Machine.execHmEvent
  refine .next ?_
  split
  · exact .riskEvent (.update h)
  · exact .riskEvent (.update h)
  · exact .riskEvent (.update h)
  · exact h

/-! ### Machine/Lathe -/

theorem Canon.setLathe {x : Lathe} (h : Canon κ s) : Canon κ (s.setLathe x) := .update h

theorem Canon.latheGo {core l : Nat} (h : Canon κ s) : Canon κ (s.latheGo core l) := by
  unfold State.latheGo
  dsimp only
  split
  · exact h
  · exact .ite (.setLathe h) (.ite (.updOp h) h)

theorem Canon.latheRest {core l : Nat} (h : Canon κ s) : Canon κ (s.latheRest core l) := .ite (.setLathe h) h

theorem Canon.hint {core l n : Nat} (h : Canon κ s) : Canon κ (s.hint core l n) := by
  unfold State.hint
  refine .ite h ?_
  split
  · exact .ite (.setLathe h) (.setLathe h)
  · exact .latheGo (.setLathe h)
  · exact .setLathe h

theorem CanonOut.execLatheHintExpiry {core lathe : Nat} (h : Canon κ s) : CanonOut κ (execLatheHintExpiry core lathe s) := by
  unfold Machine.execLatheHintExpiry
  refine .next ?_
  split
  · exact h
  · exact .ite (.latheRest h) h

theorem CanonOut.execMhint {o : Op} (h : Canon κ s) : CanonOut κ (execMhint o s) :=
  .next (.checked h fun _ h => .advance (.foldl h fun _ _ h => .foldl h fun _ _ h => .hint h))

theorem Canon.acceptMma {c : Cap} (h : Canon κ s) : Canon κ (s.acceptMma c) := .latheGo (.addOp h)

theorem Canon.groupTouch {o : EOp} {d : MDesc} (h : Canon κ s) : Canon κ (s.groupTouch o d) := by
  unfold State.groupTouch
  extract_lets touch per s1
  have h1 : Canon κ s1 := .ite (.foldl h fun _ _ h => .foldl h fun _ _ h => .engineTouch h) h
  exact .ite (.foldl h1 fun _ _ h => .engineTouch h) h1

theorem Canon.setTile {w lathe tile : Nat} {es : List Word} (h : Canon κ s) : Canon κ (s.setTile w lathe tile es) := .updWg h fun _ hw => hw

theorem Canon.loseTile {w lathe tile : Nat} (h : Canon κ s) : Canon κ (s.loseTile w lathe tile) := .updWg h fun _ hw => hw

theorem Canon.putMma {o : EOp} {progress status : Nat} (h : Canon κ s) : Canon κ (s.putMma o progress status) := .opField (.opField h)

theorem Canon.mmaStep {o : EOp} {b : MBlock} (h : Canon κ s) : Canon κ (s.mmaStep o b) := by
  unfold State.mmaStep
  extract_lets core s0
  refine .ite (.kill h) ?_
  split
  · exact h
  · extract_lets outs st s1 s2
    have h0 : Canon κ s0 := .groupTouch (.groupTouch h)
    have h1 : Canon κ s1 := .ite (.loseTile h0) (.setTile h0)
    exact .ite (.latheRest (.latheGo (.engineArrive (.dropOp (.putMma h1))))) (.latheGo (.updOp h1))

theorem Canon.mmaStop {o : EOp} {b : MBlock} {f : Nat × Nat} (h : Canon κ s) : Canon κ (s.mmaStop o b f) := by
  unfold State.mmaStop
  extract_lets core s0 s1
  have h0 : Canon κ s0 := .groupTouch (.groupTouch h)
  have h1 : Canon κ s1 := .ite (.loseTile h0) (.ite (.setTile h0) h0)
  exact .latheRest (.latheGo (.stopOp (.putMma h1)))

theorem Canon.groupMismatch {o : EOp} {b : MBlock} (h : Canon κ s) : Canon κ (s.groupMismatch o b) :=
  .ite (.mmaStop (.mismatch h)) (.latheGo (.updOp (.mismatch h)))

theorem CanonOut.execLatheGroupDone {group : GroupEnd} (h : Canon κ s) : CanonOut κ (execLatheGroupDone group s) := by
  unfold Machine.execLatheGroupDone
  refine .next ?_
  split
  · exact .ite (.ite (.mmaStep h) (.groupMismatch h)) h
  · exact h

theorem Canon.acceptDrain {c : Cap} (h : Canon κ s) : Canon κ (s.acceptDrain c) := .addOp h

theorem Canon.drainLocal {o : EOp} {b : DBlock} {es : List Word} (h : Canon κ s) : Canon κ (s.drainLocal o b es) := .foldl h fun _ _ h => .opPut h

theorem Canon.drainGlobal {o : EOp} {b : DBlock} {es : List Word} {rows : List (List (Nat × Nat))} (h : Canon κ s) :
    Canon κ (s.drainGlobal o b es rows) :=
  .foldl h fun _ _ h => .storePieces h

theorem Canon.amaxFailed {o : EOp} {b : DBlock} (h : Canon κ s) : Canon κ (s.amaxFailed o b) := .addPending h

theorem Canon.amaxMerge {o : EOp} {b : DBlock} {m : List (Nat × Nat)} {x : Nat} (h : Canon κ s) : Canon κ (s.amaxMerge o b m x) := by
  unfold State.amaxMerge
  extract_lets chained
  refine .ite h (.ite (.update (.opPut h)) ?_)
  split
  · exact h
  · extract_lets s1 s2 s3
    have h3 : Canon κ s3 := .commitWg (.spoilReads (.update (.putAt (.ownDirty h))))
    exact .ite (.amaxFailed h) (.ite (.rdcPatch h3) h3)

theorem Canon.drainTouch {o : EOp} {b : DBlock} (h : Canon κ s) : Canon κ (s.drainTouch o b) := by
  unfold State.drainTouch
  extract_lets touch s1
  have h1 : Canon κ s1 := .ite (.foldl h fun _ _ h => .cacheRange h) h
  exact .ite (.cacheRange h1) h1

theorem Canon.drainStep {o : EOp} {b : DBlock} (h : Canon κ s) : Canon κ (s.drainStep o b) := by
  unfold State.drainStep
  extract_lets core
  refine .ite (.kill h) ?_
  split
  · exact h
  · extract_lets all s1 es s2 s3 s4
    have h1 : Canon κ s1 := .applyPieces (.drainTouch h)
    have h2 : Canon κ s2 := .ite (.commitWg (.drainGlobal h1)) (.drainLocal h1)
    exact .ite h1 (.latheRest (.latheGo (.engineArrive (.dropOp (.amaxMerge h2)))))

theorem CanonOut.execDrainTileEvent {op : Nat} (h : Canon κ s) : CanonOut κ (execDrainTileEvent op s) := by
  unfold Machine.execDrainTileEvent
  refine .next ?_
  split
  · exact .ite (.drainStep h) h
  · exact h

theorem Canon.engineStop {o : EOp} {f : Nat × Nat} (h : Canon κ s) : Canon κ (s.engineStop o f) := by
  unfold State.engineStop
  split
  · exact .mmaStop h
  · exact .latheRest (.latheGo (.stopOp (.drainTouch h)))
  · exact .gougeStop h

/-! ### Machine/Progress -/

theorem Canon.raiseGate {p : Nat} {a : Word} {g : Gate} (h : Canon κ s) : Canon κ (s.raiseGate p a g) := .ite h (.ite (.kill h) (.ite (.eventAt h) h))

theorem Canon.raiseGates {p : Nat} (h : Canon κ s) : Canon κ (s.raiseGates p) := .foldl h fun _ _ h => .raiseGate h

theorem Canon.gatesAfter {u : State} {p : Nat} (h : Canon κ u) : Canon κ (s.gatesAfter u p) := .ite h (.raiseGates h)

theorem Canon.settleGates {u : State} (h : Canon κ u) : Canon κ (s.settleGates u) := .foldl h fun _ _ h => .ite h (.gatesAfter h)

theorem Canon.announced {p rank : Nat} {step : Word} (h : Canon κ s) : Canon κ (s.announced p rank step) := .gatesAfter (.updPart h)

theorem Canon.rankTouch {p : Nat} (h : Canon κ s) : Canon κ (s.rankTouch p) := .ite (.recall h) h

theorem Canon.stepAdvLane {sp : Space} {x : State × List (Nat × Nat)} {r : LaneRef} (h : Canon κ x.1) : Canon κ (State.stepAdvLane sp x r).1 :=
  .raiseGate (.raceObj (.updPart (.announced (.update (.rankTouch h)))))

theorem CanonOut.execStepAdv {o : Op} {sp : Space} (h : Canon κ s) : CanonOut κ (execStepAdv o sp s) :=
  .next (.acting h fun _ h => .withObjs h fun _ _ h => .ite (.faultLanes h)
    (.unpoisoned h fun _ h => .containersApplied h fun _ h => .advance (.returnTo (.foldl_fst h fun _ _ h => .stepAdvLane h))))

theorem Canon.stepGetOp {o : Op} {caps : List Cap} {bad : Cap → Bool} {value : Cap → Nat} (h : Canon κ s) :
    Canon κ (s.stepGetOp o caps bad value) := by
  unfold State.stepGetOp
  refine .checked h fun _ h => ?_
  split
  · exact .faultLanes h
  · exact .advance (.writeLanes h)

/-! ### Machine/Spindle -/

theorem Canon.updSend {u : Nat} {f : Send → Send} (h : Canon κ s) : Canon κ (s.updSend u f) := .update h

theorem Canon.startSend {u : Nat} (h : Canon κ s) : Canon κ (s.startSend u) := by
  unfold State.startSend
  split
  · exact h
  · extract_lets w b c u1 s0
    refine .ite h ?_
    split
    · extract_lets bs s1
      have h1 : Canon κ s1 := .updSend (.commitWg (.cacheRange (.rankTouch (.ite (.engineTouch h) h))))
      exact .ite (.kill h) (.ite (.engineArrive (.update h1)) (.update h1))
    · exact h

theorem Canon.launchSend {p : Nat} {b : Issuer} {x : SendBlk} {armed : Option (Nat × Word)} {pubs : List Nat} {undef spoiled : Bool} (h : Canon κ s) :
    Canon κ (s.launchSend p b x armed pubs undef spoiled) :=
  .update h

theorem Canon.fire {p c : Nat} {brought : List Nat} (h : Canon κ s) : Canon κ (s.fire p c brought) := .foldl (.updPart h) fun _ _ h => .launchSend h

theorem Canon.setCtr {p c : Nat} {v : Word} (h : Canon κ s) : Canon κ (s.setCtr p c v) := .fire (.updPart h)

theorem Canon.bumpCtr {p c : Nat} {brought : List Nat} (h : Canon κ s) : Canon κ (s.bumpCtr p c brought) := by
  unfold State.bumpCtr
  refine .fire ?_
  split
  · exact .ite (.arrive (.updPart h)) (.updPart h)
  · exact .updPart h

theorem Canon.updRed {p : Nat} {redid : Word} {f : Reduction → Reduction} (h : Canon κ s) : Canon κ (s.updRed p redid f) := .update h

theorem Canon.noticed {n : Notice} (h : Canon κ s) : Canon κ (s.noticed n) := by
  unfold State.noticed
  split
  · exact .updRed h
  · exact .update h

theorem Canon.bindReduce {p : Nat} {b : BindBlk} (h : Canon κ s) : Canon κ (s.bindReduce p b) :=
  .ite (.update h) (.update (.foldl (.updRed (.ite h (.update h))) fun _ _ h => .updRed h))

theorem Canon.unbind {p hd : Nat} (h : Canon κ s) : Canon κ (s.unbind p hd) := by
  unfold State.unbind
  refine .updPart (.update ?_)
  split
  · exact .update h
  · exact h

theorem Canon.bindLane {b : BindBlk} {known : List Nat} (h : Canon κ s) : Canon κ (s.bindLane b known) :=
  .ite (.unbind h) (.ite (.updPart h) (.bindReduce (.updPart h)))

theorem Canon.bindTouch {c : Cap} (h : Canon κ s) : Canon κ (s.bindTouch c) := .ite (.cacheRange (.cacheRange (.cacheRange h))) h

theorem CanonOut.execCxBind {o : Op} (h : Canon κ s) : CanonOut κ (execCxBind o s) :=
  .next (.acting h fun _ h => .withBlocks h (fun _ h => .ite (.waitHere h) (.advance (.foldl h fun _ _ h => .bindLane h))) fun _ _ h => .bindTouch h)

theorem Canon.sendLane {c : Cap} (h : Canon κ s) : Canon κ (s.sendLane c) := .launchSend (.claimBlock h)

theorem CanonOut.execCxSend {o : Op} (h : Canon κ s) : CanonOut κ (execCxSend o s) :=
  .next (.acting h fun _ h => .withBlocks h (fun _ h => .advance (.foldl h fun _ _ h => .sendLane h)) fun _ _ h => h)

theorem Canon.armLane {c : Cap} (h : Canon κ s) : Canon κ (s.armLane c) := .ite (.launchSend (.claimBlock h)) (.update (.updPart (.claimBlock h)))

theorem CanonOut.execCxArm {o : Op} (h : Canon κ s) : CanonOut κ (execCxArm o s) :=
  .next (.acting h fun _ h => .withBlocks h (fun _ h => .advance (.foldl h fun _ _ h => .armLane h)) fun _ _ h => h)

theorem Canon.withCtrs {caps : List Cap} {k : State → State} (h : Canon κ s) (hk : ∀ s, Canon κ s → Canon κ (k s)) : Canon κ (s.withCtrs caps k) := by
  unfold State.withCtrs
  split
  · exact .faultLanes h
  · exact hk _ h

theorem CanonOut.execCxCtrGet {o : Op} (h : Canon κ s) : CanonOut κ (execCxCtrGet o s) :=
  .next (.acting h fun _ h => .withCtrs h fun _ h => .advance (.returnTo h))

theorem CanonOut.execCxCtrSet {o : Op} (h : Canon κ s) : CanonOut κ (execCxCtrSet o s) :=
  .next (.acting h fun _ h => .withCtrs h fun _ h => .advance (.foldl h fun _ _ h => .setCtr h))

theorem CanonOut.execCxCtrLink {o : Op} (h : Canon κ s) : CanonOut κ (execCxCtrLink o s) := by
  unfold Machine.execCxCtrLink
  refine .next (.acting h fun _ h => ?_)
  split
  · exact .faultLanes (.recallLanes h)
  · refine .advance (.foldl (.cacheLanes h) fun _ _ h => ?_)
    split
    · exact .updPart h
    · exact h

theorem CanonOut.execCxCtrUnlink {o : Op} (h : Canon κ s) : CanonOut κ (execCxCtrUnlink o s) :=
  .next (.acting h fun _ h => .withCtrs h fun _ h => .advance (.foldl h fun _ _ h => .updPart h))

theorem Canon.unitWrite {k : Nat} {bs : List Byte} {item : Nat} (h : Canon κ s) : Canon κ (s.unitWrite k bs item) := .spoilReads (.homeWrite h)

theorem CanonOut.execSendLanding {part ctr : Nat} {pieces : List (Nat × List (BitVec 8))} (h : Canon κ s) :
    CanonOut κ (execSendLanding part ctr pieces s) :=
  .next (.incoming h fun _ h => .ite (.bumpCtr (.foldl (.unitItem h) fun _ _ h => .unitWrite h)) h)

theorem Canon.putStatus {x : Send} {v : Nat} (h : Canon κ s) : Canon κ (s.putStatus x v) := .ite (.wildAt (.putField h)) (.putField h)

theorem CanonOut.execSendAck {id : Nat} {path : Bool} (h : Canon κ s) : CanonOut κ (execSendAck id path s) := by
  unfold Machine.execSendAck
  refine .next ?_
  split
  · exact h
  · exact .ite h (.ite (.putStatus (.update h)) (.update h))

theorem Canon.redLane {c : Cap} (h : Canon κ s) : Canon κ (s.redLane c) := .update (.claimBlock h)

theorem CanonOut.execCxRed {o : Op} (h : Canon κ s) : CanonOut κ (execCxRed o s) :=
  .next (.acting h fun _ h => .withBlocks h (fun _ h => .advance (.foldl h fun _ _ h => .redLane h)) fun _ _ h => h)

theorem Canon.judge {c : Contrib} {ok : Bool} (h : Canon κ s) : Canon κ (s.judge c ok) := .ite h (.updPart h)

theorem CanonOut.execContributionAdmission {id : Nat} (h : Canon κ s) : CanonOut κ (execContributionAdmission id s) := by
  unfold Machine.execContributionAdmission
  refine .next ?_
  split
  · exact h
  · extract_lets w n s0 _
    refine .ite h ?_
    split
    · exact h
    · extract_lets ws a s1 _ s2
      have h1 : Canon κ s1 := .update (.commitWg (.ite (.engineTouch h) h))
      have h2 : Canon κ s2 := .ite h1 (.update (.updPart (.judge h1)))
      exact .ite (.kill h) (.ite (.engineArrive h2) h2)

theorem Canon.contribStop {c : Contrib} (h : Canon κ s) : Canon κ (s.contribStop c) := by
  unfold State.contribStop
  refine .ite (.postEngine (.update h)) ?_
  split
  · exact .ite (.postEngine (.update (.judge (.engineTouch h)))) h
  · exact .ite h (.postEngine (.update (.judge h)))

theorem Canon.sendTouch {x : Send} (h : Canon κ s) : Canon κ (s.sendTouch x) := .ite (.engineTouch (.cacheRange h)) (.cacheRange h)

theorem Canon.sendStop {x : Send} (h : Canon κ s) : Canon κ (s.sendStop x) := by
  unfold State.sendStop
  split
  · exact .ite h (.postEngine (.putStatus (.update (.sendTouch h))))
  · exact h

theorem CanonOut.execEngineStop {op : Nat} (h : Canon κ s) : CanonOut κ (execEngineStop op s) := by
  unfold Machine.execEngineStop
  refine .next ?_
  split
  · refine .ite ?_ h
    split
    · exact .engineStop h
    · exact h
  · exact .sendStop h
  · exact .contribStop h
  · exact h

/-! ### Machine/Reduce -/

theorem Canon.closeStep {r : Reduction} (h : Canon κ s) : Canon κ (s.closeStep r) := by
  unfold State.closeStep
  refine .foldl (.updRed h) fun _ _ h => ?_
  split <;> exact .update h

theorem Canon.closeSteps {p : Nat} {redid : Word} {n : Nat} (h : Canon κ s) : Canon κ (s.closeSteps p redid n) := by
  induction n generalizing s with
  | zero => exact h
  | succ n ih =>
    unfold State.closeSteps
    split
    · exact h
    · exact .ite (ih (.closeStep h)) h

theorem Canon.expireTimers {p : Nat} {redid : Word} (h : Canon κ s) : Canon κ (s.expireTimers p redid) := by
  unfold State.expireTimers
  split
  · exact h
  · exact .ite (.closeSteps (.updRed h)) h

theorem CanonOut.execContributionArrival {a : Arrival} {s0 : State} (h : Canon κ s0) : CanonOut κ (execContributionArrival a s0) := by
  unfold Machine.execContributionArrival
  refine .next ?_
  dsimp only
  split
  · exact .expireTimers h
  · refine .ite (.expireTimers h) (.closeSteps (.updRed ?_))
    split
    · exact .update (.expireTimers h)
    · exact .expireTimers h

theorem Canon.installStep {die idx : Nat} {c : Word} {pubs : List Nat} (h : Canon κ s) : Canon κ (s.installStep die idx c pubs) :=
  .ite (.wake (.releaseStep (.setStep h))) h

theorem Canon.putResult {status : BitVec 128} {k : Nat} {bs : List Byte} {item : Nat} (h : Canon κ s) : Canon κ (s.putResult status k bs item) :=
  .ite (.wildMem (.unitWrite h)) (.unitWrite h)

theorem Canon.endResult {hd : Handle} {l : Landing} {dest resobj statrec : Nat} {ok : Bool} (h : Canon κ s) :
    Canon κ (s.endResult hd l dest resobj statrec ok) := by
  unfold State.endResult
  extract_lets r u fail home pubs s0 after sh s1
  have hf : ∀ s b, Canon κ s → Canon κ (fail s b) := fun _ _ h => .ite h (.updPart h)
  have h1 : Canon κ s1 := hf _ _ (.update (.updPart (.ite h (.foldl h fun _ _ h => .wildMem h))))
  have h2 : Canon κ s1.unitItem.1 := .unitItem h1
  clear_value s1
  generalize s1.unitItem = x at h2
  obtain ⟨t, item⟩ := x
  dsimp -zeta only at h2 ⊢
  extract_lets s2
  have h3 : Canon κ s2 := by
    unfold s2
    split
    · exact .unitWrite (.cacheRange h2)
    · exact hf _ _ h2
  clear_value s2
  split
  · exact .ite (hf _ _ h3) (.arrive (.cacheRange h3))
  · exact hf _ _ h3

theorem Canon.putLanding {l : Landing} (h : Canon κ s) : Canon κ (s.putLanding l) := .update h

theorem Canon.landEnd {hd : Handle} {l : Landing} {k : Nat} {vers : Option Nat} {bs : List Byte} (h : Canon κ s) :
    Canon κ (s.landEnd hd l k vers bs) := by
  unfold State.landEnd
  refine .putLanding ?_
  split
  · exact .installStep (.putResult (.unitItem h))
  · exact .putResult (.unitItem h)

theorem Canon.landStep {hd : Handle} {l : Landing} {dest resobj statrec : Nat} (h : Canon κ s) : Canon κ (s.landStep hd l dest resobj statrec) := by
  unfold State.landStep
  dsimp only
  split
  · exact .endResult h
  · split
    · exact .landEnd h
    · exact .endResult h
    · exact .ite (.putLanding (.cacheRange h)) (.ite h (.putLanding (.putResult (.unitItem (.cacheRange h)))))

theorem CanonOut.execResultDelivery {r : ResultMsg} (h : Canon κ s) : CanonOut κ (execResultDelivery r s) := by
  unfold Machine.execResultDelivery
  refine .next ?_
  split
  · exact h
  · split
    · split <;> exact .ite (.landStep h) h
    · exact h

/-! ### Machine/Launch -/

theorem Canon.headTouch {p a n : Nat} (h : Canon κ s) : Canon κ (s.headTouch p a n) := .ite h (.engineTouch h)

theorem Canon.constTouch {p : Nat} {l : Launch} (h : Canon κ s) : Canon κ (s.constTouch p l) := .headTouch h

theorem Canon.entryTouch {p : Nat} {l : Launch} (h : Canon κ s) : Canon κ (s.entryTouch p l) := .foldl h fun _ _ h => .headTouch h

theorem Canon.recTouch {p x : Nat} (h : Canon κ s) : Canon κ (s.recTouch p x) := .ite (.entryTouch h) h

theorem Canon.graphTouch {p base : Nat} (h : Canon κ s) : Canon κ (s.graphTouch p base) := by
  unfold State.graphTouch
  split
  · exact .headTouch h
  · exact .ite (.headTouch h) (.ite (.headTouch h) (.foldl (.headTouch h) fun _ _ h => .recTouch h))

/-! ### Machine/Kick -/

theorem Canon.updSlot {p i : Nat} {f : GSlot → GSlot} (h : Canon κ s) : Canon κ (s.updSlot p i f) := .updPart h

theorem Canon.slotError {p i code node : Nat} (h : Canon κ s) : Canon κ (s.slotError p i code node) := .updSlot h

theorem Canon.gloadWrite {p v : Nat} (h : Canon κ s) : Canon κ (s.gloadWrite p v) := by
  unfold State.gloadWrite
  dsimp only
  split
  · exact .slotError h
  · refine .ite (.updSlot h) ?_
    split
    · exact .updSlot (.graphTouch h)
    · exact .slotError (.updSlot (.graphTouch h))

theorem Canon.gloadBegin {vf v : Nat} (h : Canon κ s) : Canon κ (s.gloadBegin vf v) := by
  unfold State.gloadBegin
  split
  · exact .ite (.update (.updSlot h)) h
  · exact h

theorem Canon.gloadBy {vf v : Nat} (h : Canon κ s) : Canon κ (s.gloadBy vf v) := by
  unfold State.gloadBy
  dsimp only
  split
  · exact .gloadWrite (.update h)
  · split
    · exact .gloadWrite h
    · exact h

theorem Canon.enterKick {p slot prio : Nat} {g : List GNode} {images : List (List Word)} (h : Canon κ s) :
    Canon κ (s.enterKick p slot prio g images) :=
  .startKick (.updateBound (.update h))

theorem Canon.patchTouch {p ptab : Nat} (h : Canon κ s) : Canon κ (s.patchTouch p ptab) := by
  unfold State.patchTouch
  refine .ite h ?_
  split <;> exact .headTouch h

theorem Canon.constsTouch {p : Nat} {l : List GNode} (h : Canon κ s) : Canon κ (s.constsTouch p l) := by
  induction l generalizing s with
  | nil => exact h
  | cons x l ih =>
    unfold State.constsTouch
    split
    · exact .constTouch h
    · exact ih (.constTouch h)

theorem Canon.kickTouch {p ptab : Nat} {x : GSlot} (h : Canon κ s) : Canon κ (s.kickTouch p ptab x) := by
  unfold State.kickTouch
  dsimp only
  split
  · exact .patchTouch h
  · split
    · exact .constsTouch (.patchTouch h)
    · exact .ite (.rankTouch (.constsTouch (.patchTouch h))) (.constsTouch (.patchTouch h))

theorem Canon.kickWrite {p v : Nat} (h : Canon κ s) : Canon κ (s.kickWrite p v) := by
  unfold State.kickWrite
  refine .ite (.slotError h) (.ite (.slotError h) (.ite (.slotError h) ?_))
  split
  · exact .slotError (.kickTouch h)
  · split
    · exact .slotError (.kickTouch h)
    · exact .ite (.slotError (.kickTouch h)) (.enterKick (.kickTouch h))

theorem Canon.kickBy {vf v : Nat} (h : Canon κ s) : Canon κ (s.kickBy vf v) := by
  unfold State.kickBy
  split
  · exact h
  · exact .ite (.kickWrite h) (.updPart h)

theorem Canon.forkTouch {b : ForkBlk} (h : Canon κ s) : Canon κ (s.forkTouch b) := by
  unfold State.forkTouch
  extract_lets p s1
  split
  · exact .headTouch h
  · extract_lets s2
    have h2 : Canon κ s2 := .recTouch (.headTouch h)
    split
    · exact h2
    · extract_lets s3
      have h3 : Canon κ s3 := .ite (.rankTouch h2) h2
      exact .ite h3 (.constTouch h3)

theorem Canon.joinTouch {c : Cap} (h : Canon κ s) : Canon κ (s.joinTouch c) := .ite (.cache h) h

theorem Canon.forkLane {x : State × List Nat} {c : Cap} (h : Canon κ x.1) : Canon κ (State.forkLane x c).1 := by
  unfold State.forkLane
  refine .ite_fst h ?_
  split
  · exact .updateBound (.commitWg (.update (.forkTouch h)))
  · exact h

theorem CanonOut.execFork {o : Op} (h : Canon κ s) : CanonOut κ (execFork o s) := by
  unfold Machine.execFork
  refine .next (.acting h fun _ h => ?_)
  refine .withBlocks h (fun _ h => ?_) (fun _ _ h => .joinTouch h)
  refine .releasingObj h fun _ h => ?_
  split
  · exact .faultLanes (.foldl h fun _ _ h => .forkTouch h)
  · exact .advance (.updIssue (.foldl_fst h fun _ _ h => .forkLane h))

/-! ### Machine/System -/

theorem Canon.namesRisk {n lane : Nat} (h : Canon κ s) : Canon κ (s.namesRisk n lane) := .ite (.updPart h) h

theorem Canon.csrLane {n : Nat} {op : CsrOp} {x : State × List (Nat × Nat)} {c : Cap} (h : Canon κ x.1) : Canon κ (State.csrLane n op x c).1 :=
  .namesRisk (.csrWrite h)

theorem Canon.csrOp {o : Op} {n : Nat} {op : CsrOp} (h : Canon κ s) : Canon κ (s.csrOp o n op) :=
  .checked h fun _ h => .advance (.returnTo (.foldl_fst h fun _ _ h => .csrLane h))

theorem CanonOut.execRqWr {o : Op} (h : Canon κ s) : CanonOut κ (execRqWr o s) :=
  .next (.checked h fun _ h => .advance (.foldl h fun _ _ h => .updGang h))

theorem Canon.discard {w : Nat} {e : Entry} (h : Canon κ s) : Canon κ (s.discard w e) := by
  unfold State.discard
  split
  · exact h
  · exact .updWg h fun _ hw => hw
  · exact .update h

theorem Canon.returnTrap {w g : Nat} (h : Canon κ s) : Canon κ (s.returnTrap w g) :=
  .dropLatches (.updGang (.foldl (.updThreads h) fun _ _ h => .discard h))

theorem Canon.iretOp {g : Guard} {kill : Bool} (h : Canon κ s) : Canon κ (s.iretOp g kill) :=
  .checked h fun _ h => .ite (.ite (.kill (.updIssue h)) (.returnTrap (.updIssue h))) (.settle (.updIssue h))

theorem Canon.shootdown {caps : List Cap} {range : Cap → Nat × Nat} (h : Canon κ s) : Canon κ (s.shootdown caps range) :=
  .checked h fun _ h => .releasingObj h fun _ h => .ite (.advance h) (.settle (.updIssue (.foldl h fun _ _ h => .update h)))

theorem Canon.shootStores {r : Shootdown} (h : Canon κ s) : Canon κ (s.shootStores r) := .foldl h fun _ _ h => .ite h (.sbApplyList h)

theorem CanonOut.execShootdownComplete {id : Nat} (h : Canon κ s) : CanonOut κ (execShootdownComplete id s) := by
  unfold Machine.execShootdownComplete
  refine .next ?_
  split
  · exact h
  · exact .ite h (.ite (.shootStores h) (.afterIssue (.settle (.updThreads (.update (.shootStores h))))))

/-! ### Machine/Place -/

theorem Canon.initWalk {p size k a : Nat} (h : Canon κ s) : Canon κ (State.initWalk p size k a s) := by
  induction k generalizing s a with
  | zero => exact h
  | succ k ih =>
    unfold State.initWalk
    dsimp only
    split
    · exact .headTouch h
    · refine .ite (.headTouch h) ?_
      split
      · exact .headTouch (.headTouch h)
      · exact ih (.headTouch (.headTouch h))

theorem Canon.initTouch {p : Nat} {l : Launch} (h : Canon κ s) : Canon κ (s.initTouch p l) := .ite h (.initWalk h)

theorem Memory.wf_newWg {l : Launch} {image : List Word} {table : List (Nat × List Byte)} {c : Cluster} {uid rank : Nat} {plan : CorePlan}
    {now : Nat} : Memory.wf (newWg l image table c uid rank plan now).ls = true :=
  List.foldlRecOn (motive := fun m => Memory.wf m = true) table _ rfl fun _ hm _ _ => Memory.wf_setBytes hm

theorem Canon.createCluster {c : Cluster} {table : List (Nat × List Byte)} {plans : List CorePlan} (h : Canon κ s) :
    Canon κ (s.createCluster c table plans) := by
  refine h.of id id fun hw w hm => ?_
  rcases List.mem_append.1 hm with hm | hm
  · exact hw w hm
  · obtain ⟨_, _, rfl⟩ := List.mem_map.1 hm
    exact Memory.wf_newWg

theorem Canon.returnWg {w : Wg} {plan : CorePlan} (h : Canon κ s) : Canon κ (s.returnWg w plan) := h.of id id (.updWhere fun _ hw => hw)

theorem Canon.scramble {w : Nat} (h : Canon κ s) : Canon κ (s.scramble w) := h.of id id (.updWhere fun _ hw => hw)

theorem Canon.resumeWg {w : Nat} (h : Canon κ s) : Canon κ (s.resumeWg w) :=
  .foldl (.foldl (.testAgain h) fun _ _ h => .resolveSync (.settle h)) fun _ _ h => .latheGo h

theorem Canon.returnCluster {c : Cluster} {plans : List CorePlan} (h : Canon κ s) : Canon κ (s.returnCluster c plans) :=
  .foldl (.foldl (.foldl h fun _ _ h => .scramble h) fun _ _ h => .returnWg h) fun _ _ h => .resumeWg h

theorem Canon.dispatch {n : Node} (h : Canon κ s) : Canon κ (s.dispatch n).1 := .update h

theorem Canon.placeCluster {c : Cluster} {plans : List CorePlan} (h : Canon κ s) : Canon κ (s.placeCluster c plans) := by
  unfold State.placeCluster
  refine .ite (.returnCluster (.updCluster h)) ?_
  dsimp only
  split
  · exact .createCluster (.initTouch (.updCluster h))
  · exact .failNode (.recordError h)

theorem CanonOut.execYieldThreshold {wg : Nat} (h : Canon κ s) : CanonOut κ (execYieldThreshold wg s) := by
  unfold Machine.execYieldThreshold
  refine .next ?_
  dsimp only
  split
  · exact .ite (.updWg h fun _ hw => hw) h
  · exact h

theorem CanonOut.execClusterPlace {part : Nat} (h : Canon κ s) : CanonOut κ (execClusterPlace part s) := by
  unfold Machine.execClusterPlace
  refine .next (.ite h ?_)
  split
  · exact h
  · exact .placeCluster h
  · exact .placeCluster (.dispatch h)

theorem Canon.putPieces {l : List (Nat × Nat)} {off : Nat} {bs : List Byte} (h : Canon κ s) : Canon κ (s.putPieces l off bs) := .writePieces h

theorem Canon.putImage {l : List (Nat × Nat)} {off : Nat} {x : Image} (h : Canon κ s) : Canon κ (s.putImage l off x) :=
  .foldl (.foldl h fun _ _ h => .putPieces h) fun _ _ h => .foldl h fun _ _ h => .elim h fun _ => .wildMem h

theorem Canon.putImages {l : List (Nat × Nat)} {off : Nat} {xs : List Image} (h : Canon κ s) : Canon κ (s.putImages l off xs) := by
  induction xs generalizing s off with
  | nil => exact h
  | cons x xs ih => exact ih (.putImage h)

theorem Canon.writeHeader {w : Wg} {area : Nat} (h : Canon κ s) : Canon κ (s.writeHeader w area) := by
  unfold State.writeHeader
  dsimp only
  split
  · exact h
  · exact .update (.foldl (.putImages (.foldl (.headTouch h) fun _ _ h => .wildMem (.recall h))) fun _ _ h => .putPieces h)

theorem Canon.rdcLeave {die p : Nat} (h : Canon κ s) : Canon κ (s.rdcLeave die p) := .ite (.rdcWriteBack h) (.update (.rdcWriteBack h))

theorem Canon.saveWg {w area : Nat} (h : Canon κ s) : Canon κ (s.saveWg w area) := by
  unfold State.saveWg
  extract_lets core s1 s2 stay seen s3 hb s4
  have h3 : Canon κ s3 := .writeHeader (.foldl (.rdcLeave (.commit h)) fun _ _ h => .dropLatches h)
  clear_value s3
  have h4 : Canon κ s4 := h3.of id id (.updWhere fun _ hw => hw)
  exact .foldl h4 fun _ _ h => .latheRest (.latheGo h)

theorem Canon.switchOut {c : Cluster} {areas : List Nat} {gave : Option (Queued × Nat)} (h : Canon κ s) : Canon κ (s.switchOut c areas gave) :=
  .coresFreed (.update (.updCluster (.foldl h fun _ _ h => .saveWg h)))

theorem CanonOut.execClusterSwitchOut {cluster : Nat} (h : Canon κ s) : CanonOut κ (execClusterSwitchOut cluster s) := by
  unfold Machine.execClusterSwitchOut
  refine .next ?_
  dsimp only
  split
  · exact .ite (.switchOut h) h
  · exact h

theorem CanonOut.execAgingPromotion {q : Queued} (h : Canon κ s) : CanonOut κ (execAgingPromotion q s) := by
  unfold Machine.execAgingPromotion
  refine .next ?_
  split
  · exact .ite (.updCluster h) h
  · exact .ite (.updNode h) h

theorem Canon.nodeRetired {n : Node} (h : Canon κ s) : Canon κ (s.nodeRetired n) := by
  unfold State.nodeRetired
  refine .ite (.ite (.endKicks (.updateBound h)) h) (.ite (.endKicks (.updateBound (.settleNode (.wakeNodes h)))) ?_)
  refine .updateBound (.update ?_)
  split
  · exact .settleNode (.ite (.arrive h) h)
  · exact .settleNode h

theorem Canon.clusterRetired {c : Cluster} (h : Canon κ s) : Canon κ (s.clusterRetired c) :=
  .coresFreed (.nodeRetired (.updNode (.updCluster (.dropCluster h))))

theorem CanonOut.execWorkgroupRetire {wg : Nat} (h : Canon κ s) : CanonOut κ (execWorkgroupRetire wg s) :=
  .next (.ite h (.ite (.ite (.clusterRetired (.updWg (.commit h) fun _ hw => hw)) (.updWg (.commit h) fun _ hw => hw)) (.commit h)))

theorem CanonOut.execDeterministicEarlyFree {cluster : Nat} (h : Canon κ s) : CanonOut κ (execDeterministicEarlyFree cluster s) :=
  .next (.ite (.coresFreed (.updCluster (h.of id id (.updWhere fun _ _ => rfl)))) h)

theorem Canon.vacateWrite {p v : Nat} (h : Canon κ s) : Canon κ (s.vacateWrite p v) := .coresFreed (.updPart (.update h))

theorem Canon.vacateBy {vf v : Nat} (h : Canon κ s) : Canon κ (s.vacateBy vf v) := by
  unfold State.vacateBy
  split
  · exact .vacateWrite h
  · exact h

/-! ### Machine/Partition -/

theorem Canon.pcmd {part cmd : Nat} {k : State → State} (h : Canon κ s) (hk : ∀ s, Canon κ s → Canon κ (k s)) : Canon κ (s.pcmd part cmd k) :=
  .ite h (.ite (.update h) (.ite (.pcmdEnd (.update h)) (hk _ (.update h))))

theorem Canon.dropTlb {p : Nat} (h : Canon κ s) : Canon κ (s.dropTlb p) := .update h

theorem Canon.createPart {part : Nat} (h : Canon κ s) : Canon κ (s.createPart part) :=
  .ite (.pcmdEnd h) (.ite (.pcmdEnd h) (.ite (.pcmdEnd h) (.pcmdEnd (.dropTlb (.update (.updPart h))))))

theorem Canon.startPart {part : Nat} (h : Canon κ s) : Canon κ (s.startPart part) :=
  .ite (.pcmdEnd h) (.ite (.pcmdEnd h) (.ite (.pcmdEnd h) (.pcmdEnd (.updPart h))))

theorem Canon.stopPart {part : Nat} (h : Canon κ s) : Canon κ (s.stopPart part) := .ite (.pcmdEnd h) (.updPart h)

theorem CanonOut.execStopComplete {part : Nat} (h : Canon κ s) : CanonOut κ (execStopComplete part s) :=
  .next (.ite (.ite (.pcmdEnd (.dropTlb (.updPart h))) (.dropTlb (.updPart h))) h)

theorem Canon.dropWork {p : Nat} (h : Canon κ s) : Canon κ (s.dropWork p) := h.of id id .filter

theorem Canon.scrubGranule {p who g : Nat} (h : Canon κ s) : Canon κ (s.scrubGranule p who g) := .updPart (.update h)

theorem Canon.resetPart {p : Nat} (h : Canon κ s) : Canon κ (s.resetPart p) :=
  .dropTlb (.updPart (.foldl (.update (.foldl (.rdcWriteBack (.dropWork h)) fun _ _ h => .unbind h)) fun _ _ h => .scrubGranule h))

theorem Canon.resetCmd {part : Nat} (h : Canon κ s) : Canon κ (s.resetCmd part) := .ite (.pcmdEnd h) (.resetPart h)

theorem Canon.resizePart {part : Nat} (h : Canon κ s) : Canon κ (s.resizePart part) :=
  .ite (.pcmdEnd h) (.ite (.pcmdEnd h) (.ite (.pcmdEnd h) (.coresFreed (.updPart h))))

theorem Canon.command {part x : Nat} (h : Canon κ s) : Canon κ (s.command part x) := by
  unfold State.command
  split
  · exact .createPart h
  · exact .startPart h
  · exact .stopPart h
  · exact .resetCmd h
  · exact .resizePart h
  · exact .pcmdEnd h

theorem Canon.gmapWrite {granule value : Nat} (h : Canon κ s) : Canon κ (s.gmapWrite granule value) :=
  .ite h (.ite (.scrubGranule h) (.ite (.scrubGranule h) h))

theorem CanonOut.execGranuleScrubDone {granule : Nat} (h : Canon κ s) : CanonOut κ (execGranuleScrubDone granule s) := by
  refine .next ?_
  split
  · exact h
  · exact h.of (Memory.wf_filter _) id id

theorem Canon.vfCsr {vf n : Nat} {x : Word} (h : Canon κ s) : Canon κ (s.vfCsr vf n x) := by
  unfold State.vfCsr
  split
  · exact .ite h (.csrWrite h)
  · exact h

theorem Canon.gstatWrite {vf i : Nat} {x : Word} (h : Canon κ s) : Canon κ (s.gstatWrite vf i x) := by
  unfold State.gstatWrite
  split
  · exact .ite (.updSlot h) h
  · exact h

theorem Canon.pfWrite {off size x : Nat} (h : Canon κ s) : Canon κ (s.pfWrite off size x) :=
  .ite (.pcmd h fun _ h => .command h) (.ite (.updPart h)
    (.ite (.foldl h fun _ _ h => .gmapWrite (.gmapWrite h)) (.ite (.ite h (.update h)) (.ite (.update h) h))))

theorem Canon.pageWrite {vf off size x : Nat} (h : Canon κ s) : Canon κ (s.pageWrite vf off size x) :=
  .ite (.kickBy h) (.ite (.gloadBy h) (.ite (.vacateBy h) (.ite (.gstatWrite h) h)))

theorem CanonOut.execRegisterWrite {w : RegWrite} (h : Canon κ s) : CanonOut κ (execRegisterWrite w s) := by
  unfold Machine.execRegisterWrite
  refine .next (.ite h ?_)
  split
  · exact .ite (.pfWrite h) h
  · exact .ite (.vfCsr h) (.ite (.pageWrite h) h)

theorem Canon.registerRead {vf : Option Nat} {bar off size : Nat} (h : Canon κ s) : Canon κ (s.registerRead vf bar off size) := .ite h (.update h)

theorem Canon.byAdmin {vf : Nat} {k : Nat → State} (h : Canon κ s) (hk : ∀ x, Canon κ (k x)) : Canon κ (s.byAdmin vf k) := by
  unfold State.byAdmin
  split
  · exact hk _
  · exact h

theorem Canon.apErr {p : Nat} (h : Canon κ s) : Canon κ (s.apErr p) := .updPart h

theorem CanonOut.execApertureWrite {vf off : Nat} {bytes : List (BitVec 8)} (h : Canon κ s) : CanonOut κ (execApertureWrite vf off bytes s) := by
  unfold Machine.execApertureWrite
  refine .next ?_
  split
  · exact h
  · split
    · exact .outerWrite h
    · exact .apErr h

theorem CanonOut.execApertureRead {vf off len : Nat} (h : Canon κ s) : CanonOut κ (execApertureRead vf off len s) := by
  unfold Machine.execApertureRead
  refine .next ?_
  split
  · exact .update h
  · split
    · exact .update (.recall h)
    · exact .update (.apErr h)

theorem CanonOut.execFabricRequest {req : FabricReq} (h : Canon κ s) : CanonOut κ (execFabricRequest req s) :=
  .next (.ite (.update h) (.ite (.update (.recall h)) (.update (.outerWrite h))))

theorem Canon.useHot {w : Nat} (h : Canon κ s) : Canon κ (s.useHot w) := .update h

theorem Canon.peerRmw {a n x : Nat} (h : Canon κ s) : Canon κ (s.peerRmw a n x) := .update (.spoilReads (.writeMem (.noteItem h)))

theorem CanonOut.execPeerAtomic {req : PeerAtomicReq} (h : Canon κ s) : CanonOut κ (execPeerAtomic req s) :=
  .next (.ite (.update h) (.update (.ite (.useHot h) (.peerRmw (.useHot h)))))

theorem CanonOut.execStoreBufferApply {wg idx : Nat} (h : Canon κ s) : CanonOut κ (execStoreBufferApply wg idx s) := by
  unfold Machine.execStoreBufferApply
  refine .next ?_
  dsimp only
  split
  · exact h
  · exact .ite h (.ite (.sbFault h) (.sbApply h))

theorem CanonOut.execRdcLineEvict {die : Nat} {line : PartLine} {ok : Bool} (h : Canon κ s) : CanonOut κ (execRdcLineEvict die line ok s) := by
  unfold Machine.execRdcLineEvict
  refine .next ?_
  split
  · exact h
  · exact .rdcEvict h

/-! ### Machine/Keep -/

theorem Canon.keepTouch {must : Bool} {c : Cap} (h : Canon κ s) : Canon κ (State.keepTouch must s c) := .ite h (.cacheRange h)

theorem Canon.declLane {must : Bool} {x : State × List KeepOut × List (Nat × Nat × DWord)} {c : Cap} (h : Canon κ x.1) :
    Canon κ (State.declLane must x c).1 := by
  unfold State.declLane
  refine .ite_fst h ?_
  split
  · exact h
  · exact .cacheRange (.updPart h)

theorem Canon.dropLane {x : State × List KeepOut} {c : Cap} (h : Canon κ x.1) : Canon κ (State.dropLane x c).1 := by
  unfold State.dropLane
  dsimp only
  split
  · exact h
  · exact .updPart h

theorem Canon.keepTo {o : Op} {outs : List KeepOut} (h : Canon κ s) : Canon κ (s.keepTo o outs) := .updIssue h

theorem Canon.keepDecl {o : Op} {must : Bool} (h : Canon κ s) : Canon κ (s.keepDecl o must) := by
  unfold State.keepDecl
  refine .checked h fun _ h => ?_
  dsimp only
  split
  · exact .faultLanes (.foldl h fun _ _ h => .keepTouch h)
  · exact .advance (.keepTo (.foldl_fst h fun _ _ h => .declLane h))

theorem CanonOut.execKeepDeclDrop {o : Op} (h : Canon κ s) : CanonOut κ (execKeepDeclDrop o s) :=
  .next (.checked h fun _ h => .advance (.keepTo (.foldl_fst h fun _ _ h => .dropLane h)))

theorem Canon.keepLoadLane {c : Cap} (h : Canon κ s) : Canon κ (s.keepLoadLane c) := by
  unfold State.keepLoadLane
  split
  · exact h
  · split
    · exact .commitWg (.foldl (.writePieces (.cacheRange (.hbAdd h))) fun _ _ h => .spoil (.wildObjs h))
    · exact h

theorem Canon.keepLoadTouch {c : Cap} (h : Canon κ s) : Canon κ (s.keepLoadTouch c) := by
  unfold State.keepLoadTouch
  split
  · exact h
  · exact .cacheRange h

theorem CanonOut.execKeepQryLd {o : Op} (h : Canon κ s) : CanonOut κ (execKeepQryLd o s) := by
  unfold Machine.execKeepQryLd
  refine .next (.checked h fun _ h => ?_)
  dsimp only
  split
  · exact .faultLanes (.foldl h fun _ _ h => .keepLoadTouch h)
  · exact .releasingObj h fun _ h => .advance (.keepTo (.foldl h fun _ _ h => .keepLoadLane h))

/-! ### Machine/Seal -/

theorem Canon.setCounter {lin : BitVec 128} {hash : BitVec 256} {c : DWord} (h : Canon κ s) : Canon κ (s.setCounter lin hash c) :=
  .ite (.update h) (.ite (.update h) h)

theorem Canon.putCounter {j : SealJob} {c : DWord} (h : Canon κ s) : Canon κ (s.putCounter j c) := .spoilBlocks (.lsWrite h)

theorem Canon.sealFinish {j : SealJob} {result : Nat} {c : Option DWord} (h : Canon κ s) : Canon κ (s.sealFinish j result c) := by
  unfold State.sealFinish
  extract_lets w spoiled pubs s1 s2 s3 s4
  have h2 : Canon κ s2 := by
    unfold s2
    split
    · exact .putCounter (.update h)
    · exact .update h
  have h3 : Canon κ s3 := .putField (.putField h2)
  exact .engineArrive (.ite (.wildAt h3) h3)

theorem Canon.sealWrite {j : SealJob} {a : Nat} {bs : List Byte} (h : Canon κ s) (ht : s.sealWrite j a bs = some t) : Canon κ t := by
  unfold State.sealWrite at ht
  split at ht
  · cases ht
    exact .update (.storePieces (.unitItem h))
  · cases ht

theorem Canon.sealAt {j : SealJob} {a n : Nat} (h : Canon κ s) : Canon κ (s.sealAt j a n) := .engineTouch h

theorem Canon.sealTouch {j : SealJob} {n : Nat} (h : Canon κ s) : Canon κ (s.sealTouch j n) := .engineTouch (.engineTouch h)

theorem Canon.sealDone {j : SealJob} (h : Canon κ s) : Canon κ (s.sealDone j) := by
  unfold State.sealDone
  dsimp only
  split
  · exact .sealFinish (.sealAt h)
  · next ht => exact .sealFinish (.gatesAfter (.updPart (.sealWrite (.sealAt h) ht)))

theorem Canon.sealSign {j : SealJob} {front : List Byte} {c : DWord} {peers : List Nat} (h : Canon κ s) : Canon κ (s.sealSign j front c peers) := by
  have h1 : Canon κ ({ s.putCounter j c with xidx := s.xidx + 1 }.sealAt j ((sealOf j.block).dst + 256) 2820) := .sealAt (.update (.putCounter h))
  unfold State.sealSign
  dsimp only
  split
  · exact .sealFinish h1
  · next ht => exact .ite (.sealDone (.update (h1.sealWrite ht))) (.update (h1.sealWrite ht))

theorem Canon.sealImg {j : SealJob} (h : Canon κ s) : Canon κ (s.sealImg j) := by
  unfold State.sealImg
  dsimp only
  split
  · exact .sealFinish h
  · refine .ite (.sealFinish h) (.ite (.sealFinish h) (.ite (.sealFinish (.setCounter h)) ?_))
    split
    · exact .sealFinish (.setCounter (.setCounter h))
    · split
      · exact .sealFinish (.sealAt (.setCounter (.setCounter h)))
      · next ht => exact .sealSign (.sealWrite (.sealAt (.setCounter (.setCounter h))) ht)

theorem Canon.sealMeas {j : SealJob} (h : Canon κ s) : Canon κ (s.sealMeas j) := by
  unfold State.sealMeas
  dsimp only
  split
  · exact .sealFinish h
  · exact .sealFinish (.updPart h)

theorem Canon.attest {j : SealJob} {peers : List Nat} {lin : BitVec 128} {c : DWord} (h : Canon κ s) : Canon κ (s.attest j peers lin c) :=
  .ite h (.update h)

theorem Canon.sealRestore {j : SealJob} {lin : BitVec 128} {c : DWord} {hash : BitVec 256} {content : List Byte} (h : Canon κ s) :
    Canon κ (s.sealRestore j lin c hash content) := by
  unfold State.sealRestore
  dsimp only
  split
  · exact .sealFinish (.sealAt h)
  · next ht =>
    have h1 := (Canon.sealAt h).sealWrite ht
    refine .ite (.sealFinish h1) ?_
    split
    · exact .sealFinish (.setCounter h1)
    · exact .sealFinish (.attest (.setCounter h1))

theorem Canon.sealRst {j : SealJob} (h : Canon κ s) : Canon κ (s.sealRst j) := by
  unfold State.sealRst
  dsimp only
  split
  · exact .sealFinish h
  · refine .ite (.sealFinish h) (.ite (.sealFinish h) (.ite (.sealFinish h) (.ite (.sealFinish h) ?_)))
    split
    · exact .sealFinish h
    · exact .ite (.sealFinish h) (.sealRestore h)

theorem Canon.sealLane {op : Nat} {x : State × List Nat} {c : Cap} (h : Canon κ x.1) : Canon κ (State.sealLane op x c).1 :=
  .ite_fst h (.ite (.sealImg (.sealTouch (.update (.claimBlock h)))) (.update (.claimBlock h)))

theorem Canon.sealOp {o : Op} {op : Nat} (h : Canon κ s) : Canon κ (s.sealOp o op) :=
  .acting h fun _ h => .ite (.kill h) (.advance (.updIssue (.foldl_fst h fun _ _ h => .sealLane h)))

theorem CanonOut.execSealEngineDone {job : Nat} (h : Canon κ s) : CanonOut κ (execSealEngineDone job s) := by
  unfold Machine.execSealEngineDone
  refine .next ?_
  split
  · exact h
  · exact .ite (.sealMeas (.sealTouch h)) (.ite (.sealRst (.sealTouch h)) h)

theorem Canon.sealIncoming {k : State → State} (h : Canon κ s) (hk : ∀ s, Canon κ s → Canon κ (k s)) : Canon κ (s.sealIncoming k) :=
  .ite (.incoming h fun _ h => hk _ h) h

theorem CanonOut.execSealAckReceived {job dev : Nat} {counter : BitVec 64} {ack : Bool} (h : Canon κ s) :
    CanonOut κ (execSealAckReceived job dev counter ack s) := by
  unfold Machine.execSealAckReceived
  refine .next (.sealIncoming h fun _ h => ?_)
  split
  · exact h
  · exact .ite h (.ite (.ite (.sealDone (.update h)) (.update h)) (.ite (.sealFinish (.setCounter h)) h))

theorem CanonOut.execSealTmoExpiry {job : Nat} (h : Canon κ s) : CanonOut κ (execSealTmoExpiry job s) := by
  unfold Machine.execSealTmoExpiry
  refine .next ?_
  split
  · exact h
  · exact .ite (.sealFinish h) h

theorem CanonOut.execSealPeerRequest {dev : Nat} {lin : BitVec 128} {c : BitVec 64} (h : Canon κ s) : CanonOut κ (execSealPeerRequest dev lin c s) :=
  .next (.sealIncoming h fun _ h => .update (.ite (.setCounter h) h))

/-! ### Machine/Holdup -/

theorem Canon.dark (h : Canon κ s) : Canon κ s.dark := h.of (Memory.wf_filter _) id fun _ => List.forall_mem_nil _

theorem Canon.trigger (h : Canon κ s) : Canon κ s.trigger := by
  unfold State.trigger
  split
  · exact .update h
  · exact .dark h
  · exact .dark h
  · exact h

theorem Canon.flushWg {w : Nat} (h : Canon κ s) : Canon κ (s.flushWg w) := .foldl h fun _ _ h => .ite h (.sbApply h)

theorem Canon.finishPiece {l : Landing} (h : Canon κ s) : Canon κ (s.finishPiece l) := by
  unfold State.finishPiece
  split
  · split
    · split
      · exact .landEnd h
      · exact h
    · exact h
  · exact h

theorem Canon.quiesce (h : Canon κ s) : Canon κ s.quiesce :=
  .of (.foldl (.foldl h fun _ _ h => .flushWg h) fun _ _ h => .finishPiece h) id id fun _ => List.forall_mem_nil _

theorem Canon.unitUp {u : Nat} (h : Canon κ s) : Canon κ (s.unitUp u) :=
  .ite (.update (.update h)) (.ite (.update (.update h)) (.ite (.update (.update h)) (.update h)))

theorem CanonOut.execUnitReady (h : Canon κ s) : CanonOut κ (execUnitReady s) := by
  unfold Machine.execUnitReady
  refine .next (.ite h ?_)
  split
  · exact .ite h (.unitUp h)
  · exact h

/-! ### Machine/Issue -/

theorem Canon.deliverPending {w g : Nat} (h : Canon κ s) : Canon κ (s.deliverPending w g) := by
  unfold State.deliverPending
  dsimp only
  split
  · exact h
  · exact .takeTrap (.updGang h)

theorem Canon.trapBefore {cause : Nat} {addr : DWord} {word : Option Nat} (h : Canon κ s) : Canon κ (s.trapBefore cause addr word) := .takeTrap h

theorem Canon.touchLine (h : Canon κ s) : Canon κ s.touchLine := .textTouch h

theorem Canon.enterLine {l : Line} (h : Canon κ s) : Canon κ (s.enterLine l) := .cache (.updGang (.updIssue h))

theorem CanonOut.execLineEntry {wg gang lane : Nat} (h : Canon κ s) : CanonOut κ (execLineEntry wg gang lane s) := by
  unfold Machine.execLineEntry
  refine .next ?_
  split
  · exact h
  · refine .ite h ?_
    split
    · exact .trapBefore (.touchLine (.update h))
    · exact .enterLine (.touchLine (.update h))

theorem CanonOut.execBreakpoint {wg gang lane : Nat} (h : Canon κ s) : CanonOut κ (execBreakpoint wg gang lane s) := by
  unfold Machine.execBreakpoint
  refine .next ?_
  split
  · exact h
  · dsimp only
    split
    · exact .ite (.trapOut (.update h)) h
    · exact h

theorem Canon.widen {l : Line} (h : Canon κ s) : Canon κ (s.widen l) := .update h

theorem Canon.runAhead {l : Line} {f : Fetched} {n : Nat} (h : Canon κ s) : Canon κ (s.runAhead l f n) := by
  unfold State.runAhead
  split
  · exact h
  · exact .ite h (.update h)

theorem Canon.takeSlice (h : Canon κ s) : Canon κ s.takeSlice := .mismatch (.updWg (.updSlice (.ownSlice h)) fun _ hw => hw)

theorem Canon.leaveMcas (h : Canon κ s) : Canon κ s.leaveMcas := .ite h (.updGang h)

theorem Canon.begin {l : Line} {f : Fetched} {ahead : Nat} (h : Canon κ s) : Canon κ (s.begin l f ahead) :=
  .takeSlice (.runAhead (.leaveMcas (.update h)))

theorem Canon.countIssue {w g : Nat} {pc : DWord} (h : Canon κ s) : Canon κ (s.countIssue w g pc) := .ite h (.updGang h)

theorem Canon.storeAgain {w : Nat} {e : Entry} {u : Nat} (h : Canon κ s) : Canon κ (s.storeAgain w e u) := by
  unfold State.storeAgain
  split
  · dsimp only
    split
    · exact .updWg (.cache h) fun _ hw => hw
    · exact .updWg h fun _ hw => hw
    · exact .sbTrap (.updWg (.recallLanes h) fun _ hw => hw)
  · exact h

theorem CanonPrep.decodeIssue {l : Line} {ahead : Nat} (h : Canon κ s) : CanonPrep κ (s.decodeIssue l ahead) := by
  unfold State.decodeIssue
  split
  · exact .done (.trapBefore h)
  · refine .ite (.done (.trapBefore h)) ?_
    dsimp only
    split
    · exact .done (.trapOut (.ite (.widen h) h))
    · exact .run (.begin (.ite (.widen h) h))

theorem CanonPrep.issueThreads {w g : Nat} {asked : List Nat} {mism ahead : Nat} (h : Canon κ s) :
    CanonPrep κ (s.issueThreads w g asked mism ahead) := by
  unfold State.issueThreads
  dsimp only
  split
  · exact .done h
  · refine .ite (.done (.trapBefore (.update (.countIssue h)))) ?_
    split
    · exact .decodeIssue (.update (.countIssue h))
    · split
      · exact .done (.trapBefore (.touchLine (.update (.countIssue h))))
      · exact .decodeIssue (.enterLine (.touchLine (.update (.countIssue h))))

theorem CanonPrep.reinjectOne {w g : Nat} {e : Entry} {rest : List Entry} {mism : Nat} (h : Canon κ s) :
    CanonPrep κ (s.reinjectOne w g e rest mism) := by
  unfold State.reinjectOne
  dsimp only
  split
  · exact .done (.takeTrap (.updGang (.discard (.update (.updGang h)))))
  · split
    · exact .done (.storeAgain (.update (.updGang h)))
    · exact .run (.takeSlice (.update (.updGang h)))

theorem CanonPrep.issueGang {w g : Nat} {lanes : List Nat} {mism ahead : Nat} (h : Canon κ s) : CanonPrep κ (s.issueGang w g lanes mism ahead) := by
  unfold State.issueGang
  refine .ite (.done h) (.ite (.done (.deliverPending h)) ?_)
  split
  · exact .reinjectOne h
  · exact .issueThreads h

/-! ### Machine/Time -/

theorem Canon.markIdle (h : Canon κ s) : Canon κ s.markIdle := by
  refine h.of id id (.map fun w hw => ?_)
  split <;> exact hw

theorem Canon.holdupTime {us : Nat} (h : Canon κ s) : Canon κ (s.holdupTime us) := by
  unfold State.holdupTime
  split
  · exact .update h
  · exact h

theorem Canon.elapse {s0 : State} {slice spindle head sealer mon us : Nat} (h : Canon κ s0) : Canon κ (s0.elapse slice spindle head sealer mon us) :=
  .holdupTime (.update (.markIdle h))

theorem Canon.driftBy {unit n : Nat} (h : Canon κ s) : Canon κ (s.driftBy unit n) := .update h

theorem Canon.evict {unit va : Nat} (h : Canon κ s) : Canon κ (s.evict unit va) := .update h

theorem Canon.hostWrites {a : Nat} {bs : List Byte} (h : Canon κ s) : Canon κ (s.hostWrites a bs) :=
  h.of (Canon.noteItem (κ := .package)) Memory.wf_setBytes (Canon.noteItem (κ := .locals))

theorem Canon.peerWrites {k : Nat} {bs : List Byte} (h : Canon κ s) : Canon κ (s.peerWrites k bs) := .ite (.outerWrite h) h

theorem Canon.poisonLs {w word : Nat} (h : Canon κ s) : Canon κ (s.poisonLs w word) := .updWg h fun _ hw => by split <;> exact hw

theorem Canon.poisonMem {pa : Nat} (h : Canon κ s) : Canon κ (s.poisonMem pa) := .ite h (.update h)

theorem Canon.loseBlock {core block : Nat} (h : Canon κ s) : Canon κ (s.loseBlock core block) := .ite h (.update h)

theorem Canon.advanceStep {die idx : Nat} {step : Word} (h : Canon κ s) : Canon κ (s.advanceStep die idx step) := .installStep h

theorem Canon.makeVersioned {die idx : Nat} {step : Word} (h : Canon κ s) : Canon κ (s.makeVersioned die idx step) := .wake (.setStep h)

theorem Canon.outside {x : Action} (h : Canon κ s) : Canon κ (s.outside x) := by
  unfold State.outside
  split
  · exact h
  · exact h
  · exact .elapse h
  · exact .driftBy h
  · exact .evict h
  · exact .hostWrites h
  · exact .peerWrites h
  · exact .poisonLs h
  · exact .poisonMem h
  · exact .loseBlock h
  · exact .advanceStep h
  · exact .makeVersioned h
  · exact .update h
  · exact .startSend h
  · exact .gloadBegin h
  · exact .registerRead h
  · exact .update h
  · exact .update h
  · exact .update h

/-! ### Machine/Dispatch -/

theorem CanonOut.exec {i : Instr} (h : Canon κ s) : CanonOut κ (exec i s) := by
  unfold Machine.exec
  cases i with
  | nop => exact .next (.advance h)
  | br => exact .execBr h
  | brpAny => exact .next (.cross h)
  | brpAll => exact .next (.cross h)
  | call => exact .execCall h
  | ret => exact .execRet h
  | exit => exact .next (.checked h fun _ h => .leaving h)
  | meet => exact .execMeet h
  | meetClr => exact .execMeetClr h
  | yield => exact .execYield h
  | trap => exact .execTrap h
  | pand => exact .next (.predAlu h)
  | por => exact .next (.predAlu h)
  | pxor => exact .next (.predAlu h)
  | pandn => exact .next (.predAlu h)
  | pnot => exact .next (.predAlu h)
  | pmov => exact .next (.predAlu h)
  | ppack => exact .next (.aluBy h)
  | punpack => exact .next (.aluBy h)
  | pcnt => exact .next (.aluBy h)
  | add => exact .next (.addSub h)
  | sub => exact .next (.addSub h)
  | mul => exact .next (.intAlu h)
  | mulh => exact .next (.intAlu h)
  | mad => exact .next (.intAlu h)
  | madh => exact .next (.intAlu h)
  | min => exact .next (.intAlu h)
  | max => exact .next (.intAlu h)
  | abs => exact .next (.intAlu h)
  | neg => exact .next (.intAlu h)
  | and => exact .next (.alu3 h)
  | or => exact .next (.alu3 h)
  | xor => exact .next (.alu3 h)
  | andn => exact .next (.alu3 h)
  | not => exact .next (.alu3 h)
  | shl => exact .next (.shiftAlu h)
  | shr => exact .next (.shiftAlu h)
  | rol => exact .next (.shiftAlu h)
  | ror => exact .next (.shiftAlu h)
  | fshR => exact .next (.alu h)
  | fshL => exact .next (.alu h)
  | popc => exact .next (.alu3 h)
  | clz => exact .next (.alu3 h)
  | brev => exact .next (.alu3 h)
  | fxt => exact .next (.shiftAlu h)
  | fins => exact .next (.alu h)
  | bsel => exact .next (.alu3 h)
  | cmp => exact .next (.alu h)
  | sel => exact .next (.alu h)
  | mov => exact .next (.alu3 h)
  | lea => exact .next (.alu h)
  | sreg => exact .next (.aluBy h)
  | gmov => exact .execGmov h
  | gld => exact .execGld h
  | fadd => exact .next (.floatAlu h)
  | fsub => exact .next (.floatAlu h)
  | fmul => exact .next (.floatAlu h)
  | ffma => exact .next (.floatAlu h)
  | fmin => exact .next (.floatAlu h)
  | fmax => exact .next (.floatAlu h)
  | fminnum => exact .next (.floatAlu h)
  | fmaxnum => exact .next (.floatAlu h)
  | fabs => exact .next (.floatAlu h)
  | fneg => exact .next (.floatAlu h)
  | fcmp => exact .next (.alu h)
  | fclassV => exact .next (.floatAlu h)
  | fclassP => exact .next (.alu h)
  | rcp => exact .next (.special h)
  | sqrt => exact .next (.special h)
  | rsq => exact .next (.special h)
  | exp2 => exact .next (.special h)
  | log2 => exact .next (.special h)
  | sin => exact .next (.special h)
  | cos => exact .next (.special h)
  | cvt => exact .next (.alu h)
  | xperm => exact .next (.crossTy h)
  | xbc => exact .next (.crossTy h)
  | xbcFirst => exact .next (.crossTy h)
  | xred => exact .next (.crossTy h)
  | xscan => exact .next (.crossTy h)
  | xvoteAny => exact .next (.crossPred h)
  | xvoteAll => exact .next (.crossPred h)
  | xvoteBallot => exact .next (.crossPred h)
  | xmatch => exact .next (.crossTy h)
  | rngNext => exact .next (.aluBy h)
  | rngJump => exact .next (.aluBy h)
  | ldg => exact .next (.loadOp h)
  | stg => exact .next (.storeOp h)
  | atg => exact .next (.atomicOp h)
  | ldl => exact .next (.loadOp h)
  | stl => exact .next (.storeOp h)
  | atl => exact .next (.atomicOp h)
  | ldn => exact .next (.loadOp h)
  | stn => exact .next (.storeOp h)
  | atn => exact .next (.atomicOp h)
  | ldh => exact .next (.loadOp h)
  | sth => exact .next (.storeOp h)
  | ath => exact .next (.atomicOp h)
  | ldv => exact .next (.loadOp h)
  | mcas => exact .execMcas h
  | fence => exact .execFence h
  | phi => exact .execPhi h
  | arv => exact .next (.arriveOp h)
  | arvb => exact .next (.arriveOp h)
  | wph => exact .execWph h
  | wphTry => exact .execWphTry h
  | cbget => exact .execCbget h
  | cbput => exact .execCbput h
  | vpub => exact .execVpub h
  | publish => exact .execPublish h
  | publishWriteout => exact .execPublishWriteout h
  | gcp => exact .next (.engineOp h fun _ _ h => .acceptGouge h)
  | gst => exact .next (.engineOp h fun _ _ h => .acceptGouge h)
  | gpl => exact .next (.engineOp h fun _ _ h => .acceptGouge h)
  | ofence => exact .next (.checked h fun _ h => .advance (.update h))
  | mma => exact .next (.engineOp h fun _ _ h => .acceptMma h)
  | mhint => exact .execMhint h
  | drain => exact .next (.engineOp h fun _ _ h => .acceptDrain h)
  | cxBind => exact .execCxBind h
  | cxSend => exact .execCxSend h
  | cxArm => exact .execCxArm h
  | cxCtrGet => exact .execCxCtrGet h
  | cxCtrSet => exact .execCxCtrSet h
  | cxCtrLink => exact .execCxCtrLink h
  | cxCtrUnlink => exact .execCxCtrUnlink h
  | cxRed => exact .execCxRed h
  | stepAdv => exact .execStepAdv h
  | stepGet => exact .next (.stepGetOp h)
  | stepGetLim => exact .next (.stepGetOp h)
  | fork => exact .execFork h
  | keepDeclMust => exact .next (.keepDecl h)
  | keepDeclBest => exact .next (.keepDecl h)
  | keepDeclDrop => exact .execKeepDeclDrop h
  | keepQryUse => exact .next (.alu h)
  | keepQryRec => exact .next (.alu h)
  | keepQryLd => exact .execKeepQryLd h
  | csrr => exact .next (.aluBy h)
  | csrw => exact .next (.csrOp h)
  | csrwSet => exact .next (.csrOp h)
  | csrwClr => exact .next (.csrOp h)
  | iret => exact .next (.iretOp h)
  | iretKill => exact .next (.iretOp h)
  | rqRd => exact .next (.alu h)
  | rqWr => exact .execRqWr h
  | tlbsdAll => exact .next (.shootdown h)
  | tlbsdVa => exact .next (.shootdown h)
  | shootdownComplete => exact .execShootdownComplete h
  | sealMeas => exact .next (.sealOp h)
  | sealImg => exact .next (.sealOp h)
  | sealRst => exact .next (.sealOp h)
  | hmRd => exact .next (.alu h)
  | nopCompact => exact .next (.advance h)
  | addCompact => exact .next (.intAlu h)
  | subCompact => exact .next (.intAlu h)
  | minCompact => exact .next (.intAlu h)
  | maxCompact => exact .next (.intAlu h)
  | absCompact => exact .next (.intAlu h)
  | negCompact => exact .next (.intAlu h)
  | mulCompact => exact .next (.intAlu h)
  | madCompact => exact .next (.intAlu h)
  | andCompact => exact .next (.alu3 h)
  | orCompact => exact .next (.alu3 h)
  | xorCompact => exact .next (.alu3 h)
  | andnCompact => exact .next (.alu3 h)
  | notCompact => exact .next (.alu3 h)
  | shlCompact => exact .next (.shiftAlu h)
  | shrCompact => exact .next (.shiftAlu h)
  | movCompact => exact .next (.alu3 h)
  | faddCompact => exact .next (.floatAlu h)
  | fsubCompact => exact .next (.floatAlu h)
  | fmulCompact => exact .next (.floatAlu h)
  | ffmaCompact => exact .next (.floatAlu h)
  | fminCompact => exact .next (.floatAlu h)
  | fmaxCompact => exact .next (.floatAlu h)
  | fminnumCompact => exact .next (.floatAlu h)
  | fmaxnumCompact => exact .next (.floatAlu h)
  | fabsCompact => exact .next (.floatAlu h)
  | fnegCompact => exact .next (.floatAlu h)
  | lineEntry => exact .execLineEntry h
  | breakpoint => exact .execBreakpoint h
  | trapEntry => exact .next (.ite (.deliverPending h) h)
  | loadReturn => exact .execLoadReturn h
  | storeBufferApply => exact .execStoreBufferApply h
  | rdcLineEvict => exact .execRdcLineEvict h
  | fabricRequest => exact .execFabricRequest h
  | peerAtomic => exact .execPeerAtomic h
  | yieldThreshold => exact .execYieldThreshold h
  | clusterSwitchOut => exact .execClusterSwitchOut h
  | clusterPlace => exact .execClusterPlace h
  | agingPromotion => exact .execAgingPromotion h
  | workgroupRetire => exact .execWorkgroupRetire h
  | deterministicEarlyFree => exact .execDeterministicEarlyFree h
  | cbufProducerClaim => exact .execCbufProducerClaim h
  | gougeRowDone => exact .execGougeRowDone h
  | gstRowDone => exact .execGstRowDone h
  | gplPlaneDone => exact .execGplPlaneDone h
  | engineStop => exact .execEngineStop h
  | latheRampUpEnd => exact .next (.ite (.latheRest (.latheGo (.setLathe h))) h)
  | latheGroupDone => exact .execLatheGroupDone h
  | latheRampDownEnd => exact .next (.ite (.latheGo (.setLathe h)) h)
  | latheHintExpiry => exact .execLatheHintExpiry h
  | drainTileEvent => exact .execDrainTileEvent h
  | bindingNoticeArrival => exact .next (.incoming h fun _ h => .noticed h)
  | contributionAdmission => exact .execContributionAdmission h
  | contributionArrival => exact .execContributionArrival h
  | reductionTimerExpiry => exact .next (.expireTimers h)
  | resultDelivery => exact .execResultDelivery h
  | chunkAck => exact .next (.update (.updSend h))
  | linkFailure => exact .next (.update h)
  | sendLanding => exact .execSendLanding h
  | sendAck => exact .execSendAck h
  | announcementReceived => exact .next (.incoming h fun _ h => .ite (.announced h) h)
  | quietExpiry => exact .next (.ite (.gatesAfter (.updPart h)) h)
  | pcmdCreate => exact .next (.pcmd h fun _ h => .createPart h)
  | pcmdStart => exact .next (.pcmd h fun _ h => .startPart h)
  | pcmdStop => exact .next (.pcmd h fun _ h => .stopPart h)
  | stopComplete => exact .execStopComplete h
  | pcmdReset => exact .next (.pcmd h fun _ h => .resetCmd h)
  | resetComplete => exact .next (.ite (.ite (.pcmdEnd (.updPart h)) (.updPart h)) h)
  | pcmdResize => exact .next (.pcmd h fun _ h => .resizePart h)
  | gmapWrite => exact .next (.gmapWrite h)
  | granuleScrubDone => exact .execGranuleScrubDone h
  | registerWrite => exact .execRegisterWrite h
  | tgCsrWrite => exact .next (.ite (.vfCsr h) h)
  | hostWindowOpen => exact .next (.byAdmin h fun _ => .ite (.openWindow h) h)
  | hostWindowClose => exact .next (.byAdmin h fun _ => .ite (.closeWindow h) h)
  | kick => exact .next (.kickBy h)
  | gload => exact .next (.gloadBy h)
  | gloadUnload => exact .next (.gloadBy h)
  | vacate => exact .next (.vacateBy h)
  | apertureWrite => exact .execApertureWrite h
  | apertureRead => exact .execApertureRead h
  | supplyUndervoltage => exact .next (.trigger (.update h))
  | thermalTrip => exact .next (.trigger h)
  | reserveFault => exact .next (.ite (.trigger h) h)
  | reserveCharged => exact .next (.ite (.update h) h)
  | quiesceComplete => exact .next (.ite (.update (.quiesce h)) h)
  | guaranteedSaveComplete => exact .next (.ite (.update h) h)
  | bestEffortEnd => exact .next (.ite (.update h) h)
  | restartRecordsComplete => exact .next (.ite (.dark (.update h)) h)
  | hmEvent => exact .execHmEvent h
  | hmDecay => exact .next (.ite (.setRisk (.update h)) h)
  | hmTempSample => exact .next (.ite h (.ite (.riskEvent (.update h)) (.update h)))
  | sealPeerRequest => exact .execSealPeerRequest h
  | sealAckReceived => exact .execSealAckReceived h
  | sealTmoExpiry => exact .execSealTmoExpiry h
  | sealAttestationReceived => exact .next (.sealIncoming h fun _ h => .ite (.setCounter h) h)
  | powerUp => exact .next (.ite (.update (.dark h)) h)
  | unitReady => exact .execUnitReady h
  | pcieCompletionTimeout => exact .execPcieCompletionTimeout h
  | sealEngineDone => exact .execSealEngineDone h

/-! ### Machine/Fair -/

theorem Canon.tickOn (h : Canon κ s) : Canon κ s.tickOn := by
  unfold State.tickOn
  dsimp only
  split
  · exact .update h
  · split <;> exact .update (.update h)

/-! ### Machine/Step -/

theorem CanonOut.go {w g : Nat} {p : Prep} (h : CanonPrep κ p) : CanonOut κ (p.go w g) := by
  cases p with
  | done s => exact .next (.afterIssue h)
  | run i s => exact .afterNext (.exec h) fun _ h => .afterIssue h

theorem CanonOut.act {a : Action} (h : Canon κ s) : CanonOut κ (s.act a) := by
  unfold State.act
  split
  · exact .go (.issueGang h)
  · exact .ite (.exec h) (.next h)
  · exact .next (.outside h)

theorem CanonOut.step (h : Canon κ s) : CanonOut κ (step s) := .afterNext (.act (.tickOn h)) fun _ h => .settleGates h

end Sys2Proof.Machine
end

section
namespace Sys2Proof

open Machine Safety

/-- Settles O15: a step of the machine keeps package memory and host memory in canonical form, whatever its action (`CanonOut.step`). -/
theorem memoriesCanonical : Obligations.MemoriesCanonical :=
  ⟨fun _ t h ht => CanonOut.step (κ := .package) h t ht, fun _ t h ht => CanonOut.step (κ := .host) h t ht⟩

/-- Settles O16: the same of every local store. -/
theorem localStoresCanonical : Obligations.LocalStoresCanonical := fun _ t h ht => CanonOut.step (κ := .locals) h t ht

/-- Settles O14. -/
theorem resetMemOk : Obligations.ResetMemOk := ⟨Canon.reset (κ := .package), Canon.reset (κ := .host), Canon.reset (κ := .locals)⟩

end Sys2Proof
end

section
/-! SUPPORT. What memories and store buffers read: numbers and their bytes, bytes read after a write, memories told apart by what they
read, and the newest buffered byte. -/

namespace Sys2Proof

/-! ### Byte order (00 R4) -/

@[simp] theorem length_toBytesLE (x n : Nat) : (toBytesLE x n).length = n := by
  induction n generalizing x with
  | zero => rfl
  | succ n ih => simp [toBytesLE, ih]

theorem ofBytesLE_toBytesLE (x n : Nat) : ofBytesLE (toBytesLE x n) = x % 256 ^ n := by
  induction n generalizing x with
  | zero => simp [toBytesLE, ofBytesLE, Nat.mod_one]
  | succ n ih => simp [toBytesLE, ofBytesLE, ih, Nat.pow_succ', Nat.mod_mul]

namespace Machine

open Host (Cell)

/-! ### Reads after writes -/

theorem getElem?_getBytes (m : List Cell) (x n i : Nat) : (getBytes m x n)[i]? = if i < n then some (getByte m (x + i)) else none := by
  induction n generalizing x i with
  | zero => simp [getBytes]
  | succ n ih =>
    cases i with
    | zero => simp [getBytes]
    | succ i => simp [getBytes, ih, Nat.add_assoc, Nat.add_comm 1]

theorem Memory.getBytes_setBytes {m : List Cell} (hm : Memory.wf m = true) (a : Nat) (bs : List Byte) :
    getBytes (setBytes m a bs) a bs.length = bs := by
  refine List.ext_getElem? fun i => ?_
  rw [getElem?_getBytes]
  split
  · next hi => simp [Memory.getByte_setBytes _ hm, hi]
  · next hi => rw [List.getElem?_eq_none (by omega)]

theorem Memory.getByte_setBytes_outside {m : List Cell} (hm : Memory.wf m = true) {a x : Nat} {bs : List Byte} (hx : x < a ∨ a + bs.length ≤ x) :
    getByte (setBytes m a bs) x = getByte m x := by
  rw [Memory.getByte_setBytes _ hm, if_neg (by omega)]

theorem Memory.getNum_setNum {m : List Cell} (hm : Memory.wf m = true) (a n v : Nat) : getNum (setNum m a n v) a n = v % 256 ^ n := by
  have h := Memory.getBytes_setBytes hm a (toBytesLE v n)
  rw [length_toBytesLE] at h
  rw [getNum, setNum, h, ofBytesLE_toBytesLE]

/-! ### Memories are what they read -/

theorem Memory.wfFrom_cons {lo a : Nat} {b : Byte} {m : List Cell} :
    Memory.wfFrom lo ((a, b) :: m) = true ↔ lo ≤ a ∧ b ≠ emptyByte ∧ Memory.wfFrom (a + 1) m = true := by
  simp [Memory.wfFrom, and_assoc]

theorem getByte_cons_self (a : Nat) (b : Byte) (m : List Cell) : getByte ((a, b) :: m) a = b := by simp [getByte]

theorem getByte_cons_of_ne {a x : Nat} (b : Byte) (m : List Cell) (h : a ≠ x) : getByte ((a, b) :: m) x = getByte m x := by simp [getByte, h]

/-- The first cell of a memory in canonical form is told from what the memory reads: no other list that begins later reads the same there. -/
theorem Memory.head_le {lo a a' : Nat} {b b' : Byte} {m m' : List Cell} (h : Memory.wfFrom lo ((a, b) :: m) = true)
    (h' : Memory.wfFrom lo ((a', b') :: m') = true) (hr : ∀ x, getByte ((a, b) :: m) x = getByte ((a', b') :: m') x) : a' ≤ a := by
  by_contra hlt
  obtain ⟨-, hb, -⟩ := Memory.wfFrom_cons.1 h
  obtain ⟨-, hb', hm'⟩ := Memory.wfFrom_cons.1 h'
  have hbelow : Memory.wfFrom a' ((a', b') :: m') = true := Memory.wfFrom_cons.2 ⟨le_rfl, hb', hm'⟩
  have := hr a
  rw [getByte_cons_self, Memory.getByte_below hbelow (by omega)] at this
  exact hb this

theorem Memory.wfFrom_ext {lo : Nat} {m m' : List Cell} (h : Memory.wfFrom lo m = true) (h' : Memory.wfFrom lo m' = true)
    (hr : ∀ x, getByte m x = getByte m' x) : m = m' := by
  induction m generalizing lo m' with
  | nil =>
    cases m' with
    | nil => rfl
    | cons c m' =>
      obtain ⟨a, b⟩ := c
      have := hr a
      rw [getByte_cons_self] at this
      exact absurd this.symm (Memory.wfFrom_cons.1 h').2.1
  | cons c m ih =>
    obtain ⟨a, b⟩ := c
    cases m' with
    | nil =>
      have := hr a
      rw [getByte_cons_self] at this
      exact absurd this (Memory.wfFrom_cons.1 h).2.1
    | cons c' m' =>
      obtain ⟨a', b'⟩ := c'
      obtain rfl : a = a' := le_antisymm (Memory.head_le h' h fun x => (hr x).symm) (Memory.head_le h h' hr)
      obtain ⟨-, -, hm⟩ := Memory.wfFrom_cons.1 h
      obtain ⟨-, -, hm'⟩ := Memory.wfFrom_cons.1 h'
      obtain rfl : b = b' := by simpa [getByte_cons_self] using hr a
      refine congrArg _ (ih hm hm' fun x => ?_)
      by_cases hx : a = x
      · subst hx
        rw [Memory.getByte_below hm (by omega), Memory.getByte_below hm' (by omega)]
      · simpa [getByte_cons_of_ne _ _ hx] using hr x

/-! ### The store buffer (04 R125) -/

theorem SbEntry.touches_mem {e : SbEntry} {a x : Nat} (he : e.dest = .mem a) :
    e.touches (.mem x) 1 = true ↔ a ≤ x ∧ x < a + e.bytes.length := by
  simp only [SbEntry.touches, he, overlap, Bool.and_eq_true, decide_eq_true_eq]
  omega

/-- The newest entry that holds a byte gives it. -/
theorem sbByte_of_find {sb : List SbEntry} {e : SbEntry} {a x : Nat}
    (h : (sb.reverse.find? fun e => e.touches (.mem x) 1) = some e) (he : e.dest = .mem a) :
    sbByte sb (.mem x) = some ((e.bytes[x - a]?).getD 0) := by
  have ht : e.touches (.mem x) 1 = true := by simpa using List.find?_some h
  obtain ⟨hlo, hhi⟩ := (SbEntry.touches_mem he).1 ht
  have hx : x - a < e.bytes.length := by omega
  simp [sbByte, h, he, hx]

theorem sbByte_of_untouched {sb : List SbEntry} {d : Dest} (h : ∀ e ∈ sb, e.touches d 1 = false) : sbByte sb d = none := by
  have : (sb.reverse.find? fun e => e.touches d 1) = none := by simpa using h
  simp [sbByte, this]

/-- Entries just put in are newest. -/
theorem sbByte_append {sb es : List SbEntry} {d : Dest} (h : ∃ e ∈ es, e.touches d 1 = true) : sbByte (sb ++ es) d = sbByte es d := by
  have hs : (es.reverse.find? fun e => e.touches d 1).isSome := by simpa using h
  obtain ⟨e, he⟩ := Option.isSome_iff_exists.1 hs
  simp [sbByte, List.find?_append, he]

theorem State.getElem?_readThrough (s : State) {w k n i : Nat} (hi : i < n) :
    (s.readThrough w k n)[i]? =
      some ((sbByte (s.wg w).sb (.mem (k + i))).getD (((s.readKey ((s.wg w).core / 16) (s.partOf w) k n)[i]?).getD 0)) := by
  simp only [State.readThrough, List.getElem?_map, List.getElem?_range hi, Option.map_some]
  cases sbByte (s.wg w).sb (.mem (k + i)) <;> rfl

end Machine

open Machine

/-- Settles O17: the laws of `setBytes` and `setNum`, extensionality by the first cells, and `readThrough` through `sbByte`. -/
theorem memoryReadWrite : Obligations.MemoryReadWrite := by
  refine ⟨⟨fun m a bs hm => ?_, fun m a n v hm => Memory.getNum_setNum hm a n v, fun m m' hm hm' hr => Memory.wfFrom_ext hm hm' hr⟩,
    fun s w k n i e a hi hf he => ?_, fun s w k n i hi hu => ?_, fun sb es d h => sbByte_append h⟩
  · exact ⟨Memory.wf_setBytes hm, Memory.getBytes_setBytes hm a bs, fun x hx => Memory.getByte_setBytes_outside hm hx⟩
  · rw [State.getElem?_readThrough s hi, sbByte_of_find hf he, Option.getD_some]
  · rw [State.getElem?_readThrough s hi, sbByte_of_untouched hu, Option.getD_none]

end Sys2Proof
end

section
/-! SUPPORT. What the registers of a thread read after a write: predicates, vector registers, and both destinations of an operation. -/

namespace Sys2Proof

namespace Machine

/-! ### Predicates (01 R28) -/

theorem getLsbD_ofNat_two_pow {n m : Nat} (hm : m < 96) : (BitVec.ofNat 96 (2 ^ n)).getLsbD m = decide (m = n) := by
  simp only [BitVec.getLsbD_ofNat, hm, decide_true, Bool.true_and, Nat.testBit_two_pow, eq_comm]

theorem getLsbD_setBit96 (p : BitVec 96) (n : Nat) (b : Bool) {m : Nat} (hm : m < 96) : (setBit96 p n b).getLsbD m = if m = n then b else p.getLsbD m := by
  have hn := getLsbD_ofNat_two_pow (n := n) hm
  unfold setBit96
  cases b
  · simp only [Bool.false_eq_true, if_false, BitVec.getLsbD_and, BitVec.getLsbD_not, hm, hn]
    by_cases h : m = n <;> simp [h]
  · simp only [if_true, BitVec.getLsbD_or, hn]
    by_cases h : m = n <;> simp [h]

@[simp] theorem Thread.pred_zero (t : Thread) : t.pred 0 = true := rfl

@[simp] theorem Thread.setPred_zero (t : Thread) (b : Bool) : t.setPred 0 b = t := rfl

theorem Thread.pred_setPred (t : Thread) {n m : Nat} (b : Bool) (hn : n ≠ 0) (hm : m ≤ 95) : (t.setPred n b).pred m = if m = n then b else t.pred m := by
  have hm' : m < 96 := by omega
  simp only [Thread.pred, Thread.setPred, beq_iff_eq, hn, if_false, getLsbD_setBit96 _ _ _ hm']
  by_cases h : m = n
  · simp [h, hn]
  · simp [h]

theorem Thread.pred_setPred_ne (t : Thread) {n m : Nat} (b : Bool) (h : m ≠ n) (hm : m ≤ 95) : (t.setPred n b).pred m = t.pred m := by
  by_cases hn : n = 0
  · rw [hn, Thread.setPred_zero]
  · rw [Thread.pred_setPred t b hn hm, if_neg h]

@[simp] theorem Thread.setPred_v (t : Thread) (n : Nat) (b : Bool) : (t.setPred n b).v = t.v := by unfold Thread.setPred; split <;> rfl

@[simp] theorem Thread.vreg_setPred (t : Thread) (n m : Nat) (b : Bool) : (t.setPred n b).vreg m = t.vreg m := by simp [Thread.vreg]

@[simp] theorem Thread.vregs_setPred (t : Thread) (n m k : Nat) (b : Bool) : (t.setPred n b).vregs m k = t.vregs m k := by
  induction k generalizing m with
  | zero => rfl
  | succ k ih => simp [Thread.vregs, ih]

theorem Thread.setPred_eq (t : Thread) (n : Nat) (b : Bool) : t.setPred n b = { t with p := (t.setPred n b).p } := by unfold Thread.setPred; split <;> rfl

/-! ### Vector registers (01 R27) -/

@[simp] theorem Thread.length_setV (t : Thread) (n : Nat) (x : Word) : (t.setV n x).v.length = t.v.length := List.length_set

theorem Thread.vreg_setV_self (t : Thread) {n : Nat} (x : Word) (h : n < t.v.length) : (t.setV n x).vreg n = x := by simp [Thread.vreg, Thread.setV, h]

theorem Thread.vreg_setV_ne (t : Thread) {n m : Nat} (x : Word) (h : m ≠ n) : (t.setV n x).vreg m = t.vreg m := by
  simp [Thread.vreg, Thread.setV, List.getElem?_set_ne (Ne.symm h)]

@[simp] theorem Thread.setVs_p (k : Nat) : ∀ (t : Thread) (n x : Nat), (t.setVs n k x).p = t.p := by
  induction k with
  | zero => exact fun _ _ _ => rfl
  | succ k ih => exact fun t n x => ih _ _ _

theorem Thread.setVs_eq (k : Nat) : ∀ (t : Thread) (n x : Nat), t.setVs n k x = { t with v := (t.setVs n k x).v } := by
  induction k with
  | zero => exact fun _ _ _ => rfl
  | succ k ih => exact fun t n x => ih _ _ _

theorem Thread.vreg_setVs_outside (k : Nat) : ∀ (t : Thread) (n x : Nat) {m : Nat}, m < n ∨ n + k ≤ m → (t.setVs n k x).vreg m = t.vreg m := by
  induction k with
  | zero => exact fun _ _ _ _ _ => rfl
  | succ k ih =>
    intro t n x m h
    calc (t.setVs n (k + 1) x).vreg m = (t.setV n (BitVec.ofNat 32 x)).vreg m := ih _ _ _ (by omega)
      _ = t.vreg m := t.vreg_setV_ne _ (by omega)

/-- What was written is read back, as far as the registers go. -/
theorem Thread.vregs_setVs (k : Nat) : ∀ (t : Thread) (n x : Nat), n + k ≤ t.v.length → (t.setVs n k x).vregs n k = x % 2 ^ (32 * k) := by
  induction k with
  | zero => exact fun _ _ x _ => (Nat.mod_one x).symm
  | succ k ih =>
    intro t n x h
    have hlow : (t.setVs n (k + 1) x).vreg n = BitVec.ofNat 32 x :=
      (Thread.vreg_setVs_outside k _ _ _ (by omega)).trans (t.vreg_setV_self _ (by omega))
    have hhigh : (t.setVs n (k + 1) x).vregs (n + 1) k = x / 2 ^ 32 % 2 ^ (32 * k) := ih _ _ _ (by simp; omega)
    calc (t.setVs n (k + 1) x).vregs n (k + 1) = x % 2 ^ 32 + 2 ^ 32 * (x / 2 ^ 32 % 2 ^ (32 * k)) := by
          simp only [Thread.vregs, hlow, hhigh, BitVec.toNat_ofNat]
      _ = x % 2 ^ (32 * (k + 1)) := by rw [show 32 * (k + 1) = 32 + 32 * k by ring, pow_add, Nat.mod_mul]

/-! ### Destinations (06 R158, R159) -/

theorem Thread.writeDst_eq (t : Thread) (o : Op) (k x : Nat) :
    t.writeDst o k x = { t with v := (t.writeDst o k x).v, p := (t.writeDst o k x).p } := by
  unfold Thread.writeDst
  split
  · rw [Thread.setVs_eq]
  · rw [Thread.setPred_eq]
  · rfl
  · rfl

theorem Thread.writeDst_v (t : Thread) {o : Op} (k x : Nat) (h : ∀ n, o.dst ≠ .v n) : (t.writeDst o k x).v = t.v := by
  unfold Thread.writeDst
  split
  case h_1 n hn => exact absurd hn (h n)
  all_goals simp

theorem Thread.pred_writeDst_ne (t : Thread) {o : Op} (k x : Nat) {m : Nat} (hm : m ≤ 95) (h : o.dst ≠ .p m) : (t.writeDst o k x).pred m = t.pred m := by
  unfold Thread.writeDst
  split
  case h_1 => simp [Thread.pred]
  case h_2 n hn => exact t.pred_setPred_ne _ (fun e => h (e ▸ hn)) hm
  all_goals rfl

theorem writeBoth_eq (o : Op) (t : Thread) (x : Nat) (y : Bool) :
    writeBoth o t x y = { t with v := (writeBoth o t x y).v, p := (writeBoth o t x y).p } := by
  unfold writeBoth
  rw [Thread.setPred_eq, Thread.writeDst_eq]

theorem settleBoth_of_apart {o : Op} (h : o.dst ≠ .p o.d2 ∨ o.d2 = 0) (word : Nat) (c : Cap) (r : Nat × Bool) : settleBoth o word c r = r := by
  unfold settleBoth
  rw [if_neg]
  rcases h with h | h <;> simp [h]

/-- 08 R226: where both results name one predicate, one of them is written, as both. -/
theorem settleBoth_of_same {o : Op} (h : o.dst = .p o.d2) (h0 : o.d2 ≠ 0) (word : Nat) (c : Cap) (r : Nat × Bool) :
    settleBoth o word c r = (r.2.toNat, r.2) ∨ settleBoth o word c r = ((r.1 % 2 == 1).toNat, r.1 % 2 == 1) := by
  have hs : (o.dst == .p o.d2 && o.d2 != 0) = true := by simp [h, h0]
  unfold settleBoth
  rw [if_pos hs]
  cases Config.secondStays word [c.a, c.b, c.c]
  · exact .inr rfl
  · exact .inl rfl

theorem settleBoth_congr (o : Op) (word : Nat) {c d : Cap} (r : Nat × Bool) (ha : c.a = d.a) (hb : c.b = d.b) (hc : c.c = d.c) :
    settleBoth o word c r = settleBoth o word d r := by
  unfold settleBoth
  rw [ha, hb, hc]

theorem State.executes_now {s : State} (h : s.cur.replay = false) (g : Guard) (t : Thread) : s.executes g t = (t.pred g.p != g.neg) := by
  simp [State.executes, h]

end Machine

open Machine

/-- Settles O18: `p0` by computation, the other predicates by `pred_setPred`. -/
theorem predicateRegisters : Obligations.PredicateRegisters := by
  refine ⟨Thread.pred_zero, Thread.setPred_zero, fun t n m b h1 _ hm => t.pred_setPred b (by omega) hm, ?_, ?_, fun s t h => ?_⟩
  · intro o t x y h2 hd
    simp [writeBoth, Thread.writeDst, hd, h2]
  · intro o t x y h2 hd
    simp [writeBoth, Thread.writeDst, hd, h2]
  · simp [State.executes_now h]

/-- Settles O19: the read-back of `setVs` and `setPred`, and what `writeDst` leaves. -/
theorem destinationWrites : Obligations.DestinationWrites := by
  refine ⟨fun o t n x y hd hl => ?_, fun o t n x y hd h1 h95 hne _ => ?_, fun o t x y h1 h95 => ?_, fun o word c r hd h0 => settleBoth_of_same hd h0 word c r,
    fun o word c d r ha hb hc => settleBoth_congr o word r ha hb hc, fun o word c r h => settleBoth_of_apart h word c r,
    fun o t x y m hm _ _ h2 hd => ?_, fun o t x y => ⟨writeBoth_eq o t x y, fun h => ?_⟩⟩
  · have hw : t.writeDst o o.words x = t.setVs n o.words x := by simp only [Thread.writeDst, hd]
    simp only [writeBoth, hw, Thread.vregs_setPred, Thread.vreg_setPred]
    exact ⟨Thread.vregs_setVs _ t n x hl, fun m hm => Thread.vreg_setVs_outside _ t n x hm⟩
  · have hw : t.writeDst o o.words x = t.setPred n (x % 2 == 1) := by simp only [Thread.writeDst, hd]
    rw [writeBoth, Thread.pred_setPred_ne _ _ hne h95, hw, Thread.pred_setPred t _ (by omega) h95, if_pos rfl]
  · rw [writeBoth, Thread.pred_setPred _ y (by omega) h95, if_pos rfl]
  · rw [writeBoth, Thread.pred_setPred_ne _ _ h2 hm, Thread.pred_writeDst_ne t _ _ hm hd]
  · rw [writeBoth, Thread.setPred_v, Thread.writeDst_v t _ _ h]

end Sys2Proof
end

section
/-! SUPPORT. Meetings at addresses (01 R17, R21): what `State.settle` makes of each thread. -/

namespace Sys2Proof

namespace Machine

/-- 01 R17, R21: whether a thread of a gang is Held, or is Ready at its meeting address and holds there. -/
def Thread.holds (t : Thread) (w g : Nat) : Bool := t.wg == w && t.gang == g && (t.st == .held || (t.st == .ready && t.mt == some t.pc && !t.past))

/-- 01 R21: whether every live thread of a gang whose meeting address is this one stands there. -/
def State.allArrived (s : State) (w g : Nat) (m : DWord) : Bool := s.threads.all fun u => !(u.wg == w && u.gang == g && u.live && u.mt == some m) || u.pc == m

/-- 01 R21: a thread after the meetings of a gang, `done` saying which of them release. -/
def Thread.met (t : Thread) (w g : Nat) (done : DWord → Bool) : Thread :=
  if t.holds w g then match t.mt with
    | some m => if done m then { t with st := .ready, mt := none } else { t with st := .held }
    | none => t
  else t

theorem State.allArrived_iff (s : State) (w g : Nat) (m : DWord) :
    s.allArrived w g m = true ↔ ∀ x ∈ s.threads, x.wg = w → x.gang = g → x.live = true → x.mt = some m → x.pc = m := by
  simp only [State.allArrived, List.all_eq_true, Bool.or_eq_true, Bool.not_eq_true', Bool.and_eq_false_iff, beq_iff_eq, beq_eq_false_iff_ne]
  refine forall₂_congr fun x _ => ?_
  rw [← Bool.not_eq_true]
  tauto

theorem Thread.met_of_not_holds {t : Thread} {w g : Nat} (h : t.holds w g = false) (done : DWord → Bool) : t.met w g done = t := by simp [Thread.met, h]

theorem Thread.met_of_none {t : Thread} (h : t.mt = none) (w g : Nat) (done : DWord → Bool) : t.met w g done = t := by simp [Thread.met, h]

theorem Thread.met_of_holds {t : Thread} {w g : Nat} {m : DWord} (h : t.holds w g = true) (hm : t.mt = some m) (done : DWord → Bool) :
    t.met w g done = if done m then { t with st := .ready, mt := none } else { t with st := .held } := by simp [Thread.met, h, hm]

/-- 01 R17: a thread of a gang that is Ready at its meeting address holds. -/
def Thread.arrive (t : Thread) (w g : Nat) : Thread :=
  if t.wg == w && t.gang == g && t.st == .ready && t.mt == some t.pc && !t.past then { t with st := .held } else t

@[simp] theorem Thread.arrive_wg (t : Thread) (w g : Nat) : (t.arrive w g).wg = t.wg := by unfold Thread.arrive; split <;> rfl
@[simp] theorem Thread.arrive_gang (t : Thread) (w g : Nat) : (t.arrive w g).gang = t.gang := by unfold Thread.arrive; split <;> rfl
@[simp] theorem Thread.arrive_pc (t : Thread) (w g : Nat) : (t.arrive w g).pc = t.pc := by unfold Thread.arrive; split <;> rfl
@[simp] theorem Thread.arrive_mt (t : Thread) (w g : Nat) : (t.arrive w g).mt = t.mt := by unfold Thread.arrive; split <;> rfl

@[simp] theorem Thread.arrive_live (t : Thread) (w g : Nat) : (t.arrive w g).live = t.live := by
  unfold Thread.arrive
  split
  case isTrue h =>
    simp only [Bool.and_eq_true, beq_iff_eq] at h
    simp only [Thread.live, h.1.1.2]
    rfl
  case isFalse => rfl

theorem Thread.arrive_st_held (t : Thread) (w g : Nat) : (t.wg == w && t.gang == g && (t.arrive w g).st == .held) = t.holds w g := by
  unfold Thread.arrive Thread.holds
  split
  case isTrue h =>
    simp only [Bool.and_eq_true, beq_iff_eq, Bool.not_eq_true'] at h
    obtain ⟨⟨⟨⟨hw, hg⟩, hs⟩, hm⟩, hp⟩ := h
    simp [hw, hg, hs, hm, hp]
  case isFalse h =>
    cases hm : (t.wg == w && t.gang == g)
    · rfl
    · simp only [hm, Bool.true_and, Bool.and_eq_true, not_and, Bool.not_eq_true] at h ⊢
      cases hs : (t.st == .held) <;> simp_all

theorem Thread.arrive_of_holds {t : Thread} {w g : Nat} (h : t.holds w g = true) : t.arrive w g = { t with st := .held } := by
  have hs : (t.arrive w g).st = .held := by
    rw [← Thread.arrive_st_held] at h
    simp only [Bool.and_eq_true, beq_iff_eq] at h
    exact h.2
  unfold Thread.arrive at hs ⊢
  split
  · rfl
  case isFalse hn =>
    rw [if_neg hn] at hs
    rw [← hs]

theorem Thread.arrive_of_not_holds {t : Thread} {w g : Nat} (h : t.holds w g = false) : t.arrive w g = t := by
  unfold Thread.arrive Thread.holds at *
  rw [if_neg]
  intro hn
  simp only [Bool.and_eq_true] at hn
  simp [hn] at h

/-- 01 R17, R21: meetings change each thread by itself, as `Thread.met` says. -/
theorem State.settle_threads_met (s : State) (w g : Nat) (h : (s.gang w g).returning = false) :
    (s.settle w g).threads = s.threads.map fun t => t.met w g (s.allArrived w g) := by
  have hset : (s.settle w g).threads = (s.threads.map fun t => t.arrive w g).map fun t =>
      if t.wg == w && t.gang == g && t.st == .held && (match t.mt with
        | some m => (s.threads.map fun t => t.arrive w g).all fun u => !(u.wg == w && u.gang == g && u.live && u.mt == some m) || u.pc == m
        | none => false) then { t with st := .ready, mt := none } else t := by
    unfold State.settle
    rw [h]
    rfl
  have hall : ∀ m, ((s.threads.map fun t => t.arrive w g).all fun u => !(u.wg == w && u.gang == g && u.live && u.mt == some m) || u.pc == m) =
      s.allArrived w g m := fun m => by simp [State.allArrived, List.all_map, Function.comp_def]
  rw [hset, List.map_map]
  refine List.map_congr_left fun u _ => ?_
  simp only [Function.comp, Thread.arrive_wg, Thread.arrive_gang, Thread.arrive_mt, Thread.arrive_st_held, hall]
  cases hh : u.holds w g
  · rw [Thread.met_of_not_holds hh, Thread.arrive_of_not_holds hh]
    rfl
  · cases hm : u.mt with
    | none =>
      have hs : u.st = .held := by
        simp only [Thread.holds, hm, Bool.and_eq_true, Bool.or_eq_true, beq_iff_eq] at hh
        simpa using hh.2
      rw [Thread.met_of_none hm, Thread.arrive_of_holds hh, ← hs]
      rfl
    | some m =>
      rw [Thread.met_of_holds hh hm, Thread.arrive_of_holds hh]
      rfl

end Machine

open Machine

/-- Settles O26: what `settle` makes of each thread (`Thread.met`), by whether all have arrived. -/
theorem meetingRelease : Obligations.MeetingRelease := by
  intro s w g
  refine ⟨Laws.settle_frame s w g, Laws.settle_returning s w g, fun h => ?_⟩
  rw [State.settle_threads_met s w g h]
  refine Laws.forall₂_map_same _ _ fun u _ => ⟨fun hu m hm => ⟨fun hall => ?_, fun ⟨x, hx, hw, hg, hl, hxm, hpc⟩ => ?_⟩, fun hu hm => ?_, fun hu => ?_⟩
  · rw [Thread.met_of_holds hu hm, if_pos ((s.allArrived_iff w g m).2 hall)]
  · rw [Thread.met_of_holds hu hm, if_neg fun hall => hpc ((s.allArrived_iff w g m).1 hall x hx hw hg hl hxm)]
  · exact Thread.met_of_none hm w g _
  · exact Thread.met_of_not_holds hu _

end Sys2Proof
end

section
/-! SUPPORT. What a meeting of lanes gives one of them (07 R214, R216, R219): the suppliers of a lane, sets of lanes as bits, and the outcome
of members and of lanes outside their mask. -/

namespace Sys2Proof

theorem bitAt_eq_testBit (x n : Nat) : bitAt x n = x.testBit n := by
  rw [Nat.testBit_eq_decide_div_mod_eq]
  rfl

@[simp] theorem bitAt_zero (n : Nat) : bitAt 0 n = false := by simp [bitAt_eq_testBit]

theorem bitAt_two_pow (k j : Nat) : bitAt (2 ^ k) j = true ↔ j = k := by simp [bitAt_eq_testBit, Nat.testBit_two_pow, eq_comm]

namespace Machine

theorem laneBits_eq_sum (l : List Nat) : laneBits l = (l.map fun j => 2 ^ j).sum := by
  have h : ∀ (l : List Nat) (a : Nat), l.foldl (fun a j => a + 2 ^ j) a = a + (l.map fun j => 2 ^ j).sum := by
    intro l
    induction l with
    | nil => exact fun a => rfl
    | cons j l ih => exact fun a => by simp [ih, Nat.add_assoc]
  exact (h l 0).trans (Nat.zero_add _)

/-- The bits of a set of lanes in ascending order are its lanes. -/
theorem bitAt_laneBits {l : List Nat} (h : l.SortedLT) (j : Nat) : bitAt (laneBits l) j = true ↔ j ∈ l := by
  rw [bitAt_eq_testBit, laneBits_eq_sum, ← Nat.mem_bitIndices, Nat.bitIndices_sum_map_two_pow h]

/-- 07 R214: suppliers come in ascending order of their lanes. -/
theorem xSuppliers_sorted (w : Nat) (rs : List (Nat × SyncRec)) (lane : Nat) (r : SyncRec) : (xSuppliers w rs lane r).Pairwise fun x y => x.1 < y.1 := by
  unfold xSuppliers
  rw [List.pairwise_filterMap]
  refine List.pairwise_lt_range.imp fun {i j} hij x hx y hy => ?_
  have lane_of : ∀ {k : Nat} {z : Nat × SyncRec}, (if bitAt r.mask k then
      (rs.find? fun x => x.1 == lane - lane % w + k && x.2.at_ == r.at_ && x.2.mask == r.mask && x.2.on).map fun x => (k, x.2)
      else none) = some z → z.1 = k := by
    intro k z hz
    split at hz
    · obtain ⟨_, _, rfl⟩ := Option.map_eq_some_iff.1 hz
      rfl
    · cases hz
  rw [lane_of hx, lane_of hy]
  exact hij

/-- The lanes of the suppliers that pass a test, as bits. -/
theorem bitAt_laneBits_suppliers (w : Nat) (rs : List (Nat × SyncRec)) (lane : Nat) (r : SyncRec) (p : Nat × SyncRec → Bool) (j : Nat) :
    bitAt (laneBits (((xSuppliers w rs lane r).filter p).map (·.1))) j = true ↔ ∃ y ∈ xSuppliers w rs lane r, y.1 = j ∧ p y = true := by
  have hs : (((xSuppliers w rs lane r).filter p).map (·.1)).SortedLT :=
    (List.pairwise_map.2 ((xSuppliers_sorted w rs lane r).filter p)).sortedLT
  rw [bitAt_laneBits hs]
  simp only [List.mem_map, List.mem_filter]
  exact ⟨fun ⟨y, ⟨hy, hp⟩, hj⟩ => ⟨y, hy, hj, hp⟩, fun ⟨y, hy, hj, hp⟩ => ⟨y, ⟨hy, hp⟩, hj⟩⟩

theorem xOutcome_of_member {w lane : Nat} {r : SyncRec} (h : bitAt r.mask (lane % w) = true) (rs : List (Nat × SyncRec)) :
    xOutcome w rs lane r = xMember w lane r (xSuppliers w rs lane r) := by simp [xOutcome, h]

theorem xOutcome_of_outside {w lane : Nat} {r : SyncRec} (h : bitAt r.mask (lane % w) = false) (rs : List (Nat × SyncRec)) :
    xOutcome w rs lane r = xOutside w lane r := by simp [xOutcome, h]

theorem xOutside_of_mask_zero {r : SyncRec} (h : r.mask = 0) (w lane : Nat) : xOutside w lane r = {} := by simp [xOutside, h]

/-- 07 R216: outside its mask no lane's result is valid, and no vote is taken. -/
theorem xOutside_invalid (w lane : Nat) (r : SyncRec) : (xOutside w lane r).ok = false ∧ (xOutside w lane r).taken = false := by
  unfold xOutside
  split
  · exact ⟨rfl, rfl⟩
  · split <;> exact ⟨rfl, rfl⟩

/-- 07 R219: the lanes at or below a lane, or below it. -/
theorem scanned_iff (e : Bool) (k me : Nat) : (k < me || (k == me && !e)) = if e then decide (k < me) else decide (k ≤ me) := by
  cases e
  · rw [Bool.eq_iff_iff]
    simp [Nat.le_iff_lt_or_eq]
  · simp

end Machine

open Machine

/-- Settles O28: the branches of `xMember` and `xOutside`, with `bitAt_laneBits_suppliers` for the sets of lanes. -/
theorem crossLaneValues : Obligations.CrossLaneValues := by
  intro w lane r rs o
  refine ⟨fun h => ?_, fun h => ?_⟩
  · rw [xOutcome_of_member h]
    refine ⟨fun hi => ⟨fun x hx => ?_, fun hx => ?_⟩, fun hi x hx => ?_, fun hi => ?_, fun hi => ?_, fun hi => ?_, fun hi => ?_, fun x hi => ?_, fun x e hi => ?_⟩
    · rcases hi with hi | hi <;> simp only [xMember, hi, hx]
    · rcases hi with hi | hi <;> simp only [xMember, hi, hx]
    · simp only [xMember, hi, hx]
    · simp only [xMember, hi]
    · simp only [xMember, hi]
    · refine ⟨_, by simp only [xMember, hi]; rfl, fun j => ?_⟩
      simpa using bitAt_laneBits_suppliers w rs lane r (fun y => y.2.a == 1) j
    · refine ⟨_, by simp only [xMember, hi]; rfl, fun j => ?_⟩
      simpa using bitAt_laneBits_suppliers w rs lane r (fun y => y.2.a == r.a) j
    · simp only [xMember, hi]
    · simp only [xMember, hi, xfold, scanned_iff]
  · rw [xOutcome_of_outside h]
    refine ⟨(xOutside_invalid w lane r).1, (xOutside_invalid w lane r).2, fun h0 => ?_, fun h0 hi => ?_, fun h0 hi ha => ?_, fun h0 hi => ?_⟩
    · rw [xOutside_of_mask_zero h0]
    · rcases hi with hi | hi | hi | hi | hi | ⟨x, hi⟩ | ⟨x, e, hi⟩ <;> simp [xOutside, h0, hi]
    · refine ⟨r.a * 2 ^ (lane % w), by simp [xOutside, h0, hi], fun j => ?_⟩
      rcases (by omega : r.a = 0 ∨ r.a = 1) with ha | ha
      · simp [ha]
      · simp [ha, bitAt_two_pow]
    · exact ⟨2 ^ (lane % w), by simp [xOutside, h0, hi], fun j => bitAt_two_pow _ j⟩

end Sys2Proof
end

section
/-! SUPPORT. Slices and latches (01 R30, R31): what an update of a gang's slice leaves, and what a lane reads after a push. -/

namespace Sys2Proof

namespace Machine

/-! ### Updates of a gang's slice -/

/-- The slice of a gang that is there, updated. -/
theorem State.updSlice_of_some {s : State} {w g : Nat} {x : Slice} (hx : s.sliceOf w g = some x) (hg : (s.gangs.any fun y => y.wg == w && y.idx == g) = true)
    (f : Slice → Slice) :
    s.updSlice w g f = { s with slices := updWhere (fun y => y.core == (s.wg w).core && y.idx == (s.gang w g).slice) f s.slices } := by
  simp [State.updSlice, hx, hg]

theorem State.sliceOf_core_idx {s : State} {w g : Nat} {x : Slice} (hx : s.sliceOf w g = some x) : x.core = (s.wg w).core ∧ x.idx = (s.gang w g).slice := by
  simpa using List.find?_some hx

theorem find?_updWhere {α : Type} (p : α → Bool) (f : α → α) (hf : ∀ x, p (f x) = p x) (l : List α) : (updWhere p f l).find? p = (l.find? p).map f := by
  induction l with
  | nil => rfl
  | cons x l ih =>
    cases hp : p x
    · simpa [updWhere, List.find?_cons, hp] using ih
    · simp [updWhere, hp, hf]

theorem State.sliceOf_updSlice {s : State} {w g : Nat} {x : Slice} (hx : s.sliceOf w g = some x) (hg : (s.gangs.any fun y => y.wg == w && y.idx == g) = true)
    {f : Slice → Slice} (hf : ∀ y, (f y).core = y.core ∧ (f y).idx = y.idx) : (s.updSlice w g f).sliceOf w g = some (f x) := by
  rw [State.updSlice_of_some hx hg]
  refine (find?_updWhere _ f (fun y => ?_) s.slices).trans ?_
  · simp only [hf y]
  · exact congrArg (Option.map f) hx

/-- The other slices stay as they are. -/
theorem State.mem_updSlice {s : State} {w g : Nat} {x : Slice} (hx : s.sliceOf w g = some x) (hg : (s.gangs.any fun y => y.wg == w && y.idx == g) = true)
    {f : Slice → Slice} (hf : ∀ y, (f y).core = y.core ∧ (f y).idx = y.idx) {y : Slice} (hy : y ∈ (s.updSlice w g f).slices) :
    y ∈ s.slices ∨ y.core = x.core ∧ y.idx = x.idx := by
  rw [State.updSlice_of_some hx hg] at hy
  obtain ⟨z, hz, rfl⟩ := List.mem_map.1 hy
  obtain ⟨hc, hi⟩ := State.sliceOf_core_idx hx
  split
  case isTrue h =>
    simp only [Bool.and_eq_true, beq_iff_eq] at h
    exact .inr ⟨by rw [(hf z).1, h.1, hc], by rw [(hf z).2, h.2, hi]⟩
  case isFalse => exact .inl hz

/-! ### What a push makes of a slice -/

/-- Whether a run holds all lanes of an issue. -/
def Run.holdsAll (r : Run) (w g : Nat) (lanes : List Nat) : Bool := r.of w g && lanes.all r.lanes.contains

/-- 01 R30, R31: a run after its issue has pushed results. -/
def Run.takes (r : Run) (vals : List LatchVal) : Run := { r with pushed := (vals :: r.pushed).take 4 }

/-- 01 R30, R31: a slice after an issue of some lanes of a gang has pushed results. -/
def Slice.takes (x : Slice) (w g : Nat) (lanes : List Nat) (vals : List LatchVal) : Slice :=
  { x with
    latches := if x.wg == w && x.gang == g then (vals :: x.latches).take 4 else x.latches
    runs := x.runs.map fun r => if r.holdsAll w g lanes then r.takes vals else r }

section
variable (x : Slice) (w g : Nat) (lanes : List Nat) (vals : List LatchVal)

@[simp] theorem Slice.takes_wg : (x.takes w g lanes vals).wg = x.wg := rfl
@[simp] theorem Slice.takes_gang : (x.takes w g lanes vals).gang = x.gang := rfl
@[simp] theorem Slice.takes_latches : (x.takes w g lanes vals).latches = if x.wg == w && x.gang == g then (vals :: x.latches).take 4 else x.latches := rfl
@[simp] theorem Slice.takes_runs : (x.takes w g lanes vals).runs = x.runs.map fun r => if r.holdsAll w g lanes then r.takes vals else r := rfl

end

theorem State.push_eq (s : State) (vals : List LatchVal) :
    s.push vals = s.updSlice s.cur.wg s.cur.gang fun x => x.takes s.cur.wg s.cur.gang s.cur.lanes vals := rfl

theorem State.sliceOf_push {s : State} {x : Slice} (hx : s.sliceOf s.cur.wg s.cur.gang = some x)
    (hg : (s.gangs.any fun y => y.wg == s.cur.wg && y.idx == s.cur.gang) = true) (vals : List LatchVal) :
    (s.push vals).sliceOf s.cur.wg s.cur.gang = some (x.takes s.cur.wg s.cur.gang s.cur.lanes vals) :=
  State.sliceOf_updSlice hx hg fun _ => ⟨rfl, rfl⟩

/-- Whether a lane of a gang goes through its line in a run. -/
def Run.carries (r : Run) (w g lane : Nat) : Bool := r.of w g && r.lanes.contains lane

theorem State.mem_push {s : State} {x : Slice} (hx : s.sliceOf s.cur.wg s.cur.gang = some x)
    (hg : (s.gangs.any fun y => y.wg == s.cur.wg && y.idx == s.cur.gang) = true) {vals : List LatchVal} {y : Slice} (hy : y ∈ (s.push vals).slices) :
    y ∈ s.slices ∨ y.core = x.core ∧ y.idx = x.idx := by
  rw [State.push_eq] at hy
  refine State.mem_updSlice hx hg ?_ hy
  exact fun _ => ⟨rfl, rfl⟩

/-- The results of the run in which a lane of a gang goes through its line. -/
def Slice.ownResults (x : Slice) (w g lane : Nat) : List (List LatchVal) := ((x.runs.find? fun r => r.carries w g lane).map fun r => r.pushed).getD []

theorem Slice.producer_eq (x : Slice) (w g lane k : Nat) :
    x.producer w g lane k = if k < (x.ownResults w g lane).length then ((x.ownResults w g lane)[k]?).getD []
      else if x.wg == w && x.gang == g && x.latches.take (x.ownResults w g lane).length == x.ownResults w g lane then (x.latches[k]?).getD [] else [] := rfl

/-- A push moves no lane between runs. -/
theorem Run.carries_after_push (r : Run) (w g lane : Nat) (lanes : List Nat) (vals : List LatchVal) :
    (if r.holdsAll w g lanes then r.takes vals else r).carries w g lane = r.carries w g lane := by split <;> rfl

section
variable {x : Slice} {w g lane : Nat} {lanes : List Nat} (vals : List LatchVal)

/-- A lane in a run: its results after the push are those pushed, then what it had. -/
theorem Slice.ownResults_takes (hm : ∀ r ∈ x.runs, r.carries w g lane = true → r.holdsAll w g lanes = true)
    (hr : ∃ r ∈ x.runs, r.carries w g lane = true) : (x.takes w g lanes vals).ownResults w g lane = (vals :: x.ownResults w g lane).take 4 := by
  obtain ⟨r, hfind⟩ := Option.isSome_iff_exists.1 (List.find?_isSome.2 hr)
  have hall := hm r (List.mem_of_find?_eq_some hfind) (List.find?_some (p := fun r : Run => r.carries w g lane) hfind)
  simp only [Slice.ownResults, Slice.takes_runs, List.find?_map, Function.comp_def, Run.carries_after_push, hfind, hall, if_true, Option.map_some,
    Option.getD_some]
  rfl

/-- A lane in no run has no results of its own. -/
theorem Slice.ownResults_of_none (hr : ¬ ∃ r ∈ x.runs, r.carries w g lane = true) : x.ownResults w g lane = [] := by
  have : (x.runs.find? fun r => r.carries w g lane) = none := List.find?_eq_none.2 fun r h hp => hr ⟨r, h, hp⟩
  simp [Slice.ownResults, this]

theorem Slice.ownResults_takes_of_none (hr : ¬ ∃ r ∈ x.runs, r.carries w g lane = true) : (x.takes w g lanes vals).ownResults w g lane = [] := by
  refine Slice.ownResults_of_none fun ⟨r, hmem, hp⟩ => hr ?_
  obtain ⟨q, hq, rfl⟩ := List.mem_map.1 hmem
  exact ⟨q, hq, (q.carries_after_push w g lane lanes vals) ▸ hp⟩

/-- 01 R30: the results pushed are what `l0` holds. -/
theorem Slice.producer_takes_zero (hm : ∀ r ∈ x.runs, r.carries w g lane = true → r.holdsAll w g lanes = true)
    (hr : (x.wg == w && x.gang == g) = true ∨ ∃ r ∈ x.runs, r.carries w g lane = true) :
    (x.takes w g lanes vals).producer w g lane 0 = vals := by
  rw [Slice.producer_eq]
  by_cases hrun : ∃ r ∈ x.runs, r.carries w g lane = true
  · simp [Slice.ownResults_takes vals hm hrun]
  · have had := hr.resolve_right hrun
    simp [Slice.ownResults_takes_of_none vals hrun, -Bool.and_eq_true, had]

/-- 01 R30: each further latch holds what the one before it held. -/
theorem Slice.producer_takes_succ (hm : ∀ r ∈ x.runs, r.carries w g lane = true → r.holdsAll w g lanes = true)
    (hr : (x.wg == w && x.gang == g) = true ∨ ∃ r ∈ x.runs, r.carries w g lane = true) {k : Nat} (hk : k < 3) :
    (x.takes w g lanes vals).producer w g lane (k + 1) = x.producer w g lane k := by
  have hget : ∀ l : List (List LatchVal), ((vals :: l).take 4)[k + 1]? = l[k]? := fun l => by
    rw [List.getElem?_take_of_lt (by omega), List.getElem?_cons_succ]
  rw [Slice.producer_eq, Slice.producer_eq x]
  by_cases hrun : ∃ r ∈ x.runs, r.carries w g lane = true
  · rw [Slice.ownResults_takes vals hm hrun]
    generalize x.ownResults w g lane = own
    by_cases hlt : k < own.length
    · rw [if_pos hlt, if_pos (by simp; omega), hget]
    · have hlen : ((vals :: own).take 4) = vals :: own := List.take_of_length_le (by simp; omega)
      rw [if_neg hlt, if_neg (by simp [hlen]; omega), hlen]
      cases had : (x.wg == w && x.gang == g)
      · simp [had]
      · have htake : (((vals :: x.latches).take 4).take (own.length + 1) == vals :: own) = (x.latches.take own.length == own) := by
          rw [List.take_take, Nat.min_eq_left (by omega), List.take_succ_cons, List.cons_beq_cons, beq_self_eq_true, Bool.true_and]
        simp only [Slice.takes_wg, Slice.takes_gang, Slice.takes_latches, had, if_true, List.length_cons, htake, hget, Bool.true_and]
  · have had := hr.resolve_right hrun
    simp only [Slice.ownResults_takes_of_none vals hrun, Slice.ownResults_of_none hrun, Slice.takes_wg, Slice.takes_gang, Slice.takes_latches, had, if_true, hget]
    rfl

end

/-- 01 R31, 06 R162: what a lane reads as 32 bits in a latch that holds some results: its own, or a free value. -/
def State.narrow (s : State) (vals : List LatchVal) (k lane : Nat) : Nat :=
  match vals.find? fun v => v.lane == lane with
  | some v => v.x % 2 ^ 32
  | none => (s.free [3, k, lane]).toNat % 2 ^ 32

theorem State.latch_narrow {s : State} {t : Thread} {x : Slice} (hx : s.sliceOf t.wg t.gang = some x) (k : Nat) :
    s.latch t k false = s.narrow (x.producer t.wg t.gang t.lane k) k t.lane := by
  unfold State.latch
  rw [hx]
  unfold State.narrow
  dsimp only
  cases (x.producer t.wg t.gang t.lane k).find? fun v => v.lane == t.lane <;> rfl

end Machine

open Machine

/-- Settles O22: the slice after a push (`Slice.takes`), and what its latches hold for a lane (`Slice.producer_takes_zero`, `Slice.producer_takes_succ`). -/
theorem latchPush : Obligations.LatchPush := by
  intro s vals x hx hg
  have hpush := State.sliceOf_push hx hg vals
  refine ⟨Laws.push_frame s vals, ⟨_, hpush, rfl⟩, fun y hy => State.mem_push hx hg hy, fun t hw hgg hm hr => ?_⟩
  have hnarrow : (s.push vals).narrow = s.narrow := by rw [Laws.push_frame]; rfl
  rw [← hw, ← hgg] at hpush
  have hm : ∀ r ∈ x.runs, r.carries t.wg t.gang t.lane = true → r.holdsAll t.wg t.gang s.cur.lanes = true := fun r hrun hp => by
    have hp := Bool.and_eq_true_iff.1 hp
    rw [hw, hgg]
    exact hm r hrun hp.1 hp.2
  have hr : (x.wg == t.wg && x.gang == t.gang) = true ∨ ∃ r ∈ x.runs, r.carries t.wg t.gang t.lane = true := by
    rw [hw, hgg]
    exact hr.imp id fun ⟨r, hrun, hp⟩ => ⟨r, hrun, by rw [← hw, ← hgg]; exact Bool.and_eq_true_iff.2 hp⟩
  refine ⟨?_, fun k hk => ?_⟩
  · rw [State.latch_narrow hpush, Slice.producer_takes_zero vals hm hr, hnarrow]
    rfl
  · rw [State.latch_narrow hpush, Slice.producer_takes_succ vals hm hr hk, hnarrow]
    rfl

end Sys2Proof
end

section
/-! SUPPORT. What walks and translation caches leave (16 R403, R417), and how an issue of threads in a line comes to `exec` (01 R18, 06 R152 to R155). -/

namespace Sys2Proof

namespace Machine

/-! ### Frames: walks change held words alone, a cached translation the caches besides -/

theorem State.foldl_recall_eq {α : Type} (l : List α) (a n : α → Nat) (s : State) :
    l.foldl (fun s x => s.recall (a x) (n x)) s = { s with hot := (l.foldl (fun s x => s.recall (a x) (n x)) s).hot } := by
  induction l generalizing s with
  | nil => rfl
  | cons x l ih => exact (ih _).trans rfl

theorem State.walkRecall_eq (s : State) (unit p va : Nat) : s.walkRecall unit p va = { s with hot := (s.walkRecall unit p va).hot } := by
  unfold State.walkRecall
  split
  · rfl
  · exact State.foldl_recall_eq _ _ _ s

theorem State.cache_eq (s : State) (unit p va : Nat) : s.cache unit p va = { s with tlb := (s.cache unit p va).tlb, hot := (s.cache unit p va).hot } := by
  unfold State.cache
  split
  · rw [State.walkRecall_eq]
  · rw [State.walkRecall_eq]

theorem State.textTouch_eq (s : State) (w : Nat) (addr : DWord) : s.textTouch w addr = { s with hot := (s.textTouch w addr).hot } := by
  unfold State.textTouch
  dsimp only
  split
  · rw [State.walkRecall_eq]
    rfl
  · exact State.walkRecall_eq _ _ _ _

@[simp] theorem State.cache_cur (s : State) (unit p va : Nat) : (s.cache unit p va).cur = s.cur := by rw [State.cache_eq]

@[simp] theorem State.touchLine_cur (s : State) : s.touchLine.cur = s.cur := by rw [State.touchLine, State.textTouch_eq]

@[simp] theorem State.enterLine_cur (s : State) (l : Line) : (s.enterLine l).cur = s.cur := by simp [State.enterLine, State.updIssue]

/-! ### From an issue to `exec` -/

/-- The current issue, widened where lanes meet (01 R26). -/
def State.widenFor (s : State) (i : Instr) (l : Line) : State := if i.meets then s.widen l else s

theorem State.widenFor_pc (s : State) (i : Instr) (l : Line) : (s.widenFor i l).cur.pc = s.cur.pc := by
  unfold State.widenFor
  split <;> rfl

/-- 06 R155, R175, 15 R382: an operation that decodes, is allowed and meets no breakpoint is run. -/
theorem State.decodeIssue_run {s : State} {l : Line} {f : Fetched} (ahead : Nat) (hf : l.fetch s.launch.ctx s.cur.pc = some f)
    (hp : f.instr.privileged = true → (s.gang s.cur.wg s.cur.gang).handler = true) (hb : (s.part s.curPart).breakpoint s.cur.pc = none) :
    s.decodeIssue l ahead = .run f.instr ((s.widenFor f.instr l).begin l f ahead) := by
  have hpriv : (f.instr.privileged && !(s.gang s.cur.wg s.cur.gang).handler) = false := by
    cases h : f.instr.privileged
    · rfl
    · simp [hp h]
  have hb' : ((s.widenFor f.instr l).part (s.widenFor f.instr l).curPart).breakpoint (s.widenFor f.instr l).cur.pc = none := by
    rw [← hb]
    unfold State.widenFor
    split <;> rfl
  unfold State.decodeIssue
  rw [hf]
  simp only [hpriv, Bool.false_eq_true, if_false]
  change (match ((s.widenFor f.instr l).part (s.widenFor f.instr l).curPart).breakpoint (s.widenFor f.instr l).cur.pc, (s.widenFor f.instr l).stopped with
    | some k, _ :: _ => Prep.done ((s.widenFor f.instr l).trapOut 0x70 (s.widenFor f.instr l).stopped k)
    | _, _ => .run f.instr ((s.widenFor f.instr l).begin l f ahead)) = _
  rw [hb']

theorem State.countIssue_eq (s : State) (w g : Nat) (pc : DWord) : s.countIssue w g pc = { s with gangs := (s.countIssue w g pc).gangs } := by
  unfold State.countIssue
  split <;> rfl

theorem State.chosen_countIssue (s : State) (w g : Nat) (pc : DWord) (lanes : List Nat) (t : Thread) :
    (s.countIssue w g pc).chosen w g lanes t = s.chosen w g lanes t := by
  rw [State.countIssue_eq]
  rfl

/-- 01 R18, 06 R152: an issue of threads that stand within the text comes to the decoding of their line, which they are in or enter. -/
theorem State.issueThreads_decode {s0 s1 s2 : State} {w g : Nat} {asked : List Nat} {mism : Nat} {t : Thread} {l : Line} (ahead : Nat)
    (ht : (s0.gangThreads w g).find? (fun t => (s0.duePick w g asked).contains t.lane && t.canIssue) = some t) (hpast : t.past = false)
    (h1 : s1 = { s0.countIssue w g t.pc with cur := issueAt w g (s0.chosen w g (s0.duePick w g asked) t) t mism })
    (hl : (t.inLine = true ∧ t.line = some l ∧ s2 = s1) ∨ (t.inLine = false ∧ s1.readLine = .ok l ∧ s2 = s1.touchLine.enterLine l)) :
    s0.issueThreads w g asked mism ahead = s2.decodeIssue l ahead := by
  unfold State.issueThreads
  simp only [ht, hpast, Bool.false_eq_true, if_false, State.chosen_countIssue]
  rw [← h1]
  rcases hl with ⟨hin, hline, rfl⟩ | ⟨hin, hread, rfl⟩
  · simp only [hin, if_true, hline]
  · simp only [hin, Bool.false_eq_true, if_false, hread]

/-- 01 R31, 15 R379, R385: a gang that may issue, with nothing to come before its threads, issues these. -/
theorem State.issueGang_threads {s : State} {w g : Nat} (lanes : List Nat) (mism ahead : Nat) (hmay : s.mayIssue w = true) (hstall : s.gangStalls w g = false)
    (hyield : s.yieldsNow w g = false) (hpend : (s.gang w g).handler = true ∨ (s.gang w g).pend = []) (hre : (s.gang w g).reinject = []) :
    s.issueGang w g lanes mism ahead = s.issueThreads w g lanes mism ahead := by
  have hp : (!(s.gang w g).handler && !(s.gang w g).pend.isEmpty) = false := by
    rcases hpend with h | h <;> simp [h]
  unfold State.issueGang
  simp [hmay, hstall, hyield, hp, hre, -Bool.and_eq_true]

theorem State.issuesFor_own {s : State} {w g : Nat} (h : s.runFirst w g = none) (lanes : List Nat) : s.issuesFor w g lanes = (w, g, lanes) := by
  simp [State.issuesFor, h]

theorem afterNext_afterNext (f g : State → State) (o : Host.Outcome State Fault Refusal) : afterNext f (afterNext g o) = afterNext (fun s => f (g s)) o := by
  cases o <;> rfl

end Machine

open Machine

/-- Settles O10: an issue comes to its threads (`issueGang_threads`), these to the decoding of their line (`issueThreads_decode`), and that to `exec`
(`decodeIssue_run`). -/
theorem stepRunsDecoded : Obligations.StepRunsDecoded := by
  intro s w g asked lanes mism ahead t l f s0 s1 s2 hact h0 hrun hmay hstall hyield hpend hre hlanes ht hpast h1 hl hf hp hb s3
  subst h0 hlanes
  have hs1 : s1 = { s.tickOn.countIssue w g t.pc with cur := issueAt w g (s.tickOn.chosen w g (s.tickOn.duePick w g asked) t) t mism } := by
    rw [h1, issueAt, hpast]
  have hcur : s2.cur = issueAt w g (s.tickOn.chosen w g (s.tickOn.duePick w g asked) t) t mism := by
    rcases hl with ⟨_, _, rfl⟩ | ⟨_, _, rfl⟩ <;> simp [hs1]
  have hpc : s2.cur.pc = t.pc := by rw [hcur]; rfl
  have hwide : s2.widenFor f.instr l = s3 := rfl
  have hpc3 : s3.cur.pc = t.pc := by rw [← hwide, State.widenFor_pc, hpc]
  have hprep : s.tickOn.issueGang w g asked mism ahead = .run f.instr (s3.begin l f ahead) := by
    rw [State.issueGang_threads asked mism ahead hmay hstall hyield hpend hre, State.issueThreads_decode ahead ht hpast hs1 hl, ← hwide]
    refine State.decodeIssue_run ahead (hpc ▸ hf) (fun h => ?_) (hpc ▸ hb)
    rw [hcur]
    exact hp h
  have hissue : s.tickOn.act s.action = afterNext (fun u => u.afterIssue w g) (exec f.instr (s3.begin l f ahead)) := by
    simp only [hact, State.act, State.issuesFor_own hrun, hprep, Prep.go]
  rw [step, hissue, State.begin, hpc3, afterNext_afterNext]

end Sys2Proof
end

section
/-! SUPPORT. Uniform registers (01 R29, 07 R210, R211): what loads note beside what they read, what a write of a uniform register leaves, and
what each thread then reads. -/

namespace Sys2Proof

namespace Machine

/-! ### What loads note: translations, held words, and observed releases -/

/-- A machine with other cached translations, other held words and other records of observed releases. -/
def State.noting (s : State) (tl : List Tlb) (h : List Nat) (vs : List SyncView) : State := { s with tlb := tl, hot := h, hb := { s.hb with views := vs } }

section
variable (s : State) (tl : List Tlb) (h : List Nat) (vs : List SyncView)

@[simp] theorem State.noting_noting (tl' : List Tlb) (h' : List Nat) (vs' : List SyncView) : (s.noting tl h vs).noting tl' h' vs' = s.noting tl' h' vs' := rfl
@[simp] theorem State.noting_self : s.noting s.tlb s.hot s.hb.views = s := rfl
@[simp] theorem State.noting_cur : (s.noting tl h vs).cur = s.cur := rfl
@[simp] theorem State.noting_wg (w : Nat) : (s.noting tl h vs).wg w = s.wg w := rfl

/-- A lane reads the same bytes. -/
@[simp] theorem State.bytesAt_noting (lane : Nat) (p : Place) (n : Nat) : (s.noting tl h vs).bytesAt lane p n = s.bytesAt lane p n := rfl

@[simp] theorem State.leaves_noting (w : Nat) (p : Place) (n : Nat) : (s.noting tl h vs).leaves w p n = s.leaves w p n := rfl

theorem State.push_noting (vals : List LatchVal) : (s.noting tl h vs).push vals = (s.push vals).noting tl h vs := by
  unfold State.push State.updSlice
  dsimp only
  have hany : ((s.noting tl h vs).gangs.any fun x => x.wg == (s.noting tl h vs).cur.wg && x.idx == (s.noting tl h vs).cur.gang) =
      s.gangs.any fun x => x.wg == s.cur.wg && x.idx == s.cur.gang := rfl
  have hslice : (s.noting tl h vs).sliceOf (s.noting tl h vs).cur.wg (s.noting tl h vs).cur.gang = s.sliceOf s.cur.wg s.cur.gang := rfl
  rw [hany, hslice]
  split
  · rfl
  · split <;> rfl

theorem State.writeG_noting (n : Nat) (vals : List (Nat × Nat)) : (s.noting tl h vs).writeG n vals = (s.writeG n vals).noting tl h vs := by
  unfold State.writeG
  split <;> rfl

theorem State.writeGs_noting (o : Op) (vals : List (Nat × Nat)) : (s.noting tl h vs).writeGs o vals = (s.writeGs o vals).noting tl h vs := by
  unfold State.writeGs
  dsimp only
  cases o.dst with
  | g n => cases o.wide <;> simp [State.writeG_noting]
  | _ => rfl

end

theorem State.cacheLanes_noting (s : State) (sp : Space) (addr : Cap → Nat) (caps : List Cap) : ∃ tl h, s.cacheLanes sp addr caps = s.noting tl h s.hb.views := by
  have hfold : ∀ (caps : List Cap) (tl : List Tlb) (h : List Nat), ∃ tl' h',
      caps.foldl (fun s c => s.cache (unitCore s.core) s.curPart (addr c)) (s.noting tl h s.hb.views) = s.noting tl' h' s.hb.views := by
    intro caps
    induction caps with
    | nil => exact fun tl h => ⟨tl, h, rfl⟩
    | cons c caps ih =>
      intro tl h
      rw [List.foldl_cons, State.cache_eq]
      exact ih _ _
  unfold State.cacheLanes
  split
  · exact hfold caps s.tlb s.hot
  · exact hfold caps s.tlb s.hot
  · exact ⟨_, _, rfl⟩

theorem State.recallAt_noting (s : State) (p : Place) (n : Nat) : ∃ h, s.recallAt p n = s.noting s.tlb h s.hb.views := by
  unfold State.recallAt
  cases p with
  | loc => exact ⟨_, rfl⟩
  | mem k v =>
    dsimp only
    split
    · exact ⟨_, rfl⟩
    · exact ⟨_, rfl⟩
  | win i off host =>
    dsimp only
    split
    · split
      · exact ⟨_, rfl⟩
      · exact ⟨_, rfl⟩
    · exact ⟨_, rfl⟩

theorem Hb.observe_eq (h : Hb) (a : Agent) (need : Nat) (rs : List Release) : h.observe a need rs = { h with views := (h.observe a need rs).views } := by
  unfold Hb.observe
  split <;> rfl

/-- 04 R119: a plain load only observes releases. -/
theorem State.loadSync_noting (s : State) (lane : Nat) (p : Place) (n : Nat) : ∃ vs, s.loadSync lane p n = s.noting s.tlb s.hot vs := by
  have hfold : ∀ (rs : List Release) (ls : List Nat) (h : Hb), ∃ vs,
      ls.foldl (fun h l => (if sideRank (isAcquire .rlx) .t == 0 then h else h.acquire (s.me l) (sideRank (isAcquire .rlx) .t) rs).observe (s.me l) 1 rs) h =
        { h with views := vs } := by
    intro rs ls
    induction ls with
    | nil => exact fun h => ⟨h.views, rfl⟩
    | cons l ls ih =>
      intro h
      obtain ⟨vs, hvs⟩ := ih (h.observe (s.me l) 1 rs)
      refine ⟨vs, hvs.trans ?_⟩
      rw [Hb.observe_eq]
  obtain ⟨vs, hvs⟩ := hfold (readTags (s.tagsThrough s.cur.wg (s.placeSync p)) (s.placeSync p) n) (s.copies lane) s.hb
  refine ⟨vs, ?_⟩
  unfold State.loadSync State.readSync
  dsimp only
  rw [hvs]
  rfl

/-! ### Writes of uniform registers -/

theorem State.writeG_eq (s : State) (n : Nat) (vals : List (Nat × Nat)) :
    s.writeG n vals = { s with uid := (s.writeG n vals).uid, hb := { s.hb with pend := (s.writeG n vals).hb.pend }, wgs := (s.writeG n vals).wgs } := by
  unfold State.writeG
  split <;> rfl

theorem State.writeGs_eq (s : State) (o : Op) (vals : List (Nat × Nat)) :
    s.writeGs o vals = { s with uid := (s.writeGs o vals).uid, hb := { s.hb with pend := (s.writeGs o vals).hb.pend }, wgs := (s.writeGs o vals).wgs } := by
  unfold State.writeGs
  split
  · dsimp only
    split
    · rw [State.writeG_eq, State.writeG_eq]
    · rw [State.writeG_eq]
  · rfl

/-- An instruction that writes uniform registers and pushes moves its threads, and changes nothing else of them. -/
theorem State.writeGs_push_advance (s : State) (o : Op) (vals : List (Nat × Nat)) :
    ∃ th, ((s.writeGs o vals).pushLanes o (vals.map fun v => (v.1, v.2, false))).advance =
        { (s.writeGs o vals).pushLanes o (vals.map fun v => (v.1, v.2, false)) with threads := th } ∧ Safety.Threads s id (Safety.nextPlace s) th := by
  have hcur : ((s.writeGs o vals).pushLanes o (vals.map fun v => (v.1, v.2, false))).cur = s.cur := by
    rw [State.pushLanes, Laws.push_frame, State.writeGs_eq]
  have hth : ((s.writeGs o vals).pushLanes o (vals.map fun v => (v.1, v.2, false))).threads = s.threads := by
    rw [State.pushLanes, Laws.push_frame, State.writeGs_eq]
  refine ⟨_, Laws.advance_frame _, ?_⟩
  have h := Laws.advance_threads ((s.writeGs o vals).pushLanes o (vals.map fun v => (v.1, v.2, false)))
  rw [hth] at h
  have hplace : Safety.nextPlace ((s.writeGs o vals).pushLanes o (vals.map fun v => (v.1, v.2, false))) = Safety.nextPlace s := by
    unfold Safety.nextPlace State.inIssue
    rw [hcur]
  rw [hplace] at h
  exact h

/-- 07 R211: the loads of `gld`, one lane after the other: each gets its bytes, and only what loads note changes. -/
theorem foldl_gldLane (o : Op) (s : State) : ∀ (refs : List LaneRef) (tl : List Tlb) (h : List Nat) (vs : List SyncView) (got : List (Nat × Option Nat)),
    ∃ h' vs', refs.foldl (State.gldLane o) (s.noting tl h vs, got) =
      (s.noting tl h' vs', got ++ refs.map fun r => (r.cap.lane, some (ofBytesLE (s.bytesAt r.cap.lane r.place (4 * o.words))))) := by
  intro refs
  induction refs with
  | nil => exact fun tl h vs got => ⟨h, vs, by simp⟩
  | cons r refs ih =>
    intro tl h vs got
    obtain ⟨h1, hrecall⟩ := (s.noting tl h vs).recallAt_noting r.place (4 * o.words)
    obtain ⟨vs1, hload⟩ := (s.noting tl h1 vs).loadSync_noting r.cap.lane r.place (4 * o.words)
    have hstep : State.gldLane o (s.noting tl h vs, got) r =
        (s.noting tl h1 vs1, got ++ [(r.cap.lane, some (ofBytesLE (s.bytesAt r.cap.lane r.place (4 * o.words))))]) := by
      unfold State.gldLane
      dsimp only
      rw [hrecall]
      exact Prod.ext hload rfl
    obtain ⟨h2, vs2, hrest⟩ := ih tl h1 vs1 (got ++ [(r.cap.lane, some (ofBytesLE (s.bytesAt r.cap.lane r.place (4 * o.words))))])
    exact ⟨h2, vs2, by rw [List.foldl_cons, hstep, hrest, List.map_cons, List.append_assoc, List.singleton_append]⟩

/-! ### What a written register reads (01 R29) -/

/-- A workgroup after an update of one that keeps its number, and that an unknown one does not notice. -/
theorem State.wg_updWg (s : State) (u : Nat) {f : Wg → Wg} (hf : ∀ x, (f x).uid = x.uid) (hd : f default = default) (w : Nat) :
    (s.updWg u f).wg w = if w = u then f (s.wg w) else s.wg w := by
  have hkeep : ((fun x : Wg => x.uid == w) ∘ fun x => if x.uid == u then f x else x) = fun x => x.uid == w := by
    funext x
    simp only [Function.comp]
    split
    · rw [hf]
    · rfl
  have hfind : (s.updWg u f).wg w = (((s.wgs.find? fun x => x.uid == w).map fun x => if x.uid == u then f x else x)).getD default := by
    unfold State.wg State.updWg updWhere
    rw [List.find?_map, hkeep]
  rw [hfind, State.wg]
  cases hx : s.wgs.find? fun x => x.uid == w with
  | none => simp [hd]
  | some x =>
    have hw : x.uid = w := by simpa using List.find?_some hx
    simp [hw]

theorem Hb.regOlds_cons_other {h : Hb} {u : HbItem} {p : List HbItem} (hp : h.pend = u :: p) {w n : Nat} (hu : u.regOld w n = none) (a : Agent) :
    h.regOlds w n a = { h with pend := p }.regOlds w n a := by simp [Hb.regOlds, hp, hu]

/-- A write that happens-before hides what the register held. -/
theorem Hb.regOlds_cons_before {h : Hb} {u : HbItem} {p : List HbItem} (hp : h.pend = u :: p) {w n : Nat} {a : Agent} (hu : (u.regOld w n).isSome = true)
    (ha : u.before a = true) : h.regOlds w n a = [] := by simp [Hb.regOlds, hp, hu, ha]

theorem Hb.regOlds_cons_open {h : Hb} {u : HbItem} {p : List HbItem} (hp : h.pend = u :: p) {w n : Nat} {a : Agent} {old : Word} (hu : u.regOld w n = some old)
    (ha : u.before a = false) : h.regOlds w n a = old :: { h with pend := p }.regOlds w n a := by simp [Hb.regOlds, hp, hu, ha]

theorem Hb.regOlds_of_none {h : Hb} {w n : Nat} (hn : ∀ u ∈ h.pend, u.regOld w n = none) (a : Agent) : h.regOlds w n a = [] := by
  have : h.pend.filter (fun u => (u.regOld w n).isSome) = [] := by simpa using hn
  simp [Hb.regOlds, this]

theorem Hb.regOlds_of_last_before {h : Hb} {w n : Nat} {u : HbItem} (hu : (h.pend.find? fun u => (u.regOld w n).isSome) = some u) {a : Agent}
    (ha : u.before a = true) : h.regOlds w n a = [] := by
  have hhead : (h.pend.filter fun u => (u.regOld w n).isSome).head? = some u := by rw [List.head?_filter, hu]
  obtain ⟨rest, hrest⟩ := List.head?_eq_some_iff.1 hhead
  simp [Hb.regOlds, hrest, ha]

/-- 01 R29: a thread to which every write of a register is visible reads the register. -/
theorem State.greg_of_seen {s : State} {t : Thread} {n : Nat} (h : s.hb.regOlds t.wg n (s.agent t.wg t.gang t.lane) = []) :
    s.greg t n = ((s.wg t.wg).g[n]?).getD 0 := by simp [State.greg, h]

section
variable (s : State) (n : Nat) (x : Word)

/-- 01 R29: a uniform register written by the lanes of the current issue. -/
def State.setOwn : State := s.setG s.cur.wg s.cur.gang s.cur.lanes n x

/-- The access that this write is recorded as. -/
def State.regItem : HbItem :=
  { uid := s.uid, what := .reg n (((s.wg s.cur.wg).g[n]?).getD 0), wg := s.cur.wg, gang := s.cur.gang, lanes := s.cur.lanes }

theorem State.setOwn_pend : (s.setOwn n x).hb.pend = s.regItem n :: s.hb.pend := rfl

theorem State.wg_setOwn (w : Nat) : (s.setOwn n x).wg w = if w = s.cur.wg then { s.wg w with g := (s.wg w).g.set n x } else s.wg w :=
  s.wg_updWg s.cur.wg (f := fun v => { v with g := v.g.set n x }) (fun _ => rfl) rfl w

@[simp] theorem State.agent_setOwn (w g l : Nat) : (s.setOwn n x).agent w g l = s.agent w g l := by
  unfold State.agent
  rw [State.wg_setOwn]
  split <;> rfl

theorem State.regOld_regItem (w m : Nat) :
    (s.regItem n).regOld w m = if w = s.cur.wg ∧ m = n then some (((s.wg s.cur.wg).g[n]?).getD 0) else none := by
  have h : (s.regItem n).regOld w m = if s.cur.wg == w && n == m then some (((s.wg s.cur.wg).g[n]?).getD 0) else none := rfl
  rw [h]
  refine if_congr ?_ rfl rfl
  rw [Bool.and_eq_true, beq_iff_eq, beq_iff_eq, eq_comm, eq_comm (a := n)]

theorem State.before_regItem (w g l : Nat) : (s.regItem n).before (s.agent w g l) = true ↔ w = s.cur.wg ∧ g = s.cur.gang ∧ l ∈ s.cur.lanes := by
  have h : (s.regItem n).before (s.agent w g l) = (s.cur.wg == w && s.cur.gang == g && s.cur.lanes.contains l || false) := rfl
  rw [h, Bool.or_false, Bool.and_eq_true, Bool.and_eq_true, beq_iff_eq, beq_iff_eq, List.contains_iff_mem, and_assoc, eq_comm, eq_comm (a := s.cur.gang)]

/-- Every other register, and every register of another workgroup, reads as before. -/
theorem State.greg_setOwn_other {t : Thread} {m : Nat} (h : ¬ (t.wg = s.cur.wg ∧ m = n)) : (s.setOwn n x).greg t m = s.greg t m := by
  have hold : (s.setOwn n x).hb.regOlds t.wg m ((s.setOwn n x).agent t.wg t.gang t.lane) = s.hb.regOlds t.wg m (s.agent t.wg t.gang t.lane) := by
    rw [State.agent_setOwn, Hb.regOlds_cons_other (s.setOwn_pend n x) (by rw [State.regOld_regItem, if_neg h])]
    rfl
  have hcur : ((s.setOwn n x).wg t.wg).g[m]? = (s.wg t.wg).g[m]? := by
    rw [State.wg_setOwn]
    split
    case isTrue hw => rw [List.getElem?_set_ne fun e => h ⟨hw, e.symm⟩]
    case isFalse => rfl
  unfold State.greg
  rw [hold, hcur]
  rfl

theorem State.getElem?_setOwn (hn : n < (s.wg s.cur.wg).g.length) : ((s.setOwn n x).wg s.cur.wg).g[n]? = some x := by
  rw [State.wg_setOwn, if_pos rfl]
  exact List.getElem?_set_self hn

/-- The lanes of the issue read the new value at once. -/
theorem State.greg_setOwn_issue (hn : n < (s.wg s.cur.wg).g.length) {t : Thread} (hw : t.wg = s.cur.wg) (hg : t.gang = s.cur.gang) (hl : t.lane ∈ s.cur.lanes) :
    (s.setOwn n x).greg t n = x := by
  have hseen : (s.setOwn n x).hb.regOlds t.wg n ((s.setOwn n x).agent t.wg t.gang t.lane) = [] := by
    rw [State.agent_setOwn]
    exact Hb.regOlds_cons_before (s.setOwn_pend n x) (by rw [State.regOld_regItem, if_pos ⟨hw, rfl⟩]; rfl) ((s.before_regItem n _ _ _).2 ⟨hw, hg, hl⟩)
  rw [State.greg_of_seen hseen, hw, State.getElem?_setOwn s n x hn, Option.getD_some]

/-- A thread of the workgroup outside the issue, to which the writes before were visible, reads the new value or the one before it. -/
theorem State.greg_setOwn_outside (hn : n < (s.wg s.cur.wg).g.length) {t : Thread} (hw : t.wg = s.cur.wg) (hg : t.gang ≠ s.cur.gang ∨ t.lane ∉ s.cur.lanes)
    (hseen : s.hb.regOlds t.wg n (s.agent t.wg t.gang t.lane) = []) :
    (s.setOwn n x).greg t n = x ∨ (s.setOwn n x).greg t n = ((s.wg s.cur.wg).g[n]?).getD 0 := by
  have hopen : (s.regItem n).before (s.agent t.wg t.gang t.lane) = false := by
    rw [Bool.eq_false_iff]
    intro h
    obtain ⟨_, hg', hl'⟩ := (s.before_regItem n _ _ _).1 h
    exact hg.elim (fun e => e hg') fun e => e hl'
  have hold : (s.setOwn n x).hb.regOlds t.wg n ((s.setOwn n x).agent t.wg t.gang t.lane) = [((s.wg s.cur.wg).g[n]?).getD 0] := by
    rw [State.agent_setOwn, Hb.regOlds_cons_open (s.setOwn_pend n x) (by rw [State.regOld_regItem, if_pos ⟨hw, rfl⟩]) hopen]
    exact congrArg _ hseen
  have hcur : ((s.setOwn n x).wg t.wg).g[n]? = some x := by rw [hw, State.getElem?_setOwn s n x hn]
  unfold State.greg
  rw [hold, hcur]
  simp only [List.isEmpty_cons, Bool.false_eq_true, if_false, Option.getD_some, List.length_singleton]
  rcases Nat.mod_two_eq_zero_or_one ((s.setOwn n x).free [1, n, t.gang, t.lane]).toNat with h | h <;> simp [h]

end

/-! ### The value written (01 R29) -/

theorem getElem?_getD_mem {α : Type} {l : List α} {i : Nat} (h : i < l.length) (d : α) : (l[i]?).getD d ∈ l := by
  rw [List.getElem?_eq_getElem h]
  exact List.getElem_mem h

theorem State.freePick_mem (s : State) (site : List Nat) {l : List Nat} (h : l ≠ []) : s.freePick site l ∈ l := by
  cases l with
  | nil => exact absurd rfl h
  | cons x l =>
    simp only [State.freePick]
    split
    · exact List.mem_cons_self
    · exact getElem?_getD_mem (Nat.mod_lt _ (by simp)) _

theorem State.freePick_of_all_eq (s : State) (site : List Nat) {l : List Nat} {x : Nat} (h : l ≠ []) (hx : ∀ y ∈ l, y = x) : s.freePick site l = x :=
  hx _ (s.freePick_mem site h)

/-- The value that a write of a uniform register leaves, of those of the lanes and of others' writes. -/
def State.regPick (s : State) (n : Nat) (vals : List (Nat × Nat)) : Word :=
  let others := vals.flatMap fun v => s.hb.regWritten s.cur.wg n (((s.wg s.cur.wg).g[n]?).getD 0) (s.me v.1)
  let x := BitVec.ofNat 32 (s.freePick [8, n] (vals.map (·.2)))
  if others.isEmpty then x else ((x :: others)[(s.free [9, n]).toNat % (others.length + 1)]?).getD x

theorem State.writeG_of_ne_nil (s : State) (n : Nat) {vals : List (Nat × Nat)} (h : vals ≠ []) : s.writeG n vals = s.setOwn n (s.regPick n vals) := by
  unfold State.writeG
  rw [if_neg (by simpa using h)]
  rfl

theorem State.regPick_mem (s : State) (n : Nat) {vals : List (Nat × Nat)} (h : vals ≠ []) :
    (∃ v ∈ vals, s.regPick n vals = BitVec.ofNat 32 v.2) ∨
      ∃ v ∈ vals, s.regPick n vals ∈ s.hb.regWritten s.cur.wg n (((s.wg s.cur.wg).g[n]?).getD 0) (s.me v.1) := by
  obtain ⟨v, hv, hx⟩ := List.mem_map.1 (s.freePick_mem [8, n] (l := vals.map (·.2)) (by simpa using h))
  unfold State.regPick
  dsimp only
  rw [← hx]
  generalize hothers : (vals.flatMap fun v => s.hb.regWritten s.cur.wg n (((s.wg s.cur.wg).g[n]?).getD 0) (s.me v.1)) = others
  split
  · exact .inl ⟨v, hv, rfl⟩
  · have hmem := getElem?_getD_mem (l := BitVec.ofNat 32 v.2 :: others) (i := (s.free [9, n]).toNat % (others.length + 1)) (Nat.mod_lt _ (by simp))
      (BitVec.ofNat 32 v.2)
    generalize ((BitVec.ofNat 32 v.2 :: others)[(s.free [9, n]).toNat % (others.length + 1)]?).getD (BitVec.ofNat 32 v.2) = y at hmem ⊢
    rcases List.mem_cons.1 hmem with hval | hoth
    · exact .inl ⟨v, hv, hval⟩
    · exact .inr (List.mem_flatMap.1 (hothers ▸ hoth))

theorem State.regPick_of_agreed (s : State) (n : Nat) {vals : List (Nat × Nat)} {x : Nat} (h : vals ≠ []) (hx : ∀ v ∈ vals, v.2 = x)
    (hseen : ∀ v ∈ vals, s.hb.regWritten s.cur.wg n (((s.wg s.cur.wg).g[n]?).getD 0) (s.me v.1) = []) : s.regPick n vals = BitVec.ofNat 32 x := by
  rcases s.regPick_mem n h with ⟨v, hv, he⟩ | ⟨v, hv, he⟩
  · rw [he, hx v hv]
  · rw [hseen v hv] at he
    cases he

end Machine

open Machine Safety

/-- `gmov` (07 R210). -/
theorem exec_gmov (o : Op) {s : State} (h : s.cur.mism < 2) :
    let vals := (s.captureOp { a := .ty o.ty } o).map fun c => (c.lane, c.a)
    exec (.gmov o) s = .next ((s.writeGs o vals).pushLanes o (vals.map fun v => (v.1, v.2, false))).advance := by
  intro vals
  have hx : exec (.gmov o) s = execGmov o s := rfl
  rw [hx, execGmov, Laws.checked_of_mism _ _ h, List.map_map]
  rfl

/-- `gld` whose lanes all read inside the package (07 R211). -/
theorem exec_gld (o : Op) (sp : Space) {s : State} {caps : List Cap} {place : Cap → Except Nat Place} (h : s.cur.mism < 2)
    (hcaps : caps = s.captureOp { a := if sp == .glb then .n64 else .n32 } o) (hplace : place = fun c => s.place sp .read s.cur.wg c.a (4 * o.words))
    (hpass : Passes place caps) (hpois : NonePoisoned s place (4 * o.words) caps) (hasks : NoneAsks s sp place (4 * o.words) caps) :
    let vals := (placed place caps).map fun r => (r.cap.lane, ofBytesLE (s.bytesAt r.cap.lane r.place (4 * o.words)))
    ∃ tl hot vs, exec (.gld o sp) s = .next (((s.noting tl hot vs).writeGs o vals).pushLanes o (vals.map fun v => (v.1, v.2, false))).advance := by
  intro vals
  have hx : exec (.gld o sp) s = execGld o sp s := rfl
  obtain ⟨tl, hot, hcache⟩ := s.cacheLanes_noting sp (fun c => c.a) caps
  have hin : ∀ r ∈ placed place caps, s.leaves s.cur.wg r.place (4 * o.words) = false := by
    intro r hr
    obtain ⟨c, hc, hm⟩ := List.mem_filterMap.1 hr
    split at hm
    case h_1 p hp =>
      cases hm
      exact (hasks c hc p hp).1
    case h_2 => cases hm
  have hnone : (placed place caps).any (fun r => s.leaves s.cur.wg r.place (4 * o.words)) = false := by
    rw [List.any_eq_false]
    exact fun r hr => by simp [hin r hr]
  have hall : (placed place caps).filter (fun r => !s.leaves s.cur.wg r.place (4 * o.words)) = placed place caps :=
    List.filter_eq_self.2 fun r hr => by simp [hin r hr]
  obtain ⟨hot', vs, hfold⟩ := foldl_gldLane o s (placed place caps) tl hot s.hb.views []
  have hpois' : NonePoisoned (s.noting tl hot s.hb.views) place (4 * o.words) caps := hpois
  refine ⟨tl, hot', vs, ?_⟩
  rw [hx, execGld, ← hcaps, Laws.checked_of_mism _ _ h, Laws.withPlaces_of_passes _ (hplace ▸ hpass), ← hplace, hcache, Laws.unpoisoned_of_none _ hpois']
  simp only [State.leaves_noting, State.noting_cur, hnone, hall, hfold, Bool.false_eq_true, if_false, State.gldDone, List.nil_append, List.map_map,
    Function.comp_def, Option.getD_some, vals]

/-- Settles O32: `gmov` and `gld` by their shared end (`writeGs_push_advance`), what is written by `regPick_mem`, and what each thread reads by the
`greg_setOwn` lemmas. -/
theorem uniformWrites : Obligations.UniformWrites := by
  refine ⟨fun o s h => ?_, fun o sp s hsp => ?_, fun s n x vals w hw hn hne hx hseen => ?_, fun s n vals hne => ?_, fun s t n h => State.greg_of_seen h,
    fun h w n a => ⟨fun hnone => Hb.regOlds_of_none hnone a, fun u hu ha => Hb.regOlds_of_last_before hu ha⟩⟩
  · intro vals
    obtain ⟨th, hadv, hth⟩ := s.writeGs_push_advance o vals
    exact ⟨th, by rw [exec_gmov o h, hadv], hth⟩
  · intro caps place vals hm hpass hpois hasks
    obtain ⟨tl, hot, vs, hexec⟩ := exec_gld o sp hm rfl rfl hpass hpois hasks
    obtain ⟨th, hadv, hth⟩ := (s.noting tl hot vs).writeGs_push_advance o vals
    have hnote : ((s.noting tl hot vs).writeGs o vals).pushLanes o (vals.map fun v => (v.1, v.2, false)) =
        ((s.writeGs o vals).pushLanes o (vals.map fun v => (v.1, v.2, false))).noting tl hot vs := by
      rw [State.writeGs_noting, State.pushLanes, State.push_noting, State.pushLanes]
    refine ⟨th, tl, hot, s.rdc, ((s.writeGs o vals).pushLanes o (vals.map fun v => (v.1, v.2, false))).noting s.tlb s.hot vs, ?_, ?_, hth⟩
    · rw [hexec, hadv, hnote, State.pushLanes, Laws.push_frame, State.writeGs_eq]
      rfl
    · rw [State.pushLanes, Laws.push_frame, State.writeGs_eq]
      rfl
  · have hg : s.wg s.cur.wg = w := by simp [State.wg, hw]
    subst hg
    have hwrite : s.writeG n vals = s.setOwn n (BitVec.ofNat 32 x) := by
      rw [s.writeG_of_ne_nil n hne, s.regPick_of_agreed n hne (fun v hv => (hx v hv).1) hseen]
    rw [hwrite]
    exact ⟨rfl, fun t => s.greg_setOwn_issue n _ hn, fun t hw hg => s.greg_setOwn_outside n _ hn hw hg,
      fun t hw m => s.greg_setOwn_other n _ fun e => hw e.1, fun t m hm => s.greg_setOwn_other n _ fun e => hm e.2⟩
  · exact ⟨_, s.writeG_of_ne_nil n hne, s.regPick_mem n hne⟩

end Sys2Proof
end

section
/-! SUPPORT. Meetings of lanes (01 R26, 07 R189, R212 to R216): the threads of an issue that are all that their gang waits for arrive, combine as one
event, and go on. -/

namespace Sys2Proof

namespace Machine

/-! ### Values by lane -/

theorem laneVal_map_snd {α β : Type} (f : Nat → α → β) (lane : Nat) : ∀ l : List (Nat × α),
    laneVal (l.map fun x => (x.1, f x.1 x.2)) lane = (laneVal l lane).map (f lane)
  | [] => rfl
  | (k, x) :: l => by
    simp only [List.map_cons, laneVal]
    split
    case isTrue h => simp [h]
    case isFalse => exact laneVal_map_snd f lane l

theorem laneVal_eq_none {α : Type} {lane : Nat} : ∀ {l : List (Nat × α)}, (∀ x ∈ l, x.1 ≠ lane) → laneVal l lane = none
  | [], _ => rfl
  | (k, x) :: l, h => by
    simp only [laneVal, if_neg (h (k, x) List.mem_cons_self)]
    exact laneVal_eq_none fun y hy => h y (List.mem_cons_of_mem _ hy)

theorem exists_laneVal {α : Type} {lane : Nat} : ∀ {l : List (Nat × α)}, lane ∈ l.map (·.1) → ∃ v, laneVal l lane = some v ∧ (lane, v) ∈ l
  | (k, x) :: l, h => by
    by_cases hk : k = lane
    · exact ⟨x, by simp [laneVal, hk], by simp [hk]⟩
    · obtain ⟨v, hv, hm⟩ := exists_laneVal (l := l) ((List.mem_cons.1 h).resolve_left fun e => hk e.symm)
      exact ⟨v, by simp [laneVal, hk, hv], List.mem_cons_of_mem _ hm⟩

theorem laneVal_of_nodup {α : Type} {lane : Nat} {v : α} : ∀ {l : List (Nat × α)}, (l.map (·.1)).Nodup → (lane, v) ∈ l → laneVal l lane = some v
  | (k, x) :: l, hn, hm => by
    rw [List.map_cons, List.nodup_cons] at hn
    rcases List.mem_cons.1 hm with h | h
    · simp only [laneVal, (Prod.mk.inj h).1, (Prod.mk.inj h).2, if_true]
    · have hne : k ≠ lane := fun e => hn.1 (e ▸ List.mem_map_of_mem (f := (·.1)) h)
      simp only [laneVal, if_neg hne]
      exact laneVal_of_nodup hn.2 h

/-! ### Results change registers alone (07 R214) -/

/-- What a thread's state and record do not decide. -/
def Thread.as (t : Thread) (st : TState) (q : Option SyncRec) : Thread := { t with st := st, sync := q }

theorem Thread.setPred_as (t : Thread) (st : TState) (q : Option SyncRec) (n : Nat) (b : Bool) : (t.as st q).setPred n b = (t.setPred n b).as st q := by
  unfold Thread.setPred
  split <;> rfl

theorem Thread.setVs_as (k : Nat) : ∀ (t : Thread) (st : TState) (q : Option SyncRec) (n x : Nat), (t.as st q).setVs n k x = (t.setVs n k x).as st q := by
  induction k with
  | zero => exact fun _ _ _ _ _ => rfl
  | succ k ih => exact fun t st q n x => ih (t.setV n (BitVec.ofNat 32 x)) st q (n + 1) (x / 2 ^ 32)

theorem Thread.writeDst_as (t : Thread) (st : TState) (q : Option SyncRec) (o : Op) (k x : Nat) :
    (t.as st q).writeDst o k x = (t.writeDst o k x).as st q := by
  unfold Thread.writeDst
  cases o.dst with
  | v n => exact Thread.setVs_as _ _ _ _ _ _
  | p n => exact Thread.setPred_as _ _ _ _ _
  | _ => rfl

theorem writeBoth_as (o : Op) (t : Thread) (st : TState) (q : Option SyncRec) (x : Nat) (y : Bool) : writeBoth o (t.as st q) x y = (writeBoth o t x y).as st q := by
  rw [writeBoth, Thread.writeDst_as, Thread.setPred_as, writeBoth]

theorem State.xWrite_as (s : State) (t : Thread) (st : TState) (q : Option SyncRec) (r : SyncRec) (x : XOut) :
    s.xWrite (t.as st q) r x = (s.xWrite t r x).as st q := by
  unfold State.xWrite
  dsimp only
  split
  · rfl
  · cases x.d with
    | none => exact Thread.setPred_as _ _ _ _ _
    | some d => exact writeBoth_as _ _ _ _ _ _

/-- Results go to registers: a thread keeps its place, and all but registers. -/
theorem State.xWrite_eq (s : State) (t : Thread) (r : SyncRec) (x : XOut) : s.xWrite t r x = { t with v := (s.xWrite t r x).v, p := (s.xWrite t r x).p } := by
  unfold State.xWrite
  dsimp only
  split
  · rfl
  · cases x.d with
    | none =>
      dsimp only
      rw [Thread.setPred_v]
      exact Thread.setPred_eq _ _ _
    | some d => exact writeBoth_eq _ _ _ _

/-! ### A gang without a Synchronising thread -/

theorem syncRecs_of_noneSync {s : State} {w g : Nat} (h : Safety.NoneSync s w g) : syncRecs (s.gangThreads w g) = [] := by
  unfold syncRecs
  rw [List.filterMap_eq_nil_iff]
  intro t ht
  obtain ⟨hm, hg⟩ := List.mem_filter.1 ht
  simp only [Bool.and_eq_true, beq_iff_eq] at hg
  exact if_neg (by simpa using h t hm hg.1 hg.2)

/-- Nothing is left to combine. -/
theorem State.resolveGo_of_noneSync {s : State} {w g : Nat} (h : Safety.NoneSync s w g) : ∀ n, State.resolveGo w g n s = s
  | 0 => rfl
  | n + 1 => by simp [State.resolveGo, syncRecs_of_noneSync h]

/-! ### A meeting of some threads, all of which have arrived -/

/-- 07 R189: where a vote that is taken goes. -/
def xGoes (mw : Nat) (rs : List (Nat × SyncRec)) (lane : Nat) (r : SyncRec) : Option DWord :=
  if r.on && (xOutcome mw rs lane r).taken then (voteTarget r.instr).map (targetAddr r.at_) else none

/-- 07 R189: the lanes whose vote goes to a slot without `TGT`. -/
def State.xBad (s : State) (w : Nat) (rs : List (Nat × SyncRec)) : List Nat :=
  (rs.filter fun x => ((xGoes (s.launchOf w).maskW rs x.1 x.2).map (s.badTarget w)).getD false).map (·.1)

/-- 01 R26, 07 R189: where a thread of a lane with a record goes after its meeting: to the target of its vote or after the instruction, or, where the vote raises a
trap, nowhere. -/
def State.xPlace (s : State) (w : Nat) (rs : List (Nat × SyncRec)) (lane : Nat) (r : SyncRec) (u : Thread) : Thread :=
  if (s.xBad w rs).contains lane then u
  else match xGoes (s.launchOf w).maskW rs lane r with
    | some a => u.jump a
    | none => u.goto r.next r.past

/-- 01 R26, 07 R214: a thread of a lane with a record after its meeting: with its results, Ready, at its place. -/
def State.xMove (s : State) (w : Nat) (rs : List (Nat × SyncRec)) (t : Thread) (r : SyncRec) : Thread :=
  s.xPlace w rs t.lane r ((s.xWrite t r (xOutcome (s.launchOf w).maskW rs t.lane r)).as .ready none)

/-- The threads of a gang after a meeting of those with records. -/
def State.xMoveAll (s : State) (w g : Nat) (rs : List (Nat × SyncRec)) : State :=
  s.updThreads (fun t => t.wg == w && t.gang == g) fun t => ((laneVal rs t.lane).map (s.xMove w rs t)).getD t

/-- The meeting of all Synchronising threads of a gang at one address, in a launch without shadow copies or at instructions that are no votes (15 R397). -/
theorem State.resolveOnce_all {s : State} {w g : Nat} {rs : List (Nat × SyncRec)} {a : DWord} (hrs : rs = syncRecs (s.gangThreads w g)) (hne : rs ≠ [])
    (hall : ∀ x ∈ rs, xArrived (s.gangThreads w g) (s.launchOf w).maskW x.1 x.2 = true) (hat : ∀ x ∈ rs, x.2.at_ = a)
    (hsplit : (s.launchOf w).shadow = false ∨ ∀ x ∈ rs, voteTarget x.2.instr = none) :
    s.resolveOnce w g = if (s.xBad w rs).isEmpty then (s.xMoveAll w g rs).settle w g
      else (((s.xMoveAll w g rs).settle w g).updGang w g fun x => { x with reinject := [] }).takeTrap w g
        { cause := 0x03, pc := a, mask := s.xBad w rs, queue := (s.gang w g).reinject } := by
  have hfilter : rs.filter (fun x => xArrived (s.gangThreads w g) (s.launchOf w).maskW x.1 x.2) = rs := List.filter_eq_self.2 hall
  unfold State.resolveOnce
  extract_lets ts l mw rs' done goes bad parts split mine move s1 rest s2
  have hrs' : rs' = rs := hrs.symm
  clear_value rs'
  subst hrs'
  have hdone : done = rs'.map fun x => (x.1, x.2, xOutcome mw rs' x.1 x.2) := congrArg _ hfilter
  have hgoes : ∀ lane r, goes (lane, r, xOutcome mw rs' lane r) = xGoes mw rs' lane r := fun _ _ => rfl
  have hbad : bad = s.xBad w rs' := by
    simp only [bad, hdone, List.filter_map, List.map_map, State.xBad, Function.comp_def]
    refine congrArg _ (List.filter_congr fun x _ => ?_)
    rw [hgoes]
    change (match xGoes mw rs' x.1 x.2 with | some a => s.badTarget w a | none => false) = ((xGoes mw rs' x.1 x.2).map (s.badTarget w)).getD false
    cases xGoes mw rs' x.1 x.2 <;> rfl
  have hsplitnil : split = [] := by
    have hparts : done.filter parts = [] := by
      rw [List.filter_eq_nil_iff]
      intro x hx
      rw [hdone] at hx
      obtain ⟨y, hy, rfl⟩ := List.mem_map.1 hx
      rcases hsplit with h | h
      · simp [parts, l, h]
      · simp [parts, h y hy]
    simp only [split, hparts]
    split <;> rfl
  have hmove : move = fun t => ((laneVal rs' t.lane).map (s.xMove w rs' t)).getD t := by
    funext t
    simp only [move, hdone, List.map_map, Function.comp_def]
    rw [laneVal_map_snd (fun lane r => (r, xOutcome mw rs' lane r)) t.lane rs']
    cases laneVal rs' t.lane with
    | none => rfl
    | some r =>
      simp only [Option.map_some, hsplitnil, hbad, hgoes, State.xMove, State.xPlace, Option.getD_some, List.contains_nil, Bool.false_eq_true, if_false]
      rfl
  have hs1 : s1 = (s.xMoveAll w g rs').settle w g := by
    simp only [s1, hmove]
    rfl
  rw [if_neg (by rw [hdone]; simpa using hne), hsplitnil, List.append_nil, hbad]
  have hval : ∀ k ∈ s.xBad w rs', ∃ q, laneVal rs' k = some q ∧ q.at_ = a := by
    intro k hk
    obtain ⟨x, hx, rfl⟩ := List.mem_map.1 hk
    obtain ⟨q, hq, hm⟩ := exists_laneVal (List.mem_map_of_mem (f := (·.1)) (List.mem_filter.1 hx).1)
    exact ⟨q, hq, hat _ hm⟩
  have hhere : ∀ p : Nat → Bool, (∀ k q, laneVal rs' k = some q → q.at_ = a → p k = true) → (s.xBad w rs').filter p = s.xBad w rs' := by
    intro p hp
    refine List.filter_eq_self.2 fun k hk => ?_
    obtain ⟨q, hq, ha⟩ := hval k hk
    exact hp k q hq ha
  cases hb : s.xBad w rs' with
  | nil => exact hs1
  | cons j r =>
    obtain ⟨q, hq, ha⟩ := hval j (by simp [hb])
    rw [hb] at hhere
    simp only [List.head?_cons, Option.bind_some, hq, Option.map_some, ha, List.isEmpty_cons, Bool.not_false, if_true, Bool.false_eq_true, if_false, s2, hs1]
    rw [hhere _ fun k q hq ha => by simp [hq, ha]]

/-! ### The threads of an issue arrive -/

/-- The threads of the issue, Synchronising with what each brings. -/
def State.arriving (s : State) (bring : Thread → SyncRec) : State :=
  { s with threads := s.threads.map fun t => if s.inIssue t then t.as .sync (some (bring t)) else t }

/-- What the threads of the issue bring, by lane. -/
def State.brought (s : State) (bring : Thread → SyncRec) : List (Nat × SyncRec) := s.issued.map fun t => (t.lane, bring t)

theorem mem_gangThreads {s : State} {w g : Nat} {t : Thread} : t ∈ s.gangThreads w g ↔ t ∈ s.threads ∧ t.wg = w ∧ t.gang = g := by
  simp [State.gangThreads, List.mem_filter]

theorem mem_gangThreads_of_inIssue {s : State} {t : Thread} (ht : t ∈ s.threads) (h : s.inIssue t = true) : t ∈ s.gangThreads s.cur.wg s.cur.gang := by
  simp only [State.inIssue, Bool.and_eq_true, beq_iff_eq] at h
  exact mem_gangThreads.2 ⟨ht, h.1⟩

theorem issued_eq_filter_gangThreads (s : State) : s.issued = (s.gangThreads s.cur.wg s.cur.gang).filter s.inIssue := by
  rw [State.issued, State.gangThreads, List.filter_filter]
  refine List.filter_congr fun t _ => ?_
  unfold State.inIssue
  cases t.wg == s.cur.wg <;> cases t.gang == s.cur.gang <;> simp

section
variable {s : State} {bring : Thread → SyncRec}

theorem gangThreads_arriving : (s.arriving bring).gangThreads s.cur.wg s.cur.gang =
    (s.gangThreads s.cur.wg s.cur.gang).map fun t => if s.inIssue t then t.as .sync (some (bring t)) else t := by
  have hkeep : ((fun t : Thread => t.wg == s.cur.wg && t.gang == s.cur.gang) ∘ fun t => if s.inIssue t then t.as .sync (some (bring t)) else t) =
      fun t => t.wg == s.cur.wg && t.gang == s.cur.gang := by
    funext t
    simp only [Function.comp]
    split <;> rfl
  rw [State.gangThreads, State.arriving, List.filter_map, hkeep, State.gangThreads]

theorem syncRecs_arriving (h : ∀ u ∈ s.gangThreads s.cur.wg s.cur.gang, s.inIssue u = false → u.st ≠ .sync) :
    syncRecs ((s.arriving bring).gangThreads s.cur.wg s.cur.gang) = s.brought bring := by
  rw [gangThreads_arriving, State.brought, issued_eq_filter_gangThreads, syncRecs, List.filterMap_map]
  revert h
  generalize s.gangThreads s.cur.wg s.cur.gang = l
  intro h
  induction l with
  | nil => rfl
  | cons t l ih =>
    have ih := ih fun u hu => h u (List.mem_cons_of_mem _ hu)
    cases ht : s.inIssue t
    · have hst := h t List.mem_cons_self ht
      rw [List.filterMap_cons_none, ih, List.filter_cons_of_neg (by simp [ht])]
      simp [ht, hst]
    · rw [List.filterMap_cons_some (b := (t.lane, bring t)), ih, List.filter_cons_of_pos ht, List.map_cons]
      simp [ht, Thread.as]

/-- 01 R26: with every live member in the issue, all have arrived. -/
theorem xArrived_arriving (h : Safety.AllHere s (s.brought bring)) (hat : ∀ t, (bring t).at_ = s.cur.pc) {x : Nat × SyncRec} (hx : x ∈ s.brought bring) :
    xArrived ((s.arriving bring).gangThreads s.cur.wg s.cur.gang) s.launch.maskW x.1 x.2 = true := by
  obtain ⟨_, _, _, _, _, hmember⟩ := h
  obtain ⟨v, _, rfl⟩ := List.mem_map.1 hx
  unfold xArrived
  rw [Bool.or_eq_true]
  refine .inr (List.all_eq_true.2 fun j hj => ?_)
  cases hbit : bitAt (bring v).mask j
  · rfl
  · rw [Bool.not_true, Bool.false_or, gangThreads_arriving]
    split
    case h_2 => rfl
    case h_1 u hu =>
      obtain ⟨u0, hu0, rfl⟩ := List.mem_map.1 (List.mem_of_find?_eq_some hu)
      have hlane := List.find?_some hu
      cases hin : s.inIssue u0
      · have hlive : u0.live = false := by
          rw [Bool.eq_false_iff]
          intro hl
          simp only [hin, Bool.false_eq_true, if_false, beq_iff_eq] at hlane
          have := hmember _ hx j (List.mem_range.1 hj) hbit u0 hu0 hlane hl
          simp [hin] at this
        simp [hlive]
      · simp [Thread.standsAt, Thread.as, hat]

theorem xBad_arriving (rs : List (Nat × SyncRec)) (w : Nat) : (s.arriving bring).xBad w rs = s.xBad w rs := rfl

theorem xMove_arriving (w : Nat) (rs : List (Nat × SyncRec)) (t : Thread) (st : TState) (q : Option SyncRec) (r : SyncRec) :
    (s.arriving bring).xMove w rs (t.as st q) r = s.xMove w rs t r := by
  have hwrite : ((s.arriving bring).xWrite (t.as st q) r (xOutcome (s.launchOf w).maskW rs t.lane r)).as .ready none =
      (s.xWrite t r (xOutcome (s.launchOf w).maskW rs t.lane r)).as .ready none := by
    rw [State.xWrite_as]
    rfl
  unfold State.xMove
  exact congrArg (s.xPlace w rs t.lane r) hwrite

/-- The meeting of the threads that have arrived leaves every other thread as it was. -/
theorem xMoveAll_arriving (hn : ((s.gangThreads s.cur.wg s.cur.gang).map (·.lane)).Nodup) :
    (s.arriving bring).xMoveAll s.cur.wg s.cur.gang (s.brought bring) =
      { s with threads := s.threads.map fun u => if s.inIssue u then s.xMove s.cur.wg (s.brought bring) u (bring u) else u } := by
  have hlanes : (s.brought bring).map (·.1) = s.issued.map (·.lane) := by simp [State.brought]
  have hnodup : ((s.brought bring).map (·.1)).Nodup := by
    rw [hlanes, issued_eq_filter_gangThreads]
    exact hn.sublist (List.filter_sublist.map _)
  unfold State.xMoveAll State.updThreads State.arriving updWhere
  simp only [List.map_map]
  congr 1
  refine List.map_congr_left fun u hu => ?_
  simp only [Function.comp]
  cases hin : s.inIssue u
  · simp only [Bool.false_eq_true, if_false]
    split
    case isFalse => rfl
    case isTrue hmine =>
      have hnone : laneVal (s.brought bring) u.lane = none := by
        refine laneVal_eq_none fun x hx e => ?_
        obtain ⟨v, hv, rfl⟩ := List.mem_map.1 hx
        have hvin := (List.mem_filter.1 hv).2
        simp only [State.inIssue, Bool.and_eq_true, beq_iff_eq] at hvin hmine hin
        simp only at e
        simp [hmine, ← e] at hin
        exact hin (List.contains_iff_mem.1 hvin.2)
      rw [hnone]
      rfl
  · have hval : laneVal (s.brought bring) u.lane = some (bring u) :=
      laneVal_of_nodup hnodup (List.mem_map.2 ⟨u, List.mem_filter.2 ⟨hu, hin⟩, rfl⟩)
    have hmine := hin
    simp only [State.inIssue, Bool.and_eq_true] at hmine
    have hl : ∀ (st : TState) (q : Option SyncRec), (u.as st q).lane = u.lane := fun _ _ => rfl
    simp only [if_true, hl, hval, Option.map_some, Option.getD_some]
    rw [if_pos (by simpa [Thread.as] using hmine.1)]
    exact xMove_arriving _ _ _ _ _ _

/-- The threads of the meeting when the meetings at addresses that it completes have taken effect too. -/
def State.crossed (s : State) (bring : Thread → SyncRec) : State :=
  ({ s with threads := s.threads.map fun u => if s.inIssue u then s.xMove s.cur.wg (s.brought bring) u (bring u) else u } : State).settle s.cur.wg s.cur.gang

theorem crossed_eq : s.crossed bring = { s with threads := (s.crossed bring).threads } := by
  rw [State.crossed, Laws.settle_frame]

theorem crossed_threads : List.Forall₂ (fun u u' =>
    Safety.Moved (if s.inIssue u then s.xMove s.cur.wg (s.brought bring) u (bring u) else u) u' ∧
    (u'.pc, u'.past) = if s.inIssue u then ((s.xMove s.cur.wg (s.brought bring) u (bring u)).pc, (s.xMove s.cur.wg (s.brought bring) u (bring u)).past)
      else (u.pc, u.past)) s.threads (s.crossed bring).threads := by
  have h := Laws.settle_threads ({ s with threads := s.threads.map fun u => if s.inIssue u then s.xMove s.cur.wg (s.brought bring) u (bring u) else u } : State)
    s.cur.wg s.cur.gang
  refine (List.forall₂_map_left_iff.1 h).imp fun u u' ⟨hm, hpc, hpast, _⟩ => ⟨hm, ?_⟩
  rw [hpc, hpast]
  split <;> rfl

/-- A meeting leaves its threads as their registers and their places say. -/
theorem xPlace_st (s : State) (w : Nat) (rs : List (Nat × SyncRec)) (lane : Nat) (r : SyncRec) (u : Thread) : (s.xPlace w rs lane r u).st = u.st := by
  unfold State.xPlace
  split
  · rfl
  · split <;> rfl

theorem xPlace_wg_gang (s : State) (w : Nat) (rs : List (Nat × SyncRec)) (lane : Nat) (r : SyncRec) (u : Thread) :
    (s.xPlace w rs lane r u).wg = u.wg ∧ (s.xPlace w rs lane r u).gang = u.gang := by
  unfold State.xPlace
  split
  · exact ⟨rfl, rfl⟩
  · split <;> exact ⟨rfl, rfl⟩

theorem xMove_st (s : State) (w : Nat) (rs : List (Nat × SyncRec)) (t : Thread) (r : SyncRec) : (s.xMove w rs t r).st = .ready := by
  rw [State.xMove, xPlace_st]
  rfl

theorem exists_of_forall₂_right {α β : Type} {R : α → β → Prop} {l : List α} {l' : List β} (h : List.Forall₂ R l l') : ∀ {b}, b ∈ l' → ∃ a ∈ l, R a b := by
  induction h with
  | nil => exact fun hb => absurd hb List.not_mem_nil
  | cons hr _ ih =>
    intro b hb
    rcases List.mem_cons.1 hb with rfl | hb
    · exact ⟨_, List.mem_cons_self, hr⟩
    · obtain ⟨a, ha, hab⟩ := ih hb
      exact ⟨a, List.mem_cons_of_mem _ ha, hab⟩

theorem crossed_noneSync (h : ∀ u ∈ s.gangThreads s.cur.wg s.cur.gang, s.inIssue u = false → u.st ≠ .sync) :
    Safety.NoneSync (s.crossed bring) s.cur.wg s.cur.gang := by
  intro u' hu' hw hg
  obtain ⟨u, hu, ⟨heq, hst, _, _⟩, _⟩ := exists_of_forall₂_right crossed_threads hu'
  have hready : (if s.inIssue u then s.xMove s.cur.wg (s.brought bring) u (bring u) else u).st ≠ .sync := by
    cases hin : s.inIssue u
    · have hmine : u.wg = s.cur.wg ∧ u.gang = s.cur.gang := by
        rw [heq] at hw hg
        simpa [hin] using And.intro hw hg
      simpa using h u (mem_gangThreads.2 ⟨hu, hmine⟩) hin
    · simp [xMove_st]
  rcases hst with e | ⟨_, e⟩ | ⟨_, e⟩
  · rwa [e]
  all_goals simp [e]

/-! ### A trap leaves no thread Synchronising that was not (15 R379, R380, R386) -/

/-- Each Synchronising thread of `t` is one of `s`. -/
def State.NoNewSync (s t : State) : Prop := ∀ u ∈ t.threads, u.st = .sync → u ∈ s.threads

end

theorem State.NoNewSync.of_threads {s t : State} (h : t.threads = s.threads) : s.NoNewSync t := fun _ hu _ => h ▸ hu

theorem State.NoNewSync.trans {s t r : State} (h : s.NoNewSync t) (h' : t.NoNewSync r) : s.NoNewSync r := fun u hu hs => h u (h' u hu hs) hs

theorem State.NoNewSync.noneSync {s t : State} (h : s.NoNewSync t) {w g : Nat} (hs : Safety.NoneSync s w g) : Safety.NoneSync t w g :=
  fun u hu hw hg hst => hs u (h u hu hst) hw hg hst

/-- Threads that change leave no meeting behind. -/
theorem State.NoNewSync.updWhere {s t : State} {p : Thread → Bool} {f : Thread → Thread} (ht : t.threads = updWhere p f s.threads) (h : ∀ u, (f u).st ≠ .sync) :
    s.NoNewSync t := by
  intro u hu hs
  rw [ht] at hu
  obtain ⟨v, hv, rfl⟩ := List.mem_map.1 hu
  split at hs
  case isTrue hp => exact absurd hs (h v)
  case isFalse hp => simpa [hp] using hv

theorem State.NoNewSync.foldl {α : Type} {f : State → α → State} (h : ∀ (s : State) (x : α), s.NoNewSync (f s x)) : ∀ (l : List α) (s : State), s.NoNewSync (l.foldl f s)
  | [], _ => .of_threads rfl
  | x :: l, s => (h s x).trans (State.NoNewSync.foldl h l (f s x))

theorem noNewSync_stopWg (s : State) (w : Nat) (st : WState) : s.NoNewSync (s.stopWg w st) := .updWhere rfl fun _ => by simp

theorem noNewSync_dropCluster (s : State) (c : Nat) : s.NoNewSync (s.dropCluster c) := fun _ hu _ => (List.mem_filter.1 hu).1

theorem recordError_threads (s : State) (p reason cause wgNum : Nat) : (s.recordError p reason cause wgNum).threads = s.threads := by
  unfold State.recordError
  split <;> rfl

theorem coresFreed_threads (s : State) (p : Nat) : (s.coresFreed p).threads = s.threads := by
  unfold State.coresFreed
  extract_lets s1
  have h1 : s1.threads = s.threads := by simp only [s1]; split <;> rfl
  split
  · exact h1
  · split
    · exact h1
    · exact h1

theorem updateBound_threads (s : State) (p : Nat) : (s.updateBound p).threads = s.threads := by
  unfold State.updateBound
  extract_lets
  split
  · rfl
  · split <;> rfl

theorem startKick_threads (s : State) (p slot : Nat) : (s.startKick p slot).threads = s.threads := by
  unfold State.startKick
  split
  · rfl
  · split <;> rfl

theorem endKicks_threads (s : State) : s.endKicks.threads = s.threads := by
  unfold State.endKicks
  split
  · rfl
  · extract_lets
    rw [startKick_threads, updateBound_threads]
    rfl

theorem noNewSync_failNode (s : State) (n : Nat) : s.NoNewSync (s.failNode n) := by
  unfold State.failNode
  extract_lets cs placed s1 s2 k s3 p s4
  have h1 : s.NoNewSync s1 := .foldl (fun s w => by
    refine .trans (.of_threads ?_) (noNewSync_stopWg _ _ _)
    exact (apply_ite _ _ _ _).trans (ite_self _)) _ _
  have h2 : s1.NoNewSync s2 := .foldl noNewSync_dropCluster _ _
  have h4 : s.NoNewSync s4 := (h1.trans h2).trans (.of_threads (coresFreed_threads s3 p))
  split
  · exact h4.trans (.of_threads (by rw [endKicks_threads, updateBound_threads]))
  · exact h4.trans (.of_threads (updateBound_threads _ _))

theorem noNewSync_kernelError (s : State) (w reason cause : Nat) : s.NoNewSync (s.kernelError w reason cause) :=
  .trans (.of_threads (recordError_threads _ _ _ _ _)) (noNewSync_failNode _ _)

theorem updSlice_eq (s : State) (w g : Nat) (f : Slice → Slice) : s.updSlice w g f = { s with slices := (s.updSlice w g f).slices } := by
  unfold State.updSlice
  extract_lets c i
  split
  · rfl
  · split <;> rfl

theorem noNewSync_enterHandler (s : State) (w g : Nat) (t : TrapInfo) : s.NoNewSync (s.enterHandler w g t) := by
  unfold State.enterHandler
  extract_lets h mine dead goes runs gg tn f s1
  have h1 : s.NoNewSync s1 := .updWhere rfl fun _ => by simp
  refine h1.trans (.of_threads ?_)
  rw [State.dropLatches, updSlice_eq]
  rfl

theorem noNewSync_takeTrap (s : State) (w g : Nat) (t : TrapInfo) : s.NoNewSync (s.takeTrap w g t) := by
  unfold State.takeTrap
  extract_lets
  split
  · split <;> exact noNewSync_kernelError _ _ _ _
  · split
    · exact noNewSync_kernelError _ _ _ _
    · exact noNewSync_enterHandler _ _ _ _

/-! ### What a cross-lane instruction comes to (07 R212 to R216) -/

section
variable {s : State} {i : Instr} {g : Guard} {k : Kinds} {a b c : Src}

/-- What a thread brings to a meeting at the current instruction. -/
def State.bringing (s : State) (i : Instr) (g : Guard) (k : Kinds) (a b c : Src) (t : Thread) : SyncRec :=
  { instr := i, at_ := s.cur.pc, next := s.cur.next, past := s.cur.past, mask := (s.sources k a b c t).b % 2 ^ s.launch.maskW
    on := s.executes g t, a := (s.sources k a b c t).a, c := (s.sources k a b c t).c, word := s.cur.word }

/-- The state after a meeting of the issue, whose votes at a slot without `TGT` raise 0x03 (07 R189). -/
def State.crossEnd (s : State) (bring : Thread → SyncRec) : State :=
  if (s.xBad s.cur.wg (s.brought bring)).isEmpty then s.crossed bring
  else ((s.crossed bring).updGang s.cur.wg s.cur.gang fun x => { x with reinject := [] }).takeTrap s.cur.wg s.cur.gang
    { cause := 0x03, pc := s.cur.pc, mask := s.xBad s.cur.wg (s.brought bring), queue := (s.gang s.cur.wg s.cur.gang).reinject }

theorem brought_bringing : s.brought (s.bringing i g k a b c) = Safety.arrivals s i g k a b c := rfl

theorem arriving_of_issued_nil {bring : Thread → SyncRec} (h : s.issued = []) : s.arriving bring = s := by
  have : (s.threads.map fun t => if s.inIssue t then t.as .sync (some (bring t)) else t) = s.threads := by
    conv_rhs => rw [← List.map_id s.threads]
    exact List.map_congr_left fun t ht => if_neg (List.filter_eq_nil_iff.1 h t ht)
  rw [State.arriving, this]

theorem crossEnd_noneSync {bring : Thread → SyncRec} (h : ∀ u ∈ s.gangThreads s.cur.wg s.cur.gang, s.inIssue u = false → u.st ≠ .sync) :
    Safety.NoneSync (s.crossEnd bring) s.cur.wg s.cur.gang := by
  unfold State.crossEnd
  split
  · exact crossed_noneSync h
  · exact (noNewSync_takeTrap _ _ _ _).noneSync (s := (s.crossed bring).updGang _ _ _) (crossed_noneSync h)

theorem noneSync_of_issued_nil (hnone : s.issued = []) (h : ∀ u ∈ s.gangThreads s.cur.wg s.cur.gang, s.inIssue u = false → u.st ≠ .sync) :
    Safety.NoneSync s s.cur.wg s.cur.gang :=
  fun u hu hw hg => h u (mem_gangThreads.2 ⟨hu, hw, hg⟩) (Bool.eq_false_iff.2 (List.filter_eq_nil_iff.1 hnone u hu))

/-- 01 R26: the meeting of an issue whose members are all there is one event. -/
theorem resolveSync_arriving {bring : Thread → SyncRec} (hall : Safety.AllHere s (s.brought bring)) (hat : ∀ t, (bring t).at_ = s.cur.pc)
    (hsplit : s.launch.shadow = false ∨ ∀ t, voteTarget (bring t).instr = none) :
    (s.arriving bring).resolveSync s.cur.wg s.cur.gang = if s.issued = [] then s else s.crossEnd bring := by
  have ⟨hnodup, _, hret, _, hother, _⟩ := hall
  have hret : ((s.arriving bring).gang s.cur.wg s.cur.gang).returning = false := hret
  rw [State.resolveSync, hret, if_neg Bool.false_ne_true]
  have hrs := syncRecs_arriving (bring := bring) hother
  rw [hrs]
  split
  case isTrue hnone =>
    rw [arriving_of_issued_nil hnone]
    exact State.resolveGo_of_noneSync (noneSync_of_issued_nil hnone hother) _
  case isFalse hsome =>
    have hne : s.brought bring ≠ [] := by simpa [State.brought] using hsome
    have harr := fun x (hx : x ∈ s.brought bring) => xArrived_arriving hall hat hx
    have hmem : ∀ x ∈ s.brought bring, ∃ t, x.2 = bring t := fun x hx => by
      obtain ⟨t, _, rfl⟩ := List.mem_map.1 hx
      exact ⟨t, rfl⟩
    have hone : (s.arriving bring).resolveOnce s.cur.wg s.cur.gang = s.crossEnd bring := by
      rw [State.resolveOnce_all hrs.symm hne harr (a := s.cur.pc)
        (fun x hx => by obtain ⟨t, e⟩ := hmem x hx; rw [e, hat])
        (hsplit.imp id fun h x hx => by obtain ⟨t, e⟩ := hmem x hx; rw [e, h]),
        xMoveAll_arriving hnodup, xBad_arriving]
      rfl
    obtain ⟨n, hn⟩ := Nat.exists_eq_succ_of_ne_zero (List.length_pos_iff.2 hne).ne'
    obtain ⟨x, hx⟩ := List.exists_mem_of_ne_nil _ hne
    rw [hn]
    unfold State.resolveGo
    dsimp only
    rw [hrs, if_pos (List.any_eq_true.2 ⟨x, hx, harr x hx⟩), hone]
    exact State.resolveGo_of_noneSync (crossEnd_noneSync hother) n

theorem updIssue_arrive (h : ∀ u ∈ s.gangThreads s.cur.wg s.cur.gang, s.inIssue u = true → u.pc = s.cur.pc) :
    (s.updIssue fun t => t.as .sync (some { s.bringing i g k a b c t with at_ := t.pc })) = s.arriving (s.bringing i g k a b c) := by
  unfold State.updIssue State.updThreads State.arriving updWhere
  congr 1
  refine List.map_congr_left fun t ht => ?_
  split
  case isFalse => rfl
  case isTrue hin =>
    have hpc := h t (mem_gangThreads_of_inIssue ht hin) hin
    dsimp only
    rw [hpc]
    rfl

theorem cross_eq (hm : s.cur.mism < 2) (hall : Safety.AllHere s (Safety.arrivals s i g k a b c)) (hsplit : s.launch.shadow = false ∨ voteTarget i = none) :
    s.cross i g k a b c = if s.issued = [] then s else s.crossEnd (s.bringing i g k a b c) := by
  have ⟨_, hreplay, _, hhere, hother, _⟩ := hall
  have hres := resolveSync_arriving (bring := s.bringing i g k a b c) hall (fun _ => rfl) (hsplit.imp id fun h _ => h)
  rw [← updIssue_arrive fun u hu hin => (hhere u hu hin).1] at hres
  unfold State.cross
  extract_lets mw
  rw [Laws.checked_of_mism _ _ hm, hreplay, if_neg Bool.false_ne_true]
  extract_lets arrive s1
  have hs1 : s1 = if s.issued = [] then s else s.crossEnd (s.bringing i g k a b c) := hres
  have hnone : Safety.NoneSync s1 s.cur.wg s.cur.gang := by
    rw [hs1]
    split
    case isTrue hnil => exact noneSync_of_issued_nil hnil hother
    case isFalse => exact crossEnd_noneSync hother
  have hany : (s1.threads.any fun t => s.inIssue t && t.st == .sync) = false := by
    rw [List.any_eq_false]
    intro t ht hin
    simp only [State.inIssue, Bool.and_eq_true, beq_iff_eq] at hin
    obtain ⟨⟨⟨hw, hg⟩, _⟩, hst⟩ := hin
    exact hnone t ht hw hg hst
  rw [hany, if_neg Bool.false_ne_true, hs1]

/-! ### Where the threads of a meeting stand -/

theorem xPlace_of_bad {w lane : Nat} {rs : List (Nat × SyncRec)} {r : SyncRec} {u : Thread} (h : (s.xBad w rs).contains lane = true) :
    s.xPlace w rs lane r u = u := if_pos h

theorem xPlace_of_goes {w lane : Nat} {rs : List (Nat × SyncRec)} {r : SyncRec} {u : Thread} {a : DWord} (h : (s.xBad w rs).contains lane = false)
    (hgoes : xGoes (s.launchOf w).maskW rs lane r = some a) : s.xPlace w rs lane r u = u.jump a := by
  rw [State.xPlace, h, if_neg Bool.false_ne_true, hgoes]

theorem xPlace_of_stays {w lane : Nat} {rs : List (Nat × SyncRec)} {r : SyncRec} {u : Thread} (h : (s.xBad w rs).contains lane = false)
    (hgoes : xGoes (s.launchOf w).maskW rs lane r = none) : s.xPlace w rs lane r u = u.goto r.next r.past := by
  rw [State.xPlace, h, if_neg Bool.false_ne_true, hgoes]

theorem laneVal_brought {bring : Thread → SyncRec} (hn : ((s.gangThreads s.cur.wg s.cur.gang).map (·.lane)).Nodup) {u : Thread} (hu : u ∈ s.threads)
    (hin : s.inIssue u = true) : laneVal (s.brought bring) u.lane = some (bring u) := by
  refine laneVal_of_nodup ?_ (List.mem_map.2 ⟨u, List.mem_filter.2 ⟨hu, hin⟩, rfl⟩)
  have hlanes : (s.brought bring).map (·.1) = s.issued.map (·.lane) := by simp [State.brought]
  rw [hlanes, issued_eq_filter_gangThreads]
  exact hn.sublist (List.filter_sublist.map _)

theorem eq_of_lane_eq (hn : ((s.gangThreads s.cur.wg s.cur.gang).map (·.lane)).Nodup) {u v : Thread} (hu : u ∈ s.threads) (hv : v ∈ s.threads)
    (hiu : s.inIssue u = true) (hiv : s.inIssue v = true) (h : u.lane = v.lane) : u = v :=
  List.inj_on_of_nodup_map hn (mem_gangThreads_of_inIssue hu hiu) (mem_gangThreads_of_inIssue hv hiv) h

theorem nextPlace_of_not_replay (h : s.cur.replay = false) (u : Thread) :
    Safety.nextPlace s u = if s.inIssue u then (s.cur.next, s.cur.past) else (u.pc, u.past) := by simp [Safety.nextPlace, h]

/-- Whether a thread of the issue has its vote taken. -/
def State.takes (s : State) (bring : Thread → SyncRec) (u : Thread) : Bool :=
  s.inIssue u && ((bring u).on && (xOutcome s.launch.maskW (s.brought bring) u.lane (bring u)).taken)

theorem eq_brp_of_vote {j : Instr} {t : Target} (h : voteTarget j = some t) : (∃ g p m, j = .brpAny g p m t) ∨ ∃ g p m, j = .brpAll g p m t := by
  cases j <;> simp_all [voteTarget]

theorem xOp_of_vote {j : Instr} {t : Target} (h : voteTarget j = some t) : xOp j = {} := by
  obtain ⟨g, p, m, rfl⟩ | ⟨g, p, m, rfl⟩ := eq_brp_of_vote h <;> rfl

/-- 07 R189: a vote writes nothing. -/
theorem xOutcome_d_of_vote {w lane : Nat} {r : SyncRec} {rs : List (Nat × SyncRec)} {t : Target} (h : voteTarget r.instr = some t) :
    (xOutcome w rs lane r).d = none := by
  unfold xOutcome xMember xOutside
  obtain ⟨g, p, m, e⟩ | ⟨g, p, m, e⟩ := eq_brp_of_vote h <;> rw [e] <;> split <;> [rfl; split; rfl; split] <;> rfl

theorem xWrite_of_vote {r : SyncRec} {x : XOut} {t : Target} (h : voteTarget r.instr = some t) (hx : x.d = none) (u : Thread) : s.xWrite u r x = u := by
  unfold State.xWrite
  rw [xOp_of_vote h, hx]
  dsimp only
  split
  · rfl
  · rfl

theorem xMove_of_vote {bring : Thread → SyncRec} {t : Target} (hvote : ∀ u, voteTarget (bring u).instr = some t) (u : Thread) :
    s.xMove s.cur.wg (s.brought bring) u (bring u) = s.xPlace s.cur.wg (s.brought bring) u.lane (bring u) (u.as .ready none) := by
  rw [State.xMove, xWrite_of_vote (hvote u) (xOutcome_d_of_vote (hvote u))]

section
variable {bring : Thread → SyncRec} {t : Target} (hvote : ∀ u, voteTarget (bring u).instr = some t) (hat : ∀ u, (bring u).at_ = s.cur.pc)
include hvote hat

theorem xGoes_of_vote {u : Thread} (hin : s.inIssue u = true) :
    xGoes s.launch.maskW (s.brought bring) u.lane (bring u) = if s.takes bring u then some (targetAddr s.cur.pc t) else none := by
  simp [xGoes, State.takes, hin, hvote, hat]

theorem xBad_of_target (h : s.noTarget (targetAddr s.cur.pc t) = false) : s.xBad s.cur.wg (s.brought bring) = [] := by
  unfold State.xBad
  rw [List.map_eq_nil_iff, List.filter_eq_nil_iff]
  intro x hx
  obtain ⟨u, hu, rfl⟩ := List.mem_map.1 hx
  have hgoes := xGoes_of_vote hvote hat (List.mem_filter.1 hu).2
  change ¬ ((xGoes s.launch.maskW (s.brought bring) u.lane (bring u)).map (s.badTarget s.cur.wg)).getD false = true
  rw [hgoes]
  split
  · exact Bool.eq_false_iff.1 h
  · exact Bool.false_ne_true

theorem xBad_of_noTarget (h : s.noTarget (targetAddr s.cur.pc t) = true) :
    s.xBad s.cur.wg (s.brought bring) = (s.threads.filter (s.takes bring)).map (·.lane) := by
  have hbad : ∀ u ∈ s.issued, ((xGoes s.launch.maskW (s.brought bring) u.lane (bring u)).map (s.badTarget s.cur.wg)).getD false = s.takes bring u := by
    intro u hu
    rw [xGoes_of_vote hvote hat (List.mem_filter.1 hu).2]
    split
    case isTrue ht => exact h.trans ht.symm
    case isFalse ht => exact (Bool.eq_false_iff.2 ht).symm
  have hissued : s.threads.filter (s.takes bring) = s.issued.filter (s.takes bring) := by
    rw [State.issued, List.filter_filter]
    refine List.filter_congr fun u _ => ?_
    unfold State.takes
    cases s.inIssue u <;> simp
  unfold State.xBad
  rw [State.brought, List.filter_map, List.map_map, hissued]
  exact congrArg (List.map _) (List.filter_congr hbad)

theorem xMove_of_target (h : s.noTarget (targetAddr s.cur.pc t) = false) {u : Thread} (hin : s.inIssue u = true) :
    s.xMove s.cur.wg (s.brought bring) u (bring u) =
      if s.takes bring u then (u.as .ready none).jump (targetAddr s.cur.pc t) else (u.as .ready none).goto (bring u).next (bring u).past := by
  have hgoes := xGoes_of_vote hvote hat hin
  have hgood : (s.xBad s.cur.wg (s.brought bring)).contains u.lane = false := by rw [xBad_of_target hvote hat h, List.contains_nil]
  rw [xMove_of_vote hvote]
  split
  case isTrue ht => exact xPlace_of_goes hgood (hgoes.trans (if_pos ht))
  case isFalse ht => exact xPlace_of_stays hgood (hgoes.trans (if_neg ht))

theorem xMove_of_noTarget (h : s.noTarget (targetAddr s.cur.pc t) = true) (hn : ((s.gangThreads s.cur.wg s.cur.gang).map (·.lane)).Nodup) {u : Thread}
    (hu : u ∈ s.threads) (hin : s.inIssue u = true) :
    s.xMove s.cur.wg (s.brought bring) u (bring u) = if s.takes bring u then u.as .ready none else (u.as .ready none).goto (bring u).next (bring u).past := by
  have hbad : (s.xBad s.cur.wg (s.brought bring)).contains u.lane = s.takes bring u := by
    rw [Bool.eq_iff_iff, List.contains_iff_mem, xBad_of_noTarget hvote hat h, List.mem_map]
    constructor
    · rintro ⟨v, hv, hlane⟩
      obtain ⟨hv, hiv⟩ := List.mem_filter.1 hv
      have hvin : s.inIssue v = true := (Bool.and_eq_true _ _ ▸ hiv).1
      exact eq_of_lane_eq hn hv hu hvin hin hlane ▸ hiv
    · exact fun ht => ⟨u, List.mem_filter.2 ⟨hu, ht⟩, rfl⟩
  rw [xMove_of_vote hvote]
  split
  case isTrue ht => exact xPlace_of_bad (hbad.trans ht)
  case isFalse ht => exact xPlace_of_stays (hbad.trans (Bool.eq_false_iff.2 ht)) ((xGoes_of_vote hvote hat hin).trans (if_neg ht))

end

/-! ### Cross-lane instructions -/

theorem xGoes_of_not_vote {w lane : Nat} {rs : List (Nat × SyncRec)} {r : SyncRec} (h : voteTarget r.instr = none) : xGoes w rs lane r = none := by
  simp [xGoes, h]

theorem xBad_of_not_vote {bring : Thread → SyncRec} {w : Nat} (h : ∀ u, voteTarget (bring u).instr = none) : s.xBad w (s.brought bring) = [] := by
  unfold State.xBad
  rw [List.map_eq_nil_iff, List.filter_eq_nil_iff]
  intro x hx
  obtain ⟨u, _, rfl⟩ := List.mem_map.1 hx
  simp [xGoes_of_not_vote (h u)]

/-- What the threads are changed to and where they stand after a meeting, from what it makes of each. -/
theorem threads_crossed {bring : Thread → SyncRec} {write : Thread → Thread} {place : Thread → DWord × Bool}
    (hin : ∀ u ∈ s.threads, s.inIssue u = true →
      (∃ pc past, s.xMove s.cur.wg (s.brought bring) u (bring u) = (write u).goto pc past ∧ place u = (pc, past)) ∨
      s.xMove s.cur.wg (s.brought bring) u (bring u) = write u ∧ place u = ((write u).pc, (write u).past))
    (hout : ∀ u ∈ s.threads, s.inIssue u = false → write u = u ∧ place u = (u.pc, u.past)) :
    Safety.Threads s write place (s.crossed bring).threads := by
  refine ((List.forall₂_and_left s.threads _).2 ⟨fun u hu => hu, crossed_threads⟩).imp fun u u' ⟨hu, hm, hp⟩ => ?_
  cases h : s.inIssue u
  · obtain ⟨hw, hpl⟩ := hout u hu h
    simp only [h, Bool.false_eq_true, if_false] at hm hp
    rw [hw, hpl]
    exact ⟨hm, hp⟩
  · simp only [h, if_true] at hm hp
    rcases hin u hu h with ⟨pc, past, hx, hpl⟩ | ⟨hx, hpl⟩
    · rw [hx] at hm hp
      exact ⟨Laws.Moved.goto hm, hp.trans hpl.symm⟩
    · rw [hx] at hm hp
      exact ⟨hm, hp.trans hpl.symm⟩

/-- An issue without threads meets nobody. -/
theorem threads_of_issued_nil {write : Thread → Thread} {place : Thread → DWord × Bool} (hnil : s.issued = [])
    (hout : ∀ u ∈ s.threads, s.inIssue u = false → write u = u ∧ place u = (u.pc, u.past)) : Safety.Threads s write place s.threads := by
  refine List.forall₂_same.2 fun u hu => ?_
  obtain ⟨hw, hp⟩ := hout u hu (Bool.eq_false_iff.2 (List.filter_eq_nil_iff.1 hnil u hu))
  rw [hw, hp]
  exact ⟨Laws.Moved.refl u, rfl⟩

end

end Machine

open Machine

/-- A cross-lane instruction that is no vote, all of whose members are there. -/
theorem meets_of_cross {i : Instr} {o : Op} {k : State → Kinds} (hvote : voteTarget i = none)
    (hexec : ∀ s, exec i s = .next (s.cross i o.guard (k s) o.a o.b o.c)) : Safety.Meets i o k := by
  intro s hm hall
  have hv : ∀ u, voteTarget (s.bringing i o.guard (k s) o.a o.b o.c u).instr = none := fun _ => hvote
  have hbad := xBad_of_not_vote (s := s) (w := s.cur.wg) hv
  have ⟨hnodup, hreplay, _⟩ := hall
  have hplace := nextPlace_of_not_replay hreplay
  have hout : ∀ {write : Thread → Thread}, ∀ u ∈ s.threads, s.inIssue u = false →
      (if s.inIssue u then write u else u) = u ∧ Safety.nextPlace s u = (u.pc, u.past) := fun u _ h => by simp [hplace, h]
  rw [hexec, cross_eq hm hall (.inr hvote)]
  split
  case isTrue hnil => exact ⟨s.threads, rfl, threads_of_issued_nil hnil hout⟩
  case isFalse =>
    rw [State.crossEnd, hbad]
    refine ⟨_, congrArg _ crossed_eq, threads_crossed (fun u hu hin => .inl ⟨s.cur.next, s.cur.past, ?_, (hplace u).trans (if_pos hin)⟩) hout⟩
    have hval := laneVal_brought (bring := s.bringing i o.guard (k s) o.a o.b o.c) hnodup hu hin
    rw [brought_bringing] at hval
    rw [State.xMove, xPlace_of_stays (by rw [hbad, List.contains_nil]) (xGoes_of_not_vote (hv u)), if_pos hin, hval]
    rfl

/-- A vote all of whose members are there, in a launch without shadow copies. -/
theorem vote_of_cross {i : Instr} {g : Guard} {k : Kinds} {a b c : Src} {t : Target} {s : State} (hvote : voteTarget i = some t) (hm : s.cur.mism < 2)
    (hshadow : s.launch.shadow = false) (hall : Safety.AllHere s (Safety.arrivals s i g k a b c)) :
    let takes := s.takes (s.bringing i g k a b c)
    (s.noTarget (targetAddr s.cur.pc t) = false → ∃ th, s.cross i g k a b c = { s with threads := th } ∧
      Safety.Threads s (fun u => if s.inIssue u then if takes u then { u.as .ready none with line := none } else u.as .ready none else u)
        (fun u => if takes u then (targetAddr s.cur.pc t, false) else Safety.nextPlace s u) th) ∧
    (s.noTarget (targetAddr s.cur.pc t) = true → (∃ u ∈ s.threads, takes u = true) → ∃ th,
      Safety.Threads s (fun u => if s.inIssue u then u.as .ready none else u) (fun u => if takes u then (u.pc, u.past) else Safety.nextPlace s u) th ∧
      s.cross i g k a b c = ({ s with threads := th }.updGang s.cur.wg s.cur.gang fun x => { x with reinject := [] }).takeTrap s.cur.wg s.cur.gang
        { cause := 0x03, pc := s.cur.pc, mask := (s.threads.filter takes).map Thread.lane, queue := (s.gang s.cur.wg s.cur.gang).reinject }) := by
  have hv : ∀ u, voteTarget (s.bringing i g k a b c u).instr = some t := fun _ => hvote
  have hat : ∀ u, (s.bringing i g k a b c u).at_ = s.cur.pc := fun _ => rfl
  have ⟨hnodup, hreplay, _⟩ := hall
  have hplace := nextPlace_of_not_replay hreplay
  have houtTakes : ∀ u, s.inIssue u = false → s.takes (s.bringing i g k a b c) u = false := fun u h => by simp [State.takes, h]
  have hout : ∀ {write : Thread → Thread} {place : Thread → DWord × Bool}, ∀ u ∈ s.threads, s.inIssue u = false →
      (if s.inIssue u then write u else u) = u ∧
      (if s.takes (s.bringing i g k a b c) u then place u else Safety.nextPlace s u) = (u.pc, u.past) := fun u _ h => by simp [hplace, h, houtTakes u h]
  rw [cross_eq hm hall (.inl hshadow)]
  refine ⟨fun htarget => ?_, fun hno ⟨u, hu, ht⟩ => ?_⟩
  · split
    case isTrue hnil => exact ⟨s.threads, rfl, threads_of_issued_nil hnil hout⟩
    case isFalse =>
      rw [State.crossEnd, xBad_of_target hv hat htarget]
      refine ⟨_, crossed_eq, threads_crossed (fun u hu hin => ?_) hout⟩
      rw [xMove_of_target hv hat htarget hin, if_pos hin]
      cases ht : s.takes (s.bringing i g k a b c) u
      · exact .inl ⟨s.cur.next, s.cur.past, rfl, by simp [hplace, hin]⟩
      · exact .inl ⟨targetAddr s.cur.pc t, false, rfl, rfl⟩
  · have hsome : s.issued ≠ [] := List.ne_nil_of_mem (List.mem_filter.2 ⟨hu, (Bool.and_eq_true _ _ ▸ ht).1⟩)
    have hbad := xBad_of_noTarget hv hat hno
    have hfull : ((s.threads.filter (s.takes (s.bringing i g k a b c))).map (·.lane)).isEmpty = false := by
      simpa [List.isEmpty_iff] using ⟨u, hu, ht⟩
    refine ⟨(s.crossed (s.bringing i g k a b c)).threads, threads_crossed (fun u hu hin => ?_) hout, ?_⟩
    · rw [xMove_of_noTarget hv hat hno hnodup hu hin, if_pos hin]
      cases ht : s.takes (s.bringing i g k a b c) u
      · exact .inl ⟨s.cur.next, s.cur.past, rfl, by simp [hplace, hin]⟩
      · exact .inr ⟨rfl, rfl⟩
    · rw [if_neg hsome, State.crossEnd, hbad, hfull, if_neg Bool.false_ne_true, ← crossed_eq]

/-- A voted branch is the meeting of its vote. -/
theorem exec_brp (all : Bool) (g : Guard) (p : Nat) (mask : Src) (t : Target) (s : State) :
    exec (if all then .brpAll g p mask t else .brpAny g p mask t) s =
      .next (s.cross (if all then .brpAll g p mask t else .brpAny g p mask t) g { a := .pred, b := s.maskKind } (.v p) mask (.v 0)) := by
  cases all <;> rfl

theorem voteTarget_brp (all : Bool) (g : Guard) (p : Nat) (mask : Src) (t : Target) :
    voteTarget (if all then .brpAll g p mask t else .brpAny g p mask t) = some t := by cases all <;> rfl

/-- Settles O27: the threads of the issue arrive and are all that the gang waits for, so their meeting is one event; its results, and for a vote its target, say
what each thread becomes. -/
theorem crossLaneMeets : Obligations.CrossLaneMeets := by
  unfold Obligations.CrossLaneMeets
  refine ⟨fun o => ⟨meets_of_cross rfl fun _ => rfl, meets_of_cross rfl fun _ => rfl, meets_of_cross rfl fun _ => rfl, fun _ => meets_of_cross rfl fun _ => rfl,
    fun _ _ => meets_of_cross rfl fun _ => rfl, meets_of_cross rfl fun _ => rfl, meets_of_cross rfl fun _ => rfl, meets_of_cross rfl fun _ => rfl,
    meets_of_cross rfl fun _ => rfl⟩, ?_⟩
  intro all g p mask t s
  extract_lets i arr out taken voted
  intro hm hshadow hall
  have hvote : voteTarget i = some t := voteTarget_brp all g p mask t
  have hexec : exec i s = .next (s.cross i g { a := .pred, b := s.maskKind } (.v p) mask (.v 0)) := exec_brp all g p mask t s
  obtain ⟨hgo, htrap⟩ := vote_of_cross hvote hm hshadow hall
  have hval : ∀ u ∈ s.threads, s.inIssue u = true →
      out u = some (s.bringing i g { a := .pred, b := s.maskKind } (.v p) mask (.v 0) u,
        xOutcome s.launch.maskW arr u.lane (s.bringing i g { a := .pred, b := s.maskKind } (.v p) mask (.v 0) u)) := by
    intro u hu hin
    have h := laneVal_brought (bring := s.bringing i g { a := .pred, b := s.maskKind } (.v p) mask (.v 0)) hall.1 hu hin
    exact congrArg (Option.map _) h
  have htaken : ∀ u ∈ s.threads, taken u = s.takes (s.bringing i g { a := .pred, b := s.maskKind } (.v p) mask (.v 0)) u := by
    intro u hu
    unfold State.takes
    simp only [taken]
    cases hin : s.inIssue u
    · rfl
    · rw [hval u hu hin]
      rfl
  have hvoted : ∀ u ∈ s.threads, s.inIssue u = true → voted u = u.as .ready none := by
    intro u hu hin
    simp only [voted, hval u hu hin]
    rw [xWrite_of_vote (t := t) hvote (xOutcome_d_of_vote (t := t) hvote)]
    rfl
  have hthreads : ∀ {write write' : Thread → Thread} {place place' : Thread → DWord × Bool} {th : List Thread},
      (∀ u ∈ s.threads, write' u = write u) → (∀ u ∈ s.threads, place' u = place u) → Safety.Threads s write place th → Safety.Threads s write' place' th :=
    fun hw hp h => ((List.forall₂_and_left s.threads _).2 ⟨fun _ hu => hu, h⟩).imp fun u _ ⟨hu, h⟩ => by rwa [hw u hu, hp u hu]
  rw [hexec]
  refine ⟨fun htarget => ?_, fun hno ⟨u, hu, ht⟩ => ?_⟩
  · obtain ⟨th, hth, hmoves⟩ := hgo htarget
    refine ⟨th, congrArg _ hth, hthreads (fun u hu => ?_) (fun u hu => by rw [htaken u hu]) hmoves⟩
    rw [htaken u hu]
    split
    case isTrue hin => rw [hvoted u hu hin]
    case isFalse => rfl
  · obtain ⟨th, hmoves, hth⟩ := htrap hno ⟨u, hu, (htaken u hu).symm.trans ht⟩
    refine ⟨th, hthreads (fun u hu => ?_) (fun u hu => by rw [htaken u hu]) hmoves, ?_⟩
    · split
      case isTrue hin => exact hvoted u hu hin
      case isFalse => rfl
    · rw [hth, List.filter_congr htaken]

end Sys2Proof
end

section
/-! SUPPORT. A slice that two workgroups share, one of which leaves (01 R31, R43). -/

namespace Sys2Proof

namespace Machine

/-- A run of another workgroup's gang that waits on the slice: it keeps its results while others issue (01 R31). -/
def waitingRun : Run := { wg := 2, gang := 0, lanes := [0], line := 0x10000, waits := true }

/-- Two resident workgroups of two clusters, a gang of each on slice 0 of core 0: the gang of workgroup 0 has issued last, a run of the gang of workgroup 2 waits. -/
def sharedSlice : State :=
  { State.reset with
    clusters := [{ uid := 1, node := 0, clid := 0, cx := 0, cy := 0, cz := 0, level := 0, st := .resident },
      { uid := 3, node := 0, clid := 1, cx := 1, cy := 0, cz := 0, level := 0, st := .resident }]
    wgs := [{ uid := 0, cluster := 1, rank := 0, x := 0, y := 0, z := 0, num := 0, st := .resident },
      { uid := 2, cluster := 3, rank := 0, x := 1, y := 0, z := 0, num := 1, st := .resident }]
    gangs := [{ wg := 0, idx := 0, stage := 0, num := 0 }, { wg := 2, idx := 0, stage := 0, num := 0, col := 1 }]
    threads := [{ wg := 0, gang := 0, lane := 0, pc := 0x10000, st := .ready }, { wg := 2, gang := 0, lane := 0, pc := 0x10000, st := .waiting }]
    slices := [{ core := 0, idx := 0, wg := 0, gang := 0, runs := [waitingRun] }] }

/-- The slice is as the gang of workgroup 0 finds it when it takes it over from the gang of workgroup 2 (01 R31). -/
theorem ownSlice_sharedSlice :
    ({ sharedSlice with slices := [{ core := 0, idx := 0, wg := 2, gang := 0, runs := [waitingRun] }] } : State).ownSlice 0 0 = sharedSlice := by decide +kernel

/-- The switch-out of cluster 1 takes the latches and runs of its own gang and leaves the run of workgroup 2, which does not leave. -/
theorem sharedSlice_switchOut : (sharedSlice.switchOut (sharedSlice.cluster 1) [0]).sliceOf 0 0 =
    some { core := 0, idx := 0, wg := 0, gang := 0, runs := [waitingRun] } := by decide +kernel

end Machine

open Machine

/-- Refutes O55, in its clause on the slices of a cluster that leaves: a slice whose last gang leaves may hold a run of another workgroup that waits there (01 R31),
and that run stays. -/
theorem not_placementAndLife : ¬ Obligations.PlacementAndLife := by
  unfold Obligations.PlacementAndLife
  rintro ⟨_, _, _, _, _, _, hleave, _⟩
  obtain ⟨_, _, _, _, hslices⟩ := hleave sharedSlice (sharedSlice.cluster 1) [0] none (by decide +kernel) (by decide +kernel)
  have hruns := (hslices { wg := 0, idx := 0, stage := 0, num := 0 } (by decide +kernel) (by decide +kernel) _ sharedSlice_switchOut rfl rfl).2
  exact List.cons_ne_nil _ _ hruns

end Sys2Proof
end

section
/-! SUPPORT. Integer results (07 R183, R197 to R199), shifts and rotates (R201) and compares (R206) as operations on bit vectors and integers. -/

namespace Sys2Proof

/-! ### Elements (07 R183) -/

/-- Element `i` of a value computed element by element is the function of the elements `i` of the operands: nothing crosses between elements. -/
theorem mapElems_elem (n : Nat) (f : Nat → Nat → Nat → Nat) {k i : Nat} (hi : i < k) (a b c : Nat) :
    mapElems n f k a b c / 2 ^ (n * i) % 2 ^ n = f (a / 2 ^ (n * i)) (b / 2 ^ (n * i)) (c / 2 ^ (n * i)) % 2 ^ n := by
  induction k generalizing i a b c with
  | zero => omega
  | succ k ih =>
    rw [mapElems]
    cases i with
    | zero => simp
    | succ i =>
      have hpow : 2 ^ (n * (i + 1)) = 2 ^ n * 2 ^ (n * i) := by rw [Nat.mul_succ, Nat.add_comm, Nat.pow_add]
      rw [hpow, ← Nat.div_div_eq_div_mul, ← Nat.div_div_eq_div_mul, ← Nat.div_div_eq_div_mul, ← Nat.div_div_eq_div_mul,
        Nat.add_mul_div_left _ _ (Nat.two_pow_pos n), Nat.div_eq_of_lt (Nat.mod_lt _ (Nat.two_pow_pos n)), Nat.zero_add]
      exact ih (Nat.lt_of_succ_lt_succ hi) _ _ _

theorem mapElems_lt (n : Nat) (f : Nat → Nat → Nat → Nat) (k a b c : Nat) : mapElems n f k a b c < 2 ^ (n * k) := by
  induction k generalizing a b c with
  | zero => simp [mapElems]
  | succ k ih =>
    calc mapElems n f (k + 1) a b c
        < 2 ^ n + 2 ^ n * mapElems n f k (a / 2 ^ n) (b / 2 ^ n) (c / 2 ^ n) := Nat.add_lt_add_right (Nat.mod_lt _ (Nat.two_pow_pos n)) _
      _ = 2 ^ n * (mapElems n f k (a / 2 ^ n) (b / 2 ^ n) (c / 2 ^ n) + 1) := by ring
      _ ≤ 2 ^ n * 2 ^ (n * k) := Nat.mul_le_mul_left _ (ih _ _ _)
      _ = 2 ^ (n * (k + 1)) := by rw [← Nat.pow_add, Nat.mul_succ, Nat.add_comm]

theorem mapElems_one (n : Nat) (f : Nat → Nat → Nat → Nat) (a b c : Nat) : mapElems n f 1 a b c = f a b c % 2 ^ n := by simp [mapElems]

theorem Ty.elemBits_mul_elems (t : Ty) : t.elemBits * t.elems = t.bits := by cases t <;> rfl

/-! ### Numbers and bit vectors (00 R10) -/

theorem sext_eq_toInt (x n : Nat) : sext x n = (BitVec.ofNat n x).toInt := by
  have hhalf : x % 2 ^ n < 2 ^ (n - 1) ↔ 2 * (x % 2 ^ n) < 2 ^ n := by
    cases n with
    | zero => simp [Nat.mod_one]
    | succ n => rw [Nat.add_sub_cancel, Nat.pow_succ]; omega
  rw [BitVec.toInt_eq_toNat_cond, BitVec.toNat_ofNat]
  exact if_congr hhalf rfl rfl

theorem sext_toNat {n : Nat} (x : BitVec n) : sext x.toNat n = x.toInt := by rw [sext_eq_toInt, BitVec.ofNat_toNat, BitVec.setWidth_eq]

theorem zext_eq_toNat (i : Int) (n : Nat) : zext i n = (BitVec.ofInt n i).toNat := (BitVec.toNat_ofInt i).symm

theorem zext_lt (i : Int) (n : Nat) : zext i n < 2 ^ n := zext_eq_toNat i n ▸ BitVec.isLt _

theorem natCast_zext (i : Int) (n : Nat) : ((zext i n : Nat) : Int) = i % 2 ^ n := by
  rw [zext, Int.toNat_of_nonneg (Int.emod_nonneg _ (by positivity))]
  push_cast
  rfl

theorem elemVal_eq (signed : Bool) (n x : Nat) :
    elemVal signed n x = if signed then (BitVec.ofNat n x).toInt else ((BitVec.ofNat n x).toNat : Int) := by
  rw [elemVal, sext_eq_toInt, BitVec.toNat_ofNat]

theorem elemVal_signed {n : Nat} (x : BitVec n) : elemVal true n x.toNat = x.toInt := sext_toNat x

theorem elemVal_unsigned {n : Nat} (x : BitVec n) : elemVal false n x.toNat = (x.toNat : Int) := by
  rw [elemVal_eq, BitVec.ofNat_toNat, BitVec.setWidth_eq]
  rfl

/-- 02 R56: clamping to the range of a type. -/
theorem clampInt_eq (signed : Bool) (n : Nat) (r : Int) :
    clampInt signed n r = max (if signed then -(2 ^ (n - 1) : Int) else 0) (min (if signed then 2 ^ (n - 1) - 1 else 2 ^ n - 1) r) := by
  have hhalf : (0 : Int) < 2 ^ (n - 1) := by positivity
  have hfull : (0 : Int) < 2 ^ n := by positivity
  cases signed
  · simp only [clampInt, Bool.false_eq_true, if_false]
    push_cast
    omega
  · simp only [clampInt, if_true]
    push_cast
    omega

/-- 07 R198: element `k` of an integer result. -/
theorem intOp_elem (t : Ty) (sat : Bool) (f : Int → Int → Int → Int) (a b c : Nat) {k : Nat} (hk : k < t.elems) :
    ((intOp t sat f a b c / 2 ^ (t.elemBits * k) % 2 ^ t.elemBits : Nat) : Int) =
      (let r := f (elemVal t.signed t.elemBits (a / 2 ^ (t.elemBits * k))) (elemVal t.signed t.elemBits (b / 2 ^ (t.elemBits * k)))
        (elemVal t.signed t.elemBits (c / 2 ^ (t.elemBits * k)))
       (if sat then clampInt t.signed t.elemBits r else r) % 2 ^ t.elemBits) := by
  rw [intOp, mapElems_elem _ _ hk, Nat.mod_eq_of_lt (zext_lt _ _), natCast_zext]

theorem intOp_lt (t : Ty) (sat : Bool) (f : Int → Int → Int → Int) (a b c : Nat) : intOp t sat f a b c < 2 ^ t.bits :=
  t.elemBits_mul_elems ▸ mapElems_lt _ _ _ _ _ _

/-- A wrapped result of the unsigned 64-bit type. -/
theorem intOp_n64 (f : Int → Int → Int → Int) (x y : BitVec 64) : intOp .n64 false f x.toNat y.toNat 0 = (BitVec.ofInt 64 (f x.toNat y.toNat 0)).toNat := by
  calc intOp .n64 false f x.toNat y.toNat 0
      = zext (f (elemVal false 64 x.toNat) (elemVal false 64 y.toNat) (elemVal false 64 0)) 64 % 2 ^ 64 := by rw [intOp]; exact mapElems_one 64 _ _ _ _
    _ = zext (f x.toNat y.toNat 0) 64 := by rw [Nat.mod_eq_of_lt (zext_lt _ _), elemVal_unsigned, elemVal_unsigned]; rfl
    _ = _ := zext_eq_toNat _ _

/-! ### Carries (07 R199) -/

theorem carryOut_natCast (n m : Nat) : carryOut n (m : Int) = decide (2 ^ n ≤ m) := by
  rw [carryOut, decide_eq_false (by omega), Bool.false_or]
  exact decide_eq_decide.2 Int.ofNat_le

/-- The borrow of an exact difference whose minuend fits. -/
theorem carryOut_sub {n m l : Nat} (hm : m < 2 ^ n) : carryOut n ((m : Int) - l) = decide (m < l) := by
  have hfit : ¬ ((2 ^ n : Nat) : Int) ≤ (m : Int) - l := by omega
  rw [carryOut, decide_eq_false hfit, Bool.or_false]
  exact decide_eq_decide.2 (by omega)

/-! ### Shifts and rotates (07 R201) -/

/-- A quotient by a power of two is settled once the power exceeds the dividend. -/
theorem ediv_two_pow_min {a : Int} {n : Nat} (hlo : -((2 ^ n : Nat) : Int) ≤ a) (hhi : a < ((2 ^ n : Nat) : Int)) (k : Nat) :
    a / ((2 ^ min k n : Nat) : Int) = a / ((2 ^ k : Nat) : Int) := by
  rcases Nat.le_total k n with hk | hk
  · rw [Nat.min_eq_left hk]
  · have hpow : ((2 ^ n : Nat) : Int) ≤ ((2 ^ k : Nat) : Int) := Int.ofNat_le.2 (Nat.pow_le_pow_right (by omega) hk)
    rw [Nat.min_eq_right hk]
    rcases Int.lt_or_le a 0 with ha | ha
    · rw [Int.ediv_eq_neg_one_of_neg_of_le ha (by omega), Int.ediv_eq_neg_one_of_neg_of_le ha (by omega)]
    · rw [Int.ediv_eq_zero_of_lt ha hhi, Int.ediv_eq_zero_of_lt ha (by omega)]

theorem shiftLeft_toNat (t : Ty) (x : BitVec t.bits) (k : Nat) : shiftLeft t x.toNat k = (x <<< k).toNat := by
  rw [shiftLeft, BitVec.toNat_shiftLeft, Nat.shiftLeft_eq]
  split
  case isTrue => rfl
  case isFalse hk => rw [Nat.mod_eq_zero_of_dvd (Dvd.dvd.mul_left (pow_dvd_pow 2 (by omega)) _)]

theorem shiftRight_unsigned {t : Ty} (ht : t.signed = false) (x : BitVec t.bits) (k : Nat) : shiftRight t x.toNat k = (x >>> k).toNat := by
  have hx := x.isLt
  rw [shiftRight, ht, elemVal_unsigned, ediv_two_pow_min (by omega) (by omega), ← Int.natCast_ediv, BitVec.toNat_ushiftRight, Nat.shiftRight_eq_div_pow,
    zext, ← Int.natCast_emod, Int.toNat_natCast, Nat.mod_eq_of_lt (Nat.lt_of_le_of_lt (Nat.div_le_self _ _) hx)]

theorem shiftRight_signed {t : Ty} (ht : t.signed = true) (x : BitVec t.bits) (k : Nat) : shiftRight t x.toNat k = (x.sshiftRight k).toNat := by
  have hx := x.isLt
  have hval := BitVec.toInt_eq_toNat_cond x
  rw [shiftRight, ht, elemVal_signed, ediv_two_pow_min (by split at hval <;> omega) (by split at hval <;> omega), zext_eq_toNat, BitVec.sshiftRight_eq,
    Int.shiftRight_eq_div_pow]

/-- A rotation by less than the width: the low bits move up, and the high ones come in under them. -/
theorem rotated_eq_or {w x s : Nat} (hx : x < 2 ^ w) (hs : s ≤ w) : (x * 2 ^ s + x / 2 ^ (w - s)) % 2 ^ w = x <<< s % 2 ^ w ||| x >>> (w - s) := by
  have hw : 2 ^ w = 2 ^ (w - s) * 2 ^ s := by rw [← Nat.pow_add, Nat.sub_add_cancel hs]
  have hhigh : x / 2 ^ (w - s) < 2 ^ s := Nat.div_lt_of_lt_mul (hw ▸ hx)
  have hlow : x * 2 ^ s % 2 ^ w = (x % 2 ^ (w - s)) * 2 ^ s := by rw [hw, Nat.mul_mod_mul_right]
  have hfit : (x % 2 ^ (w - s)) * 2 ^ s + x / 2 ^ (w - s) < 2 ^ w := by
    have hmod : x % 2 ^ (w - s) + 1 ≤ 2 ^ (w - s) := Nat.mod_lt _ (Nat.two_pow_pos _)
    calc (x % 2 ^ (w - s)) * 2 ^ s + x / 2 ^ (w - s) < (x % 2 ^ (w - s) + 1) * 2 ^ s := by rw [Nat.succ_mul]; omega
      _ ≤ 2 ^ w := hw ▸ Nat.mul_le_mul_right _ hmod
  rw [Nat.shiftLeft_eq, Nat.shiftRight_eq_div_pow, hlow, ← Nat.shiftLeft_eq (x % _), ← Nat.shiftLeft_add_eq_or_of_lt hhigh, Nat.shiftLeft_eq, ← Nat.mod_add_mod,
    hlow, Nat.mod_eq_of_lt hfit]

theorem rotl_toNat {t : Ty} (ht : 0 < t.bits) (x : BitVec t.bits) (k : Nat) : rotl t x.toNat k = (x.rotateLeft k).toNat := by
  rw [rotl, BitVec.toNat_rotateLeft]
  exact rotated_eq_or x.isLt (Nat.mod_lt k ht).le

theorem rotr_toNat {t : Ty} (ht : 0 < t.bits) (x : BitVec t.bits) (k : Nat) : rotr t x.toNat k = (x.rotateRight k).toNat := by
  have hs := Nat.mod_lt k ht
  rw [rotr, rotl, BitVec.toNat_rotateRight]
  rcases Nat.eq_zero_or_pos (k % t.bits) with h0 | hpos
  · have hx : x.toNat / 2 ^ t.bits = 0 := Nat.div_eq_of_lt x.isLt
    simp [h0, hx, Nat.shiftLeft_eq, Nat.mod_eq_of_lt x.isLt]
  · rw [Nat.mod_eq_of_lt (by omega : t.bits - k % t.bits < t.bits), rotated_eq_or x.isLt (by omega), Nat.sub_sub_self hs.le, Nat.or_comm]

/-! ### Compares (07 R206) -/

section
variable {t : Ty} (x y : BitVec t.bits) (c : Bool)

theorem cmpBits_signed (ht : t.signed = true) (k : Cond) : cmpBits t k .none x.toNat y.toNat c = condRel k x.toInt y.toInt := by
  rw [cmpBits, ht, elemVal_signed, elemVal_signed]
  rfl

theorem cmpBits_unsigned (ht : t.signed = false) (k : Cond) : cmpBits t k .none x.toNat y.toNat c = condRel k x.toNat y.toNat := by
  rw [cmpBits, ht, elemVal_unsigned, elemVal_unsigned]
  rfl

/-- Equality is the same of signed and of unsigned types. -/
theorem cmpBits_eq : cmpBits t .eq .none x.toNat y.toNat c = (x == y) := by
  cases ht : t.signed
  · rw [cmpBits_unsigned x y c ht, Bool.eq_iff_iff]
    simp [condRel, BitVec.toNat_inj]
  · rw [cmpBits_signed x y c ht, Bool.eq_iff_iff]
    simp [condRel, BitVec.toInt_inj]

theorem cmpBits_ne : cmpBits t .ne .none x.toNat y.toNat c = (x != y) := congrArg (!·) (cmpBits_eq x y c)

theorem cmpBits_lt_signed (ht : t.signed = true) : cmpBits t .lt .none x.toNat y.toNat c = x.slt y := cmpBits_signed x y c ht .lt

theorem cmpBits_le_signed (ht : t.signed = true) : cmpBits t .le .none x.toNat y.toNat c = x.sle y := cmpBits_signed x y c ht .le

theorem cmpBits_gt_signed (ht : t.signed = true) : cmpBits t .gt .none x.toNat y.toNat c = y.slt x := cmpBits_signed x y c ht .gt

theorem cmpBits_ge_signed (ht : t.signed = true) : cmpBits t .ge .none x.toNat y.toNat c = y.sle x := cmpBits_signed x y c ht .ge

theorem cmpBits_lt_unsigned (ht : t.signed = false) : cmpBits t .lt .none x.toNat y.toNat c = x.ult y := by
  simp [cmpBits_unsigned x y c ht, condRel, BitVec.ult]

theorem cmpBits_le_unsigned (ht : t.signed = false) : cmpBits t .le .none x.toNat y.toNat c = x.ule y := by
  simp [cmpBits_unsigned x y c ht, condRel, BitVec.ule]

theorem cmpBits_gt_unsigned (ht : t.signed = false) : cmpBits t .gt .none x.toNat y.toNat c = y.ult x := by
  simp [cmpBits_unsigned x y c ht, condRel, BitVec.ult]

theorem cmpBits_ge_unsigned (ht : t.signed = false) : cmpBits t .ge .none x.toNat y.toNat c = y.ule x := by
  simp [cmpBits_unsigned x y c ht, condRel, BitVec.ule]

end

/-- Settles O20: results element by element (`intOp_elem`, `clampInt_eq`), shifts, rotates and compares by their laws for every width. -/
theorem integerValues : Obligations.IntegerValues := by
  refine ⟨⟨fun t sat f a b c k hk => ?_, intOp_lt, by decide, by decide, fun x y cin => ?_⟩,
    fun x k => ?_, fun x k => ?_, fun x y c => ?_, fun x y c => ?_, fun x y p q c => ?_, fun ty cond a b c => ⟨rfl, rfl, rfl⟩⟩
  · simpa only [elemVal_eq, clampInt_eq] using intOp_elem t sat f a b c hk
  · refine ⟨?_, ?_, ?_⟩
    · cases cin <;> simp [intOp_n64, BitVec.ofInt_add]
    · rw [elemVal_unsigned, elemVal_unsigned]
      exact_mod_cast carryOut_natCast 64 (x.toNat + y.toNat + cin.toNat)
    · rw [elemVal_unsigned, elemVal_unsigned, sub_sub]
      exact_mod_cast carryOut_sub (l := y.toNat + cin.toNat) x.isLt
  · exact ⟨shiftLeft_toNat .b32 x k, shiftLeft_toNat .s32 x k, shiftLeft_toNat .n32 x k, shiftRight_unsigned (t := .b32) rfl x k,
      shiftRight_unsigned (t := .n32) rfl x k, shiftRight_signed (t := .s32) rfl x k, rotl_toNat (t := .b32) (by decide) x k,
      rotr_toNat (t := .b32) (by decide) x k⟩
  · exact ⟨shiftLeft_toNat .b64 x k, shiftLeft_toNat .s64 x k, shiftLeft_toNat .n64 x k, shiftRight_unsigned (t := .b64) rfl x k,
      shiftRight_unsigned (t := .n64) rfl x k, shiftRight_signed (t := .s64) rfl x k, rotl_toNat (t := .b64) (by decide) x k,
      rotr_toNat (t := .b64) (by decide) x k⟩
  · exact ⟨cmpBits_lt_signed (t := .s32) x y c rfl, cmpBits_lt_unsigned (t := .n32) x y c rfl, cmpBits_le_signed (t := .s32) x y c rfl,
      cmpBits_le_unsigned (t := .n32) x y c rfl, cmpBits_gt_signed (t := .s32) x y c rfl, cmpBits_gt_unsigned (t := .n32) x y c rfl,
      cmpBits_ge_signed (t := .s32) x y c rfl, cmpBits_ge_unsigned (t := .n32) x y c rfl, cmpBits_eq (t := .b32) x y c, cmpBits_ne (t := .b32) x y c⟩
  · exact ⟨cmpBits_lt_signed (t := .s64) x y c rfl, cmpBits_lt_unsigned (t := .n64) x y c rfl, cmpBits_le_signed (t := .s64) x y c rfl,
      cmpBits_le_unsigned (t := .n64) x y c rfl, cmpBits_gt_signed (t := .s64) x y c rfl, cmpBits_gt_unsigned (t := .n64) x y c rfl,
      cmpBits_ge_signed (t := .s64) x y c rfl, cmpBits_ge_unsigned (t := .n64) x y c rfl, cmpBits_eq (t := .b64) x y c, cmpBits_ne (t := .b64) x y c⟩
  · exact ⟨cmpBits_eq (t := .s32) x y c, cmpBits_eq (t := .n32) x y c, cmpBits_ne (t := .s32) x y c, cmpBits_ne (t := .n32) x y c,
      cmpBits_eq (t := .s64) p q c, cmpBits_eq (t := .n64) p q c, cmpBits_ne (t := .s64) p q c, cmpBits_ne (t := .n64) p q c⟩

end Sys2Proof
end

section
/-! SUPPORT. The groups of an `mma` and the tile event of a drain (02 R75 to R80, 10 R294 to R299, 15 R395): what each leaves of the tile, the
operation and the rest of the machine. -/

namespace Sys2Proof

namespace Machine

/-! ### Translations and held words (16 R403, R417) -/

/-- A machine that differs in cached translations and held words alone. -/
def State.TouchedTo (s t : State) : Prop := t = { s with tlb := t.tlb, hot := t.hot }

theorem State.TouchedTo.refl (s : State) : s.TouchedTo s := rfl

theorem State.TouchedTo.trans {s t u : State} (h : s.TouchedTo t) (h' : t.TouchedTo u) : s.TouchedTo u := by
  unfold State.TouchedTo at h h' ⊢
  rw [h', h]

theorem State.TouchedTo.foldl {α : Type} {f : State → α → State} (hf : ∀ (s : State) (x : α), s.TouchedTo (f s x)) (l : List α) (s : State) :
    s.TouchedTo (l.foldl f s) := by
  induction l generalizing s with
  | nil => exact .refl s
  | cons x l ih => exact (hf s x).trans (ih _)

theorem State.TouchedTo.ite {c : Prop} {_ : Decidable c} {s t u : State} (h : s.TouchedTo t) (h' : s.TouchedTo u) : s.TouchedTo (if c then t else u) := by
  split
  · exact h
  · exact h'

theorem State.TouchedTo.wgs {s t : State} (h : s.TouchedTo t) : t.wgs = s.wgs := by rw [h]

theorem State.TouchedTo.eops {s t : State} (h : s.TouchedTo t) : t.eops = s.eops := by rw [h]

theorem State.touched_cachePages (unit p : Nat) (l : List (Nat × Nat)) (s : State) : s.TouchedTo (s.cachePages unit p l) := by
  induction l generalizing s with
  | nil => exact .refl s
  | cons x l ih =>
    unfold State.cachePages
    split
    · exact .trans (s.cache_eq unit p x.1) (ih _)
    · exact s.cache_eq unit p x.1

theorem State.touched_recall (s : State) (a n : Nat) : s.TouchedTo (s.recall a n) := rfl

theorem State.touched_engineTouch (s : State) (unit p a n : Nat) : s.TouchedTo (s.engineTouch unit p a n) := by
  have hcache : s.TouchedTo (s.cacheRange unit p (a % 2 ^ 64) n) := State.touched_cachePages _ _ _ s
  unfold State.engineTouch
  dsimp only
  split
  · exact hcache
  · split
    · exact hcache
    · exact hcache.trans (.foldl (fun s (k : Nat × Nat) => s.touched_recall k.1 k.2) _ _)

theorem State.touched_groupTouch (s : State) (o : EOp) (d : MDesc) : s.TouchedTo (s.groupTouch o d) := by
  unfold State.groupTouch
  dsimp only
  refine .ite (.trans (.ite ?rows (.refl s)) (.foldl (fun s r => s.touched_engineTouch _ _ _ _) _ _)) (.ite ?rows (.refl s))
  exact .foldl (fun s r => .foldl (fun s i => s.touched_engineTouch _ _ _ _) _ s) _ s

/-! ### Operations and lathes -/

theorem State.eop_uid {s : State} {u : Nat} {o : EOp} (h : s.eop u = some o) : o.uid = u := by simpa using List.find?_some h

theorem State.eop_of_eops {s t : State} (h : t.eops = s.eops) (u : Nat) : t.eop u = s.eop u := by rw [State.eop, h, State.eop]

/-- An operation after an update of one that keeps its number. -/
theorem State.eop_updOp {s : State} {u : Nat} {o : EOp} (h : s.eop u = some o) (v : Nat) {f : EOp → EOp} (hf : ∀ p, (f p).uid = p.uid) :
    (s.updOp v f).eop u = some (if u = v then f o else o) := by
  have hkeep : ((fun p : EOp => p.uid == u) ∘ fun p => if p.uid == v then f p else p) = fun p => p.uid == u := by
    funext p
    simp only [Function.comp]
    split
    · rw [hf]
    · rfl
  have hfind : (s.updOp v f).eop u = (s.eop u).map fun p => if p.uid == v then f p else p := by
    unfold State.eop State.updOp updWhere
    rw [List.find?_map, hkeep]
  rw [hfind, h, Option.map_some, State.eop_uid h]
  simp only [beq_iff_eq]

/-- A lathe that begins to compute leaves the workgroups as they are. -/
theorem State.latheGo_wgs (s : State) (core l : Nat) : (s.latheGo core l).wgs = s.wgs := by
  unfold State.latheGo
  dsimp only
  split
  · rfl
  · split
    · rfl
    · split <;> rfl

/-- 10 R297: a lathe that begins to compute gives operations nothing but the time of their next group. -/
theorem State.latheGo_eop {s : State} {u : Nat} {o : EOp} (h : s.eop u = some o) (core l : Nat) :
    ∃ d, (s.latheGo core l).eop u = some { o with due := d } := by
  unfold State.latheGo
  dsimp only
  split
  · exact ⟨o.due, h⟩
  · next p _ =>
    split
    · exact ⟨o.due, h⟩
    · split
      · have hupd := State.eop_updOp h p.uid (f := fun q =>
          { q with due := some (s.latheClk core l + groupClocks (mblockOf p.block).a.form (mblockOf p.block).b.form) }) fun _ => rfl
        rw [hupd]
        split
        · exact ⟨_, rfl⟩
        · exact ⟨o.due, rfl⟩
      · exact ⟨o.due, h⟩

/-! ### Tiles -/

/-- An operation runs on behalf of a workgroup that is there. -/
theorem State.exists_wg_of_opRuns {s : State} {o : EOp} (h : s.opRuns o = true) : ∃ x, (s.wgs.find? fun w => w.uid == o.wg) = some x := by
  refine Option.ne_none_iff_exists'.1 fun hnone => ?_
  have hwg : s.wg o.wg = default := by rw [State.wg, hnone, Option.getD_none]
  rw [State.opRuns, hwg] at h
  exact absurd h (by decide)

theorem State.wg_setTile {s : State} {w : Nat} {x : Wg} (hx : (s.wgs.find? fun y => y.uid == w) = some x) (l t : Nat) (es : List Word) :
    (s.setTile w l t es).wg w = { x with tiles := { lathe := l, tile := t, elems := es } :: x.tiles.filter fun y => !(y.lathe == l && y.tile == t) } := by
  have hfind := find?_updWhere (fun y : Wg => y.uid == w)
    (fun y => { y with tiles := { lathe := l, tile := t, elems := es } :: y.tiles.filter fun z => !(z.lathe == l && z.tile == t) }) (fun _ => rfl) s.wgs
  rw [State.wg, State.setTile, State.updWg_wgs, hfind, hx]
  rfl

/-- 03 R94: a tile that was written reads as what was written. -/
theorem State.tileOf_setTile {s t : State} {w : Nat} {x : Wg} (hx : (s.wgs.find? fun y => y.uid == w) = some x) {l k : Nat} {es : List Word}
    (ht : t.wgs = (s.setTile w l k es).wgs) : t.tileOf w l k = es := by
  have hwg : t.wg w = (s.setTile w l k es).wg w := by rw [State.wg, ht, State.wg]
  rw [State.tileOf, hwg, State.wg_setTile hx]
  simp

/-! ### Groups (10 R294, 15 R395) -/

/-- 02 R75: what a group gives for each element of the tile. -/
def State.groupOuts (s : State) (o : EOp) (b : MBlock) (A B : GroupIn) : List IntOut :=
  (s.startTile o b).zipIdx.map fun (x, k) => mmaElem b.a.form b.b.form A B x.toNat (k / 128) (k % 128)

/-- 02 R78: the status of an `mma` after a group. -/
def groupStatus (status : Nat) (outs : List IntOut) : Nat :=
  status ||| (if outs.any (·.overflow) then 1 else 0) ||| (if outs.any (·.invscale) then 2 else 0)

/-- 10 R294: the machine with a group added to the tile. -/
def State.groupAdded (s : State) (o : EOp) (b : MBlock) (outs : List IntOut) : State :=
  ((s.groupTouch o b.a).groupTouch o b.b).setTile o.wg o.lathe b.tile (outs.map fun x => BitVec.ofNat 32 x.acc)

theorem State.touched_groupTouches (s : State) (o : EOp) (b : MBlock) : s.TouchedTo ((s.groupTouch o b.a).groupTouch o b.b) :=
  (s.touched_groupTouch o b.a).trans (State.touched_groupTouch _ o b.b)

theorem State.groupAdded_eops (s : State) (o : EOp) (b : MBlock) (outs : List IntOut) : (s.groupAdded o b outs).eops = s.eops :=
  (s.touched_groupTouches o b).eops

theorem State.tileOf_groupAdded {s t : State} {o : EOp} (b : MBlock) {outs : List IntOut} (ho : s.opRuns o = true) (ht : t.wgs = (s.groupAdded o b outs).wgs) :
    t.tileOf o.wg o.lathe b.tile = outs.map fun x => BitVec.ofNat 32 x.acc := by
  obtain ⟨x, hx⟩ := State.exists_wg_of_opRuns ho
  rw [← (s.touched_groupTouches o b).wgs] at hx
  exact State.tileOf_setTile hx ht

theorem State.opRuns_of_groupDue {s : State} {o : EOp} {b : MBlock} (h : s.groupDue o b = true) : s.opRuns o = true := by
  simp only [State.groupDue, Bool.and_eq_true] at h
  exact h.1.1.1.1

theorem exec_latheGroupDone {s : State} {op : Nat} {o : EOp} (ho : s.eop op = some o) (hk : o.kind = .mma) (hdue : s.groupDue o (mblockOf o.block) = true)
    (m : Nat) : exec (.latheGroupDone ⟨op, m⟩) s =
      .next (if m = 0 then s.mmaStep o (mblockOf o.block) else s.groupMismatch o (mblockOf o.block)) := by
  show execLatheGroupDone ⟨op, m⟩ s = _
  simp [execLatheGroupDone, ho, hk, hdue]

/-- A group whose operands can be read: the last ends the operation, another brings it to its next group. -/
theorem State.mmaStep_of_ops {s : State} {o : EOp} {b : MBlock} {A B : GroupIn} (hu : o.undef = false) (ha : s.groupBad o.wg o.progress b.a = false)
    (hb : s.groupBad o.wg o.progress b.b = false) (hops : s.groupOps o b = .ok (A, B)) :
    s.mmaStep o b = if o.progress + 1 = b.k / 32 then
        ((((((s.groupAdded o b (s.groupOuts o b A B)).putMma o (b.k / 32) (2 ^ 31 + 16 * o.lathe + groupStatus o.status (s.groupOuts o b A B))).dropOp
          o.uid).engineArrive o.wg b.compl 1 0 (s.opEvent o)).st.latheGo (s.opCore o) o.lathe).latheRest (s.opCore o) o.lathe)
      else ((s.groupAdded o b (s.groupOuts o b A B)).updOp o.uid fun p =>
        { p with progress := p.progress + 1, status := groupStatus o.status (s.groupOuts o b A B), due := none, retried := false }).latheGo (s.opCore o) o.lathe := by
  unfold State.mmaStep
  simp only [ha, hb, hops, hu, Bool.or_false, Bool.false_eq_true, if_false, beq_iff_eq]
  rfl

/-- 10 R294: a group before the last. -/
theorem State.mmaStep_more {s : State} {op : Nat} {o : EOp} {b : MBlock} {A B : GroupIn} (ho : s.eop op = some o) (hdue : s.groupDue o b = true)
    (hu : o.undef = false) (ha : s.groupBad o.wg o.progress b.a = false) (hb : s.groupBad o.wg o.progress b.b = false)
    (hops : s.groupOps o b = .ok (A, B)) (hlast : o.progress + 1 ≠ b.k / 32) :
    (s.mmaStep o b).tileOf o.wg o.lathe b.tile = (s.groupOuts o b A B).map (fun x => BitVec.ofNat 32 x.acc) ∧
      ∃ d, (s.mmaStep o b).eop op =
        some { o with progress := o.progress + 1, status := groupStatus o.status (s.groupOuts o b A B), due := d, retried := false } := by
  rw [State.mmaStep_of_ops hu ha hb hops, if_neg hlast]
  refine ⟨State.tileOf_groupAdded b (State.opRuns_of_groupDue hdue) (State.latheGo_wgs _ _ _), ?_⟩
  have hadded := (State.eop_of_eops (s.groupAdded_eops o b (s.groupOuts o b A B)) op).trans ho
  obtain ⟨d, hd⟩ := State.latheGo_eop (State.eop_updOp hadded o.uid (f := fun p =>
    { p with progress := p.progress + 1, status := groupStatus o.status (s.groupOuts o b A B), due := none, retried := false }) fun _ => rfl) (s.opCore o) o.lathe
  exact ⟨d, by rw [hd, if_pos (State.eop_uid ho).symm]⟩

/-- 15 R395: a group whose checker mismatches is computed again. -/
theorem State.groupMismatch_first (s : State) {o : EOp} (b : MBlock) (h : o.retried = false) : s.groupMismatch o b =
    ((s.mismatch (s.partOf o.wg) 1).updOp o.uid fun p => { p with due := none, retried := true }).latheGo (s.opCore o) o.lathe := if_neg (by simp [h])

/-- 15 R395: a second mismatch of a group stops the `mma`. -/
theorem State.groupMismatch_again (s : State) {o : EOp} (b : MBlock) (h : o.retried = true) :
    s.groupMismatch o b = (s.mismatch (s.partOf o.wg) 1).mmaStop o b (0x50, 0) := if_pos h

/-! ### Integer groups (02 R78) -/

/-- Unscaled products are added exactly and wrap, with the overflow told from the exact sum. -/
theorem intGroup_unscaled (acc : Word) (ps : List Int) :
    intGroup acc.toNat ps 127 127 = { acc := (acc + BitVec.ofInt 32 ps.sum).toNat
                                      overflow := decide (acc.toInt + ps.sum < -2147483648 ∨ 2147483647 < acc.toInt + ps.sum), invscale := false } := by
  have hsum : BitVec.ofInt 32 (acc.toInt + ps.sum) = acc + BitVec.ofInt 32 ps.sum := by rw [BitVec.ofInt_add, BitVec.ofInt_toInt]
  simp [intGroup, sext_toNat, zext_eq_toNat, hsum]

/-- A scale code out of range adds nothing and is noted. -/
theorem intGroup_bad_scale (acc : Word) (ps : List Int) {sa sb : Nat} (h : sa < 127 ∨ sb < 127 ∨ sa = 255 ∨ sb = 255) :
    intGroup acc.toNat ps sa sb = { acc := acc.toNat, overflow := false, invscale := true } := by
  have hbad : (decide (sa < 0x7F) || decide (sb < 0x7F) || sa == 0xFF || sb == 0xFF) = true := by simpa [or_assoc] using h
  have hlo : -2147483648 ≤ acc.toInt := acc.le_toInt
  have hhi : acc.toInt < 2147483648 := acc.toInt_lt
  have hacc : zext acc.toInt 32 = acc.toNat := by rw [zext_eq_toNat, BitVec.ofInt_toInt]
  unfold intGroup
  simp only [hbad, if_true, sext_toNat, add_zero, hacc, IntOut.mk.injEq, Bool.or_eq_false_iff, decide_eq_false_iff_not, true_and, and_true]
  omega

/-! ### Drains (10 R299) -/

theorem exec_drainTileEvent {s : State} {op : Nat} {o : EOp} (ho : s.eop op = some o) (hk : o.kind = .drain) (hr : s.opRuns o = true)
    (hbusy : s.tileBusy o (dblockOf o.block).tile = false) (hturn : s.drainTurn o = true) :
    exec (.drainTileEvent op) s = .next (s.drainStep o (dblockOf o.block)) := by
  show execDrainTileEvent op s = _
  simp [execDrainTileEvent, ho, hk, hr, hbusy, hturn]

/-- 10 R299: the machine with a drain's tile written to its destination. -/
def State.drainWritten (s : State) (o : EOp) (b : DBlock) (rows : List (List (Nat × Nat))) : State :=
  if b.dglb then (s.drainGlobal o b (s.drainTile o b) rows).commitWg o.wg else s.drainLocal o b (s.drainTile o b)

/-- A drain with its destination translated, whose buffered stores are applied, is done whole. -/
theorem State.drainStep_of_clear {s t : State} {o : EOp} {b : DBlock} {rows : List (List (Nat × Nat))} {m : List (Nat × Nat)}
    (hbad : s.drainBad o b = false) (hkeys : s.drainKeys o b = .ok (rows, m)) (ht : t = (s.drainTouch o b).applyPieces o.wg (rows.flatten ++ m))
    (hclear : t.piecesClear o.wg (rows.flatten ++ m) = true) :
    s.drainStep o b = (((((t.drainWritten o b rows).amaxMerge o b m (tileAmax (t.drainTile o b))).dropOp o.uid).engineArrive o.wg b.compl 1 0
      (s.opEvent o)).st.latheGo (s.opCore o) o.lathe).latheRest (s.opCore o) o.lathe := by
  subst ht
  unfold State.drainStep
  simp only [hbad, hkeys, hclear, Bool.false_eq_true, if_false, Bool.not_true]
  rfl

end Machine

open Machine

/-- Settles O45: groups by `State.mmaStep_more` and `State.mmaStep_of_ops`, a mismatch by `State.groupMismatch_first` and
`State.groupMismatch_again`, integer groups by `intGroup_unscaled` and
`intGroup_bad_scale`, a drain by `State.drainStep_of_clear`. -/
theorem matrixGroupsAndDrains : Obligations.MatrixGroupsAndDrains := by
  refine ⟨?_, ?_, fun acc ps sa sb => ⟨intGroup_unscaled acc ps, intGroup_bad_scale acc ps⟩, ?_, ?_⟩
  · intro s op o A B ho hk hu b outs st core s1 hdue ha hb hops
    have hexec := exec_latheGroupDone ho hk hdue 0
    refine ⟨fun hlast => ?_, fun hlast => ?_⟩
    · obtain ⟨htile, d, hd⟩ := State.mmaStep_more ho hdue hu ha hb hops hlast
      exact ⟨_, d, hexec, htile, hd⟩
    · rw [hexec, if_pos rfl, State.mmaStep_of_ops hu ha hb hops, if_pos hlast, State.eop_uid ho]
      rfl
  · intro s op m o ho hk hdue hm
    rw [exec_latheGroupDone ho hk hdue, if_neg hm]
    exact ⟨fun hr => by rw [State.groupMismatch_first s _ hr, State.eop_uid ho], fun hr => by rw [State.groupMismatch_again s _ hr]⟩
  · intro s op o rows m ho hk hr b core s1 es s2 hbusy hturn hbad hkeys hclear
    rw [exec_drainTileEvent ho hk hr hbusy hturn, State.drainStep_of_clear hbad hkeys rfl hclear, State.eop_uid ho]
    rfl
  · intro b d a
    refine ⟨?_, ?_, ?_, ?_⟩ <;> (intro hf ha; simp [drainElem, hf, ha])

end Sys2Proof
end

section
/-! SUPPORT. The order of the fp32 encodings and their extrema (02 R83, 08 R229). -/

namespace Sys2Proof

/-- 02 R49: in a format with infinity, the NaNs are the magnitudes above it. -/
theorem Fmt.isNan_ieee {F : Fmt} (hF : F.kind = .ieee) (x : Nat) : F.isNan x = decide (F.infCode < x % 2 ^ (F.e + F.f)) := by
  have hkind : (FKind.ieee == FKind.nanOnly) = false := rfl
  unfold Fmt.isNan Fmt.decode
  simp only [hF, hkind, beq_self_eq_true, Bool.true_and, Bool.false_and, decide_eq_true_eq, Bool.false_eq_true, if_false]
  split
  · next h => exact (decide_eq_true h).symm
  · next h =>
    rw [decide_eq_false h]
    split
    · rfl
    · split <;> rfl

theorem f32_isNan (x : Nat) : Fmt.f32.isNan x = decide (0x7F800000 < x % 2 ^ 31) := Fmt.isNan_ieee rfl x

/-- The place of an encoding in the order in which -0 is below +0. -/
theorem f32_key (x : Word) : Fmt.f32.key x.toNat = if x.msb then -((x.toNat % 2 ^ 31 : Nat) : Int) - 1 else ((x.toNat % 2 ^ 31 : Nat) : Int) := by
  rw [BitVec.msb_eq_getLsbD_last, BitVec.getLsbD, ← bitAt_eq_testBit]
  rfl

/-- No two encodings have one place in the order. -/
theorem f32_key_injective {x y : Word} (h : Fmt.f32.key x.toNat = Fmt.f32.key y.toNat) : x = y := by
  have hx := x.isLt
  have hy := y.isLt
  rw [f32_key, f32_key, BitVec.msb_eq_decide, BitVec.msb_eq_decide] at h
  simp only [decide_eq_true_eq] at h
  refine BitVec.eq_of_toNat_eq ?_
  split_ifs at h <;> omega

section
variable {x y : Word}

theorem f32_extremum_of_nan (big : Bool) (h : 0x7F800000 < x.toNat % 2 ^ 31 ∨ 0x7F800000 < y.toNat % 2 ^ 31) :
    Fmt.f32.extremum big x.toNat y.toNat = 0x7FC00000 := by
  rw [Fmt.extremum, f32_isNan, f32_isNan, ← Bool.decide_or, if_pos (decide_eq_true h)]
  rfl

/-- Of two numbers the maximum is the one with the greater place, the minimum the other. -/
theorem f32_extremum_of_key_le (big : Bool) (hx : ¬ 0x7F800000 < x.toNat % 2 ^ 31) (hy : ¬ 0x7F800000 < y.toNat % 2 ^ 31)
    (h : Fmt.f32.key x.toNat ≤ Fmt.f32.key y.toNat) : Fmt.f32.extremum big x.toNat y.toNat = if big then y.toNat else x.toNat := by
  rw [Fmt.extremum, f32_isNan, f32_isNan, ← Bool.decide_or, if_neg (by simp only [decide_eq_true_eq]; tauto)]
  rcases h.lt_or_eq with hlt | heq
  · simp [hlt]
  · simp [f32_key_injective heq]

theorem f32_extremum_of_key_ge (big : Bool) (hx : ¬ 0x7F800000 < x.toNat % 2 ^ 31) (hy : ¬ 0x7F800000 < y.toNat % 2 ^ 31)
    (h : Fmt.f32.key y.toNat ≤ Fmt.f32.key x.toNat) : Fmt.f32.extremum big x.toNat y.toNat = if big then x.toNat else y.toNat := by
  rw [Fmt.extremum, f32_isNan, f32_isNan, ← Bool.decide_or, if_neg (by simp only [decide_eq_true_eq]; tauto), decide_eq_false h.not_gt]
  cases big <;> rfl

end

/-- Settles O59: `atNew` is `Fmt.extremum`, whose order tells all encodings apart (`f32_key_injective`). -/
theorem atomicExtrema : Obligations.AtomicExtrema := by
  intro x y z
  dsimp only
  rw [← f32_key, ← f32_key]
  exact ⟨fun h => ⟨f32_extremum_of_nan true h, f32_extremum_of_nan false h⟩, fun hx hy =>
    ⟨fun h => ⟨f32_extremum_of_key_le true hx hy h, f32_extremum_of_key_le false hx hy h⟩,
      fun h => ⟨f32_extremum_of_key_ge true hx hy h, f32_extremum_of_key_ge false hx hy h⟩⟩⟩

end Sys2Proof
end

section
/-! SUPPORT. Bit planes (02 R58) and the checks of a `gcp` of planes (10 R284). -/

namespace Sys2Proof

namespace Machine

/-- The number that the bits at place `i` of some planes make, the first plane's the highest. -/
def planeNum (planes : List (List Byte)) (at_ i : Nat) : Nat := planes.foldl (fun a p => 2 * a + (bitAt ((p[at_]?).getD 0).toNat i).toNat) 0

theorem planeNum_append (planes : List (List Byte)) (p : List Byte) (at_ i : Nat) :
    planeNum (planes ++ [p]) at_ i = 2 * planeNum planes at_ i + (bitAt ((p[at_]?).getD 0).toNat i).toNat := by simp [planeNum]

theorem planeElem_eq (planes : List (List Byte)) (base i : Nat) :
    planeElem planes base i = sext (planeNum planes (i / 8 - base / 8) (i % 8)) planes.length := rfl

/-- One more bit of a byte, taken from the highest on. -/
theorem div_two_pow_step (n : Nat) {k : Nat} (hk : k < 8) : 2 * (n / 2 ^ (8 - k)) + (bitAt n (7 - k)).toNat = n / 2 ^ (8 - (k + 1)) := by
  have hbit : (bitAt n (7 - k)).toNat = n / 2 ^ (7 - k) % 2 := by
    rcases Nat.mod_two_eq_zero_or_one (n / 2 ^ (7 - k)) with h | h <;> simp [bitAt, h]
  have hpow : 2 ^ (8 - k) = 2 ^ (7 - k) * 2 := by rw [← Nat.pow_succ]; congr 1; omega
  rw [hbit, hpow, ← Nat.div_div_eq_div_mul, show 8 - (k + 1) = 7 - k by omega]
  omega

/-- Planes that hold the bits of a byte, the highest first, make its first bits. -/
theorem planeNum_eq_div (planes : List (List Byte)) {at_ i n : Nat} (hn : n < 256) (hlen : planes.length ≤ 8)
    (hbits : ∀ j p, planes[j]? = some p → bitAt ((p[at_]?).getD 0).toNat i = bitAt n (7 - j)) :
    planeNum planes at_ i = n / 2 ^ (8 - planes.length) := by
  induction planes using List.reverseRecOn with
  | nil => exact (Nat.div_eq_of_lt hn).symm
  | append_singleton planes p ih =>
    rw [List.length_append, List.length_singleton] at hlen ⊢
    have hlast := hbits planes.length p (by simp)
    have hinit := ih (by omega) fun j q hj => hbits j q (by
      rw [List.getElem?_append_left (List.getElem?_eq_some_iff.1 hj).1, hj])
    rw [planeNum_append, hinit, hlast, div_two_pow_step n (by omega)]

/-- The first bits of a signed byte, read as a signed number, are a quotient of its value. -/
theorem sext_div_two_pow {v : Int} (hlo : -128 ≤ v) (hhi : v < 128) {k : Nat} (hk : 1 ≤ k) (hk8 : k ≤ 8) :
    sext ((v % 256).toNat / 2 ^ (8 - k)) k = v / 2 ^ (8 - k) := by
  interval_cases k <;> simp only [sext, Nat.reduceSub, Nat.reducePow, Int.reducePow] <;> omega

/-- 02 R58, 10 R284: a `gcp` of bit planes has two to eight of them. -/
theorem gcpPair_planes {b : GBlock} (hs : b.sfmt = 9) (hn : b.nplane < 2 ∨ 8 < b.nplane) : gcpPair b = false := by
  rw [gcpPair, hs]
  simp only [Bool.or_eq_false_iff, Bool.and_eq_false_iff, decide_eq_false_iff_not, beq_eq_false_iff_ne]
  omega

theorem GBlock.gcpOk_of_not_pair {b : GBlock} (h : gcpPair b = false) : b.gcpOk = false := by simp [GBlock.gcpOk, h]

theorem lowerCode_ne_none_left (c : Nat) (x : Option Nat) : lowerCode (some c) x ≠ none := by cases x <;> simp [lowerCode]

theorem lowerCode_ne_none_right (c : Nat) (x : Option Nat) : lowerCode x (some c) ≠ none := by cases x <;> simp [lowerCode]

/-- 10 R284: a block that fails the conditions of its own raises a code, whatever its completion object. -/
theorem State.gougeFields_gcp_of_not_ok (s : State) (w x : Nat) (h : (gblockOf x).gcpOk = false) : s.gougeFields .gcp w x ≠ none := by
  unfold State.gougeFields
  simp only [h, Bool.false_and]
  split
  · split
    · exact lowerCode_ne_none_left _ _
    · simp [need]
  · exact lowerCode_ne_none_right _ _

end Machine

open Machine

/-- Settles O60: planes by `planeNum_eq_div` and `sext_div_two_pow`, the refusal by `gcpPair_planes`, the codes by computation. -/
theorem bitPlanesAndFp4 : Obligations.BitPlanesAndFp4 := by
  refine ⟨fun planes base i v h2 h8 hlo hhi _ hbits => ?_, fun s w x hs hn => ?_, by decide, by decide, by decide⟩
  · have hnum : planeNum planes (i / 8 - base / 8) (i % 8) = (v % 256).toNat / 2 ^ (8 - planes.length) := by
      refine planeNum_eq_div planes (by omega) h8 fun j p hj => ?_
      obtain ⟨x, hx, hbit⟩ := hbits j p hj
      rw [hx, Option.getD_some, hbit]
    rw [planeElem_eq, hnum, sext_div_two_pow hlo hhi (by omega) h8]
  · exact State.gougeFields_gcp_of_not_ok s w x (GBlock.gcpOk_of_not_pair (gcpPair_planes hs hn))

end Sys2Proof
end

section
/-! SUPPORT. Atomics (09 R250 to R254): what one comes to where its checks pass, and what an answer to one of its requests does (16 R414 to R416). -/

namespace Sys2Proof

namespace Machine

open Safety

/-! ### Checks that pass -/

/-- 15 R395, R397: where an instruction acts, `acting` is the action, whatever it would have captured of both copies. -/
theorem State.acting_pair_of_acts {s : State} {caps : List Cap} (pair : List Cap) (k : State → State) (h : Acts s caps) : s.acting caps k pair = k s := by
  obtain ⟨hm, hd⟩ := h
  rw [State.acting, Laws.checked_of_mism _ _ hm]
  simp [State.shadowed, hd]

theorem mem_placed {f : Cap → Except Nat Place} {caps : List Cap} {r : LaneRef} : r ∈ placed f caps ↔ r.cap ∈ caps ∧ f r.cap = .ok r.place := by
  obtain ⟨c, p⟩ := r
  simp only [placed, List.mem_filterMap]
  constructor
  · rintro ⟨d, hd, hm⟩
    split at hm
    · next q hq =>
      cases hm
      exact ⟨hd, hq⟩
    · cases hm
  · rintro ⟨hc, hp⟩
    exact ⟨c, hc, by simp [hp]⟩

/-- 03 R89: lanes whose words are readable go on. -/
theorem State.unpoisoned_of_readable {s : State} {n : Nat} {refs : List LaneRef} (k : State → State)
    (h : ∀ r ∈ refs, ∀ w off, r.place = .loc w off → (s.wg w).lsBad off n = false) : s.unpoisoned n refs k = k s := by
  refine if_neg ?_
  rw [Bool.not_eq_true, List.any_eq_false]
  intro r hr
  cases hp : r.place with
  | loc w off => simp [h r hr w off hp]
  | mem => simp
  | win => simp

/-- 04 R124: buffered containers that go through. -/
theorem State.containersApplied_of_clear {s : State} {n : Nat} {refs : List LaneRef} (k : State → State) (h : ContainersClear s n refs) :
    s.containersApplied n refs k = k (contained s n refs) :=
  if_pos (List.all_eq_true.2 h)

/-- Where no lane fails a test, none raises a cause for it. -/
theorem lowestFault_filter {p : LaneRef → Bool} (g : LaneRef → Nat × Nat × DWord) {refs : List LaneRef} (h : ∀ r ∈ refs, p r = false) :
    lowestFault ((refs.filter p).map g) = none := by
  rw [List.filter_eq_nil_iff.2 fun r hr => by simp [h r hr]]
  rfl

/-! ### The instruction -/

/-- The atomics and their spaces (09 R250). -/
def IsAtomic (i : Instr) (sp : Space) (o : Op) (m : AtMods) : Prop :=
  (sp = .loc ∧ i = .atl o m) ∨ (sp = .nbr ∧ i = .atn o m) ∨ (sp = .glb ∧ i = .atg o m) ∨ (sp = .host ∧ i = .ath o m)

theorem exec_of_isAtomic {i : Instr} {sp : Space} {o : Op} {m : AtMods} (h : IsAtomic i sp o m) (s : State) : exec i s = .next (s.atomicOp i sp o m) := by
  rcases h with ⟨rfl, rfl⟩ | ⟨rfl, rfl⟩ | ⟨rfl, rfl⟩ | ⟨rfl, rfl⟩ <;> rfl

/-- How an atomic reads its sources (09 R250, R253). -/
def atomicKinds (sp : Space) (o : Op) (m : AtMods) : Kinds :=
  let k : Kind := if m.b128 then .quad else .ty o.ty
  { a := if wideSpace sp then .n64 else .n32, b := k, c := if m.op == .cas then k else .unused }

/-- What the lanes of an atomic do once its containers are applied and its release side is done: their events in this package, and their requests outside it. -/
def State.atomicAct (s : State) (i : Instr) (o : Op) (m : AtMods) (caps : List Cap) (refs : List LaneRef) : State :=
  let x := s.atomicEvents o m (refs.filter fun r => !leavesAtomic r.place)
  let out := refs.filter fun r => leavesAtomic r.place
  if out = [] then (x.1.atomicReturn o m caps x.2).advance else x.1.ask i caps (fun c => c.a) out x.2

/-- The lanes for which an atomic has a release side: those whose events in this package are, if one of these writes (09 R252). -/
def State.atomicReleasers (s : State) (o : Op) (m : AtMods) (refs : List LaneRef) : List Nat :=
  let home := refs.filter fun r => !leavesAtomic r.place
  if s.atomicWrites o m home then lanesOf (home.map fun r => r.cap) else []

section
variable {s : State} {sp : Space} {o : Op} {m : AtMods} {caps : List Cap} {place : Cap → Except Nat Place}

/-- 09 R250: an atomic whose addresses pass comes to its containers, its release side and the events of its lanes. -/
theorem State.atomicOp_of_passes (i : Instr) (hcaps : caps = s.captureOp (atomicKinds sp o m) o) (hplace : place = fun c => s.place sp .write s.cur.wg c.a (atBytes o m))
    (hacts : Acts s caps) (hpass : Passes place caps) (hpois : NonePoisoned s place (atBytes o m) (s.effective caps))
    (hwin : ∀ c ∈ caps, ∀ j off host, place c = .ok (.win j off host) → (s.window s.curPart j).noao = false) :
    let refs := (placed place caps).filter fun r => (s.effective caps).contains r.cap
    s.atomicOp i sp o m = (s.cacheLanes sp (fun c => c.a) caps).containersApplied (atBytes o m) refs fun t =>
      t.releasing m.order m.scope (t.atomicReleasers o m refs) fun t => t.atomicAct i o m caps refs := by
  intro refs
  obtain ⟨tl, hot, hcache⟩ := s.cacheLanes_noting sp (fun c => c.a) caps
  have hread : ∀ r ∈ refs, ∀ w off, r.place = .loc w off → (s.wg w).lsBad off (atBytes o m) = false := by
    intro r hr w off hp
    obtain ⟨hr, heff⟩ := List.mem_filter.1 hr
    exact hpois r.cap (List.contains_iff_mem.1 heff) w off (hp ▸ (mem_placed.1 hr).2)
  have hread' : ∀ r ∈ refs, ∀ w off, r.place = .loc w off → ((s.noting tl hot s.hb.views).wg w).lsBad off (atBytes o m) = false := hread
  unfold State.atomicOp
  unfold atomicKinds at hcaps
  dsimp only at hcaps ⊢
  rw [← hcaps, State.acting_pair_of_acts _ _ hacts, Laws.withPlaces_of_passes _ (hplace ▸ hpass), ← hplace, hcache]
  rw [lowestFault_filter]
  case h =>
    intro r hr
    obtain ⟨hc, hp⟩ := mem_placed.1 hr
    cases hplace : r.place with
    | loc => rfl
    | mem => rfl
    | win j off host => exact hwin r.cap hc j off host (hplace ▸ hp)
  refine (State.unpoisoned_of_readable _ hread').trans ?_
  simp only [State.atomicAct, State.atomicReleasers, List.isEmpty_iff]
  rfl

end

section
/-! ### Answers from outside -/

variable {s : State} {r : IoReq} {lane : Nat} {p : Place} {o : Op} {m : AtMods}

/-- 16 R414 to R416: the answer to a lane's request, from a device that a path reaches. -/
theorem exec_loadReturn_ok (hr : s.io.find? (fun x => x.id == r.id) = some r) (hw : laneVal r.waits lane = some p) (ha : s.noAnswer p = false) :
    exec (.loadReturn ⟨r.id, lane⟩ .ok) s = .next (s.answered r (r.ref lane p)) := by
  show execLoadReturn ⟨r.id, lane⟩ .ok s = _
  have hok : (Answer.ok == Answer.error) = false := rfl
  simp [execLoadReturn, hr, hw, ha, hok]

/-- The answer to an atomic that is carried as one makes its event. -/
theorem State.answered_atomic (s : State) (x : LaneRef) (h : r.instr = .atg o m ∨ (r.instr = .ath o m ∧ isNative o m = true)) :
    s.answered r x = { s with cur := r.issue }.remoteAtomic r o m x := by
  unfold State.answered
  rcases h with h | ⟨h, hn⟩
  · rw [h]
  · rw [h]
    simp only [hn, if_true]

/-- 09 R252, R253: the event of a lane outside, whose release side goes through. -/
theorem State.remoteAtomic_of_commits {x : LaneRef} {lanes : List Nat} (hl : lanes = if s.atomicWrites o m [x] then [x.cap.lane] else [])
    (hc : Commits s m.order m.scope lanes) :
    s.remoteAtomic r o m x =
      let y := (Safety.released s m.order m.scope lanes).atomicEvents o m [x]
      y.1.ioNext (r.gain x.cap.lane y.2) := by
  subst hl
  unfold State.remoteAtomic
  cases hw : s.atomicWrites o m [x] with
  | false => simp [Safety.released]
  | true =>
    have hok : (s.released m.order m.scope).2 = true := hc (by simp [hw])
    simp [Safety.released, hok]

theorem IoReq.ref_lane (r : IoReq) (lane : Nat) (p : Place) : (r.ref lane p).cap.lane = lane := by
  unfold IoReq.ref
  cases h : r.caps.find? fun c => c.lane == lane with
  | none => rfl
  | some c => simpa using List.find?_some h

/-- While a lane waits, a request is kept. -/
theorem State.ioNext_of_waits (s : State) (h : r.waits ≠ []) : s.ioNext r = { s with io := updWhere (fun x => x.id == r.id) (fun _ => r) s.io } := by
  simp [State.ioNext, h]

/-- With the last answer an atomic none of whose lanes has failed returns what they got, and its threads go on. -/
theorem State.ioNext_atomic (s : State) (hw : r.waits = []) (hb : r.bad = []) (h : r.instr = .atg o m ∨ r.instr = .ath o m) :
    s.ioNext r = (((s.unblock r).atomicReturn o m r.caps r.got).advance).afterIssue r.issue.wg r.issue.gang := by
  have hdone : (s.unblock r).ioDone r = ((s.unblock r).atomicReturn o m r.caps r.got).advance := by
    unfold State.ioDone
    rcases h with h | h <;> rw [h]
  simp [State.ioNext, hw, hb, hdone]

end

end Machine

open Machine

/-- Settles O33: the instruction by `State.atomicOp_of_passes`, whose containers and release side go through, and the answers by `State.remoteAtomic_of_commits`
and the two outcomes of `State.ioNext`. -/
theorem atomicsComplete : Obligations.AtomicsComplete := by
  refine ⟨?_, fun s i caps addr out got => ⟨_, rfl⟩, ?_, fun s r hw => s.ioNext_of_waits hw, fun s r o m hw hb h => s.ioNext_atomic hw hb h⟩
  · intro o m sp s i hi n k caps place refs home out s0 s1 lanes x hacts hpass hpois hwin hclear hcommits
    have hop := State.atomicOp_of_passes i rfl rfl hacts hpass hpois hwin
    rw [exec_of_isAtomic hi]
    exact congrArg _ (hop.trans ((State.containersApplied_of_clear _ hclear).trans (Laws.releasing_of_commits _ hcommits)))
  · intro s r lane p o m hr hi hw ha s0 x lanes y hcommits
    have hlane : x.cap.lane = lane := r.ref_lane lane p
    rw [exec_loadReturn_ok hr hw ha, State.answered_atomic s _ hi, State.remoteAtomic_of_commits (lanes := lanes) (by rw [hlane]) hcommits, hlane]

end Sys2Proof
end

section
/-! SUPPORT. A store whose lanes' addresses are translated partly by a cached page and partly by a walk of the same issue (16 R403). -/

namespace Sys2Proof

open Machine Safety Tests

/-- A buffered entry lies where its lane's store goes. -/
theorem dest_of_entryOf {s : State} {n : Nat} {addr : Cap → Nat} {clear : LaneRef → Prop} {r : LaneRef} {e : SbEntry} (h : EntryOf s n addr clear r e) :
    e.dest = destOf r.place := by
  rw [h.1]
  rfl

/-- Where the entries of the only workgroup's buffer lie after lanes have stored. -/
theorem map_dest_of_buffered {s : State} {n : Nat} {addr : Cap → Nat} {clear : LaneRef → Prop} {refs : List LaneRef} {ws : List Wg} {u : Wg}
    (h : Buffered s n addr clear refs ws) (hs : s.wgs = [u]) (hu : u.uid = s.cur.wg) :
    ws.map (fun v => v.sb.map fun e => e.dest) = [(u.sb.map fun e => e.dest) ++ refs.map fun r => destOf r.place] := by
  obtain ⟨es, hes, -, -, hws⟩ := h
  have hdest : (es.map fun e => e.dest) = refs.map fun r => destOf r.place := by
    clear hws
    induction hes with
    | nil => rfl
    | cons he _ ih => rw [List.map_cons, List.map_cons, dest_of_entryOf he, ih]
  rw [hs] at hws
  cases hws with
  | cons hv hnil =>
    cases hnil
    rw [if_pos hu] at hv
    have hsb := congrArg Wg.sb hv.1
    rw [List.map_singleton, hsb, List.map_append, hdest]

/-- A page of 64 KiB at 0x10000 is cached, which the tables now map, with all the gigabyte around it, to the second gigabyte of memory. Lane 0 names an address of that
gigabyte outside the page, lane 1 the page. -/
def coarsened : State :=
  { at0 with
    gmap := [(0, 0), (1, 0)]
    mem := [(0x2000, 7), (0x2003, 0x40), (0x20000, 1), (0x20001, 0x20)]
    parts := updWhere (fun q => q.idx == 0) (fun q => { q with csr := [(0x200, 0x20001)] }) at0.parts
    cur := { at0.cur with lanes := [0, 1] }
    threads := [(lane0 at0).setV 2 0x20000, { lane0 at0 with lane := 1 }.setV 2 0x10000] }

/-- A store of 4 bytes to the address in `v2`. -/
def storeOp : Op := { a := .v 2, wide := true, c := .v 4 }

/-- The addresses of the store. -/
def coarsenedCaps : List Cap := coarsened.captureOp (loadKinds .glb .n32) storeOp

/-- Checked in the machine before the store, lane 1's address lies in the cached page. -/
theorem coarsened_places :
    ((placed (storePlace coarsened .glb 4) (coarsened.effective coarsenedCaps)).map fun r => destOf r.place) = [.mem 0x40020000, .mem 0x10000] := by decide +kernel

/-- The store puts lane 1's entry where the page that lane 0's walk has cached maps it. -/
theorem coarsened_store : ((run (.stg storeOp .b32) coarsened).wgs.map fun w => w.sb.map fun e => e.dest) = [[.mem 0x40020000, .mem 0x40010000]] := by decide +kernel

/-- Refutes O31, in its clause on a store whose addresses pass: `State.storeOp` takes its places after it has cached the translations of its lanes, so that a page which one
lane's walk brings in hides the older cached page of another lane, by which this lane's place was checked. -/
theorem not_bufferedStoresComplete : ¬ Obligations.BufferedStoresComplete := by
  intro h
  obtain ⟨-, hstore⟩ := h storeOp .b32 .glb coarsened (.inl rfl)
  obtain ⟨t, hexec, -, -, hbuf, -⟩ := hstore (by decide +kernel) (by decide +kernel) (passes_of (by decide +kernel)) (by decide +kernel) (by decide +kernel)
  have ht : run (.stg storeOp .b32) coarsened = t := by
    rw [run]
    exact congrArg (fun x : Host.Outcome State Fault Refusal => match x with | .next t => t | _ => coarsened) hexec
  have hdest := map_dest_of_buffered hbuf (u := coarsened.wg 0) (by decide +kernel) (by decide +kernel)
  rw [← ht, coarsened_store] at hdest
  have hplaces : [Dest.mem 0x40020000, .mem 0x40010000] = [.mem 0x40020000, .mem 0x10000] := coarsened_places ▸ (List.singleton_injective hdest)
  exact absurd hplaces (by decide)

end Sys2Proof
end

section
/-! SUPPORT. Fences (09 R261, R262): a commit point moves no thread, a fence's acquires only add to what threads have seen, its release side writes peers' dirty
bytes back, and its acquire side drops clean lines. -/

namespace Sys2Proof

namespace Machine

open Safety

/-! ### A commit point moves no thread (04 R125) -/

/-- A machine whose threads are those given, in the middle of the issue given. -/
def Stands (th : List Thread) (c : Issue) (s : State) : Prop := s.threads = th ∧ s.cur = c

section
variable {th : List Thread} {c : Issue} {s : State}

theorem Stands.ite {p : Prop} {_ : Decidable p} {t : State} (hs : Stands th c s) (ht : Stands th c t) : Stands th c (if p then s else t) := by
  split
  · exact hs
  · exact ht

theorem Stands.foldl {α : Type} {f : State → α → State} {l : List α} (h : Stands th c s) (hf : ∀ s x, Stands th c s → Stands th c (f s x)) :
    Stands th c (l.foldl f s) := by
  induction l generalizing s with
  | nil => exact h
  | cons x l ih => exact ih (hf s x h)

theorem Stands.updWg {u : Nat} {f : Wg → Wg} (h : Stands th c s) : Stands th c (s.updWg u f) := h

theorem Stands.noteOld {a : SyncAt} {old : List Byte} {item : Option Nat} (h : Stands th c s) : Stands th c (s.noteOld a old item) := .ite h h

theorem Stands.writeMem {a : Nat} {bs : List Byte} {item : Option Nat} (h : Stands th c s) : Stands th c (s.writeMem a bs item) := Stands.noteOld h

theorem Stands.wildAt {a : SyncAt} {n : Nat} (h : Stands th c s) : Stands th c (s.wildAt a n) := by
  cases a <;> exact h

theorem Stands.wildAll {l : List (SyncAt × Nat)} (h : Stands th c s) : Stands th c (s.wildAll l) := .foldl h fun _ _ h => .wildAt h

theorem Stands.wildObj {o : PhaseRef} (h : Stands th c s) : Stands th c (s.wildObj o) := by
  unfold State.wildObj
  split
  · exact .wildAt h
  · exact h

theorem Stands.wildObjs {known : List Nat} {a : SyncAt} {n : Nat} (h : Stands th c s) : Stands th c (s.wildObjs known a n) :=
  .foldl h fun _ _ h => .ite (.wildObj h) h

theorem Stands.spoilData {a : SyncAt} {n item : Nat} (h : Stands th c s) : Stands th c (s.spoilData a n item) := Stands.wildAll h

theorem Stands.recallWindow {x : Window} {off n : Nat} (h : Stands th c s) : Stands th c (s.recallWindow x off n) := h

theorem Stands.setMarks {x : Window} {off n : Nat} (h : Stands th c s) : Stands th c (s.setMarks x off n) := .foldl h fun _ _ h => .writeMem h

theorem Stands.stage {p w off : Nat} {bs : List Byte} (h : Stands th c s) : Stands th c (s.stage p w off bs) := by
  unfold State.stage
  split
  · exact h
  · exact .ite (.setMarks (.writeMem (.recallWindow h))) h

theorem Stands.rdcBack {p : RdcLine → Bool} {r : Option (Nat × Nat)} (h : Stands th c s) : Stands th c (s.rdcBack p r) := h

theorem Stands.rdcStore {die part key : Nat} {bs : List Byte} {rels : List Release} (h : Stands th c s) : Stands th c (s.rdcStore die part key bs rels) :=
  Stands.ite h h

theorem Stands.rdcWriter {die part key w : Nat} {e : SbEntry} (h : Stands th c s) : Stands th c (s.rdcWriter die part key w e) := h

theorem Stands.olderBack {die p k : Nat} {e : SbEntry} (h : Stands th c s) : Stands th c (s.olderBack die p k e) := h

theorem Stands.sbTrap {w : Nat} {e : SbEntry} (h : Stands th c s) : Stands th c (s.sbTrap w e) := h

theorem Stands.writersFail {l : List (Nat × SbEntry)} (h : Stands th c s) : Stands th c (s.writersFail l) := Stands.foldl h fun _ _ h => .sbTrap h

theorem Stands.rdcEvict {l : RdcLine} {ok : Bool} (h : Stands th c s) : Stands th c (s.rdcEvict l ok) := .ite h (.ite h (.writersFail h))

theorem Stands.rdcRoom {die part line : Nat} (h : Stands th c s) : Stands th c (s.rdcRoom die part line) := by
  unfold State.rdcRoom
  refine .ite h ?_
  split
  · exact .rdcEvict h
  · exact h

theorem Stands.sbApply {w : Nat} {e : SbEntry} (h : Stands th c s) : Stands th c (s.sbApply w e) := by
  unfold State.sbApply
  extract_lets p die n s1
  have h1 : Stands th c s1 := h
  split
  · exact .spoilData (.wildObjs (.ite (.rdcWriter (.rdcStore (.noteOld (.olderBack (.rdcRoom h1))))) (Stands.writeMem h1)))
  · exact Stands.stage h1

theorem Stands.sbFault {w : Nat} {e : SbEntry} (h : Stands th c s) : Stands th c (s.sbFault w e) := h

theorem Stands.sbApplyList {w : Nat} {l : List SbEntry} (h : Stands th c s) : Stands th c (s.sbApplyList w l) := by
  induction l generalizing s with
  | nil => exact h
  | cons e l ih => exact .ite (.sbFault h) (.ite (.sbApply h) (ih (.sbApply h)))

theorem Stands.commit {w : Nat} (h : Stands th c s) : Stands th c (s.commit w) :=
  .ite (Stands.ite h (.sbApplyList h)) (.ite h (.sbApplyList h))

theorem Stands.released {order : Order} {scope : Scope} {lanes : List Nat} (h : Stands th c s) : Stands th c (Safety.released s order scope lanes) := by
  unfold Safety.released State.released
  refine .ite h ?_
  dsimp only
  split
  · exact h
  · split
    · exact .commit h
    · exact .ite (.rdcBack (.commit h)) (.commit h)

theorem Stands.acquiring {order : Order} {scope : Scope} {lanes : List Nat} (h : Stands th c s) : Stands th c (s.acquiring order scope lanes) := .ite h h

theorem Stands.fenceSync {order : Order} {scope : Scope} {lanes : List Nat} (h : Stands th c s) : Stands th c (s.fenceSync order scope lanes) :=
  .ite h (Stands.ite (Stands.ite (Stands.ite h h) (Stands.ite h h)) (Stands.ite (Stands.ite h h) (Stands.ite h h)))

/-- Threads that an instruction has left alone advance. -/
theorem Stands.threads_advance {t : State} (h : Stands s.threads s.cur t) : Threads s id (nextPlace s) t.advance.threads := by
  obtain ⟨hth, hcur⟩ := h
  have hadv := Laws.advance_threads t
  rw [hth] at hadv
  refine hadv.imp fun u v ⟨hmoved, hplace⟩ => ⟨hmoved, hplace.trans ?_⟩
  unfold nextPlace State.inIssue
  rw [hcur]

end

/-! ### What fences acquire and release (04 R119, R120, R123) -/

/-- A record of accesses after agents have synchronised: each access is there, seen by those that saw it and perhaps by more; each full fence is still recorded, and views
are as they were. -/
structure Hb.Learns (h k : Hb) : Prop where
  views : k.views = h.views
  fences : ∀ r ∈ h.fences, r ∈ k.fences
  pend : ∀ u ∈ h.pend, ∃ v ∈ k.pend, v = { u with seen := v.seen } ∧ ∀ a ∈ u.seen, a ∈ v.seen

theorem Hb.Learns.refl (h : Hb) : h.Learns h := ⟨rfl, fun _ hr => hr, fun u hu => ⟨u, hu, rfl, fun _ ha => ha⟩⟩

theorem Hb.Learns.trans {h k j : Hb} (hk : h.Learns k) (kj : k.Learns j) : h.Learns j where
  views := kj.views.trans hk.views
  fences r hr := kj.fences r (hk.fences r hr)
  pend u hu := by
    obtain ⟨v, hv, hvu, hvs⟩ := hk.pend u hu
    obtain ⟨w, hw, hwv, hws⟩ := kj.pend v hv
    exact ⟨w, hw, by rw [hwv, hvu], fun a ha => hws a (hvs a ha)⟩

/-- What one step of a fold comes to, where every step keeps a relation: the rest of the fold keeps it too. -/
theorem foldl_around {α β : Type} {R : α → α → Prop} (hrefl : ∀ a, R a a) (htrans : ∀ {a b c}, R a b → R b c → R a c) {f : α → β → α}
    (hf : ∀ a x, R a (f a x)) {x : β} {l : List β} (hx : x ∈ l) (a : α) : ∃ b, R a b ∧ R (f b x) (l.foldl f a) := by
  have hall : ∀ (l : List β) (a : α), R a (l.foldl f a) := by
    intro l
    induction l with
    | nil => exact hrefl
    | cons y l ih => exact fun a => htrans (hf a y) (ih _)
  induction l generalizing a with
  | nil => cases hx
  | cons y l ih =>
    rcases List.mem_cons.1 hx with rfl | hx
    · exact ⟨a, hrefl a, hall l _⟩
    · obtain ⟨b, hab, hb⟩ := ih hx (f a y)
      exact ⟨b, htrans (hf a y) hab, hb⟩

theorem Hb.Learns.foldl {β : Type} {f : Hb → β → Hb} (hf : ∀ (h : Hb) (x : β), h.Learns (f h x)) (l : List β) (h : Hb) : h.Learns (l.foldl f h) := by
  induction l generalizing h with
  | nil => exact .refl h
  | cons x l ih => exact (hf h x).trans (ih _)

theorem Hb.mem_known {h : Hb} {a : Agent} {n : Nat} : n ∈ h.known a ↔ ∃ u ∈ h.pend, u.before a = true ∧ u.uid = n := by
  simp [Hb.known, and_assoc]

theorem HbItem.before_of_seen {u : HbItem} {a : Agent} (h : a ∈ u.seen) : u.before a = true := by simp [HbItem.before, h]

/-- What an agent knows it goes on knowing. -/
theorem Hb.Learns.known {h k : Hb} (hk : h.Learns k) {a : Agent} {n : Nat} (hn : n ∈ h.known a) : n ∈ k.known a := by
  obtain ⟨u, hu, hb, rfl⟩ := Hb.mem_known.1 hn
  obtain ⟨v, hv, hvu, hvs⟩ := hk.pend u hu
  refine Hb.mem_known.2 ⟨v, hv, ?_, by rw [hvu]⟩
  rcases Bool.or_eq_true _ _ ▸ hb with hown | hseen
  · have : v.own a = u.own a := by rw [hvu]; rfl
    simp [HbItem.before, this, hown]
  · exact HbItem.before_of_seen (hvs a (by simpa using hseen))

theorem Hb.Learns.ne_nil {h k : Hb} (hk : h.Learns k) (hp : h.pend ≠ []) : k.pend ≠ [] := by
  obtain ⟨u, hu⟩ := List.exists_mem_of_ne_nil _ hp
  obtain ⟨v, hv, -⟩ := hk.pend u hu
  exact List.ne_nil_of_mem hv

theorem Hb.learns_see (h : Hb) (a : Agent) (rank : Nat) (pubs : List Nat) : h.Learns (h.see a rank pubs) := by
  unfold Hb.see
  split
  · exact .refl h
  · refine ⟨rfl, fun _ hr => hr, fun u hu => ⟨_, List.mem_map_of_mem hu, ?_⟩⟩
    split
    · exact ⟨rfl, fun _ ha => List.mem_cons_of_mem _ ha⟩
    · exact ⟨rfl, fun _ ha => ha⟩

/-- What a synchronisation shows is known. -/
theorem Hb.known_see {h : Hb} {u : HbItem} (hu : u ∈ h.pend) (a : Agent) {rank : Nat} {pubs : List Nat} (hp : u.uid ∈ pubs) (hs : u.what.shown rank = true) :
    u.uid ∈ (h.see a rank pubs).known a := by
  have hne : pubs.isEmpty = false := by
    cases pubs with
    | nil => cases hp
    | cons => rfl
  unfold Hb.see
  rw [hne, if_neg Bool.false_ne_true]
  refine Hb.mem_known.2 ⟨_, List.mem_map_of_mem hu, ?_⟩
  by_cases hseen : a ∈ u.seen
  · rw [if_neg (by simp [hseen])]
    exact ⟨HbItem.before_of_seen hseen, rfl⟩
  · rw [if_pos (by simp [hseen, hp, hs])]
    exact ⟨HbItem.before_of_seen List.mem_cons_self, rfl⟩

theorem Hb.learns_acquire (h : Hb) (a : Agent) (rank : Nat) (rs : List Release) : h.Learns (h.acquire a rank rs) := by
  refine .foldl (fun h r => ?_) rs h
  split
  · exact h.learns_see a _ _
  · exact .refl h

/-- 04 R120: an acquire makes known what a release that shares a scope instance publishes. -/
theorem Hb.known_acquire {h : Hb} {u : HbItem} (hu : u ∈ h.pend) {a : Agent} {rank : Nat} {rs : List Release} {r : Release} (hr : r ∈ rs)
    (hshare : r.by_.shares a (min rank r.rank) = true) (hp : u.uid ∈ r.pubs) (hs : u.what.shown (min rank r.rank) = true) :
    u.uid ∈ (h.acquire a rank rs).known a := by
  obtain ⟨b, hb, hrest⟩ := foldl_around Hb.Learns.refl Hb.Learns.trans (fun h r => h.learns_acquire a rank [r]) hr h
  obtain ⟨v, hv, hvu, -⟩ := hb.pend u hu
  have huid : v.uid = u.uid := by rw [hvu]
  have hwhat : v.what = u.what := by rw [hvu]
  refine hrest.known ?_
  rw [Hb.acquire, List.foldl_cons, List.foldl_nil, if_pos hshare, ← huid]
  exact Hb.known_see hv a (huid ▸ hp) (hwhat ▸ hs)

theorem Hb.learns_fenceAcq (h : Hb) (a : Agent) (rank : Nat) : h.Learns (h.fenceAcq a rank) := h.learns_acquire a rank _

theorem Hb.learns_fullFence (h : Hb) (a : Agent) (rank : Nat) : h.Learns (h.fullFence a rank) := by
  have hacq := h.learns_acquire a rank h.fences
  unfold Hb.fullFence
  dsimp only
  split
  · exact hacq
  · exact ⟨hacq.views, fun r hr => List.mem_cons_of_mem _ (hacq.fences r hr), hacq.pend⟩

/-- A full fence is recorded with all that the agent then knows. -/
theorem Hb.mem_fences_fullFence {h : Hb} (hp : h.pend ≠ []) (a : Agent) (rank : Nat) :
    ∃ r ∈ (h.fullFence a rank).fences, r.by_ = a ∧ r.rank = rank ∧ ∀ n ∈ h.known a, n ∈ r.pubs := by
  have hacq := h.learns_acquire a rank h.fences
  have hne : (h.acquire a rank h.fences).pend.isEmpty = false := by simpa using hacq.ne_nil hp
  unfold Hb.fullFence
  dsimp only
  rw [hne, if_neg Bool.false_ne_true]
  exact ⟨_, List.mem_cons_self, rfl, rfl, fun n hn => hacq.known hn⟩

theorem Hb.view_by (h : Hb) (a : Agent) : (h.view a).by_ = a := by
  unfold Hb.view
  cases hv : h.views.find? fun v => v.by_ == a with
  | none => rfl
  | some v => simpa using List.find?_some hv

theorem Hb.view_setView (h : Hb) (v : SyncView) (a : Agent) : (h.setView v).view a = if v.by_ = a then v else h.view a := by
  unfold Hb.view Hb.setView
  rw [List.find?_cons]
  by_cases hv : v.by_ = a
  · simp [hv]
  · have hkeep : (h.views.filter fun x => x.by_ != v.by_).find? (fun x => x.by_ == a) = h.views.find? fun x => x.by_ == a := by
      rw [List.find?_filter]
      congr 1
      funext x
      by_cases hx : x.by_ = a
      · simp [hx, Ne.symm hv]
      · simp [hx]
    rw [beq_false_of_ne hv, if_neg hv, hkeep]

/-- 04 R119: the release that a fence of an agent makes of the writes that follow. -/
def Hb.fenceRelease (h : Hb) (a : Agent) (rank : Nat) : Release := { by_ := a, rank := rank, pubs := h.known a }

/-- A record after release fences at a scope of a rank: the accesses are those there, and a release that such a fence has made stays. -/
def Hb.KeepsRel (rank : Nat) (h k : Hb) : Prop :=
  k.pend = h.pend ∧ ∀ a, h.fenceRelease a rank ∈ (h.view a).rel → k.fenceRelease a rank ∈ (k.view a).rel

theorem Hb.KeepsRel.refl (rank : Nat) (h : Hb) : h.KeepsRel rank h := ⟨rfl, fun _ ha => ha⟩

theorem Hb.KeepsRel.trans {rank : Nat} {h k j : Hb} (hk : h.KeepsRel rank k) (kj : k.KeepsRel rank j) : h.KeepsRel rank j :=
  ⟨kj.1.trans hk.1, fun a ha => kj.2 a (hk.2 a ha)⟩

theorem Hb.mem_rel_fenceRel {h : Hb} (hp : h.pend ≠ []) (a : Agent) (rank : Nat) :
    (h.fenceRel a rank).fenceRelease a rank ∈ ((h.fenceRel a rank).view a).rel := by
  have hne : h.pend.isEmpty = false := by simpa using hp
  unfold Hb.fenceRel
  rw [hne, if_neg Bool.false_ne_true, Hb.view_setView, if_pos (h.view_by a)]
  exact List.mem_cons_self

theorem Hb.fenceRel_pend (h : Hb) (a : Agent) (rank : Nat) : (h.fenceRel a rank).pend = h.pend := by
  unfold Hb.fenceRel
  split <;> rfl

theorem Hb.keepsRel_fenceRel (h : Hb) (a : Agent) (rank : Nat) : h.KeepsRel rank (h.fenceRel a rank) := by
  refine ⟨h.fenceRel_pend a rank, fun b hb => ?_⟩
  by_cases hp : h.pend = []
  · have : h.fenceRel a rank = h := by simp [Hb.fenceRel, hp]
    rw [this]
    exact hb
  · by_cases hab : a = b
    · subst hab
      exact Hb.mem_rel_fenceRel hp a rank
    · have hview : (h.fenceRel a rank).view b = h.view b := by
        have hne : h.pend.isEmpty = false := by simpa using hp
        unfold Hb.fenceRel
        rw [hne, if_neg Bool.false_ne_true, Hb.view_setView, if_neg (by rw [h.view_by]; exact hab)]
      have hrel : (h.fenceRel a rank).fenceRelease b rank = h.fenceRelease b rank := by
        rw [Hb.fenceRelease, Hb.known, h.fenceRel_pend, ← Hb.known, ← Hb.fenceRelease]
      rw [hview, hrel]
      exact hb

/-! ### What a fence of lanes synchronises (09 R261) -/

section
variable (s : State) (order : Order) (k : Nat) (lanes : List Nat)

/-- The record after the acquires of a fence of lanes. -/
def State.fenceAcqHb : Hb := if isAcquire order then lanes.foldl (fun h l => h.fenceAcq (s.me l) k) s.hb else s.hb

/-- The record after these and the order of full fences. -/
def State.fenceFullHb : Hb :=
  if order == .acqRel then lanes.foldl (fun h l => h.fullFence (s.me l) k) (s.fenceAcqHb order k lanes) else s.fenceAcqHb order k lanes

/-- The record after a fence of lanes. -/
def State.fenceHb : Hb :=
  if isRelease order then lanes.foldl (fun h l => h.fenceRel (s.me l) k) (s.fenceFullHb order k lanes) else s.fenceFullHb order k lanes

theorem State.learns_fenceAcqHb : s.hb.Learns (s.fenceAcqHb order k lanes) := by
  unfold State.fenceAcqHb
  split
  · exact .foldl (fun h l => h.learns_fenceAcq (s.me l) k) lanes s.hb
  · exact .refl _

theorem State.learns_fenceFullHb : (s.fenceAcqHb order k lanes).Learns (s.fenceFullHb order k lanes) := by
  unfold State.fenceFullHb
  split
  · exact .foldl (fun h l => h.learns_fullFence (s.me l) k) lanes _
  · exact .refl _

theorem Hb.fences_fenceRel (h : Hb) (a : Agent) (rank : Nat) : (h.fenceRel a rank).fences = h.fences := by
  unfold Hb.fenceRel
  split <;> rfl

/-- The releases of a fence leave the accesses and the full fences as they are. -/
theorem State.fenceHb_pend_fences : (s.fenceHb order k lanes).pend = (s.fenceFullHb order k lanes).pend ∧
    (s.fenceHb order k lanes).fences = (s.fenceFullHb order k lanes).fences := by
  have hfold : ∀ (h : Hb), (lanes.foldl (fun h l => h.fenceRel (s.me l) k) h).pend = h.pend ∧
      (lanes.foldl (fun h l => h.fenceRel (s.me l) k) h).fences = h.fences := by
    induction lanes with
    | nil => exact fun h => ⟨rfl, rfl⟩
    | cons l ls ih =>
      intro h
      obtain ⟨hp, hf⟩ := ih (h.fenceRel (s.me l) k)
      exact ⟨hp.trans (h.fenceRel_pend _ _), hf.trans (h.fences_fenceRel _ _)⟩
  unfold State.fenceHb
  split
  · exact hfold _
  · exact ⟨rfl, rfl⟩

/-- What is known before the releases of a fence is known after it. -/
theorem State.known_fenceHb {a : Agent} {n : Nat} (h : n ∈ (s.fenceFullHb order k lanes).known a) : n ∈ (s.fenceHb order k lanes).known a := by
  rw [Hb.known, (s.fenceHb_pend_fences order k lanes).1]
  exact h

variable {lanes} {l : Nat} (hl : l ∈ lanes)
include hl

/-- 04 R119: a release fence makes the writes that follow it releases of all that happens-before it. -/
theorem State.fenceHb_release (ho : isRelease order = true) (hp : (s.fenceHb order k lanes).pend ≠ []) :
    (s.fenceHb order k lanes).fenceRelease (s.me l) k ∈ ((s.fenceHb order k lanes).view (s.me l)).rel := by
  rw [(s.fenceHb_pend_fences order k lanes).1] at hp
  unfold State.fenceHb
  rw [if_pos ho]
  obtain ⟨b, hb, hrest⟩ := foldl_around (Hb.KeepsRel.refl k) Hb.KeepsRel.trans (fun h l => h.keepsRel_fenceRel (s.me l) k) hl (s.fenceFullHb order k lanes)
  exact hrest.2 _ (Hb.mem_rel_fenceRel (hb.1 ▸ hp) _ _)

/-- 04 R119, R120: an acquire fence acquires the releases that the lane's reads observed. -/
theorem State.fenceHb_acquire (ho : isAcquire order = true) {x : Nat × Release} (hx : x ∈ (s.hb.view (s.me l)).obs) (hxk : x.1 ≤ k)
    (hshare : x.2.by_.shares (s.me l) (min k x.2.rank) = true) {u : HbItem} (hu : u ∈ s.hb.pend) (hpub : u.uid ∈ x.2.pubs)
    (hshown : u.what.shown (min k x.2.rank) = true) : u.uid ∈ (s.fenceHb order k lanes).known (s.me l) := by
  refine s.known_fenceHb order k lanes ((s.learns_fenceFullHb order k lanes).known ?_)
  unfold State.fenceAcqHb
  rw [if_pos ho]
  obtain ⟨b, hb, hrest⟩ := foldl_around Hb.Learns.refl Hb.Learns.trans (fun h l => h.learns_fenceAcq (s.me l) k) hl s.hb
  obtain ⟨v, hv, hvu, -⟩ := hb.pend u hu
  have huid : v.uid = u.uid := by rw [hvu]
  have hwhat : v.what = u.what := by rw [hvu]
  have hobs : (b.view (s.me l)).obs = (s.hb.view (s.me l)).obs := by rw [Hb.view, hb.views, ← Hb.view]
  refine hrest.known (huid ▸ Hb.known_acquire hv (r := x.2) ?_ hshare (huid ▸ hpub) (hwhat ▸ hshown))
  rw [hobs]
  exact List.mem_map.2 ⟨x, List.mem_filter.2 ⟨hx, by simpa using hxk⟩, rfl⟩

/-- 04 R123: a full fence comes after those before it with which it shares a scope instance. -/
theorem State.fenceHb_after {r : Release} (hr : r ∈ s.hb.fences) (hshare : r.by_.shares (s.me l) (min k r.rank) = true) {u : HbItem} (hu : u ∈ s.hb.pend)
    (hpub : u.uid ∈ r.pubs) (hshown : u.what.shown (min k r.rank) = true) : u.uid ∈ (s.fenceHb .acqRel k lanes).known (s.me l) := by
  refine s.known_fenceHb .acqRel k lanes ?_
  unfold State.fenceFullHb
  rw [if_pos (show (Order.acqRel == .acqRel) = true from rfl)]
  obtain ⟨b, hb, hrest⟩ := foldl_around Hb.Learns.refl Hb.Learns.trans (fun h l => h.learns_fullFence (s.me l) k) hl (s.fenceAcqHb .acqRel k lanes)
  have hlearn := (s.learns_fenceAcqHb .acqRel k lanes).trans hb
  obtain ⟨v, hv, hvu, -⟩ := hlearn.pend u hu
  have huid : v.uid = u.uid := by rw [hvu]
  have hwhat : v.what = u.what := by rw [hvu]
  have hacq : v.uid ∈ (b.acquire (s.me l) k b.fences).known (s.me l) :=
    Hb.known_acquire hv (hlearn.fences r hr) hshare (huid ▸ hpub) (hwhat ▸ hshown)
  refine hrest.known (huid ▸ ?_)
  unfold Hb.fullFence
  dsimp only
  split <;> exact hacq

/-- 04 R123: a full fence is recorded. -/
theorem State.fenceHb_recorded (hp : s.hb.pend ≠ []) :
    ∃ r ∈ (s.fenceHb .acqRel k lanes).fences, r.by_ = s.me l ∧ r.rank = k ∧ ∀ n ∈ s.hb.known (s.me l), n ∈ r.pubs := by
  rw [(s.fenceHb_pend_fences .acqRel k lanes).2]
  unfold State.fenceFullHb
  rw [if_pos (show (Order.acqRel == .acqRel) = true from rfl)]
  obtain ⟨b, hb, hrest⟩ := foldl_around Hb.Learns.refl Hb.Learns.trans (fun h l => h.learns_fullFence (s.me l) k) hl (s.fenceAcqHb .acqRel k lanes)
  have hlearn := (s.learns_fenceAcqHb .acqRel k lanes).trans hb
  obtain ⟨r, hr, hby, hrank, hpubs⟩ := Hb.mem_fences_fullFence (hlearn.ne_nil hp) (s.me l) k
  exact ⟨r, hrest.fences r hr, hby, hrank, fun n hn => hpubs n (hlearn.known hn)⟩

end

theorem State.fenceSync_eq (s : State) (order : Order) {scope : Scope} (hk : scopeRank scope ≠ 0) (lanes : List Nat) :
    s.fenceSync order scope lanes = { s with hb := s.fenceHb order (scopeRank scope) lanes } := by
  have hk' : (scopeRank scope == 0) = false := beq_false_of_ne hk
  simp only [State.fenceSync, hk', Bool.false_eq_true, if_false]
  cases order <;> rfl

theorem State.fenceSync_none (s : State) (order : Order) {scope : Scope} (hk : scopeRank scope = 0) (lanes : List Nat) : s.fenceSync order scope lanes = s := by
  simp [State.fenceSync, hk]

theorem State.fenceSync_frame (s : State) (order : Order) (scope : Scope) (lanes : List Nat) :
    s.fenceSync order scope lanes = { s with hb := (s.fenceSync order scope lanes).hb } := by
  by_cases hk : scopeRank scope = 0
  · rw [s.fenceSync_none order hk]
  · rw [s.fenceSync_eq order hk]

/-! ### Peers' bytes written back, and clean lines dropped (09 R262) -/

/-- A byte after some bytes are written one by one: the value of one of those written there, or what it was. -/
theorem getByte_foldl_setByte {α : Type} (addr : α → Nat) (val : α → Byte) (l : List α) {m : List Host.Cell} (hm : Memory.wf m = true) (a : Nat) :
    let t := l.foldl (fun m i => setByte m (addr i) (val i)) m
    (∃ i ∈ l, a = addr i ∧ getByte t a = val i) ∨ ((∀ i ∈ l, a ≠ addr i) ∧ getByte t a = getByte m a) := by
  intro t
  induction l generalizing m with
  | nil => exact .inr ⟨fun _ hi => absurd hi List.not_mem_nil, rfl⟩
  | cons i l ih =>
    rcases ih (Memory.wf_setByte (x := addr i) (y := val i) hm) with ⟨j, hj, ha, hv⟩ | ⟨hne, hv⟩
    · exact .inl ⟨j, List.mem_cons_of_mem _ hj, ha, hv⟩
    · have hset : getByte t a = if a = addr i then val i else getByte m a := hv.trans (Memory.getByte_setByte a hm)
      by_cases ha : a = addr i
      · exact .inl ⟨i, List.mem_cons_self, ha, by rw [hset, if_pos ha]⟩
      · refine .inr ⟨fun j hj => ?_, by rw [hset, if_neg ha]⟩
        rcases List.mem_cons.1 hj with rfl | hj
        · exact ha
        · exact hne j hj

/-- The dirty bytes of some lines, each with its line. -/
def dirtyBytes (ls : List RdcLine) : List (RdcLine × Nat) := ls.flatMap fun l => l.dirty.map fun i => (l, i)

theorem foldl_writeBack (ls : List RdcLine) (m : List Host.Cell) :
    ls.foldl writeBack m = (dirtyBytes ls).foldl (fun m x => setByte m (128 * x.1.line + x.2) ((x.1.bytes[x.2]?).getD 0)) m := by
  rw [dirtyBytes, List.foldl_flatMap]
  simp only [List.foldl_map]
  rfl

section
variable (c : State)

/-- The lines with dirty bytes that a write-back of all that can be reached writes back. -/
def State.reachableDirty : List RdcLine := (c.rdc.filter fun l => !c.unreachable (128 * l.line)).filter fun l => !l.dirty.isEmpty

theorem keyIn_none (k : Nat) : keyIn none k = true := rfl

theorem State.rdcWriteBack_mem : (c.rdcWriteBack fun _ => true).mem = c.reachableDirty.foldl writeBack c.mem := by
  simp [State.rdcWriteBack, State.rdcBack, State.reachableDirty, keyIn_none]

theorem State.mem_dirtyBytes {x : RdcLine × Nat} :
    x ∈ dirtyBytes c.reachableDirty ↔ x.1 ∈ c.rdc ∧ c.unreachable (128 * x.1.line) = false ∧ x.2 ∈ x.1.dirty := by
  obtain ⟨l, i⟩ := x
  simp only [dirtyBytes, State.reachableDirty, List.mem_flatMap, List.mem_map, List.mem_filter, Prod.mk.injEq]
  constructor
  · rintro ⟨_, ⟨⟨hl, hreach⟩, -⟩, _, hi, rfl, rfl⟩
    exact ⟨hl, by simpa using hreach, hi⟩
  · rintro ⟨hl, hreach, hi⟩
    exact ⟨l, ⟨⟨hl, by simpa using hreach⟩, by simpa using List.ne_nil_of_mem hi⟩, i, hi, rfl, rfl⟩

/-- 03 R97: each byte of memory after the write-back: that of a reachable line where one has it dirty, else what it was. -/
theorem State.getByte_rdcWriteBack (hm : Memory.wf c.mem = true) (a : Nat) :
    let t := c.rdcWriteBack fun _ => true
    (∃ l ∈ c.rdc, ∃ i ∈ l.dirty, c.unreachable (128 * l.line) = false ∧ a = 128 * l.line + i ∧ getByte t.mem a = (l.bytes[i]?).getD 0) ∨
      ((∀ l ∈ c.rdc, ∀ i ∈ l.dirty, c.unreachable (128 * l.line) = false → a ≠ 128 * l.line + i) ∧ getByte t.mem a = getByte c.mem a) := by
  intro t
  have hmem : t.mem = (dirtyBytes c.reachableDirty).foldl (fun m x => setByte m (128 * x.1.line + x.2) ((x.1.bytes[x.2]?).getD 0)) c.mem := by
    rw [← foldl_writeBack]
    exact c.rdcWriteBack_mem
  rw [hmem]
  rcases getByte_foldl_setByte (fun x : RdcLine × Nat => 128 * x.1.line + x.2) (fun x => (x.1.bytes[x.2]?).getD 0) (dirtyBytes c.reachableDirty) hm a with
    ⟨⟨l, i⟩, hx, ha, hv⟩ | ⟨hne, hv⟩
  · obtain ⟨hl, hreach, hi⟩ := c.mem_dirtyBytes.1 hx
    exact .inl ⟨l, hl, i, hi, hreach, ha, hv⟩
  · exact .inr ⟨fun l hl i hi hreach => hne (l, i) (c.mem_dirtyBytes.2 ⟨hl, hreach, hi⟩), hv⟩

theorem State.mem_rdcWriteBack_rdc {x : RdcLine} :
    x ∈ (c.rdcWriteBack fun _ => true).rdc ↔
      (x ∈ c.rdc ∧ c.unreachable (128 * x.line) = true) ∨ ∃ l ∈ c.rdc, c.unreachable (128 * l.line) = false ∧ l.full = true ∧ x = l.cleaned none := by
  have hline : ∀ l : RdcLine, (l.cleaned none).line = l.line := fun _ => rfl
  have hfull : ∀ l : RdcLine, (l.cleaned none).full = l.full := fun _ => rfl
  have hdirty : ∀ l : RdcLine, (l.cleaned none).dirty = [] := fun l => by simp [RdcLine.cleaned, keyIn_none]
  simp only [State.rdcWriteBack, State.rdcBack, Bool.true_and, List.mem_filter, List.mem_map]
  constructor
  · rintro ⟨⟨l, hl, rfl⟩, hkeep⟩
    cases hr : c.unreachable (128 * l.line) with
    | true =>
      rw [if_neg (by simp)]
      exact .inl ⟨hl, hr⟩
    | false =>
      rw [if_pos (by simp [hr])] at hkeep ⊢
      exact .inr ⟨l, hl, hr, by simpa [hline, hfull, hdirty, hr] using hkeep, rfl⟩
  · rintro (⟨hx, hr⟩ | ⟨l, hl, hr, hf, rfl⟩)
    · exact ⟨⟨x, hx, by simp [hr]⟩, by simp [hr]⟩
    · exact ⟨⟨l, hl, by simp [hr]⟩, by simp [hfull, hf]⟩

theorem State.rdcWriteBack_frame :
    let t := c.rdcWriteBack fun _ => true
    t = { c with mem := t.mem, wild := t.wild, rdc := t.rdc, hb := { c.hb with tags := t.hb.tags } } := by
  intro t
  have hhb : t.hb = { c.hb with tags := t.hb.tags } := by
    dsimp only [t, State.rdcWriteBack, State.rdcBack]
    split <;> rfl
  rw [← hhb]
  rfl

end

/-- 09 R262: the lines after an acquire at `.pod` or wider by a die. -/
theorem State.mem_rdcAcquire_rdc {s : State} {die : Nat} {x : RdcLine} :
    x ∈ (s.rdcAcquire die).rdc ↔ (x ∈ s.rdc ∧ x.die ≠ die) ∨ ∃ l ∈ s.rdc, l.die = die ∧ l.dirty ≠ [] ∧ x = { l with full := false } := by
  simp only [State.rdcAcquire, updWhere, List.mem_map, List.mem_filter, beq_iff_eq]
  constructor
  · rintro ⟨l, ⟨hl, hkeep⟩, rfl⟩
    by_cases hd : l.die = die
    · rw [if_pos hd]
      exact .inr ⟨l, hl, hd, by simpa [hd] using hkeep, rfl⟩
    · rw [if_neg hd]
      exact .inl ⟨hl, hd⟩
  · rintro (⟨hx, hd⟩ | ⟨l, hl, hd, hdirty, rfl⟩)
    · exact ⟨x, ⟨hx, by simp [hd]⟩, if_neg hd⟩
    · exact ⟨l, ⟨hl, by simp [hd, hdirty]⟩, if_pos hd⟩

/-! ### The sides of an order (04 R125, 09 R262) -/

section
variable (s : State) {order : Order} {scope : Scope}

theorem State.released_none (h : isRelease order = false ∨ scopeRank scope < 3) : s.released order scope = (s, true) := by
  refine if_pos ?_
  rcases h with h | h <;> simp [h]

/-- A release side at `.cl` or wider is a commit point, after which, where it is complete, one at `.pod` or wider writes dirty lines back. -/
theorem State.released_some (ho : isRelease order = true) (hk : 3 ≤ scopeRank scope) :
    s.released order scope = if ((s.commit s.cur.wg).wg s.cur.wg).sb = [] then
      (if 5 ≤ scopeRank scope then (s.commit s.cur.wg).rdcWriteBack fun _ => true else s.commit s.cur.wg, true) else (s.commit s.cur.wg, false) := by
  have hlt : ¬ scopeRank scope < 3 := by omega
  unfold State.released
  rw [ho, if_neg (by simpa using hk)]
  by_cases hsb : ((s.commit s.cur.wg).wg s.cur.wg).sb = [] <;> simp [State.committedAll, hsb]

theorem State.acquiring_none {lanes : List Nat} (h : isAcquire order = false ∨ scopeRank scope < 5 ∨ lanes = []) : s.acquiring order scope lanes = s := by
  refine if_neg ?_
  rcases h with h | h | h
  · simp [h]
  · simp [h]
  · simp [h]

theorem State.acquiring_some {lanes : List Nat} (ho : isAcquire order = true) (hk : 5 ≤ scopeRank scope) (hl : lanes ≠ []) :
    s.acquiring order scope lanes = s.rdcAcquire s.die := by
  refine if_pos ?_
  simp [ho, hk, hl]

/-- 09 R261: a fence, whether or not its commit point goes through. -/
theorem exec_fence {s : State} (g : Guard) (order : Order) (scope : Scope) (hm : s.cur.mism < 2) :
    let lanes := lanesOf (s.captureNone g)
    exec (.fence g order scope) s =
      .next (s.releasing order scope lanes fun s => ((s.acquiring order scope lanes).fenceSync order scope lanes).advance) := by
  show execFence g order scope s = _
  rw [execFence, Laws.checked_of_mism _ _ hm]
  rfl

end

end Machine

open Machine Safety

/-- Settles O36: the fence by its two sides, what it synchronises by the `State.fenceHb` lemmas, the write-back by `State.getByte_rdcWriteBack`, and the lines dropped by
`State.mem_rdcAcquire_rdc`. -/
theorem fenceOrders : Obligations.FenceOrders := by
  refine ⟨?_, ?_, ?_, ?_, ?_⟩
  · intro g order scope s lanes hm hc
    have hstands : Stands s.threads s.cur (((released s order scope lanes).acquiring order scope lanes).fenceSync order scope lanes) :=
      .fenceSync (.acquiring (.released ⟨rfl, rfl⟩))
    refine ⟨_, ?_, hstands.threads_advance⟩
    rw [exec_fence g order scope hm, Laws.releasing_of_commits _ hc, Laws.advance_frame]
  · intro s order scope lanes h k
    by_cases hk : k = 0
    · have hsync : s.fenceSync order scope lanes = s := s.fenceSync_none order hk lanes
      have hh : h = s.hb := congrArg State.hb hsync
      exact ⟨by rw [hh, hsync], fun _ => hh, fun l _ hk' => absurd hk hk'⟩
    · have hsync := s.fenceSync_eq order hk lanes
      have hh : h = s.fenceHb order k lanes := congrArg State.hb hsync
      rw [hh]
      refine ⟨hsync, fun h0 => absurd h0 hk, fun l hl _ => ⟨fun ho hp => s.fenceHb_release order k hl ho hp, ?_, ?_⟩⟩
      · intro ho x hx hxk hshare u hu hpub hshown
        exact s.fenceHb_acquire order k hl ho hx hxk hshare hu hpub hshown
      · rintro rfl
        exact ⟨fun r hr hshare u hu hpub hshown => s.fenceHb_after k hl hr hshare hu hpub hshown, fun hp => s.fenceHb_recorded k hl hp⟩
  · intro s order scope c t
    refine ⟨fun h => s.released_none h, fun ho hk => ?_⟩
    have hrel := s.released_some ho hk
    by_cases hsb : (c.wg s.cur.wg).sb = []
    · rw [if_pos hsb] at hrel
      refine ⟨by simp [hrel, hsb], fun h => ?_, fun h5 _ hwf => ?_⟩
      · have hlt : ¬ 5 ≤ scopeRank scope := by
          rcases h with h | h
          · omega
          · exact absurd hsb h
        exact (congrArg Prod.fst hrel).trans (if_neg hlt)
      · have ht : t = c.rdcWriteBack fun _ => true := (congrArg Prod.fst hrel).trans (if_pos h5)
        rw [ht]
        refine ⟨c.rdcWriteBack_frame, fun l hl => ?_, fun l hl hr => c.mem_rdcWriteBack_rdc.2 (.inl ⟨hl, hr⟩), c.getByte_rdcWriteBack hwf⟩
        rcases c.mem_rdcWriteBack_rdc.1 hl with ⟨-, hr⟩ | ⟨l, -, -, -, rfl⟩
        · exact .inr hr
        · exact .inl (by simp [RdcLine.cleaned, keyIn_none])
    · rw [if_neg hsb] at hrel
      exact ⟨by simp [hrel, hsb], fun _ => congrArg Prod.fst hrel, fun _ h => absurd h hsb⟩
  · intro s order scope lanes t
    refine ⟨fun h => s.acquiring_none h, fun ho hk hl => ?_⟩
    have ht : t = s.rdcAcquire s.die := s.acquiring_some ho hk hl
    rw [ht]
    refine ⟨rfl, fun l hx hd => ?_, fun l hl hd => State.mem_rdcAcquire_rdc.2 (.inl ⟨hl, hd⟩), fun l hl hd hdirty => State.mem_rdcAcquire_rdc.2 (.inr ⟨l, hl, hd, hdirty, rfl⟩)⟩
    rcases State.mem_rdcAcquire_rdc.1 hx with ⟨-, hne⟩ | ⟨l, -, -, hdirty, rfl⟩
    · exact absurd hd hne
    · exact ⟨hdirty, rfl⟩
  · intro g order scope s t hm hk hexec
    have hrel : (s.released order scope).2 = true := by rw [s.released_none (.inr hk)]
    rw [exec_fence g order scope hm, Laws.releasing_of_commits _ fun _ => hrel] at hexec
    have hsame : released s order scope (lanesOf (s.captureNone g)) = s := by
      unfold released
      rw [s.released_none (.inr hk), ite_self]
    have hk0 : scopeRank scope < 5 := by omega
    rw [hsame, s.acquiring_none (.inr (.inl hk0)), Laws.advance_frame] at hexec
    cases hexec
    rw [State.fenceSync_frame]
    exact ⟨rfl, rfl, rfl, rfl⟩

end Sys2Proof
end

section
/-! SUPPORT. Engine commands (10 R275 to R277): what each accepted command adds to the operations in flight, and what a block that meets others in flight spoils. -/

namespace Sys2Proof

namespace Machine

open Safety

/-! ### What an engine's acceptance may change -/

/-- A machine that differs in the operations in flight, what is recorded of them, and the marks of other commands alone. -/
def State.OpsTo (s t : State) : Prop :=
  t = { s with
    uid := t.uid, eops := t.eops, lathes := t.lathes, gangs := t.gangs, sends := t.sends, contribs := t.contribs, seals := t.seals, parts := t.parts
    hb := { s.hb with pend := t.hb.pend, fresh := t.hb.fresh, olds := t.hb.olds } }

theorem State.OpsTo.refl (s : State) : s.OpsTo s := rfl

theorem State.OpsTo.trans {s t u : State} (h : s.OpsTo t) (h' : t.OpsTo u) : s.OpsTo u := by
  unfold State.OpsTo at h h' ⊢
  rw [h', h]

theorem State.opsTo_claimBlock (s : State) (w blk n uid : Nat) : s.OpsTo (s.claimBlock w blk n uid).1 := by
  unfold State.claimBlock
  split <;> rfl

theorem State.opsTo_addOp (s : State) (o : EOp) (bytes : List (SyncAt × Nat)) (tiles : List (Nat × Nat)) : s.OpsTo (s.addOp o bytes tiles) := by
  have hclaim := s.opsTo_claimBlock o.wg o.blk o.kind.blockBytes o.uid
  unfold State.OpsTo at hclaim ⊢
  unfold State.addOp
  dsimp only
  rw [hclaim]
  split <;> rfl

theorem State.opsTo_latheGo (s : State) (core l : Nat) : s.OpsTo (s.latheGo core l) := by
  unfold State.latheGo
  dsimp only
  split
  · rfl
  · split
    · rfl
    · split <;> rfl

section
variable {s t : State} (h : s.OpsTo t)
include h

theorem State.OpsTo.cur : t.cur = s.cur := by rw [h]
theorem State.OpsTo.threads : t.threads = s.threads := by rw [h]
theorem State.OpsTo.wg (w : Nat) : t.wg w = s.wg w := by rw [h]; rfl
theorem State.OpsTo.launchOf (w : Nat) : t.launchOf w = s.launchOf w := by rw [h]; rfl
theorem State.OpsTo.blockAt (w off n : Nat) : t.blockAt w off n = s.blockAt w off n := by rw [h]; rfl
theorem State.OpsTo.me (l : Nat) : t.me l = s.me l := by rw [h]; rfl
theorem State.OpsTo.inIssue (u : Thread) : t.inIssue u = s.inIssue u := by rw [h]; rfl
theorem State.OpsTo.nextPlace (u : Thread) : nextPlace t u = nextPlace s u := by rw [h]; rfl
theorem State.OpsTo.copies (l : Nat) : t.copies l = s.copies l := by rw [h]; rfl

end

/-! ### Marks on other commands (10 R277) -/

theorem spoiledEntry_spoilBlock {a b : Entry} (h : SpoiledEntry a b) (w : Nat) (x : SyncAt) (n : Nat) : SpoiledEntry a (b.spoilBlock w x n) := by
  have hstep : SpoiledEntry b (b.spoilBlock w x n) := by
    unfold Entry.spoilBlock
    split
    · next u first size bad hk =>
      cases hbad : bad || b.caps.any fun c => x.hits n [(.loc w c.a, size)] with
      | true => exact .inr ⟨u, first, size, bad, hk, rfl⟩
      | false =>
        obtain ⟨rfl, -⟩ := Bool.or_eq_false_iff.1 hbad
        exact .inl (by rw [← hk])
    · exact .inl rfl
  rcases h with rfl | ⟨u, first, size, bad, hk, rfl⟩
  · exact hstep
  · rcases hstep with hstep | ⟨u', first', size', bad', hk', hstep⟩
    · exact .inr ⟨u, first, size, bad, hk, hstep⟩
    · cases hk'
      exact .inr ⟨u, first, size, bad, hk, hstep⟩

/-- Elements that are related to others stay so when the others are changed as the relation allows. -/
theorem forall₂_map_of_imp {α β : Type} {R : α → β → Prop} {f : β → β} (hf : ∀ a b, R a b → R a (f b)) {l : List α} {m : List β} (h : List.Forall₂ R l m) :
    List.Forall₂ R l (m.map f) :=
  List.forall₂_map_right_iff.2 (h.imp hf)

theorem spoiledGang_refl (g : Gang) : SpoiledGang g g :=
  ⟨rfl, List.forall₂_same.2 fun _ _ => ⟨rfl, List.forall₂_same.2 fun _ _ => rfl⟩, List.forall₂_same.2 fun _ _ => ⟨rfl, .inl rfl⟩, List.forall₂_same.2 fun _ _ => .inl rfl,
    List.forall₂_same.2 fun _ _ => .inl rfl, List.forall₂_same.2 fun _ _ => .inl rfl⟩

theorem spoiledGang_spoilEntries {a b : Gang} (h : SpoiledGang a b) (x : SyncAt) (n : Nat) : SpoiledGang a (b.spoilEntries x n) := by
  obtain ⟨hb, hmcas, hpend, hqueue, hre, hlater⟩ := h
  refine ⟨?_, hmcas, forall₂_map_of_imp ?_ hpend, forall₂_map_of_imp (fun _ _ h => spoiledEntry_spoilBlock h _ x n) hqueue,
    forall₂_map_of_imp (fun _ _ h => spoiledEntry_spoilBlock h _ x n) hre, forall₂_map_of_imp (fun _ _ h => spoiledEntry_spoilBlock h _ x n) hlater⟩
  · unfold Gang.spoilEntries
    rw [hb]
  · rintro p q ⟨hq, he⟩
    exact ⟨by rw [hq], spoiledEntry_spoilBlock he _ x n⟩

/-- The marks of other commands, as a claim of blocks has left them. -/
def State.MarksTo (s : State) (clear apart : Prop) (t : State) : Prop := OnlySpoils s clear apart t.sends t.contribs t.seals t.parts t.gangs

theorem State.MarksTo.refl (s : State) (clear apart : Prop) : s.MarksTo clear apart s :=
  ⟨⟨List.forall₂_same.2 fun _ _ => rfl, List.forall₂_same.2 fun _ _ => rfl, List.forall₂_same.2 fun _ _ => rfl,
    List.forall₂_same.2 fun _ _ => ⟨rfl, List.forall₂_same.2 fun _ _ => rfl⟩, List.forall₂_same.2 fun g _ => spoiledGang_refl g⟩,
    List.forall₂_same.2 fun _ _ => rfl, List.forall₂_same.2 fun _ _ => rfl, fun _ => ⟨rfl, rfl, rfl, rfl⟩, fun _ _ => rfl⟩

theorem State.inFlight_eq_false {s : State} {w blk n : Nat} : s.inFlight w blk n = false ↔
    (∀ x ∈ s.eops, x.holds (.loc w blk) n = false) ∧ (∀ x ∈ s.sends, SyncAt.inBlock (.loc w blk) n x.by_.wg x.send.blk = false) ∧
    (∀ x ∈ s.contribs, SyncAt.inBlock (.loc w blk) n x.by_.wg x.blk = false) ∧ (∀ x ∈ s.seals, SyncAt.hits (.loc w blk) n [(.loc x.by_.wg x.blk, 128)] = false) ∧
    ∀ q ∈ s.parts, ∀ x ∈ q.armed, SyncAt.inBlock (.loc w blk) n x.by_.wg x.send.blk = false := by
  simp only [State.inFlight, Bool.or_eq_false_iff, List.any_eq_false, Bool.not_eq_true, and_assoc]

theorem map_eq_self {α : Type} {f : α → α} {l : List α} (h : ∀ x ∈ l, f x = x) : l.map f = l := (List.map_congr_left h).trans (List.map_id l)

/-- A block that no command but operations has in flight marks none of the others in flight. -/
theorem State.spoilBlocks_of_apart {s t : State} {w blk n : Nat} {but : Option Nat} (hf : s.inFlight w blk n = false) (hs : t.sends = s.sends) (hc : t.contribs = s.contribs)
    (hl : t.seals = s.seals) (hp : t.parts = s.parts) :
    let u := t.spoilBlocks (.loc w blk) n but
    u.sends = s.sends ∧ u.contribs = s.contribs ∧ u.seals = s.seals ∧ u.parts = s.parts := by
  obtain ⟨-, hsends, hcontribs, hseals, hparts⟩ := State.inFlight_eq_false.1 hf
  refine ⟨?_, ?_, ?_, ?_⟩
  · rw [← hs]
    exact map_eq_self fun x hx => by simp [hsends x (hs ▸ hx)]
  · rw [← hc]
    exact map_eq_self fun x hx => by simp [hcontribs x (hc ▸ hx)]
  · rw [← hl]
    exact map_eq_self fun x hx => by simp [hseals x (hl ▸ hx)]
  · rw [← hp]
    refine map_eq_self fun q hq => ?_
    have harmed : (q.armed.map fun x => { x with spoiled := x.spoiled || (some x.uid != but && SyncAt.inBlock (.loc w blk) n x.by_.wg x.send.blk) }) = q.armed :=
      map_eq_self fun x hx => by simp [hparts q (hp ▸ hq) x hx]
    rw [harmed]

/-- One more block claimed: its bytes mark other commands, but none in flight where it is shared with none (`clear`), and nothing where besides it does not meet an
operation accepted before (`apart`). -/
theorem State.MarksTo.claimBlock {s t : State} {clear apart clear' apart' : Prop} {w blk n : Nat} (h : s.MarksTo clear apart t) (uid : Nat) (hclear : clear' → clear)
    (hapart : apart' → apart) (hfree : clear' → s.inFlight w blk n = false) (hnew : clear' → apart' → ∀ x ∈ t.eops, x.holds (.loc w blk) n = false) :
    s.MarksTo clear' apart' (t.claimBlock w blk n uid).1 := by
  obtain ⟨⟨hsends, hcontribs, hseals, hparts, hgangs⟩, hsends', hcontribs', hcl, hap⟩ := h
  unfold State.claimBlock
  split
  · next hflight =>
    refine ⟨⟨forall₂_map_of_imp (fun _ _ h => by rw [h]) hsends, forall₂_map_of_imp (fun _ _ h => by rw [h]) hcontribs,
      forall₂_map_of_imp (fun _ _ h => by rw [h]) hseals, forall₂_map_of_imp ?_ hparts, forall₂_map_of_imp (fun _ _ h => spoiledGang_spoilEntries h _ _) hgangs⟩,
      forall₂_map_of_imp (fun _ _ h => by rw [h]) hsends', forall₂_map_of_imp (fun _ _ h => by rw [h]) hcontribs', fun hc => ?_, fun hc ha => ?_⟩
    · rintro p q ⟨hq, harmed⟩
      exact ⟨by rw [hq], forall₂_map_of_imp (fun _ _ h => by rw [h]) harmed⟩
    · obtain ⟨h1, h2, h3, h4⟩ := hcl (hclear hc)
      exact State.spoilBlocks_of_apart (hfree hc) h1 h2 h3 h4
    · obtain ⟨h1, h2, h3, h4⟩ := hcl (hclear hc)
      obtain ⟨-, f1, f2, f3, f4⟩ := State.inFlight_eq_false.1 (hfree hc)
      exact absurd (State.inFlight_eq_false.2 ⟨hnew hc ha, h1 ▸ f1, h2 ▸ f2, h3 ▸ f3, h4 ▸ f4⟩) (by simp [hflight])
  · exact ⟨⟨hsends, hcontribs, hseals, hparts, hgangs⟩, hsends', hcontribs', fun hc => hcl (hclear hc), fun hc ha => hap (hclear hc) (hapart ha)⟩

/-! ### Commands accepted one after another (10 R275, R276) -/

section
variable (s : State) (kind : EKind) (n : Nat) (takes : Cap → EOp → Prop)

/-- 10 R277: an operation is one that the command of a lane of the current issue makes: it holds a copy of the lane's block and who issued it. -/
def State.IsOp (uid : Nat) (c : Cap) (e : EOp) : Prop :=
  e.uid = uid ∧ e.kind = kind ∧ e.wg = s.cur.wg ∧ e.gang = s.cur.gang ∧ e.lane = c.lane ∧ e.pc = s.cur.pc ∧ e.word = s.cur.word ∧ e.blk = c.a ∧
    e.block = s.blockAt s.cur.wg c.a n ∧ takes c e

/-- An engine has accepted the command of a lane: its operation has entered, and a lathe may have begun to work on an `mma`. -/
def State.Accepts (t : State) (c : Cap) (t' : State) : Prop :=
  ∃ o bytes tiles, s.IsOp kind n takes t.uid c o ∧
    (t' = t.addOp o bytes tiles ∨ (kind = .mma ∧ ∃ core l, t' = (t.addOp o bytes tiles).latheGo core l))

/-- Operations as they entered, and as they are since: only when their next group is due, and whether their block has been written, may have changed. -/
def SameOps (es eo : List EOp) : Prop := List.Forall₂ (fun a b => b = { a with due := b.due, spoiled := b.spoiled }) es eo

/-- An engine has taken the commands of some lanes, in order, as some operations. -/
structure State.Taken (took : List Cap) (es : List EOp) (t : State) : Prop where
  ops : s.OpsTo t
  uid : t.uid = s.uid + took.length
  marks : s.MarksTo (∀ c ∈ took, s.inFlight s.cur.wg c.a kind.blockBytes = false) (Apart took kind.blockBytes) t
  news : List.Forall₂ (fun (c : Cap × Nat) e => s.IsOp kind n takes (s.uid + c.2) c.1 e) took.zipIdx es
  eops : SameOps (s.eops ++ es) t.eops
  lathes : kind ≠ .mma → t.lathes = s.lathes

theorem State.taken_nil : s.Taken kind n takes [] [] s :=
  ⟨.refl s, rfl, .refl s _ _, .nil, by rw [List.append_nil]; exact List.forall₂_same.2 fun _ _ => rfl, fun _ => rfl⟩

end

theorem SameOps.append {es eo : List EOp} (h : SameOps es eo) (o : EOp) (b : Bool) : SameOps (es ++ [o]) (eo ++ [{ o with spoiled := b }]) :=
  List.rel_append h (.cons rfl .nil)

theorem SameOps.holds {es eo : List EOp} (h : SameOps es eo) {a : SyncAt} {n : Nat} (hes : ∀ e ∈ es, e.holds a n = false) : ∀ x ∈ eo, x.holds a n = false := by
  intro x hx
  obtain ⟨e, he, hxe⟩ := exists_of_forall₂_right h hx
  have : x.holds a n = e.holds a n := by rw [hxe]; rfl
  rw [this, hes e he]

theorem SameOps.claimBlock {es : List EOp} {t : State} (h : SameOps es t.eops) (w blk n uid : Nat) : SameOps es (t.claimBlock w blk n uid).1.eops := by
  unfold State.claimBlock
  split
  · exact forall₂_map_of_imp (fun _ _ h => by rw [h]) h
  · exact h

theorem State.latheGo_eq (s : State) (core l : Nat) : s.latheGo core l = { s with lathes := (s.latheGo core l).lathes, eops := (s.latheGo core l).eops } := by
  unfold State.latheGo
  dsimp only
  split
  · rfl
  · split
    · rfl
    · split <;> rfl

theorem SameOps.latheGo {es : List EOp} {t : State} (h : SameOps es t.eops) (core l : Nat) : SameOps es (t.latheGo core l).eops := by
  unfold State.latheGo
  dsimp only
  split
  · exact h
  · split
    · exact h
    · split
      · refine forall₂_map_of_imp (fun a b hab => ?_) h
        split
        · rw [hab]
        · exact hab
      · exact h

section
variable {s : State} {kind : EKind} {n : Nat} {takes : Cap → EOp → Prop} {took : List Cap} {es : List EOp} {t : State}

/-- The new block is in flight only where it was, or where it meets one taken before. -/
theorem State.Taken.holds_eq_false (h : s.Taken kind n takes took es t) {c : Cap} (hfree : s.inFlight s.cur.wg c.a kind.blockBytes = false)
    (hapart : Apart (took ++ [c]) kind.blockBytes) : ∀ x ∈ t.eops, x.holds (.loc s.cur.wg c.a) kind.blockBytes = false := by
  refine h.eops.holds fun e he => ?_
  rcases List.mem_append.1 he with he | he
  · exact (State.inFlight_eq_false.1 hfree).1 e he
  · obtain ⟨⟨d, i⟩, hd, -, hkind, hwg, -, -, -, -, hblk, -⟩ := exists_of_forall₂_right h.news he
    have hmeet : overlap d.a kind.blockBytes c.a kind.blockBytes = false :=
      (List.pairwise_append.1 hapart).2.2 d (List.fst_mem_of_mem_zipIdx hd) c (List.mem_singleton.2 rfl)
    simp [EOp.holds, SyncAt.hits, SyncAt.meets, SyncAt.space, hkind, hwg, hblk, hmeet]

/-- One more command taken. -/
theorem State.Taken.addOp (h : s.Taken kind n takes took es t) {c : Cap} {o : EOp} (bytes : List (SyncAt × Nat)) (tiles : List (Nat × Nat))
    (ho : s.IsOp kind n takes t.uid c o) : s.Taken kind n takes (took ++ [c]) (es ++ [o]) (t.addOp o bytes tiles) := by
  obtain ⟨huid, hkind, hwg, -, -, -, -, hblk, -, -⟩ := id ho
  have hclaim : t.claimBlock o.wg o.blk o.kind.blockBytes o.uid = t.claimBlock s.cur.wg c.a kind.blockBytes o.uid := by rw [hkind, hwg, hblk]
  refine ⟨h.ops.trans (t.opsTo_addOp o bytes tiles), ?_, ?_, ?_, ?_, ?_⟩
  · show t.uid + 1 = _
    rw [h.uid, List.length_append, List.length_singleton]
    omega
  · have hmarks := h.marks.claimBlock o.uid (clear' := ∀ d ∈ took ++ [c], s.inFlight s.cur.wg d.a kind.blockBytes = false) (apart' := Apart (took ++ [c]) kind.blockBytes)
      (fun hc d hd => hc d (List.mem_append_left _ hd)) (fun ha => (List.pairwise_append.1 ha).1)
      (fun hc => hc c (List.mem_append_right _ (List.mem_singleton.2 rfl)))
      fun hc ha => h.holds_eq_false (hc c (List.mem_append_right _ (List.mem_singleton.2 rfl))) ha
    rw [← hclaim] at hmarks
    exact hmarks
  · rw [List.zipIdx_append, Nat.zero_add]
    exact List.rel_append h.news (.cons (h.uid ▸ ho) .nil)
  · rw [← List.append_assoc]
    exact (h.eops.claimBlock o.wg o.blk o.kind.blockBytes o.uid).append o _
  · intro hm
    rw [← h.lathes hm]
    show (t.claimBlock o.wg o.blk o.kind.blockBytes o.uid).1.lathes = _
    unfold State.claimBlock
    split <;> rfl

theorem State.Taken.accepts (h : s.Taken kind n takes took es t) {c : Cap} {t' : State} (ha : s.Accepts kind n takes t c t') :
    ∃ e, s.Taken kind n takes (took ++ [c]) (es ++ [e]) t' := by
  obtain ⟨o, bytes, tiles, ho, rfl | ⟨hm, core, l, rfl⟩⟩ := ha
  · exact ⟨o, h.addOp bytes tiles ho⟩
  · have h1 := h.addOp bytes tiles ho
    have hgo := (t.addOp o bytes tiles).latheGo_eq core l
    refine ⟨o, h1.ops.trans (State.opsTo_latheGo _ core l), ?_, ?_, h1.news, h1.eops.latheGo core l, fun hne => absurd hm hne⟩
    · rw [hgo]
      exact h1.uid
    · rw [hgo]
      exact h1.marks

/-- 10 R275: lanes whose commands an engine accepts in order. -/
theorem State.exists_taken {inv : State → Prop} {accept : State → Cap → State} (hinv : inv s) (l : List Cap)
    (hacc : ∀ t, ∀ c ∈ l, s.OpsTo t → inv t → s.Accepts kind n takes t c (accept t c) ∧ inv (accept t c)) :
    ∃ es, s.Taken kind n takes l es (l.foldl accept s) ∧ inv (l.foldl accept s) := by
  induction l using List.reverseRecOn with
  | nil => exact ⟨[], s.taken_nil kind n takes, hinv⟩
  | append_singleton l c ih =>
    obtain ⟨es, htaken, hi⟩ := ih fun t d hd => hacc t d (List.mem_append_left _ hd)
    obtain ⟨ha, hi'⟩ := hacc _ c (List.mem_append_right _ (List.mem_singleton.2 rfl)) htaken.ops hi
    obtain ⟨e, he⟩ := htaken.accepts ha
    rw [List.foldl_append]
    exact ⟨es ++ [e], he, hi'⟩

end

/-! ### Lanes that stay at the instruction (10 R275) -/

theorem State.advanceBut_frame (s : State) (later : List Cap) :
    s.advanceBut later = { s with threads := (s.advanceBut later).threads, gangs := (s.advanceBut later).gangs } := by
  unfold State.advanceBut
  dsimp only
  split
  · rw [Laws.advance_frame]
  · split
    · rfl
    · rw [Laws.settle_frame]
      rfl

theorem State.advanceBut_gangs (s : State) {later : List Cap} (h : s.cur.replay = false ∨ later = []) : (s.advanceBut later).gangs = s.gangs := by
  unfold State.advanceBut
  dsimp only
  split
  · rw [Laws.advance_frame]
  · next hl =>
    rw [if_neg (by rcases h with h | h <;> simp_all), Laws.settle_frame]
    rfl

theorem State.threads_advanceBut (s : State) (later : List Cap) :
    Threads s id (fun u => if s.inIssue u && later.any (fun c => (s.copies c.lane).contains u.lane) then (u.pc, u.past) else nextPlace s u)
      (s.advanceBut later).threads := by
  unfold State.advanceBut
  dsimp only
  split
  · next hl =>
    obtain rfl := List.isEmpty_iff.1 hl
    exact (Laws.advance_threads s).imp fun u v h => ⟨h.1, h.2.trans (by simp)⟩
  · split
    · next hr =>
      refine List.forall₂_same.2 fun u _ => ⟨Laws.Moved.refl u, ?_⟩
      simp [nextPlace, hr]
    · next hr =>
      refine (Laws.updThreads_settle s s.inIssue _ s.cur.wg s.cur.gang).imp fun u v ⟨hmoved, hpc, hpast, _⟩ => ?_
      dsimp only
      rw [hpc, hpast]
      simp only [List.contains_flatMap] at hmoved ⊢
      generalize (later.any fun c => (s.copies c.lane).contains u.lane) = stays at hmoved ⊢
      cases hi : s.inIssue u with
      | false =>
        rw [hi] at hmoved
        exact ⟨hmoved, by simp [hi, nextPlace]⟩
      | true =>
        rw [hi] at hmoved
        cases stays with
        | false => exact ⟨Laws.Moved.goto hmoved, by simp [hi, nextPlace, hr, Thread.goto]⟩
        | true => exact ⟨hmoved, by simp⟩

/-! ### The issue of an engine command (10 R275 to R277) -/

/-- 10 R277: an engine command whose blocks pass, with a place free, is taken for as many lanes as there is room for. -/
theorem State.engineOp_of_ready {s : State} {o : Op} {al n : Nat} {check : State → Nat → Option Nat} {accept : State → Cap → State}
    {more : State → Nat → List (Nat × Nat)} (h : EngineReady s (s.captureBlk o) al n (check s) (more s)) :
    s.engineOp o al n check accept more = (((s.effective (s.captureBlk o)).take (32 - s.engineLoad s.cur.wg)).foldl accept s).advanceBut
      ((s.effective (s.captureBlk o)).drop (32 - s.engineLoad s.cur.wg)) := by
  obtain ⟨hacts, hblocks, hmore, hroom⟩ := h
  have hfree : (!(s.effective (s.captureBlk o)).isEmpty && Config.maxEngineOps - s.engineLoad s.cur.wg == 0) = false := by
    by_cases hnil : s.effective (s.captureBlk o) = []
    · simp [hnil]
    · have := hroom hnil
      have hne : ¬ 32 - s.engineLoad s.cur.wg = 0 := by omega
      simp [Config.maxEngineOps, hne]
  unfold State.engineOp
  rw [State.acting_pair_of_acts _ _ hacts, Laws.withBlocks_of_ok _ (fun c hc => (hblocks c hc).2.2.1) (fun c hc => (hblocks c hc).2.2.2) _ _ hmore]
  have htouch : (s.captureBlk o).foldl (fun s _ => s) s = s := List.foldl_fixed _
  rw [htouch]
  dsimp only
  rw [hfree, if_neg Bool.false_ne_true]
  rfl

theorem State.mem_captureBlk_of_take {s : State} {o : Op} {k : Nat} {c : Cap} (h : c ∈ (s.effective (s.captureBlk o)).take k) : c ∈ s.captureBlk o := by
  have hc := List.mem_of_mem_take h
  unfold State.effective at hc
  dsimp only at hc
  split at hc
  · exact List.mem_of_mem_filter hc
  · exact hc

/-- What an engine has taken, with the lanes that stay at the instruction, is all that an engine command leaves. -/
theorem State.Taken.issued {s : State} {kind : EKind} {n : Nat} {takes : Cap → EOp → Prop} {took : List Cap} {es : List EOp} {t : State}
    (h : s.Taken kind n takes took es t) (later : List Cap) : Issued s kind n took later takes (t.advanceBut later) := by
  obtain ⟨hops, huid, hmarks, hnews, heops, hlathes⟩ := h
  have hthreads := t.threads_advanceBut later
  have hframe := t.advanceBut_frame later
  have hgangs (hr : s.cur.replay = false ∨ later = []) := t.advanceBut_gangs (later := later) (hops.cur ▸ hr)
  generalize t.advanceBut later = u at hthreads hframe hgangs ⊢
  refine ⟨u.threads, es, t.eops, t.lathes, u.gangs, t.gangs, t.hb.pend, t.hb.fresh, t.hb.olds, t.sends, t.contribs, t.seals, t.parts, ?_, hmarks, hnews, heops, hlathes,
    hgangs, ?_⟩
  · rw [← huid, hframe]
    dsimp only
    rw [hops]
  · unfold Threads at hthreads ⊢
    rw [hops.threads] at hthreads
    refine hthreads.imp fun v w ⟨hmoved, hplace⟩ => ⟨hmoved, hplace.trans ?_⟩
    simp only [hops.inIssue, hops.nextPlace, hops.copies]

/-- The shape of every engine command: each command accepted makes its operation (`State.Accepts`), and what the acceptance of the next one needs of the machine is kept. -/
theorem State.issued_engineOp {s : State} {o : Op} {kind : EKind} {n : Nat} {check : State → Nat → Option Nat} {accept : State → Cap → State}
    {more : State → Nat → List (Nat × Nat)} {takes : Cap → EOp → Prop} {inv : State → Prop} (h : EngineReady s (s.captureBlk o) 64 n (check s) (more s)) (hinv : inv s)
    (hacc : ∀ t, ∀ c ∈ s.captureBlk o, s.OpsTo t → inv t → s.Accepts kind n takes t c (accept t c) ∧ inv (accept t c)) :
    Issued s kind n ((s.effective (s.captureBlk o)).take (32 - s.engineLoad s.cur.wg)) ((s.effective (s.captureBlk o)).drop (32 - s.engineLoad s.cur.wg)) takes
      (s.engineOp o 64 n check accept more) := by
  obtain ⟨es, ht, -⟩ := State.exists_taken hinv ((s.effective (s.captureBlk o)).take (32 - s.engineLoad s.cur.wg))
    fun t c hc => hacc t c (State.mem_captureBlk_of_take hc)
  rw [State.engineOp_of_ready h]
  exact ht.issued _

/-! ### Each engine's acceptance -/

theorem need_eq_none {ok : Bool} {code : Nat} : need ok code = none ↔ ok = true := by
  cases ok <;> simp [need]

theorem State.fields_of_blockCheck {s : State} {w off al n : Nat} {fields : Nat → Option Nat} (h : s.blockCheck w off al n fields = none) :
    fields (s.blockAt w off n) = none := by
  unfold State.blockCheck at h
  split at h
  · cases h
  · split at h
    · cases h
    · exact h

/-- 10 R293: a block that passes and names no lathe names a tile that some lathe has. -/
theorem State.hasTile_of_blockCheck {s : State} {w off : Nat} (h : s.blockCheck w off 64 128 (s.mmaFields w) = none)
    (hl : (mblockOf (s.blockAt w off 128)).lathe = 7) : ∃ i < 4, (s.launchOf w).hasTile i (mblockOf (s.blockAt w off 128)).tile = true := by
  have hnone : s.mmaFields w (s.blockAt w off 128) = none := State.fields_of_blockCheck h
  unfold State.mmaFields at hnone
  have hfields := need_eq_none.1 hnone
  simp only [hl, beq_self_eq_true, if_true, Bool.and_eq_true] at hfields
  obtain ⟨⟨⟨⟨⟨⟨⟨-, htile⟩, -⟩, -⟩, -⟩, -⟩, -⟩, -⟩ := hfields
  obtain ⟨i, hi, hhas⟩ := List.any_eq_true.1 htile
  exact ⟨i, List.mem_range.1 hi, hhas⟩

/-- A choice that goes through a list keeps what it holds first or takes an element. -/
theorem foldl_choice_mem {α : Type} (p : α → α → Bool) (l : List α) (a : α) : l.foldl (fun a i => if p i a then i else a) a ∈ a :: l := by
  induction l generalizing a with
  | nil => exact List.mem_singleton.2 rfl
  | cons i l ih =>
    rw [List.foldl_cons]
    rcases List.mem_cons.1 (ih (if p i a then i else a)) with hm | hm
    · rw [hm]
      split
      · exact List.mem_cons_of_mem _ List.mem_cons_self
      · exact List.mem_cons_self
    · exact List.mem_cons_of_mem _ (List.mem_cons_of_mem _ hm)

/-- 10 R294: where some lathe has a tile, the free lathe has it. -/
theorem State.freeLathe_hasTile {s : State} {w tile : Nat} (h : ∃ i < 4, (s.launchOf w).hasTile i tile = true) :
    (s.launchOf w).hasTile (s.freeLathe w tile) tile = true := by
  obtain ⟨i, hi, hhas⟩ := h
  unfold State.freeLathe
  dsimp only
  have hall : ∀ j ∈ (List.range 4).filter fun i => (s.launchOf w).hasTile i tile, (s.launchOf w).hasTile j tile = true := fun j hj => (List.mem_filter.1 hj).2
  have hi' : i ∈ (List.range 4).filter fun i => (s.launchOf w).hasTile i tile := List.mem_filter.2 ⟨List.mem_range.2 hi, hhas⟩
  generalize (List.range 4).filter (fun i => (s.launchOf w).hasTile i tile) = ls at hall hi' ⊢
  cases ls with
  | nil => cases hi'
  | cons a ls =>
    refine hall _ ?_
    have hmem := foldl_choice_mem (fun i a => decide ((s.latheQueue (s.wg w).core i).length < (s.latheQueue (s.wg w).core a).length)) (a :: ls) a
    simp only [decide_eq_true_eq] at hmem
    rcases List.mem_cons.1 hmem with hm | hm
    · exact List.mem_cons.2 (.inl hm)
    · exact hm

/-- 10 R293, R294: the lathe that an `mma` of one lane goes to. -/
def State.acceptMmaLathe (t : State) (c : Cap) : Nat :=
  let b := mblockOf (t.newOp .mma c 128).block
  if b.progress != 0 then bits b.status 5 4 else if b.lathe == 7 then t.freeLathe t.cur.wg b.tile else b.lathe

section
variable {s t : State} (h : s.OpsTo t)
include h

/-- An operation is its lane's where it differs from a new one in what its kind adds alone. -/
theorem State.OpsTo.isOp {kind : EKind} {n : Nat} {takes : Cap → EOp → Prop} {c : Cap} {e : EOp}
    (he : e = { t.newOp kind c n with
      progress := e.progress, status := e.status, seq := e.seq, lathe := e.lathe, undef := e.undef, again := e.again, dest := e.dest, span := e.span })
    (htakes : takes c e) : s.IsOp kind n takes t.uid c e := by
  have hcur := h.cur
  refine ⟨by rw [he]; rfl, by rw [he]; rfl, ?_, ?_, by rw [he]; rfl, ?_, ?_, by rw [he]; rfl, ?_, htakes⟩
  · rw [he, ← hcur]; rfl
  · rw [he, ← hcur]; rfl
  · rw [he, ← hcur]; rfl
  · rw [he, ← hcur]; rfl
  · rw [he, ← h.blockAt, ← hcur]; rfl

/-- 10 R281: a gouge command makes an operation with the progress, the status and the sequence number of its block. -/
theorem State.OpsTo.accepts_gouge (k : EKind) (c : Cap) :
    s.Accepts k 64 (fun _ e => let b := gblockOf e.block; e.progress = b.progress ∧ e.status = b.status ∧ e.seq = b.seq) t c (State.acceptGouge k t c) :=
  ⟨_, _, _, h.isOp rfl ⟨rfl, rfl, rfl⟩, .inl rfl⟩

/-- 10 R294: an `mma` goes to the lathe of its block, to the one it stopped on, or, where it names none, to a free one that has its tile. -/
theorem State.OpsTo.accepts_mma {c : Cap} (hc : s.blockCheck s.cur.wg c.a 64 128 (s.mmaFields s.cur.wg) = none) :
    s.Accepts .mma 128 (fun _ e => let b := mblockOf e.block
      e.progress = b.progress ∧ (b.progress ≠ 0 → e.lathe = bits b.status 5 4) ∧ (b.progress = 0 → b.lathe ≠ 7 → e.lathe = b.lathe) ∧
        (b.progress = 0 → b.lathe = 7 → s.launch.hasTile e.lathe b.tile = true)) t c (t.acceptMma c) := by
  refine ⟨_, _, _, h.isOp rfl ⟨rfl, fun hp => ?_, fun hp hl => ?_, fun hp hl => ?_⟩, .inr ⟨rfl, _, _, rfl⟩⟩
  · exact if_pos (bne_iff_ne.2 hp)
  · exact (if_neg (by simpa using hp)).trans (if_neg (by simpa using hl))
  · have hblock : (t.newOp .mma c 128).block = s.blockAt s.cur.wg c.a 128 := by
      rw [← h.blockAt, ← h.cur]
      rfl
    have hhas : ∃ i < 4, (t.launchOf t.cur.wg).hasTile i (mblockOf (t.newOp .mma c 128).block).tile = true := by
      rw [h.launchOf, h.cur, hblock]
      exact s.hasTile_of_blockCheck hc (hblock ▸ hl)
    have hfree := t.freeLathe_hasTile hhas
    rw [h.launchOf, h.cur] at hfree
    have hlathe : (t.acceptMmaLathe c) = t.freeLathe s.cur.wg (mblockOf (t.newOp .mma c 128).block).tile := by
      unfold State.acceptMmaLathe
      rw [if_neg (by simpa using hp), if_pos (by simpa using hl), h.cur]
    exact (congrArg (s.launch.hasTile · _) hlathe).trans hfree

/-- 10 R298, 04 R127: a drain goes to the lathe of its block, and reads what is undefined where its lane has not acquired the completion of an `mma` on its tile. -/
theorem State.OpsTo.accepts_drain (c : Cap) (hrace : s.cur.kind = .instr → ∀ a w tile, t.hb.tileRacing a w tile = s.hb.tileRacing a w tile) :
    s.Accepts .drain 64 (fun c e => e.lathe = (dblockOf e.block).lathe ∧
      (s.cur.kind = .instr → e.undef = s.hb.tileRacing (s.me c.lane) s.cur.wg ((dblockOf e.block).lathe, (dblockOf e.block).tile))) t c (t.acceptDrain c) := by
  refine ⟨_, _, _, h.isOp rfl ⟨rfl, fun hk => ?_⟩, .inl rfl⟩
  have hgood : t.againBad = false := by
    unfold State.againBad
    rw [h.cur, hk]
  show (t.againBad || t.hb.tileRacing (t.me c.lane) t.cur.wg _) = _
  rw [hgood, Bool.false_or, hrace hk, h.me, h.cur]

end

/-- 04 R127: a drain itself makes no tile one that an `mma` writes. -/
theorem State.tileRacing_acceptDrain {t : State} (hk : t.cur.kind = .instr) (c : Cap) (a : Agent) (w : Nat) (tile : Nat × Nat) :
    (t.acceptDrain c).hb.tileRacing a w tile = t.hb.tileRacing a w tile := by
  have hpend : ∃ u, (t.acceptDrain c).hb.pend = u :: t.hb.pend ∧ u.what = .op .drain [] [] := by
    unfold State.acceptDrain State.addOp
    simp only [hk]
    exact ⟨_, rfl, rfl⟩
  obtain ⟨u, hp, hu⟩ := hpend
  simp [Hb.tileRacing, hp, hu]

end Machine

open Machine Safety

/-- Settles O42: each engine command has the shape of `State.issued_engineOp`, with what its engine accepts (`State.OpsTo.accepts_gouge`, `accepts_mma`, `accepts_drain`). -/
theorem engineCommands : Obligations.EngineCommands := by
  intro o gouge
  have hgouge (k : EKind) (s : State) (t : State) (c : Cap) (_ : c ∈ s.captureBlk o) (h : s.OpsTo t) (_ : True) :
      s.Accepts k 64 (gouge s) t c (State.acceptGouge k t c) ∧ True := ⟨h.accepts_gouge k c, trivial⟩
  refine ⟨?_, ?_, ?_, ?_, ?_⟩
  · intro s caps room hready
    exact ⟨_, rfl, State.issued_engineOp hready trivial (hgouge .gcp s)⟩
  · intro s caps room hready
    exact ⟨_, rfl, State.issued_engineOp hready trivial (hgouge .gst s)⟩
  · intro s caps room hready
    exact ⟨_, rfl, State.issued_engineOp hready trivial (hgouge .gpl s)⟩
  · intro s caps room hready
    obtain ⟨-, hblocks, -, -⟩ := id hready
    exact ⟨_, rfl, State.issued_engineOp (inv := fun _ => True) hready trivial fun t c hc h _ => ⟨h.accepts_mma (hblocks c hc).2.2.1, trivial⟩⟩
  · intro s caps room hready
    refine ⟨_, rfl, State.issued_engineOp (inv := fun t => s.cur.kind = .instr → ∀ a w tile, t.hb.tileRacing a w tile = s.hb.tileRacing a w tile) hready
      (fun _ _ _ _ => rfl) fun t c _ h hrace => ⟨h.accepts_drain c hrace, fun hk a w tile => ?_⟩⟩
    rw [State.tileRacing_acceptDrain (h.cur ▸ hk), hrace hk]

end Sys2Proof
end

section
/-! SUPPORT. Partitions and events on objects: what an update leaves of a partition, and which operations leave the steps of versioned pages as they are. -/

namespace Sys2Proof

namespace Machine

/-! ### Lists of records -/

/-- Two updates of the records that a test picks out are one, where the first keeps the test. -/
theorem updWhere_updWhere {α : Type} {p : α → Bool} {f : α → α} (hf : ∀ x, p (f x) = p x) (g : α → α) (l : List α) :
    updWhere p g (updWhere p f l) = updWhere p (fun x => g (f x)) l := by
  simp only [updWhere, List.map_map]
  refine List.map_congr_left fun x _ => ?_
  cases hp : p x
  · simp [hp]
  · simp [hp, hf]

/-- An update under a test that nothing passes. -/
theorem updWhere_of_none {α : Type} {p : α → Bool} (f : α → α) {l : List α} (h : ∀ x ∈ l, p x = false) : updWhere p f l = l := by
  refine (List.map_congr_left fun x hx => ?_).trans (List.map_id l)
  simp [h x hx]

theorem lookupD_store_self {α : Type} (l : List (Nat × α)) (n : Nat) (x d : α) : lookupD (store l n x) n d = x := if_pos rfl

theorem lookupD_store_ne {α : Type} (l : List (Nat × α)) {n m : Nat} (x d : α) (h : m ≠ n) : lookupD (store l n x) m d = lookupD l m d := by
  refine (if_neg h.symm).trans ?_
  induction l with
  | nil => rfl
  | cons e l ih =>
    by_cases he : e.1 = n
    · have hm : e.1 ≠ m := fun hm => h (hm.symm.trans he)
      simpa [List.filter_cons, he, lookupD, hm, h.symm] using ih
    · simp [he, lookupD, ih]

/-! ### A partition after an update of it -/

section
variable {s : State} {p : Nat} {f : Part → Part}

/-- Where a partition stands at its number, an update of that number gives it. -/
theorem State.part_updPart (hidx : (s.part p).idx = p) (hlt : p < s.parts.length) : (s.updPart p f).part p = f (s.part p) := by
  unfold State.part at hidx ⊢
  rw [List.getElem?_eq_getElem hlt, Option.getD_some] at hidx ⊢
  simp [updWhere, List.getElem?_eq_getElem hlt, hidx]

theorem State.updPart_updPart {g : Part → Part} (hf : ∀ q, (f q).idx = q.idx) : (s.updPart p f).updPart p g = s.updPart p fun q => g (f q) := by
  simp only [State.updPart]
  rw [updWhere_updWhere fun q => congrArg (· == p) (hf q)]

end

/-! ### What leaves the steps of versioned pages (03 R102) as they are -/

theorem apply_foldl_eq {α β : Type} (F : State → β) {f : State → α → State} (h : ∀ s x, F (f s x) = F s) (l : List α) (s : State) : F (l.foldl f s) = F s := by
  induction l generalizing s with
  | nil => rfl
  | cons x l ih => exact (ih (f s x)).trans (h s x)

theorem State.withhold_vtab (s : State) (p core base n : Nat) : (s.withhold p core base n).vtab = s.vtab := rfl

theorem State.stopWg_vtab (s : State) (w : Nat) (st : WState) : (s.stopWg w st).vtab = s.vtab := rfl

theorem State.dropCluster_vtab (s : State) (c : Nat) : (s.dropCluster c).vtab = s.vtab := rfl

theorem State.settleNode_vtab (s : State) : s.settleNode.vtab = s.vtab := rfl

theorem State.msix_vtab (s : State) (p : Nat) : (s.msix p).vtab = s.vtab := rfl

theorem State.recordError_vtab (s : State) (p reason cause wgNum : Nat) : (s.recordError p reason cause wgNum).vtab = s.vtab := by
  unfold State.recordError
  split <;> rfl

theorem State.coresFreed_vtab (s : State) (p : Nat) : (s.coresFreed p).vtab = s.vtab := by
  unfold State.coresFreed
  extract_lets s1
  have h1 : s1.vtab = s.vtab := (apply_ite State.vtab _ _ _).trans (ite_self _)
  split
  · exact h1
  · split <;> exact h1

theorem State.updateBound_vtab (s : State) (p : Nat) : (s.updateBound p).vtab = s.vtab := by
  unfold State.updateBound
  extract_lets
  split
  · rfl
  · split <;> rfl

theorem State.startKick_vtab (s : State) (p slot : Nat) : (s.startKick p slot).vtab = s.vtab := by
  unfold State.startKick
  split
  · rfl
  · split <;> rfl

theorem State.endKicks_vtab (s : State) : s.endKicks.vtab = s.vtab := by
  unfold State.endKicks
  split
  · rfl
  · extract_lets
    rw [State.startKick_vtab, State.updateBound_vtab]
    rfl

theorem State.failNode_vtab (s : State) (n : Nat) : (s.failNode n).vtab = s.vtab := by
  unfold State.failNode
  extract_lets cs placed s1 s2 k s3 p s4
  have h1 : s1.vtab = s.vtab := apply_foldl_eq State.vtab (fun s w => by split <;> rfl) _ _
  have h2 : s2.vtab = s1.vtab := apply_foldl_eq State.vtab State.dropCluster_vtab _ _
  have h4 : s4.vtab = s.vtab := (s3.coresFreed_vtab p).trans (h2.trans h1)
  split
  · rw [State.endKicks_vtab, State.updateBound_vtab, h4]
  · rw [State.updateBound_vtab]
    exact h4

theorem State.kernelError_vtab (s : State) (w reason cause : Nat) : (s.kernelError w reason cause).vtab = s.vtab :=
  (State.failNode_vtab _ _).trans (State.recordError_vtab _ _ _ _ _)

theorem State.enterHandler_vtab (s : State) (w g : Nat) (t : TrapInfo) : (s.enterHandler w g t).vtab = s.vtab := by
  unfold State.enterHandler
  rw [State.dropLatches, updSlice_eq]
  rfl

theorem State.takeTrap_vtab (s : State) (w g : Nat) (t : TrapInfo) : (s.takeTrap w g t).vtab = s.vtab := by
  unfold State.takeTrap
  extract_lets
  split
  · split <;> exact State.kernelError_vtab _ _ _ _
  · split
    · exact State.kernelError_vtab _ _ _ _
    · exact State.enterHandler_vtab _ _ _ _

theorem State.settle_vtab (s : State) (w g : Nat) : (s.settle w g).vtab = s.vtab := by rw [Laws.settle_frame]

theorem State.resolveOnce_vtab (s : State) (w g : Nat) : (s.resolveOnce w g).vtab = s.vtab := by
  unfold State.resolveOnce
  extract_lets _ _ _ _ _ _ _ _ _ _ _ s1
  have h1 : s1.vtab = s.vtab := State.settle_vtab _ _ _
  split
  · rfl
  · split
    · exact h1
    · split <;> exact (State.takeTrap_vtab _ _ _ _).trans h1

theorem State.resolveGo_vtab (w g n : Nat) (s : State) : (State.resolveGo w g n s).vtab = s.vtab := by
  induction n generalizing s with
  | zero => rfl
  | succ n ih =>
    unfold State.resolveGo
    extract_lets
    split
    · exact (ih _).trans (s.resolveOnce_vtab w g)
    · rfl

theorem State.resolveSync_vtab (s : State) (w g : Nat) : (s.resolveSync w g).vtab = s.vtab := by
  unfold State.resolveSync
  split
  · rfl
  · exact State.resolveGo_vtab _ _ _ _

theorem State.passWait_vtab (s : State) (t : Thread) : (s.passWait t).vtab = s.vtab := by
  unfold State.passWait
  split <;> rfl

/-- 09 R266: threads that go on leave every step as it is, whatever meetings they complete. -/
theorem State.wakeIf_vtab (s : State) (p : Thread → Bool) : (s.wakeIf p).vtab = s.vtab := by
  unfold State.wakeIf
  refine apply_foldl_eq State.vtab (fun s t => ?_) _ _
  rw [State.resolveSync_vtab, State.settle_vtab, State.passWait_vtab]

end Machine

end Sys2Proof
end

section
/-! SUPPORT. The events of sends (10 R303 to R307) and failures of links (05 R149): counters, acknowledgements, landings and what a link's failure marks. -/

namespace Sys2Proof

namespace Machine

/-! ### What comes in over a link (17 R427) -/

theorem State.incoming_open {s : State} (h : s.linksOpen = true) (k : State → State) : s.incoming k = k s := if_pos h

theorem State.incoming_eq_self {s : State} {k : State → State} (h : s.linksOpen = false ∨ k s = s) : s.incoming k = s := by
  unfold State.incoming
  split
  case isTrue ho => exact h.resolve_left (by simp [ho])
  case isFalse => rfl

/-! ### Landings and counters (10 R304) -/

section
variable {s : State} {part ctr : Nat} {pieces : List (Nat × List Byte)}

/-- 10 R304: whether a landing is taken, once the links are open. -/
def State.takesLanding (s : State) (part ctr : Nat) (pieces : List (Nat × List Byte)) : Bool :=
  ((s.part part).st == .running || (s.part part).st == .stopped) && ctr ≤ 255 && pieces.all (fun x => s.ownsRange part x.1 x.2.length)

theorem State.takesLanding_iff : s.takesLanding part ctr pieces = true ↔
    ((s.part part).st = .running ∨ (s.part part).st = .stopped) ∧ ctr ≤ 255 ∧ ∀ x ∈ pieces, s.ownsRange part x.1 x.2.length = true := by
  simp [State.takesLanding, and_assoc]

theorem exec_sendLanding_taken (ho : s.linksOpen = true) (ht : s.takesLanding part ctr pieces = true) :
    exec (.sendLanding part ctr pieces) s = .next ((pieces.foldl (fun t x => t.unitWrite x.1 x.2 s.uid) s.unitItem.1).bumpCtr part ctr [s.uid]) :=
  congrArg Host.Outcome.next ((State.incoming_open ho _).trans (if_pos ht))

theorem exec_sendLanding_refused (h : s.linksOpen = false ∨ s.takesLanding part ctr pieces = false) : exec (.sendLanding part ctr pieces) s = .next s :=
  congrArg Host.Outcome.next (State.incoming_eq_self (h.imp_right fun ht => if_neg (Bool.eq_false_iff.1 ht)))

end

/-- 10 R304, R306: a counter without a link whose armed sends its new value does not reach is set to that value. -/
theorem State.bumpCtr_plain {s : State} {p c : Nat} (known : List Nat) (hidx : (s.part p).idx = p) (hlt : p < s.parts.length)
    (hlink : (s.part p).links.find? (fun l => l.ctr == c) = none) (harm : ∀ a ∈ (s.part p).armed, a.ctr ≠ c ∨ reached (s.ctr p c + 1) a.thr = false) :
    s.bumpCtr p c known = s.updPart p fun q => { q with
      ctrs := Machine.store q.ctrs c (s.ctr p c + 1), armed := q.armed.filter fun a => !(a.ctr == c && reached (s.ctr p c + 1) a.thr) } := by
  let f (q : Part) : Part := { q with ctrs := Machine.store q.ctrs c (s.ctr p c + 1) }
  have hpart : (s.updPart p f).part p = f (s.part p) := State.part_updPart hidx hlt
  have hctr : (s.updPart p f).ctr p c = s.ctr p c + 1 := by
    unfold State.ctr
    rw [hpart]
    exact lookupD_store_self _ _ _ _
  have hgo : ((s.part p).armed.filter fun a => a.ctr == c && reached (s.ctr p c + 1) a.thr) = [] := by
    refine List.filter_eq_nil_iff.2 fun a ha => ?_
    rw [Bool.and_eq_true, beq_iff_eq]
    exact fun ⟨hc, hr⟩ => (harm a ha).elim (· hc) (Bool.eq_false_iff.1 · hr)
  have hbump : s.bumpCtr p c known = (s.updPart p f).fire p c known := by
    unfold State.bumpCtr
    simp only [show ((s.updPart p f).part p).links.find? (fun l => l.ctr == c) = none from hpart ▸ hlink, f]
  rw [hbump, State.fire, hctr, hpart, hgo]
  exact State.updPart_updPart fun _ => rfl

/-! ### Acknowledgements and stops (05 R149, 10 R279, R304) -/

section
variable {s : State} {id : Nat}

theorem exec_sendAck_ends {x : Send} {path : Bool} (hx : s.sends.find? (fun x => x.uid == id) = some x) (hr : x.read = true)
    (hd : if path then x.acked = chunkCount x.send.len else s.sendReaches x = false) (hw : (s.wg x.by_.wg).st ≠ .switchedOut) :
    let s1 := { s with sends := s.sends.filter fun y => y.uid != id }
    exec (.sendAck id path) s = .next (if s.onCore x.by_.wg then s1.putStatus x (if path then 0x80000000 else 0x80000001) else s1) := by
  have hgo : ¬ (!x.read || (s.wg x.by_.wg).st == .switchedOut || (if path then x.acked != chunkCount x.send.len else s.sendReaches x)) = true := by
    cases path <;> simp_all
  simp only [exec, execSendAck, hx, if_neg hgo]

theorem exec_engineStop_send {x : Send} (he : s.eop id = none) (hx : s.sends.find? (fun x => x.uid == id && !x.read) = some x) :
    exec (.engineStop id) s = .next (s.sendStop x) := by
  simp only [exec, execEngineStop, he, hx]

theorem State.sendStop_fault {x : Send} {f : Nat × Nat} (hc : s.onCore x.by_.wg = true) (hf : s.sendFault x = some f) :
    let t := s.sendTouch x
    let s1 := { t with sends := t.sends.filter fun y => y.uid != x.uid }.putStatus x 0
    let ct := x.armed.getD (0, 0)
    s.sendStop x = s1.postEngine x.by_ x.send.blk ct.1 ct.2.toNat (.command x.uid x.uid 32 x.spoiled) f.1 f.2 := by
  simp only [State.sendStop, hf, hc, Bool.not_true, Bool.false_eq_true, if_false]

/-- 05 R149: one chunk of the contribution of a number acknowledged. -/
def Contrib.chunked (id : Nat) (c : Contrib) : Contrib := if c.uid == id then { c with acked := c.acked + 1 } else c

/-- 05 R149: whether a contribution is the one of a number, sent, with every chunk acknowledged. -/
def Contrib.whole (id : Nat) (c : Contrib) : Bool := c.uid == id && c.sent && chunkCount (4 * c.words.length) ≤ c.acked

theorem Contrib.chunked_of_ne {c : Contrib} (h : c.uid ≠ id) : c.chunked id = c := if_neg (by simpa using h)

theorem Contrib.whole_of_ne {c : Contrib} (h : c.uid ≠ id) : c.whole id = false := by simp [Contrib.whole, beq_false_of_ne h]

theorem Contrib.whole_chunked {c : Contrib} (h : c.uid = id) (hs : c.sent = true) :
    (c.chunked id).whole id = decide (chunkCount (4 * c.words.length) ≤ c.acked + 1) := by
  simp [Contrib.whole, Contrib.chunked, h, hs]

/-- The sends after a chunk acknowledgement. -/
def State.chunkedSends (s : State) (id : Nat) : List Send :=
  s.sends.map fun x => if x.uid == id && x.read && decide (x.acked < chunkCount x.send.len) && s.sendReaches x then { x with acked := x.acked + 1 } else x

theorem State.chunkedSends_of_ne (h : ∀ x ∈ s.sends, x.uid ≠ id) : s.chunkedSends id = s.sends :=
  (List.map_congr_left fun x hx => by simp [h x hx]).trans (List.map_id _)

theorem exec_chunkAck (s : State) (id : Nat) :
    exec (.chunkAck id) s = .next { s with
      sends := s.chunkedSends id
      contribs := (updWhere (fun c => c.uid == id && c.sent && (s.reduction c.part c.redid).isNone) (fun c => { c with acked := c.acked + 1 }) s.contribs).filter
        fun c => !c.whole id } := by
  have hsend (x : Send) : (if x.uid == id then (if x.read && x.acked < chunkCount x.send.len && s.sendReaches x then { x with acked := x.acked + 1 } else x) else x) =
      if x.uid == id && x.read && decide (x.acked < chunkCount x.send.len) && s.sendReaches x then { x with acked := x.acked + 1 } else x := by
    cases x.uid == id <;> simp
  refine congrArg Host.Outcome.next ?_
  simp only [State.updSend, State.chunkedSends, updWhere, hsend]
  rfl

theorem exec_chunkAck_send (h : ∀ c ∈ s.contribs, c.uid ≠ id) : exec (.chunkAck id) s = .next { s with sends := s.chunkedSends id } := by
  rw [exec_chunkAck, updWhere_of_none _ fun c hc => by simp [h c hc], List.filter_eq_self.2 fun c hc => by simp [Contrib.whole_of_ne (h c hc)]]

/-- 05 R149: a contribution that has been sent counts the chunk, and is complete with the last. -/
theorem exec_chunkAck_contrib {c : Contrib} (hs : ∀ x ∈ s.sends, x.uid ≠ id) (hc : s.contribs.filter (fun c => c.uid == id) = [c]) (hsent : c.sent = true)
    (hred : s.reduction c.part c.redid = none) :
    exec (.chunkAck id) s = .next { s with
      contribs := if chunkCount (4 * c.words.length) ≤ c.acked + 1 then s.contribs.filter fun x => x.uid != id else s.contribs.map (Contrib.chunked id) } := by
  have honly : ∀ x ∈ s.contribs, x.uid = id → x = c := by
    intro x hx he
    have hm : x ∈ s.contribs.filter (fun c => c.uid == id) := List.mem_filter.2 ⟨hx, by simp [he]⟩
    simpa [hc] using hm
  have hcount : updWhere (fun c => c.uid == id && c.sent && (s.reduction c.part c.redid).isNone) (fun c => { c with acked := c.acked + 1 }) s.contribs =
      s.contribs.map (Contrib.chunked id) := by
    refine List.map_congr_left fun x hx => ?_
    by_cases he : x.uid = id
    · obtain rfl := honly x hx he
      simp [Contrib.chunked, he, hsent, hred]
    · simp [Contrib.chunked_of_ne he, he]
  have hwhole : ∀ x ∈ s.contribs, (!(x.chunked id).whole id) = !(x.uid == id && decide (chunkCount (4 * c.words.length) ≤ c.acked + 1)) := by
    intro x hx
    by_cases he : x.uid = id
    · obtain rfl := honly x hx he
      simp [Contrib.whole_chunked he hsent, he]
    · simp [Contrib.chunked_of_ne he, Contrib.whole_of_ne he, beq_false_of_ne he]
  rw [exec_chunkAck, hcount, State.chunkedSends_of_ne hs, List.filter_map]
  refine congrArg (fun l => Host.Outcome.next { s with contribs := l }) ((congrArg _ (List.filter_congr hwhole)).trans ?_)
  split
  case isTrue hdone =>
    have hleft : (s.contribs.filter fun x => !(x.uid == id && decide (chunkCount (4 * c.words.length) ≤ c.acked + 1))) = s.contribs.filter fun x => x.uid != id :=
      List.filter_congr fun x _ => by simp [hdone, bne]
    rw [hleft]
    exact (List.map_congr_left fun x hx => Contrib.chunked_of_ne (by simpa using (List.mem_filter.1 hx).2)).trans (List.map_id _)
  case isFalse hdone => rw [List.filter_eq_self.2 fun x _ => by simp [hdone]]

end

/-! ### The failure of a link (05 R149) -/

/-- A device added to a list, unless a path is left to it or it is there. -/
theorem mem_unless_path {dev l : Nat} {path : Bool} {ds : List Nat} :
    l ∈ (if path || ds.contains dev then ds else dev :: ds) ↔ (l = dev ∧ path = false) ∨ l ∈ ds := by
  by_cases hd : dev ∈ ds
  · simp only [List.contains_iff_mem.2 hd, Bool.or_true, if_true]
    exact ⟨.inr, fun h => h.elim (fun h => h.1 ▸ hd) id⟩
  · cases path <;> simp [hd]

theorem Closed.relink_of_not_mem {c : Closed} {dev : Nat} (path : Bool) (h : dev ∉ c.devs) : c.relink dev path = c := by
  simp [Closed.relink, h]

theorem Closed.relink_of_mem {c : Closed} {dev : Nat} (path : Bool) (h : dev ∈ c.devs) :
    (c.relink dev path).msg.status = c.msg.status ||| 2 ||| (if path then 0 else 8) := by
  simp [Closed.relink, h]

theorem Closed.relink_status (c : Closed) (dev : Nat) (path : Bool) :
    c.relink dev path = { c with msg := { c.msg with status := (c.relink dev path).msg.status } } := by
  unfold Closed.relink
  split <;> rfl

theorem exec_linkFailure_marks (s : State) (dev : Nat) (path : Bool) : ∃ ds rs qs ls,
    exec (.linkFailure ⟨dev, path⟩) s = .next { s with linksDown := ds, reds := rs, results := qs, landing := ls } ∧
    (∀ l, l ∈ ds ↔ (l = dev ∧ path = false) ∨ l ∈ s.linksDown) ∧
    List.Forall₂ (fun (r r' : Reduction) => r' = { r with steps := r'.steps, gone := r'.gone } ∧ (∀ l, l ∈ r'.gone ↔ (l = dev ∧ path = false) ∨ l ∈ r.gone) ∧
      List.Forall₂ (fun (x x' : RStep) => x' = { x with restart := x.restart || (x.ontime ++ x.folded).any fun l => l.dev == some dev }) r.steps r'.steps) s.reds rs ∧
    List.Forall₂ (fun (c c' : Closed) => c' = { c with msg := { c.msg with status := c'.msg.status } } ∧ (dev ∉ c.devs → c' = c) ∧
      (dev ∈ c.devs → c'.msg.status.getLsbD 1 = true ∧ (path = false → c'.msg.status.getLsbD 3 = true))) s.results qs ∧
    List.Forall₂ (fun (l l' : Landing) =>
      let mine := qs.find? fun c => c.msg.part == l.msg.part && c.msg.redid == l.msg.redid && c.msg.step == l.msg.step
      (∀ c, mine = some c → l' = { l with msg := c.msg }) ∧ (mine = none → l' = l)) s.landing ls := by
  refine ⟨_, _, _, _, rfl, fun l => mem_unless_path, ?_, ?_, ?_⟩
  · refine Laws.forall₂_map_same _ _ fun r _ => ⟨rfl, fun l => mem_unless_path, ?_⟩
    exact Laws.forall₂_map_same _ _ fun x _ => rfl
  · refine Laws.forall₂_map_same _ _ fun c _ => ⟨c.relink_status dev path, Closed.relink_of_not_mem path, fun h => ?_⟩
    rw [Closed.relink_of_mem path h]
    refine ⟨by simp, fun hp => by simp [hp]⟩
  · refine Laws.forall₂_map_same _ _ fun l _ => ⟨fun c hc => ?_, fun hn => ?_⟩
    · simp only [Landing.follow, hc]
    · simp only [Landing.follow, hn]

/-! ### Chunks (05 R149) -/

theorem chunkCount_covers (n : Nat) : 65536 * (chunkCount n - 1) < n + 1 ∧ n ≤ 65536 * chunkCount n := by
  unfold chunkCount
  omega

end Machine

open Machine

/-- Settles O47: one equation per event, with the counter by `State.bumpCtr_plain` and the marks of a failed link by `exec_linkFailure_marks`. -/
theorem spindleEvents : Obligations.SpindleEvents := by
  refine ⟨?_, ?_, ?_, ?_, fun _ _ _ => rfl, fun s id h => exec_chunkAck_send h, fun s id c hs hc hsent hred => exec_chunkAck_contrib hs hc hsent hred,
    exec_linkFailure_marks, chunkCount_covers⟩
  · intro s part ctr pieces
    refine ⟨fun ho hst hc hp => exec_sendLanding_taken ho (State.takesLanding_iff.2 ⟨hst, hc, hp⟩), fun h => exec_sendLanding_refused ?_⟩
    refine h.imp_right fun h => Bool.eq_false_iff.2 fun ht => ?_
    obtain ⟨hst, hc, hp⟩ := State.takesLanding_iff.1 ht
    rcases h with ⟨hr, hs⟩ | hbig | ⟨x, hx, hown⟩
    · exact hst.elim hr hs
    · omega
    · simp [hp x hx] at hown
  · intro s p c known hidx hlt hlink harm t
    have ht : t = _ := State.bumpCtr_plain known hidx hlt hlink harm
    have hctr (d : Nat) : t.ctr p d = lookupD (store (s.part p).ctrs c (s.ctr p c + 1)) d 0 := by
      rw [ht, State.ctr, State.part_updPart hidx hlt]
    refine ⟨(hctr c).trans (lookupD_store_self _ _ _ _), by rw [ht]; rfl, by rw [ht]; rfl, fun d hd => (hctr d).trans (lookupD_store_ne _ _ _ hd)⟩
  · exact fun s id path x hx hr hd hw => exec_sendAck_ends hx hr hd hw
  · intro s op x f he hx hc hf
    exact (exec_engineStop_send he hx).trans (congrArg _ (State.sendStop_fault hc hf))

end Sys2Proof
end

section
/-! SUPPORT. The progress table (05 R139 to R144, 10 R308, R309): the least step and the allowance, entries, gates, and the instructions that step and read. -/

namespace Sys2Proof

namespace Machine

open Safety

/-! ### The least step and the allowance (05 R143) -/

theorem foldl_min_head {l : List Nat} (h : l ≠ []) : l.min? = some (l.foldl min ((l.head?).getD 0)) := by
  cases l with
  | nil => exact absurd rfl h
  | cons a l =>
    have hself : l.foldl min a = l.foldl min (min a a) := by rw [min_self]
    exact List.min?_cons'.trans (congrArg some hself)

/-- The steps of the ranks that are not absent. -/
def Part.presentSteps (q : Part) : List Nat := ((q.prog.take q.nrank).filter fun e => e.state < 2).map fun e => e.step.toNat

theorem Part.mem_presentSteps {q : Part} {n : Nat} : n ∈ q.presentSteps ↔ ∃ e ∈ q.prog.take q.nrank, e.state < 2 ∧ e.step.toNat = n := by
  simp [Part.presentSteps, and_assoc]

/-- 05 R143: where a rank is present, M is the least of their steps. -/
theorem Part.minStep_of_present {q : Part} (h : ∃ e ∈ q.prog.take q.nrank, e.state < 2) :
    q.minStep.toNat ∈ q.presentSteps ∧ ∀ n ∈ q.presentSteps, q.minStep.toNat ≤ n := by
  obtain ⟨e, he, hlive⟩ := h
  have hne : q.presentSteps ≠ [] := List.ne_nil_of_mem (Part.mem_presentSteps.2 ⟨e, he, hlive, rfl⟩)
  obtain ⟨hmem, hle⟩ := List.min?_eq_some_iff.1 (foldl_min_head hne)
  obtain ⟨d, -, -, hd⟩ := Part.mem_presentSteps.1 hmem
  have hmin : q.minStep = BitVec.ofNat 32 (q.presentSteps.foldl min ((q.presentSteps.head?).getD 0)) := if_neg fun hnil => hne (List.isEmpty_iff.1 hnil)
  have hnat : q.minStep.toNat = q.presentSteps.foldl min ((q.presentSteps.head?).getD 0) := by
    rw [hmin, ← hd, BitVec.ofNat_toNat, BitVec.setWidth_eq]
  exact hnat ▸ ⟨hmem, hle⟩

theorem Part.allowance_unsealed {q : Part} (h : (q.csrWord 0x013).toNat % 2 ^ 16 = 0) :
    q.allowance = q.minStep + BitVec.ofNat 32 ((q.csrWord 0x011).toNat % 2 ^ 8) := by
  have ha : q.allowance = BitVec.ofNat 32 (q.minStep.toNat + (q.csrWord 0x011).toNat % 2 ^ 8) := congrArg (BitVec.ofNat 32) (if_pos (by simpa using h))
  rw [ha, BitVec.ofNat_add, BitVec.ofNat_toNat, BitVec.setWidth_eq]

theorem Part.allowance_sealed {q : Part} (h : (q.csrWord 0x013).toNat % 2 ^ 16 ≠ 0) :
    q.allowance = BitVec.ofNat 32 (min (q.minStep.toNat + (q.csrWord 0x011).toNat % 2 ^ 8) (q.sealedC.toNat + (q.csrWord 0x013).toNat % 2 ^ 16)) :=
  congrArg (BitVec.ofNat 32) (if_neg (by simpa using h))

/-! ### Entries (05 R140) -/

theorem Part.entry_setEntry {q : Part} {i : Nat} (e : ProgEntry) (hn : i < q.nrank) (hp : i < q.prog.length) : (q.setEntry i e).entry i = e := by
  have hn' : i < (q.setEntry i e).nrank := hn
  rw [Part.entry, if_pos hn', Part.setEntry]
  simp [hp]

/-- 05 R141: what an announced step makes of an entry. -/
def ProgEntry.heard (e : ProgEntry) (step : Word) : ProgEntry := { step := if e.step < step then step else e.step, state := 1, quiet := 0 }

/-! ### The rank table (13 R349) -/

theorem State.rankTouch_eq (s : State) (p : Nat) : s.rankTouch p = { s with hot := (s.rankTouch p).hot } := by
  unfold State.rankTouch
  dsimp only
  split <;> rfl

theorem State.mem_rankDevs {s : State} {p rank : Nat} {d : Nat × Bool} :
    d ∈ s.rankDevs p rank ↔ d.1 ≠ s.devNum ∧ ∃ i, i < (s.part p).nrank ∧ i ≠ rank ∧ s.rankEntry p i = some d := by
  have hother (i : Nat) : (if i == rank then none else s.rankEntry p i) = some d ↔ i ≠ rank ∧ s.rankEntry p i = some d := by
    by_cases h : i = rank <;> simp [h]
  simp only [State.rankDevs, List.mem_eraseDups, List.mem_filter, List.mem_filterMap, List.mem_range, hother, bne_iff_ne, and_comm]

/-! ### Gates (05 R143) -/

section
variable {s : State} {p : Nat} {a : Word} {g : Gate}

theorem State.raiseGate_gone (h : s.objOwned p g.obj = false ∨ s.objThere g.obj = false) : s.raiseGate p a g = s :=
  if_pos (by rcases h with h | h <;> simp [h])

/-- 05 R143: a gate that is there is advanced where A lies ahead of it, and stays where not. -/
theorem State.raiseGate_there (hbad : s.gateBad g.obj = none) (hown : s.objOwned p g.obj = true) (hthere : s.objThere g.obj = true) :
    s.raiseGate p a g = if 0 < (a - BitVec.ofNat 32 (phaseOfNum (s.phaseNum g.obj)).phase).toInt then
      s.eventAt g.obj (s.phaseNum g.obj - s.phaseNum g.obj % 2 ^ 32 + a.toNat) true (g.by_, g.pubs) else s := by
  have hphase : BitVec.ofNat 32 (phaseOfNum (s.phaseNum g.obj)).phase = BitVec.ofNat 32 (s.phaseNum g.obj) := by
    refine BitVec.eq_of_toNat_eq ?_
    simp [phaseOfNum, bits]
  unfold State.raiseGate
  simp only [hbad, hown, hthere, hphase, phasePassed, Bool.and_self, Bool.not_true, Bool.false_eq_true, if_false, Option.isSome_none, decide_eq_true_eq]

end

theorem State.gatesAfter_of_same {s t : State} {p : Nat} (hm : (t.part p).minStep = (s.part p).minStep) (hc : (t.part p).sealedC = (s.part p).sealedC) :
    s.gatesAfter t p = t := if_pos (by simp [hm, hc])

theorem State.gatesAfter_of_changed {s t : State} {p : Nat} (h : (t.part p).minStep ≠ (s.part p).minStep ∨ (t.part p).sealedC ≠ (s.part p).sealedC) :
    s.gatesAfter t p = t.raiseGates p := if_neg (by rcases h with h | h <;> simp [h])

theorem State.gatesAfter_of_no_gates (s : State) {t : State} {p : Nat} (h : (t.part p).gates = []) : s.gatesAfter t p = t := by
  have hraise : t.raiseGates p = t := by simp only [State.raiseGates, h, List.foldl_nil]
  unfold State.gatesAfter
  rw [hraise, ite_self]

/-! ### Announcements (05 R141) -/

theorem State.announced_of_no_gates {s : State} {p : Nat} (rank : Nat) (step : Word) (hidx : (s.part p).idx = p) (hlt : p < s.parts.length)
    (hg : (s.part p).gates = []) : s.announced p rank step = s.updPart p fun q => q.setEntry rank (((s.part p).entry rank).heard step) := by
  refine State.gatesAfter_of_no_gates s ?_
  rw [State.part_updPart hidx hlt]
  exact hg

/-- A partition with progress entries is one of the machine's. -/
theorem State.part_lt_of_prog {s : State} {p i : Nat} (h : i < (s.part p).prog.length) : p < s.parts.length := by
  by_contra hge
  have hpart : s.part p = default := by rw [State.part, List.getElem?_eq_none (Nat.le_of_not_lt hge), Option.getD_none]
  rw [hpart] at h
  exact Nat.not_lt_zero i h

theorem exec_announcementReceived_heard {s : State} {part rank : Nat} (step : Word) (ho : s.linksOpen = true) (hn : rank < (s.part part).nrank)
    (hh : s.hears part rank = true) : exec (.announcementReceived part rank step) s = .next (s.announced part rank step) :=
  congrArg Host.Outcome.next ((State.incoming_open ho _).trans (if_pos (by simp [hn, hh])))

theorem exec_announcementReceived_ignored {s : State} {part rank : Nat} (step : Word)
    (h : s.linksOpen = false ∨ (s.part part).nrank ≤ rank ∨ s.hears part rank = false) : exec (.announcementReceived part rank step) s = .next s :=
  congrArg Host.Outcome.next (State.incoming_eq_self (h.imp_right fun h => if_neg (by
    rcases h with h | h
    · simp [Nat.not_lt.2 h]
    · simp [h])))

/-! ### The instructions (10 R308, R309) -/

/-- 05 R142, 10 R308: one lane's `step.adv` where its partition has recorded no gate. -/
theorem State.stepAdvLane_of_no_gates (s : State) (sp : Space) (r : LaneRef) (hidx : (s.part s.curPart).idx = s.curPart) (hlt : s.curPart < s.parts.length)
    (hg : (s.part s.curPart).gates = []) :
    let p := s.curPart
    let rank := s.launch.rank
    let e := (s.part p).entry rank
    let obj := objRef sp r.place
    let gate : Gate := { rank := rank, obj := obj, by_ := s.me r.cap.lane, pubs := s.knownBy r.cap.lane }
    let s1 := { s.rankTouch p with outbox := s.outbox ++ [Msg.announce p rank (e.step + 1) (s.rankDevs p rank)] }.updPart p fun q =>
      { q.setEntry rank (e.heard (e.step + 1)) with gates := gate :: q.gates.filter fun g => g.rank != rank }
    State.stepAdvLane sp (s, []) r = ((s1.raceObj (s1.me r.cap.lane) obj).raiseGate p (s1.part p).allowance gate, [(r.cap.lane, (e.step + 1).toNat)]) := by
  intro p rank e obj gate s1
  let t : State := { s.rankTouch p with outbox := (s.rankTouch p).outbox ++ [Msg.announce p rank (e.step + 1) (s.rankDevs p rank)] }
  have ht : t = { s with hot := (s.rankTouch p).hot, outbox := s.outbox ++ [Msg.announce p rank (e.step + 1) (s.rankDevs p rank)] } := by
    simp only [t]
    rw [s.rankTouch_eq p]
  have hs1 : (t.announced p rank (e.step + 1)).updPart p (fun q => { q with gates := gate :: q.gates.filter fun g => g.rank != rank }) = s1 := by
    have hann : t.announced p rank (e.step + 1) = t.updPart p fun q => q.setEntry rank (e.heard (e.step + 1)) := by
      rw [ht]
      exact State.announced_of_no_gates rank _ hidx hlt hg
    rw [hann, State.updPart_updPart (f := fun q => q.setEntry rank (e.heard (e.step + 1))) fun _ => rfl, ht]
    simp only [s1]
    rw [s.rankTouch_eq p]
    rfl
  simp only [← hs1]
  rfl

/-- 10 R308: `step.adv` on objects that pass. -/
theorem exec_stepAdv {o : Op} {sp : Space} {s : State} (hsp : sp ≠ .ver)
    (hacts : Acts s (s.captureOp { a := if wideSpace sp then .n64 else .n32 } o))
    (hpass : Passes (fun c => s.placeObj sp .write c.a) (s.captureOp { a := if wideSpace sp then .n64 else .n32 } o))
    (hpois : NonePoisoned s (fun c => s.placeObj sp .write c.a) 16 (s.captureOp { a := if wideSpace sp then .n64 else .n32 } o))
    (htgb : s.launch.tgb = true) :
    let caps := s.captureOp { a := if wideSpace sp then .n64 else .n32 } o
    let refs := (placed (fun c => s.placeObj sp .write c.a) caps).filter fun r => (s.effective caps).contains r.cap
    let s1 := s.cacheLanes sp (fun c => c.a) caps
    let x := refs.foldl (State.stepAdvLane sp) (contained s1 16 refs, [])
    ContainersClear s1 16 refs → exec (.stepAdv o sp) s = .next ((x.1.returnTo o 1 x.2).advance) := by
  intro caps refs s1 x hclear
  obtain ⟨tl, hot, hcache⟩ := s.cacheLanes_noting sp (fun c => c.a) caps
  have hgroup : (!caps.isEmpty && !s1.launch.tgb) = false := by
    have hl : s1.launch = s.launch := by simp only [s1, hcache]; rfl
    simp [hl, htgb]
  have hread : ∀ r ∈ placed (fun c => s.placeObj sp .write c.a) caps, ∀ w off, r.place = .loc w off → (s1.wg w).lsBad off 16 = false := by
    intro r hr w off hp
    obtain ⟨hc, hpl⟩ := mem_placed.1 hr
    simp only [s1, hcache, State.noting_wg]
    exact hpois r.cap hc w off (hp ▸ hpl)
  have heff : s1.effective caps = s.effective caps := by simp only [s1, hcache]; rfl
  refine congrArg Host.Outcome.next ((State.acting_pair_of_acts _ _ hacts).trans ?_)
  rw [Laws.withObjs_of_passes _ (.inl hsp) hpass]
  refine (if_neg (Bool.eq_false_iff.1 hgroup)).trans ((State.unpoisoned_of_readable _ hread).trans ?_)
  show s1.containersApplied 16 ((placed (fun c => s.placeObj sp .write c.a) caps).filter fun r => (s1.effective caps).contains r.cap) _ = _
  rw [heff]
  exact State.containersApplied_of_clear _ hclear

/-- 10 R309: a `step.get` or `step.get.lim` of a bound launch gives each lane its value. -/
theorem State.stepGetOp_of_bound {s : State} {o : Op} {caps : List Cap} {bad : Cap → Bool} (value : Cap → Nat) (hm : s.cur.mism < 2) (htgb : s.launch.tgb = true)
    (hbad : ∀ c ∈ caps, bad c = false) :
    ∃ th, s.stepGetOp o caps bad value = { s with threads := th } ∧ Threads s (Safety.written s caps fun u c => u.writeDst o 2 (value c)) (nextPlace s) th := by
  let res : List (Nat × Nat × Bool) := caps.map fun c => (c.lane, value c, false)
  let write (u : Thread) : Thread := match laneVal res u.lane with
    | some (x, _) => u.writeDst o 2 x
    | none => u
  let t : State := s.updIssue write
  have hpass : s.stepGetOp o caps bad value = t.advance := by
    have hnone : (caps.filterMap fun c => if !s.launch.tgb || bad c then some (c.lane, 0x37, (0 : DWord)) else none) = [] :=
      List.filterMap_eq_nil_iff.2 fun c hc => by simp [htgb, hbad c hc]
    unfold State.stepGetOp
    rw [Laws.checked_of_mism _ _ hm, hnone]
    rfl
  have hkeep (u : Thread) : (write u).wg = u.wg ∧ (write u).gang = u.gang ∧ (write u).lane = u.lane ∧ (write u).pc = u.pc ∧ (write u).past = u.past := by
    simp only [write]
    split
    · exact Laws.samePlace_writeDst _ _ _ _
    · exact Laws.SamePlace.refl u
  have hwrite (u : Thread) : (if s.inIssue u then write u else u) = Safety.written s caps (fun u c => u.writeDst o 2 (value c)) u := by
    simp only [write, res, Safety.written]
    rw [Laws.laneVal_map caps (fun c => (value c, false))]
    cases caps.find? (fun c => c.lane == u.lane) <;> rfl
  refine ⟨t.advance.threads, ?_, ?_⟩
  · rw [hpass, Laws.advance_frame]
    rfl
  · exact (Laws.written_advance s t write rfl rfl hkeep).imp fun u u' ⟨hmoved, hplace⟩ => ⟨hwrite u ▸ hmoved, hplace⟩

/-! ### Silence (05 R141) -/

theorem exec_quietExpiry_absent {s : State} {part rank : Nat} (hb : (s.part part).bound = true) (hn : rank < (s.part part).nrank)
    (hst : ((s.part part).entry rank).state < 2) (hq : (s.part part).quietMax ≤ ((s.part part).entry rank).quiet) :
    exec (.quietExpiry part rank) s =
      .next (s.gatesAfter (s.updPart part fun q => q.setEntry rank { (s.part part).entry rank with state := 2 }) part) :=
  congrArg Host.Outcome.next (if_pos (by simp [hb, hn, hst, hq]))

theorem exec_quietExpiry_ignored {s : State} {part rank : Nat}
    (h : (s.part part).bound = false ∨ ((s.part part).entry rank).quiet < (s.part part).quietMax) : exec (.quietExpiry part rank) s = .next s :=
  congrArg Host.Outcome.next (if_neg (by
    rcases h with h | h
    · simp [h]
    · simp [Nat.not_le.2 h]))

end Machine

open Machine

/-- Settles O49: an equation per instruction and event, gates by `State.raiseGate_there` and `State.gatesAfter`, the least step by `Part.minStep_of_present`. -/
theorem progressTable : Obligations.ProgressTable := by
  refine ⟨?_, fun s sp r hidx hlt hg => s.stepAdvLane_of_no_gates sp r hidx hlt hg, State.rankTouch_eq, fun _ _ _ _ => State.mem_rankDevs, ?_, ?_, ?_, ?_, ?_, ?_, ?_, ?_⟩
  · exact fun o sp s hsp hacts hpass hpois htgb hclear => exec_stepAdv hsp hacts hpass hpois htgb hclear
  · refine fun s p a g => ⟨State.raiseGate_gone, fun hbad hown hthere => ?_⟩
    rw [State.raiseGate_there hbad hown hthere]
    exact ⟨fun h => if_neg h, fun h => if_pos h⟩
  · intro o s caps hm htgb hle
    obtain ⟨th, hop, hth⟩ := State.stepGetOp_of_bound (o := o) (fun c => ((s.part s.curPart).entry c.a).num) hm htgb
      fun c hc => decide_eq_false (Nat.not_lt.2 (hle c hc))
    exact ⟨th, congrArg _ hop, hth⟩
  · intro o s q hm htgb
    obtain ⟨th, hop, hth⟩ := State.stepGetOp_of_bound (o := o) (caps := s.captureOp {} o) (fun _ => q.minStep.toNat + 2 ^ 32 * q.allowance.toNat) hm htgb
      fun _ _ => rfl
    exact ⟨th, congrArg _ hop, hth⟩
  · refine fun s part rank step => ⟨fun ho hn hh hidx hp hg => ?_, exec_announcementReceived_ignored step⟩
    have hlt := State.part_lt_of_prog hp
    have hentry : ((s.announced part rank step).part part).entry rank = ((s.part part).entry rank).heard step := by
      rw [State.announced_of_no_gates rank step hidx hlt hg, State.part_updPart hidx hlt]
      exact Part.entry_setEntry _ hn hp
    refine ⟨_, exec_announcementReceived_heard step ho hn hh, hentry, ?_⟩
    rw [hentry]
    exact State.announced_of_no_gates rank step hidx hlt hg
  · exact fun s part rank => ⟨exec_quietExpiry_absent, exec_quietExpiry_ignored⟩
  · exact fun s t p => ⟨State.gatesAfter_of_same, State.gatesAfter_of_changed⟩
  · intro q h
    obtain ⟨hmem, hle⟩ := Part.minStep_of_present h
    obtain ⟨e, he, hlive, hstep⟩ := Part.mem_presentSteps.1 hmem
    exact ⟨fun d hd hdl => hle _ (Part.mem_presentSteps.2 ⟨d, hd, hdl, rfl⟩), e, he, hlive, (BitVec.eq_of_toNat_eq hstep).symm⟩
  · exact fun q => ⟨Part.allowance_unsealed, Part.allowance_sealed⟩

end Sys2Proof
end

section
/-! SUPPORT. Reductions at their root (05 R145 to R148): notices, contributions, arrivals, timers and the closing of steps. -/

namespace Sys2Proof

namespace Machine

/-! ### Records of reductions -/

section
variable {s : State} {p : Nat} {redid : Word} {r : Reduction}

theorem State.reduction_updRed {f : Reduction → Reduction} (hf : ∀ r, (f r).part = r.part ∧ (f r).redid = r.redid) :
    (s.updRed p redid f).reduction p redid = (s.reduction p redid).map f :=
  find?_updWhere _ f (fun r => by simp only [hf r]) s.reds

theorem State.reduction_ids (h : s.reduction p redid = some r) : r.part = p ∧ r.redid = redid := by
  simpa using List.find?_some h

/-! ### Notices (05 R145) -/

theorem exec_bindingNoticeArrival_closed {n : Notice} (h : s.linksOpen = false) : exec (.bindingNoticeArrival n) s = .next s :=
  congrArg Host.Outcome.next (State.incoming_eq_self (.inl h))

theorem exec_bindingNoticeArrival_open {n : Notice} (h : s.linksOpen = true) : exec (.bindingNoticeArrival n) s = .next (s.noticed n) :=
  congrArg Host.Outcome.next (State.incoming_open h _)

theorem State.noticed_held {n : Notice} (h : s.reduction n.part n.redid = none) : s.noticed n = { s with heldNotices := s.heldNotices ++ [n] } := by
  unfold State.noticed
  rw [h]

theorem State.reduction_noticed {n : Notice} (h : s.reduction n.part n.redid = some r) : (s.noticed n).reduction n.part n.redid = some (r.compare n) := by
  have hn : s.noticed n = s.updRed n.part n.redid fun r => r.compare n := by
    unfold State.noticed
    rw [h]
  rw [hn, State.reduction_updRed, h]
  · rfl
  · intro r
    unfold Reduction.compare
    split <;> exact ⟨rfl, rfl⟩

theorem mem_append_unless_mem {α : Type} [BEq α] [LawfulBEq α] (x : α) (l : List α) : x ∈ (if l.contains x then l else l ++ [x]) := by
  by_cases h : x ∈ l <;> simp [h]

theorem Reduction.compare_receives {n : Notice} (h : n.params = r.params) : n.dev ∈ (r.compare n).receivers := by
  rw [Reduction.compare, if_pos (beq_iff_eq.2 h)]
  exact mem_append_unless_mem n.dev _

theorem Reduction.compare_refuses {n : Notice} (h : n.params ≠ r.params) : n.dev ∈ (r.compare n).refused := by
  rw [Reduction.compare, if_neg (by simpa using h)]
  exact mem_append_unless_mem n.dev _

end

/-! ### Step records (05 R146) -/

theorem Reduction.stepOf_step (r : Reduction) (n : Word) : (r.stepOf n).step = n := by
  unfold Reduction.stepOf
  cases h : r.steps.find? fun x => x.step == n with
  | none => rfl
  | some x => simpa using List.find?_some h

theorem Reduction.stepOf_putStep {r : Reduction} {x : RStep} {n : Word} (h : x.step = n) : (r.putStep x).stepOf n = x := by
  simp [Reduction.stepOf, Reduction.putStep, h]

/-! ### Arrivals (05 R146) -/

section
variable {r : Reduction} {a : Arrival}

/-- What an arrival leaves in a step. -/
def arrivalLeaf (a : Arrival) (pubs : List Nat) : Leaf := { slot := a.slot, src := a.step, dev := a.dev, words := a.words, pubs := pubs }

theorem Reduction.arrive_ontime (clk : Nat) (pubs : List Nat) (hlag : (r.low - a.step).toInt ≤ 0) (hslot : ∀ l ∈ (r.stepOf a.step).ontime, l.slot ≠ a.slot) :
    let x := r.stepOf a.step
    r.arrive a clk pubs = r.putStep { x with
      ontime := x.ontime ++ [arrivalLeaf a pubs], timer := if r.params.t == 0 || !x.ontime.isEmpty then x.timer else some (clk + r.params.t) } := by
  have hfree : ¬ ((r.stepOf a.step).ontime.any fun l => l.slot == a.slot) = true := by simpa using hslot
  exact (if_neg (Int.not_lt.2 hlag)).trans (if_neg hfree)

theorem Reduction.arrive_taken (clk : Nat) (pubs : List Nat) (hlag : (r.low - a.step).toInt ≤ 0) (hslot : ∃ l ∈ (r.stepOf a.step).ontime, l.slot = a.slot) :
    r.arrive a clk pubs = { r with dropped := r.dropped + 1 } := by
  have htaken : ((r.stepOf a.step).ontime.any fun l => l.slot == a.slot) = true := by simpa using hslot
  exact (if_neg (Int.not_lt.2 hlag)).trans (if_pos htaken)

theorem Reduction.arrive_late (clk : Nat) (pubs : List Nat) (hlag : 0 < (r.low - a.step).toInt) (hd : (r.low - a.step).toInt ≤ (r.params.d : Int)) :
    let x := r.stepOf r.low
    r.arrive a clk pubs = r.putStep { x with folded := x.folded ++ [arrivalLeaf a pubs] } := (if_pos hlag).trans (if_pos hd)

theorem Reduction.arrive_too_late (clk : Nat) (pubs : List Nat) (hlag : 0 < (r.low - a.step).toInt) (hd : (r.params.d : Int) < (r.low - a.step).toInt) :
    r.arrive a clk pubs = { r with dropped := r.dropped + 1 } := (if_pos hlag).trans (if_neg (Int.not_le.2 hd))

end

theorem exec_contributionArrival_taken {s : State} {a : Arrival} {r : Reduction} {d : Nat} (hd : a.dev = some d)
    (ho : (s.expireTimers a.part a.redid).linksOpen = true) (hr : (s.expireTimers a.part a.redid).reduction a.part a.redid = some r) (ht : r.takes a = true) :
    let s1 := s.expireTimers a.part a.redid
    exec (.contributionArrival a) s = .next ((s1.updRed a.part a.redid fun r => r.arrive a (s1.redClk a.part a.redid)).closeSteps a.part a.redid 8) := by
  simp only [exec, execContributionArrival, hr, ht, hd, ho, Bool.not_true, Option.isNone_some, Bool.false_eq_true, if_false, Bool.or_self]

/-! ### Timers (05 R146) -/

/-- Whether the clock of a step's timer has ended. -/
def RStep.due (clk : Nat) (x : RStep) : Bool :=
  match x.timer with
  | some t => t < clk
  | none => false

theorem RStep.due_iff {clk : Nat} {x : RStep} : x.due clk = true ↔ ∃ t, x.timer = some t ∧ t < clk := by
  cases h : x.timer <;> simp [RStep.due, h]

/-- A step whose timer has ended, short of its quorum or not. -/
def RStep.expire (q : Nat) (x : RStep) : RStep := { x with timer := none, expired := x.expired || x.ontime.length < q }

theorem State.expireTimers_eq {s : State} {p : Nat} {redid : Word} {r : Reduction} (h : s.reduction p redid = some r) :
    s.expireTimers p redid = if r.steps.any (RStep.due (s.redClk p redid)) then
      (s.updRed p redid fun r' => { r' with steps := updWhere (RStep.due (s.redClk p redid)) (RStep.expire r.params.q) r'.steps }).closeSteps p redid 8 else s := by
  unfold State.expireTimers
  rw [h]
  rfl

/-! ### Closing (05 R146 to R148) -/

section
variable {s : State} {p : Nat} {redid : Word} {r : Reduction}

theorem Reduction.closes_iff : r.closes = true ↔ r.params.q ≤ (r.stepOf r.low).ontime.length ∨ (r.stepOf r.low).expired = true := by
  simp [Reduction.closes]

theorem State.closeSteps_succ (n : Nat) (h : s.reduction p redid = some r) :
    s.closeSteps p redid (n + 1) = if r.closes then (s.closeStep r).closeSteps p redid n else s := by
  rw [State.closeSteps, h]

/-- 05 R146: a reduction once its lowest unclosed step has closed. -/
def Reduction.next (r : Reduction) : Reduction := { r with low := r.low + 1, steps := r.steps.filter fun y => y.step != r.low, dropped := 0 }

theorem State.reduction_closeStep (h : s.reduction p redid = some r) : (s.closeStep r).reduction p redid = some r.next := by
  obtain ⟨rfl, rfl⟩ := State.reduction_ids h
  have hreds : (s.closeStep r).reds = (s.updRed r.part r.redid Reduction.next).reds := by
    unfold State.closeStep
    exact apply_foldl_eq State.reds (fun s d => by cases d <;> rfl) _ _
  have hred : (s.closeStep r).reduction r.part r.redid = (s.updRed r.part r.redid Reduction.next).reduction r.part r.redid := congrArg (List.find? _) hreds
  rw [hred, State.reduction_updRed, h]
  · rfl
  · exact fun _ => ⟨rfl, rfl⟩

end

/-- 05 R147: nothing included has no weight. -/
theorem RStep.result_of_nothing {x : RStep} (p : RedParams) (ho : x.ontime = []) (hf : x.folded = []) : x.result p = List.replicate p.e 0 := by
  have hw : x.weight p.k = 0 := by simp [RStep.weight, ho, hf]
  refine List.eq_replicate_iff.2 ⟨by simp [RStep.result], fun b hb => ?_⟩
  obtain ⟨j, -, rfl⟩ := List.mem_map.1 hb
  exact if_pos (beq_iff_eq.2 hw)

/-! ### Admission (05 R146, 10 R302, R307) -/

section
variable {s : State} {c : Contrib}

theorem State.rootHere_of_parts {t : State} (h : t.parts = s.parts) : t.rootHere c = s.rootHere c := by
  simp only [State.rootHere, State.handle, State.part, h]

/-- What a root's admission of a contribution makes of its handle. -/
def Handle.judged (c : Contrib) (h : Handle) : Handle := { h with verdict := some true, subs := (c.step, c.pubs) :: h.subs }

/-- 10 R302, 04 R127: another root's first admission is its verdict, and each is noted with its step. -/
theorem State.judge_admitted (h : s.rootHere c = false) :
    (s.judge c true).updPart c.part (fun q => { q with
      handles := updWhere (fun h => h.idx == c.handle) (fun h => { h with subs := (c.step, c.pubs) :: h.subs }) q.handles }) =
      s.updPart c.part fun q => { q with handles := updWhere (fun h => h.idx == c.handle) (Handle.judged c) q.handles } := by
  rw [State.judge, if_neg (by simp [h])]
  have htwice (l : List Handle) : updWhere (fun h => h.idx == c.handle) (fun h => { h with subs := (c.step, c.pubs) :: h.subs })
      (updWhere (fun h => h.idx == c.handle) (fun h => { h with verdict := some true }) l) = updWhere (fun h => h.idx == c.handle) (Handle.judged c) l := by
    rw [updWhere_updWhere]
    · rfl
    · exact fun _ => rfl
  rw [State.updPart_updPart]
  · simp only [htwice]
  · exact fun _ => rfl

end

/-- 05 R146, 10 R307: a contribution that the root admits, and whose buffer can be read, is read whole and sent. -/
theorem exec_contributionAdmission_admitted {s : State} {id : Nat} {c : Contrib} {bs : List Byte}
    (hc : s.contribs.find? (fun c => c.uid == id && !c.sent) = some c) (hadm : s.admits c = true) (hcore : s.onCore c.by_.wg = true) (hundef : c.undef = false)
    (hread : s.spindleRead c.handle c.part c.by_ c.glb c.buf (4 * s.redElems c) = .ok bs)
    (hbad : c.glb = true ∨ (s.wg c.by_.wg).lsBad c.buf (4 * s.redElems c) = false) :
    let n := s.redElems c
    let s0 := if c.glb then s.engineTouch (unitHandle c.handle) c.part c.buf (4 * n) else s
    let s1 := { s0.commitWg c.by_.wg with contribs := updWhere (fun x => x.uid == id) (fun x => { x with sent := true, words := wordsOf bs n }) s.contribs }
    let s2 := if s.rootHere c then s1 else
      { s1.updPart c.part (fun q => { q with handles := updWhere (fun h => h.idx == c.handle) (Handle.judged c) q.handles }) with
        outbox := s1.outbox ++ [Msg.contribution { part := c.part, redid := c.redid, dev := none, slot := c.slot, step := c.step, words := wordsOf bs n }] }
    exec (.contributionAdmission id) s = .next (if c.rden then (s2.engineArrive c.by_.wg c.rdone 1 0 (s.sender c.by_ c.pubs)).st else s2) := by
  intro n s0 s1 s2
  have hgo : ¬ (!s.admits c || ((!c.glb || c.rden) && !s.onCore c.by_.wg)) = true := by simp [hadm, hcore]
  have hok : ¬ (!c.glb && (s.wg c.by_.wg).lsBad c.buf (4 * n)) = true := by rcases hbad with h | h <;> simp [n, h]
  have hparts : s1.parts = s.parts := by
    have htouch : s.TouchedTo s0 := .ite (s.touched_engineTouch _ _ _ _) (.refl s)
    show s0.parts = s.parts
    rw [htouch]
  have hs2 : s2 = if s.rootHere c then s1 else
      { (s1.judge c true).updPart c.part (fun q => { q with
          handles := updWhere (fun h => h.idx == c.handle) (fun h => { h with subs := (c.step, c.pubs) :: h.subs }) q.handles }) with
        outbox := s1.outbox ++ [Msg.contribution { part := c.part, redid := c.redid, dev := none, slot := c.slot, step := c.step, words := wordsOf bs n }] } := by
    by_cases hroot : s.rootHere c = true
    · simp only [s2, if_pos hroot]
    · rw [Bool.not_eq_true] at hroot
      simp only [s2, hroot, State.judge_admitted ((State.rootHere_of_parts hparts).trans hroot)]
  have hsrc : s.sourceBytes c.uid c.undef bs = bs := by rw [hundef]; rfl
  refine congrArg Host.Outcome.next ?_
  rw [hc]
  refine (if_neg hgo).trans ?_
  rw [hread]
  refine (if_neg hok).trans ?_
  rw [hsrc, hs2]

end Machine

end Sys2Proof
end

section
/-! SUPPORT. The delivery of results (05 R138, R148, R451): which result begins, its pieces, the steps of pages, and the end of a delivery. -/

namespace Sys2Proof

namespace Machine

/-! ### The steps of pages (03 R102, 05 R138) -/

theorem State.stepOf_of_vtab {s t : State} (h : t.vtab = s.vtab) (die idx : Nat) : t.stepOf die idx = s.stepOf die idx := by
  simp only [State.stepOf, h]

theorem State.stepOf_setStep (s : State) (die idx : Nat) (x : Word) : (s.setStep die idx x).stepOf die idx = x := by
  simp [State.stepOf, State.setStep]

theorem State.installStep_of_le {s : State} {die idx : Nat} {c : Word} (pubs : List Nat) (h : c ≤ s.stepOf die idx) : s.installStep die idx c pubs = s :=
  if_neg (BitVec.not_lt.2 h)

/-- 05 R138: an install sets the step of its page, and never lowers it. -/
theorem State.stepOf_installStep (s : State) (die idx : Nat) (c : Word) (pubs : List Nat) :
    (s.installStep die idx c pubs).stepOf die idx = if s.stepOf die idx < c then c else s.stepOf die idx := by
  by_cases h : s.stepOf die idx < c
  · have hinstall : (s.installStep die idx c pubs).vtab = (s.setStep die idx c).vtab := by
      rw [State.installStep, if_pos h, State.wake, State.wakeIf_vtab]
      rfl
    rw [if_pos h, State.stepOf_of_vtab hinstall, State.stepOf_setStep]
  · rw [if_neg h, State.installStep_of_le pubs (BitVec.not_lt.1 h)]

/-! ### Bytes that land (05 R138) -/

theorem State.mixBytes_old_or_new (s : State) (k : Nat) (bs : List Byte) (i : Nat) (x : Byte) (h : (s.mixBytes k bs)[i]? = some x) :
    bs[i]? = some x ∨ x = s.homeByte (k + i) := by
  simp only [State.mixBytes, List.getElem?_map, List.getElem?_zipIdx, Option.map_map, Option.map_eq_some_iff, Function.comp_apply, Nat.zero_add] at h
  obtain ⟨b, hb, hx⟩ := h
  split at hx
  · exact .inl (hx ▸ hb)
  · exact .inr hx.symm

/-! ### Landings -/

section
variable (s : State) (l : Landing)

theorem State.find?_putLanding : (s.putLanding l).landing.find? (fun x => x.msg.part == l.msg.part && x.msg.redid == l.msg.redid) = some l := by
  simp [State.putLanding]

theorem State.mem_putLanding {x : Landing} (h : x.msg.part ≠ l.msg.part ∨ x.msg.redid ≠ l.msg.redid) : x ∈ (s.putLanding l).landing ↔ x ∈ s.landing := by
  have hne : x ≠ l := fun he => h.elim (· (he ▸ rfl)) (· (he ▸ rfl))
  have hother : (!(x.msg.part == l.msg.part && x.msg.redid == l.msg.redid)) = true := by rcases h with h | h <;> simp [h]
  simp only [State.putLanding, List.mem_cons, hne, false_or, List.mem_filter, hother, and_true]

end

/-! ### Which result is delivered (05 R138, R148) -/

section
variable {s : State} {r : ResultMsg} {h : Handle} {id first : Word} {dest obj rec_ base log e n : Nat}

theorem exec_resultDelivery_goes_on {l : Landing} (hh : (s.part r.part).reduceHandle r.redid = some h) (hb : h.bind = .reduce id dest obj rec_ base log first e n)
    (hl : s.landing.find? (fun l => l.msg.part == r.part && l.msg.redid == r.redid) = some l) (hr : l.msg = r) :
    exec (.resultDelivery r) s = .next (s.landStep h l dest obj rec_) := by
  simp only [exec, execResultDelivery, hh, hb, hl, beq_iff_eq.2 hr, if_true]

theorem exec_resultDelivery_begins (hh : (s.part r.part).reduceHandle r.redid = some h) (hb : h.bind = .reduce id dest obj rec_ base log first e n)
    (hl : s.landing.find? (fun l => l.msg.part == r.part && l.msg.redid == r.redid) = none) (hm : s.mayDeliver h base e r = true) :
    exec (.resultDelivery r) s = .next (s.landStep h { msg := r } dest obj rec_) := by
  simp only [exec, execResultDelivery, hh, hb, hl, hm, if_true]

theorem State.mayDeliver_elsewhere (he : r.words.length = e) (hb : base ≠ 0) (ho : s.linksOpen = true) (hs : ∀ x, h.last = some x → r.step = x + 1) :
    s.mayDeliver h base e r = true := by
  have hnext : (match h.last with
      | some x => r.step == x + 1
      | none => true) = true := by
    cases hl : h.last with
    | none => rfl
    | some x => exact beq_iff_eq.2 (hs x hl)
  simp only [State.mayDeliver, beq_iff_eq.2 he, Bool.true_and, beq_false_of_ne hb, ho]
  exact hnext

theorem State.mayDeliver_root (he : r.words.length = e) (hb : base = 0)
    (hs : (s.results.find? fun c => c.msg.part == r.part && c.msg.redid == r.redid).map Closed.msg = some r) : s.mayDeliver h base e r = true := by
  obtain ⟨c, hc, hm⟩ := Option.map_eq_some_iff.1 hs
  simp [State.mayDeliver, he, hb, hc, hm]

end

/-! ### Pieces (05 R138, R451) -/

section
variable {s : State} {h : Handle} {l : Landing} {dest a n : Nat} (obj rec_ : Nat)

theorem State.landStep_last (hp : (pages dest (4 * l.msg.words.length))[l.done]? = none) :
    s.landStep h l dest obj rec_ = s.endResult h l dest obj rec_ true := by
  unfold State.landStep
  simp only [hp]

theorem State.landStep_unwritable (hp : (pages dest (4 * l.msg.words.length))[l.done]? = some (a, n)) (hb : l.begun = none)
    (hk : s.pieceKey (unitHandle h.idx) l.msg.part a n = none) : s.landStep h l dest obj rec_ = s.endResult h l dest obj rec_ false := by
  unfold State.landStep
  simp only [hp, hb, hk]

/-- 05 R138: a piece that has not begun is passed over where it is stale, waits where another goes first on its page, and begins to land where neither holds. -/
theorem State.landStep_begins {k : Nat} {v : Option Nat} (hp : (pages dest (4 * l.msg.words.length))[l.done]? = some (a, n)) (hb : l.begun = none)
    (hk : s.pieceKey (unitHandle h.idx) l.msg.part a n = some (k, v)) :
    let s1 := s.cacheRange (unitHandle h.idx) l.msg.part a n
    ∃ lf, s.landStep h l dest obj rec_ =
      if s1.stale k v (l.msg.step + 1) then s1.putLanding { l with done := l.done + 1 }
      else if s1.pageTaken l k v then s
      else (s1.unitItem.1.putResult l.msg.status k (s1.unitItem.1.mixBytes k (((bytesOfWords l.msg.words).drop (a - dest)).take n)) s.uid).putLanding
        { l with begun := some (k, v), items := s.uid :: l.items, leaf := lf } := by
  intro s1
  have huid : s1.uid = s.uid := by
    have htouch : s.TouchedTo s1 := State.touched_cachePages _ _ _ s
    rw [htouch]
  refine ⟨((s.leafSpans (unitHandle h.idx) l.msg.part a n).head?).getD (0, 0), ?_⟩
  rw [← huid]
  unfold State.landStep
  simp only [hp, hb, hk]
  rfl

/-- 05 R138: a piece that has begun is written whole, and then sets the step of its page. -/
theorem State.landStep_ends {k : Nat} {v : Option Nat} (hp : (pages dest (4 * l.msg.words.length))[l.done]? = some (a, n)) (hb : l.begun = some (k, v)) :
    s.landStep h l dest obj rec_ = s.landEnd h l k v (((bytesOfWords l.msg.words).drop (a - dest)).take n) := by
  unfold State.landStep
  simp only [hp, hb]

end

/-! ### The end of a delivery (05 R148, R451) -/

/-- 05 R148, R451: a delivery whose record and object can be written writes the record, and makes one arrival on the object. -/
theorem State.endResult_writes (s : State) (h : Handle) (l : Landing) (dest obj rec_ : Nat) (ok : Bool) (e1 e2 : Tlb) :
    let r := l.msg
    let u := unitHandle h.idx
    let s0 := if ok && !r.status.getLsbD 3 then s else (l.wrote ++ s.restOf h l dest).foldl (fun s x => s.wildMem x.1 x.2) s
    let sh := s0.updPart r.part fun q => { q with
      handles := updWhere (fun x => x.idx == h.idx) (fun x => { x with last := some r.step, subs := x.subs.filter fun y => !(0 ≤ (r.step - y.1).toInt) }) q.handles }
    let s1 := { sh with
      landing := sh.landing.filter fun x => !(x.msg.part == r.part && x.msg.redid == r.redid)
      results := sh.results.eraseP fun c => c.msg.part == r.part && c.msg.redid == r.redid && c.msg.step == r.step }
    let s2 := (if ok then s1 else s1.updPart r.part fun q => q.setCsr 0x206 (q.csrWord 0x206 ||| 4)).unitItem.1
    let s3 := (s2.cacheRange u r.part rec_ 16).unitWrite (e1.key rec_) (toBytesLE (if ok then r.status else r.status ||| 8).toNat 16) s.uid
    s2.xlate u r.part rec_ .write = .ok e1 → isPeer (e1.key rec_) = false → s3.xlate u r.part obj .write = .ok e2 → isPeer (e2.key obj) = false →
    s3.bad (e2.key obj) 16 = false →
    s.endResult h l dest obj rec_ ok = (s3.cacheRange u r.part obj 16).arrive (.glb (e2.key obj)) 1 0 (.unit, s.uid :: s.resultPubs h l) := by
  intro r u s0 sh s1 s2 s3 hx1 hp1 hx2 hp2 hbad
  unfold State.endResult
  extract_lets fail home pubs after sh' t
  have huid : t.unitItem.2 = s.uid := by
    have h0 : s0.uid = s.uid := by
      simp only [s0]
      split
      · rfl
      · refine apply_foldl_eq State.uid ?_ _ _
        exact fun _ _ => rfl
    have ht : t.uid = s0.uid := by
      simp only [t, fail]
      split <;> rfl
    exact ht.trans h0
  have hrec : home s2 rec_ = some (e1.key rec_) := by simp [home, hx1, hp1]
  have hobj : home s3 obj = some (e2.key obj) := by simp [home, hx2, hp2]
  have hitem : t.unitItem = (s2, s.uid) := Prod.ext rfl huid
  rw [hitem]
  simp only [hrec]
  simp only [s3] at hobj hbad ⊢
  simp only [hobj, hbad]
  rfl

end Machine

open Machine

/-- Settles O48: admission by `exec_contributionAdmission_admitted`, arrivals by the cases of `Reduction.arrive`, closing by `State.reduction_closeStep`, the pieces of a
delivery by the cases of `State.landStep`, its page's step by `State.stepOf_installStep`, and its end by `State.endResult_writes`. -/
theorem reductions : Obligations.Reductions := by
  refine ⟨fun s id c bs hc hadm hcore hundef hread hbad => exec_contributionAdmission_admitted hc hadm hcore hundef hread hbad, ?_, ?_, ?_, ?_, ?_, ?_, ?_, ?_,
    State.mixBytes_old_or_new, ?_, ?_, fun _ _ _ _ _ => rfl, ?_⟩
  · exact fun s n => ⟨exec_bindingNoticeArrival_closed, fun ho hr => (exec_bindingNoticeArrival_open ho).trans (congrArg _ (State.noticed_held hr)),
      fun r ho hr => ⟨_, _, exec_bindingNoticeArrival_open ho, State.reduction_noticed hr, Reduction.compare_receives, Reduction.compare_refuses⟩⟩
  · exact fun s a r d hd ho hr ht => exec_contributionArrival_taken hd ho hr ht
  · intro r a clk pubs lag leaf r'
    refine ⟨fun hlag hslot => ?_, Reduction.arrive_taken clk pubs, fun hlag hd => ?_, fun hd hlag => Reduction.arrive_too_late clk pubs hlag hd⟩
    · have hr' : r' = _ := Reduction.arrive_ontime clk pubs hlag hslot
      rw [hr', Reduction.stepOf_putStep]
      · exact ⟨rfl, fun ht ho => if_neg (by simp [ht, ho]), rfl⟩
      · exact r.stepOf_step _
    · have hr' : r' = _ := Reduction.arrive_late clk pubs hlag hd
      rw [hr', Reduction.stepOf_putStep]
      · exact ⟨rfl, rfl⟩
      · exact r.stepOf_step _
  · intro s p redid r hr
    refine ⟨fun hnone => ?_, fun hsome => ?_⟩
    · have hdue : ¬ (r.steps.any (RStep.due (s.redClk p redid))) = true := by
        simp only [List.any_eq_true, RStep.due_iff, not_exists, not_and, Nat.not_lt]
        exact hnone
      exact congrArg _ ((State.expireTimers_eq hr).trans (if_neg hdue))
    · have hdue : r.steps.any (RStep.due (s.redClk p redid)) = true := by
        simp only [List.any_eq_true, RStep.due_iff]
        exact hsome
      exact congrArg _ ((State.expireTimers_eq hr).trans (if_pos hdue))
  · intro s p n redid r hr
    refine ⟨fun hq hx => ?_, fun hcl => ⟨?_, r.next, State.reduction_closeStep hr, rfl, rfl⟩⟩
    · have hopen : ¬ r.closes = true := fun hc => (Reduction.closes_iff.1 hc).elim (Nat.not_le.2 hq) (by simp [hx])
      exact (State.closeSteps_succ n hr).trans (if_neg hopen)
    · exact (State.closeSteps_succ n hr).trans (if_pos (Reduction.closes_iff.2 hcl))
  · exact fun x p => RStep.result_of_nothing p
  · intro s r h id dest obj rec_ base log e n first hh hb
    refine ⟨fun l hl hr => exec_resultDelivery_goes_on hh hb hl hr, fun hl he => ⟨fun hbase ho hs => ?_, fun hbase hs => ?_⟩⟩
    · exact exec_resultDelivery_begins hh hb hl (State.mayDeliver_elsewhere he hbase ho hs)
    · exact exec_resultDelivery_begins hh hb hl (State.mayDeliver_root he hbase hs)
  · intro s h l dest obj rec_ r
    refine ⟨State.landStep_last obj rec_, fun a n hp => ⟨State.landStep_unwritable obj rec_ hp, fun k v hb hk => ?_, fun k v hb => ?_⟩⟩
    · obtain ⟨lf, hland⟩ := State.landStep_begins obj rec_ hp hb hk
      rw [hland]
      refine ⟨fun hst => if_pos hst, fun hst ht => ?_, fun hst ht => ⟨lf, ?_⟩⟩
      · exact (if_neg (Bool.eq_false_iff.1 hst)).trans (if_pos ht)
      · exact (if_neg (Bool.eq_false_iff.1 hst)).trans (if_neg (Bool.eq_false_iff.1 ht))
    · exact State.landStep_ends obj rec_ hp hb
  · exact fun s d i c pubs => ⟨s.stepOf_installStep d i c pubs, State.installStep_of_le pubs⟩
  · exact fun s l => ⟨s.find?_putLanding l, fun x => s.mem_putLanding l⟩
  · exact State.endResult_writes

end Sys2Proof
end

section
/-! SUPPORT. Full-format slots (06 R156 to R167, R173, R174): fields within their bits, codes that read back, legal operands within their fields, and the
fields of every legal instruction read as that instruction. -/

namespace Sys2Proof

/-! ### Fields of a word (00 R3) -/

/-- R3: the field at the low end of a word. -/
theorem bits_low {a k : Nat} (hi y : Nat) (ha : a < 2 ^ (hi + 1)) (hk : hi < k) : bits (a + 2 ^ k * y) hi 0 = a := by
  obtain ⟨d, rfl⟩ := Nat.exists_eq_add_of_lt hk
  rw [bits, Nat.pow_zero, Nat.div_one, Nat.sub_zero, show hi + d + 1 = hi + 1 + d by omega, Nat.pow_add, Nat.mul_assoc, Nat.add_mul_mod_self_left,
    Nat.mod_eq_of_lt ha]

/-- R3: a field above the low end of a word is a field of the rest. -/
theorem bits_above {a k y hi lo : Nat} (ha : a < 2 ^ k) (hk : k ≤ lo) (hlo : lo ≤ hi) : bits (a + 2 ^ k * y) hi lo = bits y (hi - k) (lo - k) := by
  obtain ⟨d, rfl⟩ := Nat.exists_eq_add_of_le hk
  have hdiv : (a + 2 ^ k * y) / 2 ^ k = y := by
    rw [Nat.add_mul_div_left _ _ (Nat.two_pow_pos k), Nat.div_eq_of_lt ha, Nat.zero_add]
  rw [bits, bits, Nat.pow_add, ← Nat.div_div_eq_div_mul, hdiv, Nat.add_sub_cancel_left, show hi + 1 - (k + d) = hi - k + 1 - d by omega]

/-- R3: a field that is the whole word. -/
theorem bits_whole {a hi : Nat} (ha : a < 2 ^ (hi + 1)) : bits a hi 0 = a := by
  rw [bits, Nat.pow_zero, Nat.div_one, Nat.sub_zero, Nat.mod_eq_of_lt ha]

theorem bits_low_flag {a : Nat} (y : Nat) (ha : a < 2) : bits (a + 2 * y) 0 0 = a := bits_low (k := 1) 0 y ha (by decide)

theorem bits_above_flag {a y hi lo : Nat} (ha : a < 2) (hk : 1 ≤ lo) (hlo : lo ≤ hi) : bits (a + 2 * y) hi lo = bits y (hi - 1) (lo - 1) :=
  bits_above (k := 1) ha hk hlo

/-- R3: a bit is a field of one bit. -/
theorem bitAt_eq_bits (x n : Nat) : bitAt x n = (bits x n n == 1) := by
  rw [bitAt, bits, Nat.add_sub_cancel_left, Nat.pow_one]

/-- R3: a field below a number of `n` bits. -/
theorem add_mul_lt {a y : Nat} (k n : Nat) (ha : a < 2 ^ k) (hy : y < 2 ^ n) : a + 2 ^ k * y < 2 ^ (k + n) :=
  calc a + 2 ^ k * y < 2 ^ k + 2 ^ k * y := by omega
    _ = 2 ^ k * (y + 1) := by ring
    _ ≤ 2 ^ k * 2 ^ n := Nat.mul_le_mul_left _ hy
    _ = 2 ^ (k + n) := (Nat.pow_add 2 k n).symm

/-! ### The fields of a full-format slot (06 R156) -/

/-- R156: every field is within its bits. -/
structure Raw.Fits (r : Raw) : Prop where
  op : r.op < 2 ^ 10
  guard : r.guard < 2 ^ 7
  gneg : r.gneg < 2
  dst : r.dst < 2 ^ 8
  dclass : r.dclass < 2 ^ 2
  wide : r.wide < 2
  s0 : r.s0 < 2 ^ 10
  s1 : r.s1 < 2 ^ 10
  s2 : r.s2 < 2 ^ 10
  ty : r.ty < 2 ^ 4
  mod : r.mod < 2 ^ 16
  d2 : r.d2 < 2 ^ 8
  ext : r.ext < 2 ^ 8

theorem Raw.pack_lt {r : Raw} (h : r.Fits) : r.pack < 2 ^ 96 :=
  add_mul_lt 10 86 h.op <| add_mul_lt 7 79 h.guard <| add_mul_lt 1 78 h.gneg <| add_mul_lt 8 70 h.dst <| add_mul_lt 2 68 h.dclass <|
    add_mul_lt 2 66 (h.wide.trans (by decide)) <| add_mul_lt 10 56 h.s0 <| add_mul_lt 10 46 h.s1 <| add_mul_lt 10 36 h.s2 <|
    add_mul_lt 4 32 h.ty <| add_mul_lt 16 16 h.mod <| add_mul_lt 8 8 h.d2 h.ext

theorem Raw.unpack_pack {r : Raw} (h : r.Fits) : Raw.unpack r.pack = r := by
  obtain ⟨op, guard, gneg, dst, dclass, wide, s0, s1, s2, ty, mod, d2, ext⟩ := r
  obtain ⟨hop, hguard, hgneg, hdst, hdclass, hwide, hs0, hs1, hs2, hty, hmod, hd2, hext⟩ := h
  dsimp only at hop hguard hgneg hdst hdclass hwide hs0 hs1 hs2 hty hmod hd2 hext
  have hwide2 : wide < 2 ^ 2 := hwide.trans (by decide)
  simp only [Raw.unpack, Raw.mk.injEq]
  unfold Raw.pack
  simp only [bits_above hop, bits_above hguard, bits_above_flag hgneg, bits_above hdst, bits_above hdclass, bits_above hwide2, bits_above hs0,
    bits_above hs1, bits_above hs2, bits_above hty, bits_above hmod, bits_above hd2, Nat.reduceLeDiff, Nat.reduceSub]
  exact ⟨bits_low 9 _ hop (by decide), bits_low 6 _ hguard (by decide), bits_low_flag _ hgneg, bits_low 7 _ hdst (by decide),
    bits_low 1 _ hdclass (by decide), bits_low 0 _ hwide (by decide), bits_low 9 _ hs0 (by decide), bits_low 9 _ hs1 (by decide),
    bits_low 9 _ hs2 (by decide), bits_low 3 _ hty (by decide), bits_low 15 _ hmod (by decide), bits_low 7 _ hd2 (by decide), bits_whole hext⟩

/-! ### Codes read back -/

@[simp] theorem Ty.ofCode_code (t : Ty) : Ty.ofCode t.code = some t := by cases t <;> rfl

theorem Ty.code_lt (t : Ty) : t.code < 2 ^ 4 := by cases t <;> decide

/-- R160: a source whose number or immediate is within the eight low bits of its field. -/
def Src.Fits : Src → Prop
  | .v n | .g n | .l n | .imm n => n < 256

theorem Src.code_lt {x : Src} (h : x.Fits) : x.code < 2 ^ 10 := by
  cases x <;> simp only [Src.Fits] at h <;> simp only [Src.code] <;> omega

theorem Src.ofCode_code {x : Src} (h : x.Fits) : Src.ofCode x.code = x := by
  cases x with
  | v n => exact if_pos h
  | g n =>
    have h1 : ¬ 256 + n < 256 := by omega
    have h2 : 256 + n < 512 := Nat.add_lt_add_left h 256
    simp [Src.code, Src.ofCode, h1, h2]
  | l n =>
    have h1 : ¬ 512 + n < 256 := by omega
    have h2 : ¬ 512 + n < 512 := by omega
    have h3 : 512 + n < 768 := Nat.add_lt_add_left h 512
    simp [Src.code, Src.ofCode, h1, h2, h3]
  | imm n =>
    have h1 : ¬ 768 + n < 256 := by omega
    have h2 : ¬ 768 + n < 512 := by omega
    have h3 : ¬ 768 + n < 768 := by omega
    simp [Src.code, Src.ofCode, h1, h2, h3]

@[simp] theorem Dst.ofCode_cls_num (d : Dst) : Dst.ofCode d.cls d.num = d := by cases d <;> rfl

theorem Dst.cls_lt (d : Dst) : d.cls < 2 ^ 2 := by cases d <;> simp [Dst.cls]

theorem Rnd.code_lt (r : Rnd) : r.code < 2 ^ 3 := by cases r <;> decide

theorem Rnd.ofCode_code (r : Rnd) : Rnd.ofCode r.code = some r := by cases r <;> rfl

theorem Rnd.ofCode_bits (r : Rnd) : Rnd.ofCode (bits r.code 2 0) = some r := by rw [bits_whole r.code_lt, r.ofCode_code]

theorem Width.code_lt (w : Width) : w.code < 2 ^ 3 := by cases w <;> decide

theorem Width.ofCode_bits (w : Width) : Width.ofCode (bits w.code 2 0) = some w := by cases w <;> rfl

theorem Space.ext_lt (s : Space) : 2 ^ 5 * s.code < 2 ^ 8 := by cases s <;> decide

theorem Space.ofCode_bits (s : Space) : Space.ofCode (bits (2 ^ 5 * s.code) 7 5) = some s := by cases s <;> rfl

theorem ordScope_lt (o : Order) (s : Scope) : ordScope o s < 2 ^ 8 := by cases o <;> cases s <;> decide

theorem Order.ofCode_bits (o : Order) (s : Scope) : Order.ofCode (bits (ordScope o s) 4 3) = some o := by cases o <;> cases s <;> rfl

theorem Scope.ofCode_bits (o : Order) (s : Scope) : Scope.ofCode (bits (ordScope o s) 2 0) = some s := by cases o <;> cases s <;> rfl

theorem XOp.code_lt (x : XOp) : x.code < 2 ^ 4 := by cases x <;> decide

theorem XOp.ofCode_code (x : XOp) : XOp.ofCode x.code = some x := by cases x <;> rfl

theorem XOp.ofCode_bits (x : XOp) (y : Nat) : XOp.ofCode (bits (x.code + 2 ^ 4 * y) 3 0) = some x := by
  rw [bits_low 3 y x.code_lt (by decide), x.ofCode_code]

/-- R206: the condition and the combiner of a compare. -/
theorem Cond.ofCode_bits (k : Cond) (m : Comb) :
    Cond.ofCode (bits (k.code + 2 ^ 3 * m.code) 2 0) = some k ∧ Comb.ofCode (bits (k.code + 2 ^ 3 * m.code) 4 3) = some m ∧
      k.code + 2 ^ 3 * m.code < 2 ^ 16 := by
  cases k <;> cases m <;> decide

/-- R231: the condition and the combiner of a floating-point compare. -/
theorem FCond.ofCode_bits (k : FCond) (m : Comb) :
    FCond.ofCode (bits (k.code + 2 ^ 4 * m.code) 3 0) = some k ∧ Comb.ofCode (bits (k.code + 2 ^ 4 * m.code) 5 4) = some m ∧
      k.code + 2 ^ 4 * m.code < 2 ^ 16 := by
  cases k <;> cases m <;> decide

theorem AddMods.code_lt (m : AddMods) : m.code < 2 ^ 16 := by
  obtain ⟨sat, cw, cr⟩ := m
  cases sat <;> cases cw <;> cases cr <;> decide

theorem AddMods.ofCode_code (m : AddMods) : AddMods.ofCode m.code = m := by
  obtain ⟨sat, cw, cr⟩ := m
  cases sat <;> cases cw <;> cases cr <;> rfl

theorem CvtFmt.code_lt (f : CvtFmt) : f.code < 2 ^ 4 := by cases f <;> decide

@[simp] theorem CvtFmt.ofCode_code (f : CvtFmt) : CvtFmt.ofCode f.code = f := by cases f <;> rfl

theorem toNat_beq_one (b : Bool) : (b.toNat == 1) = b := by cases b <;> rfl

theorem CvtMods.code_lt {m : CvtMods} (h : m.sel < 2 ^ 2) : m.code < 2 ^ 16 :=
  add_mul_lt 3 13 m.rnd.code_lt <| add_mul_lt 4 9 m.dst.code_lt <| add_mul_lt 4 5 m.src.code_lt <| add_mul_lt 1 4 m.sat.toNat_lt <|
    add_mul_lt 1 3 m.pk.toNat_lt <| add_mul_lt 2 1 h m.rint.toNat_lt

theorem CvtMods.ofCode_code {m : CvtMods} (h : m.sel < 2 ^ 2) : CvtMods.ofCode m.code = some m := by
  obtain ⟨rint, sel, pk, sat, src, dst, rnd⟩ := m
  dsimp only at h
  have hsat := sat.toNat_lt
  have hpk := pk.toNat_lt
  unfold CvtMods.ofCode CvtMods.code
  simp only [bitAt_eq_bits, bits_above rnd.code_lt, bits_above src.code_lt, bits_above dst.code_lt, bits_above_flag hsat, bits_above_flag hpk, bits_above h,
    Nat.reduceLeDiff, Nat.reduceSub, bits_low_flag _ hsat, bits_low_flag _ hpk, bits_low 2 _ rnd.code_lt, bits_low 3 _ src.code_lt, bits_low 3 _ dst.code_lt,
    bits_low 1 _ h, bits_whole (hi := 0) rint.toNat_lt, Nat.reduceLT, rnd.ofCode_code, CvtFmt.ofCode_code, toNat_beq_one, Option.map_some]

theorem AtOp.code_lt (a : AtOp) : a.code < 2 ^ 4 := by cases a <;> decide

theorem AtOp.ofCode_code (a : AtOp) : AtOp.ofCode a.code = some a := by cases a <;> rfl

theorem AtMods.modCode_lt (m : AtMods) : m.modCode < 2 ^ 16 :=
  lt_trans (add_mul_lt 4 2 m.op.code_lt <| add_mul_lt 1 1 m.nr.toNat_lt m.b128.toNat_lt) (by decide)

theorem AtMods.ofCode_code (m : AtMods) : AtMods.ofCode m.modCode (ordScope m.order m.scope) = some m := by
  obtain ⟨op, nr, b128, order, scope⟩ := m
  have hnr := nr.toNat_lt
  unfold AtMods.ofCode AtMods.modCode
  simp only [Order.ofCode_bits, Scope.ofCode_bits, bitAt_eq_bits, bits_low 3 _ op.code_lt, bits_above op.code_lt, bits_above_flag hnr, bits_low_flag _ hnr,
    Nat.reduceLeDiff, Nat.reduceSub, Nat.reduceLT, bits_whole (hi := 0) b128.toNat_lt, op.ofCode_code, toNat_beq_one]

theorem Target.code_lt {t : Target} (h : t.slot < 2 ^ 3) : t.code < 2 ^ 30 := add_mul_lt 3 27 h t.disp.isLt

theorem Target.ofCode_code {t : Target} (h : t.slot < 2 ^ 3) : Target.ofCode t.code = t := by
  obtain ⟨disp, slot⟩ := t
  have hdiv : (slot + 2 ^ 3 * disp.toNat) / 2 ^ 3 = disp.toNat := by
    rw [Nat.add_mul_div_left _ _ (by decide), Nat.div_eq_of_lt h, Nat.zero_add]
  have hmod : (slot + 2 ^ 3 * disp.toNat) % 2 ^ 3 = slot := by rw [Nat.add_mul_mod_self_left, Nat.mod_eq_of_lt h]
  simp only [Target.ofCode, Target.code, hdiv, hmod, BitVec.ofNat_toNat, BitVec.setWidth_eq]

end Sys2Proof
end

section
/-! SUPPORT. Legal operands lie within their fields (06 R157 to R167), and fields of them read back (R156, R174). -/

namespace Sys2Proof

/-! ### Operands within their fields -/

/-- R156 to R160: every field of an operation is within its bits. -/
structure Op.Fits (o : Op) : Prop where
  guard : o.guard.p < 2 ^ 7
  dst : o.dst.num < 2 ^ 8
  d2 : o.d2 < 2 ^ 8
  a : o.a.Fits
  b : o.b.Fits
  c : o.c.Fits

namespace WF

theorem guard_lt {g : Guard} (h : guard g = true) : g.p < 2 ^ 7 := (Nat.lt_succ_of_le (of_decide_eq_true h)).trans (by decide)

theorem src_fits {c : Ctx} (hv : c.vregs ≤ 256) {wide : Bool} {x : Src} (h : src c wide x = true) : x.Fits := by
  cases x <;> cases wide <;> simp [src, Src.Fits] at h ⊢ <;> omega

theorem mask_fits {c : Ctx} (hv : c.vregs ≤ 256) {x : Src} (h : mask c x = true) : x.Fits := src_fits hv h

theorem psrc_fits {x : Src} (h : psrc x = true) : x.Fits := by
  cases x <;> simp [psrc, Src.Fits] at h ⊢ <;> omega

theorem src128_fits {c : Ctx} (hv : c.vregs ≤ 256) {x : Src} (h : src128 c x = true) : x.Fits := by
  cases x <;> simp [src128, Src.Fits] at h ⊢
  omega

theorem unused_fits {x : Src} (h : unused x = true) : x.Fits := by
  rw [unused, beq_iff_eq] at h
  rw [h]
  exact Nat.zero_lt_succ _

/-- R165: of the three source fields, those that are used are legal and the others zero. -/
theorem uses_fits {n : Nat} {o : Op} (h : uses n o = true) (ha : n < 1 ∨ o.a.Fits) (hb : n < 2 ∨ o.b.Fits) (hc : n < 3 ∨ o.c.Fits) :
    o.a.Fits ∧ o.b.Fits ∧ o.c.Fits := by
  simp only [uses, Bool.and_eq_true, Bool.or_eq_true, decide_eq_true_eq] at h
  obtain ⟨⟨ua, ub⟩, uc⟩ := h
  exact ⟨ha.elim (fun hn => unused_fits (ua.resolve_left (Nat.not_le.2 hn))) id, hb.elim (fun hn => unused_fits (ub.resolve_left (Nat.not_le.2 hn))) id,
    hc.elim (fun hn => unused_fits (uc.resolve_left (Nat.not_le.2 hn))) id⟩

theorem dstV_num {c : Ctx} (hv : c.vregs ≤ 256) {wide : Bool} {o : Op} (h : dstV c wide o = true) : o.dst.num < 2 ^ 8 := by
  rw [dstV, Bool.and_eq_true] at h
  have h2 := h.2
  cases hd : o.dst <;> cases wide <;> simp [hd] at h2 <;> simp [Dst.num] <;> omega

theorem dst128_num {c : Ctx} (hv : c.vregs ≤ 256) {o : Op} (h : dst128 c o = true) : o.dst.num < 2 ^ 8 := by
  rw [dst128, Bool.and_eq_true] at h
  have h2 := h.2
  cases hd : o.dst <;> simp [hd] at h2 <;> simp [Dst.num]
  omega

theorem dstP_num {o : Op} (h : dstP o = true) : o.dst.num < 2 ^ 8 := by
  rw [dstP, Bool.and_eq_true] at h
  have h2 := h.2
  cases hd : o.dst <;> simp [hd] at h2
  simp only [Dst.num]
  omega

theorem dstG_num {wide : Bool} {o : Op} (h : dstG wide o = true) : o.dst.num < 2 ^ 8 := by
  rw [dstG, Bool.and_eq_true] at h
  have h2 := h.2
  cases hd : o.dst <;> cases wide <;> simp [hd] at h2 <;> simp only [Dst.num] <;> omega

theorem dstNone_num {o : Op} (h : dstNone o = true) : o.dst.num < 2 ^ 8 := by
  rw [dstNone, Bool.and_eq_true, beq_iff_eq] at h
  rw [h.2]
  exact Nat.two_pow_pos 8

theorem cls_of_dstP {o : Op} (h : dstP o = true) : o.dst.cls = 1 := by
  rw [dstP, Bool.and_eq_true] at h
  have h2 := h.2
  cases hd : o.dst <;> simp [hd] at h2
  rfl

theorem cls_ne_of_arith {c : Ctx} {tys : List Ty} {n : Nat} {o : Op} (h : arith c tys n o = true) : o.dst.cls ≠ 1 := by
  simp only [arith, dstV, Bool.and_eq_true] at h
  obtain ⟨⟨⟨⟨⟨⟨⟨-, -, hdst⟩, -⟩, -⟩, -⟩, -⟩, -⟩, -⟩ := h
  cases hd : o.dst <;> simp [hd, Dst.cls] at hdst ⊢

theorem d2P_lt {o : Op} (h : d2P o = true) : o.d2 < 2 ^ 8 := (Nat.lt_succ_of_le (of_decide_eq_true h)).trans (by decide)

theorem d2None_lt {o : Op} (h : d2None o = true) : o.d2 < 2 ^ 8 := by
  rw [d2None, beq_iff_eq] at h
  rw [h]
  exact Nat.two_pow_pos 8

/-! ### The legal forms (06 R195 to R206, 09 R243 to R263) -/

section
variable {c : Ctx} (hv : c.vregs ≤ 256) {o : Op}

theorem plogic_fits {n : Nat} (hn : n = 1 ∨ n = 2) (h : plogic n o = true) : o.Fits := by
  simp only [plogic, Bool.and_eq_true, Bool.or_eq_true, beq_iff_eq] at h
  obtain ⟨⟨⟨⟨⟨⟨hg, hdst⟩, hd2⟩, -⟩, ha⟩, hb⟩, hu⟩ := h
  obtain ⟨fa, fb, fc⟩ := uses_fits hu (.inr (psrc_fits ha)) (hb.imp (fun e => by omega) psrc_fits) (.inl (by omega))
  exact ⟨guard_lt hg, dstP_num hdst, d2None_lt hd2, fa, fb, fc⟩

include hv

theorem arith_fits {tys : List Ty} {n : Nat} (h : arith c tys n o = true) : o.Fits := by
  simp only [arith, Bool.and_eq_true, Bool.or_eq_true, decide_eq_true_eq] at h
  obtain ⟨⟨⟨⟨⟨⟨⟨hg, hdst⟩, hd2⟩, -⟩, ha⟩, hb⟩, hc⟩, hu⟩ := h
  obtain ⟨fa, fb, fc⟩ := uses_fits hu (.inr (src_fits hv ha)) (hb.imp id (src_fits hv)) (hc.imp id (src_fits hv))
  exact ⟨guard_lt hg, dstV_num hv hdst, d2None_lt hd2, fa, fb, fc⟩

theorem shift_fits {tys : List Ty} (h : shift c tys o = true) : o.Fits := by
  simp only [shift, Bool.and_eq_true] at h
  obtain ⟨⟨⟨⟨⟨⟨hg, hdst⟩, hd2⟩, -⟩, ha⟩, hb⟩, hu⟩ := h
  obtain ⟨fa, fb, fc⟩ := uses_fits hu (.inr (src_fits hv ha)) (.inr (src_fits hv hb)) (.inl (by decide))
  exact ⟨guard_lt hg, dstV_num hv hdst, d2None_lt hd2, fa, fb, fc⟩

theorem addSub_fits {m : AddMods} (h : addSub c o m = true) : o.Fits := by
  simp only [addSub, Bool.and_eq_true] at h
  obtain ⟨⟨⟨⟨⟨⟨⟨hg, hdst⟩, -⟩, ha⟩, hb⟩, hc⟩, hd2⟩, -⟩ := h
  refine ⟨guard_lt hg, dstV_num hv hdst, ?_, src_fits hv ha, src_fits hv hb, ?_⟩
  · split at hd2
    · exact d2P_lt hd2
    · exact d2None_lt hd2
  · split at hc
    · exact psrc_fits hc
    · exact unused_fits hc

theorem cmp_fits {cond : Cond} {comb : Comb} (h : cmp c o cond comb = true) : o.Fits := by
  simp only [cmp, Bool.and_eq_true] at h
  obtain ⟨⟨⟨⟨⟨⟨hg, hdst⟩, hd2⟩, ha⟩, hb⟩, -⟩, hc⟩ := h
  refine ⟨guard_lt hg, dstP_num hdst, d2P_lt hd2, src_fits hv ha, src_fits hv hb, ?_⟩
  split at hc
  · exact unused_fits hc
  · exact psrc_fits hc

theorem plain_fits {dst d2 : Op → Bool} {n : Nat} {wa wb wc : Bool} (hdst : dst o = true → o.dst.num < 2 ^ 8) (hd2 : d2 o = true → o.d2 < 2 ^ 8)
    (h : plain c dst d2 n wa wb wc o = true) : o.Fits := by
  simp only [plain, Bool.and_eq_true, Bool.or_eq_true, decide_eq_true_eq] at h
  obtain ⟨⟨⟨⟨⟨⟨⟨hg, pd⟩, pd2⟩, -⟩, ha⟩, hb⟩, hc⟩, hu⟩ := h
  obtain ⟨fa, fb, fc⟩ := uses_fits hu (ha.imp id (src_fits hv)) (hb.imp id (src_fits hv)) (hc.imp id (src_fits hv))
  exact ⟨guard_lt hg, hdst pd, hd2 pd2, fa, fb, fc⟩

theorem cross_fits {tys : List Ty} (h : cross c tys o = true) (hc : o.c.Fits) : o.Fits := by
  simp only [cross, Bool.and_eq_true] at h
  obtain ⟨⟨⟨⟨⟨hg, hdst⟩, hd2⟩, -⟩, ha⟩, hb⟩ := h
  exact ⟨guard_lt hg, dstV_num hv hdst, d2P_lt hd2, src_fits hv ha, mask_fits hv hb, hc⟩

theorem vote_fits {dst : Op → Bool} (hdst : dst o = true → o.dst.num < 2 ^ 8) (h : vote c dst o = true) : o.Fits := by
  simp only [vote, Bool.and_eq_true] at h
  obtain ⟨⟨⟨⟨⟨⟨hg, pd⟩, hd2⟩, -⟩, ha⟩, hb⟩, hc⟩ := h
  exact ⟨guard_lt hg, hdst pd, d2P_lt hd2, psrc_fits ha, mask_fits hv hb, unused_fits hc⟩

theorem loadDst_num {w : Width} (h : loadDst c w o = true) : o.dst.num < 2 ^ 8 := by
  unfold loadDst at h
  split at h
  · exact dst128_num hv h
  · exact dstV_num hv h
  · exact dstV_num hv h

theorem load_fits {wide : Bool} {w : Width} (h : load c wide w o = true) : o.Fits := by
  simp only [load, Bool.and_eq_true] at h
  obtain ⟨⟨⟨⟨⟨⟨hg, hdst⟩, hd2⟩, -⟩, ha⟩, hb⟩, hc⟩ := h
  exact ⟨guard_lt hg, loadDst_num hv hdst, d2None_lt hd2, src_fits hv ha, src_fits hv hb, unused_fits hc⟩

theorem store_fits {wide : Bool} {w : Width} (h : store c wide w o = true) : o.Fits := by
  simp only [store, Bool.and_eq_true] at h
  obtain ⟨⟨⟨⟨⟨⟨hg, hdst⟩, hd2⟩, -⟩, ha⟩, hb⟩, hc⟩ := h
  refine ⟨guard_lt hg, dstNone_num hdst, d2None_lt hd2, src_fits hv ha, src_fits hv hb, ?_⟩
  split at hc
  · exact absurd hc (by decide)
  · exact absurd hc (by decide)
  · exact src128_fits hv hc
  · exact src_fits hv hc
  · exact src_fits hv hc

theorem atomic_fits {wide host : Bool} {m : AtMods} (h : atomic c wide host m o = true) : o.Fits := by
  simp only [atomic, Bool.and_eq_true] at h
  obtain ⟨⟨⟨⟨⟨hg, -⟩, ha⟩, hrest⟩, -⟩, hd2⟩ := h
  have hd2' : o.d2 < 2 ^ 8 := by
    split at hd2
    · exact d2P_lt hd2
    · exact d2None_lt hd2
  split at hrest
  · simp only [Bool.and_eq_true] at hrest
    obtain ⟨⟨⟨-, hb⟩, hc⟩, hdst⟩ := hrest
    exact ⟨guard_lt hg, dst128_num hv hdst, hd2', src_fits hv ha, src128_fits hv hb, src128_fits hv hc⟩
  · simp only [Bool.and_eq_true] at hrest
    obtain ⟨⟨hdst, hb⟩, hc⟩ := hrest
    refine ⟨guard_lt hg, dstV_num hv hdst, hd2', src_fits hv ha, src_fits hv hb, ?_⟩
    split at hc
    · exact src_fits hv hc
    · exact unused_fits hc

theorem phase_fits {sp : Space} {dst d2 : Op → Bool} {n : Nat} (hdst : dst o = true → o.dst.num < 2 ^ 8) (hd2 : d2 o = true → o.d2 < 2 ^ 8)
    (h : phase c sp dst d2 n o = true) : o.Fits := by
  unfold phase at h
  split at h
  · exact absurd h (by decide)
  · exact plain_fits hv hdst hd2 h

theorem csrOp_fits {csr n : Nat} (h : csrOp c csr n o = true) : o.Fits ∧ csr < 2 ^ 12 := by
  simp only [csrOp, Bool.and_eq_true] at h
  obtain ⟨⟨hp, hcsr⟩, -⟩ := h
  refine ⟨plain_fits hv (dstV_num hv) d2None_lt hp, ?_⟩
  simp only [csrAssigned, Bool.or_eq_true, Bool.and_eq_true, decide_eq_true_eq] at hcsr
  omega

theorem cvt_fits {m : CvtMods} (h : cvt c o m = true) : o.Fits ∧ m.sel < 2 ^ 2 := by
  simp only [cvt, Bool.and_eq_true] at h
  obtain ⟨⟨⟨⟨⟨⟨hg, -⟩, hd2⟩, hdst⟩, ha⟩, hc⟩, hrest⟩ := h
  split at hrest
  · simp only [Bool.and_eq_true, beq_iff_eq] at hrest
    obtain ⟨⟨⟨-, hsel⟩, -⟩, hb⟩ := hrest
    exact ⟨⟨guard_lt hg, dstV_num hv hdst, d2P_lt hd2, src_fits hv ha, src_fits hv hb, unused_fits hc⟩, by omega⟩
  · simp only [Bool.and_eq_true] at hrest
    obtain ⟨⟨hb, hsel⟩, -⟩ := hrest
    refine ⟨⟨guard_lt hg, dstV_num hv hdst, d2P_lt hd2, src_fits hv ha, unused_fits hb, unused_fits hc⟩, ?_⟩
    unfold selOk at hsel
    split at hsel <;> simp at hsel <;> omega

end

/-! ### Legal operands of single instructions (06 R196, R203 to R211, 08 R231, R232, 09 R243, R267) -/

section
variable {c : Ctx} (hv : c.vregs ≤ 256) {o : Op}
include hv

theorem ppack_fits (h : (Instr.ppack o).wf c = true) : o.Fits := by
  simp only [Instr.wf, dstVec, Bool.and_eq_true] at h
  obtain ⟨⟨⟨⟨⟨hg, hdst, -⟩, hd2⟩, -⟩, hu⟩, ha⟩ := h
  have fa : o.a.Fits := by cases hx : o.a <;> simp [hx, Src.Fits] at ha ⊢; omega
  obtain ⟨-, fb, fc⟩ := uses_fits hu (.inr fa) (.inl (by decide)) (.inl (by decide))
  exact ⟨guard_lt hg, dstV_num hv hdst, d2None_lt hd2, fa, fb, fc⟩

theorem punpack_fits (h : (Instr.punpack o).wf c = true) : o.Fits := by
  simp only [Instr.wf, Bool.and_eq_true] at h
  obtain ⟨⟨⟨⟨⟨⟨hg, hdst⟩, -⟩, hd2⟩, -⟩, ha⟩, hu⟩ := h
  obtain ⟨fa, fb, fc⟩ := uses_fits hu (.inr (src_fits hv ha)) (.inl (by decide)) (.inl (by decide))
  exact ⟨guard_lt hg, dstP_num hdst, d2None_lt hd2, fa, fb, fc⟩

theorem pcnt_fits (h : (Instr.pcnt o).wf c = true) : o.Fits := by
  simp only [Instr.wf, dstVec, Bool.and_eq_true] at h
  obtain ⟨⟨⟨⟨⟨hg, hdst, -⟩, hd2⟩, -⟩, hu⟩, hab⟩ := h
  have fab : o.a.Fits ∧ o.b.Fits := by cases hx : o.a <;> cases hy : o.b <;> simp [hx, hy, Src.Fits] at hab ⊢; omega
  obtain ⟨-, -, fc⟩ := uses_fits hu (.inr fab.1) (.inr fab.2) (.inl (by decide))
  exact ⟨guard_lt hg, dstV_num hv hdst, d2None_lt hd2, fab.1, fab.2, fc⟩

theorem sreg_fits (h : (Instr.sreg o).wf c = true) : o.Fits := by
  simp only [Instr.wf, Bool.and_eq_true] at h
  obtain ⟨⟨⟨⟨hg, hd2⟩, -⟩, hu⟩, ha⟩ := h
  split at ha
  case h_1 n hx =>
    simp only [Bool.and_eq_true, decide_eq_true_eq] at ha
    have fa : o.a.Fits := by rw [hx]; exact Nat.lt_of_le_of_lt ha.1 (by decide)
    obtain ⟨-, fb, fc⟩ := uses_fits hu (.inr fa) (.inl (by decide)) (.inl (by decide))
    exact ⟨guard_lt hg, dstV_num hv ha.2, d2None_lt hd2, fa, fb, fc⟩
  case h_2 => exact absurd ha (by decide)

theorem fins_fits (h : (Instr.fins o).wf c = true) : o.Fits := by
  simp only [Instr.wf, Bool.and_eq_true] at h
  obtain ⟨⟨⟨⟨⟨⟨hg, hdst⟩, hd2⟩, -⟩, ha⟩, hb⟩, hc⟩ := h
  exact ⟨guard_lt hg, dstV_num hv hdst, d2None_lt hd2, src_fits hv ha, src_fits hv hb, src_fits hv hc⟩

theorem sel_fits (h : (Instr.sel o).wf c = true) : o.Fits := by
  simp only [Instr.wf, Bool.and_eq_true] at h
  obtain ⟨⟨⟨⟨⟨⟨hg, hdst⟩, hd2⟩, -⟩, ha⟩, hb⟩, hc⟩ := h
  exact ⟨guard_lt hg, dstV_num hv hdst, d2None_lt hd2, src_fits hv ha, src_fits hv hb, psrc_fits hc⟩

theorem lea_fits {k : Nat} (h : (Instr.lea o k).wf c = true) : o.Fits ∧ k < 2 ^ 3 := by
  simp only [Instr.wf, Bool.and_eq_true, decide_eq_true_eq] at h
  obtain ⟨⟨⟨⟨⟨⟨⟨hg, hdst⟩, hd2⟩, -⟩, ha⟩, hb⟩, hc⟩, hk⟩ := h
  exact ⟨⟨guard_lt hg, dstV_num hv hdst, d2None_lt hd2, src_fits hv ha, src_fits hv hb, src_fits hv hc⟩, Nat.lt_succ_of_le hk⟩

theorem gmov_fits (h : (Instr.gmov o).wf c = true) : o.Fits := by
  simp only [Instr.wf, Bool.and_eq_true] at h
  obtain ⟨⟨⟨⟨⟨hg, hdst⟩, hd2⟩, -⟩, ha⟩, hu⟩ := h
  obtain ⟨fa, fb, fc⟩ := uses_fits hu (.inr (src_fits hv ha)) (.inl (by decide)) (.inl (by decide))
  exact ⟨guard_lt hg, dstG_num hdst, d2None_lt hd2, fa, fb, fc⟩

theorem gld_fits {sp : Space} (h : (Instr.gld o sp).wf c = true) : o.Fits := by
  simp only [Instr.wf, Bool.and_eq_true] at h
  obtain ⟨⟨⟨⟨⟨⟨hg, hdst⟩, hd2⟩, -⟩, -⟩, ha⟩, hu⟩ := h
  obtain ⟨fa, fb, fc⟩ := uses_fits hu (.inr (src_fits hv ha)) (.inl (by decide)) (.inl (by decide))
  exact ⟨guard_lt hg, dstG_num hdst, d2None_lt hd2, fa, fb, fc⟩

theorem fcmp_fits {k : FCond} {m : Comb} (h : (Instr.fcmp o k m).wf c = true) : o.Fits := by
  simp only [Instr.wf, Bool.and_eq_true] at h
  obtain ⟨⟨⟨⟨⟨⟨hg, hdst⟩, hd2⟩, -⟩, ha⟩, hb⟩, hc⟩ := h
  refine ⟨guard_lt hg, dstP_num hdst, d2P_lt hd2, src_fits hv ha, src_fits hv hb, ?_⟩
  split at hc
  · exact unused_fits hc
  · exact psrc_fits hc

theorem fclassP_fits (h : (Instr.fclassP o).wf c = true) : o.Fits ∧ o.dst.cls = 1 := by
  simp only [Instr.wf, Bool.and_eq_true] at h
  obtain ⟨⟨⟨⟨⟨⟨hg, hdst⟩, hd2⟩, -⟩, ha⟩, hb⟩, hc⟩ := h
  exact ⟨⟨guard_lt hg, dstP_num hdst, d2P_lt hd2, src_fits hv ha, src_fits hv hb, unused_fits hc⟩, cls_of_dstP hdst⟩

theorem xbc_fits (h : (Instr.xbc o).wf c = true) : o.Fits := by
  simp only [Instr.wf, Bool.and_eq_true] at h
  obtain ⟨hx, hc⟩ := h
  have fc : o.c.Fits := by cases hy : o.c <;> simp [hy, Src.Fits] at hc ⊢ <;> omega
  exact cross_fits hv hx fc

theorem xmatch_fits (h : (Instr.xmatch o).wf c = true) : o.Fits := by
  simp only [Instr.wf, Bool.and_eq_true] at h
  obtain ⟨⟨⟨⟨⟨⟨hg, hdst⟩, hd2⟩, -⟩, ha⟩, hb⟩, hc⟩ := h
  exact ⟨guard_lt hg, dstV_num hv hdst, d2P_lt hd2, src_fits hv ha, mask_fits hv hb, unused_fits hc⟩

theorem rngNext_fits (h : (Instr.rngNext o).wf c = true) : o.Fits := by
  simp only [Instr.wf, Bool.and_eq_true] at h
  obtain ⟨⟨⟨⟨hg, hdst⟩, hd2⟩, -⟩, hu⟩ := h
  obtain ⟨fa, fb, fc⟩ := uses_fits hu (.inl (by decide)) (.inl (by decide)) (.inl (by decide))
  exact ⟨guard_lt hg, dstV_num hv hdst, d2None_lt hd2, fa, fb, fc⟩

theorem rngJump_fits (h : (Instr.rngJump o).wf c = true) : o.Fits := by
  simp only [Instr.wf, Bool.and_eq_true] at h
  obtain ⟨⟨⟨⟨⟨hg, hdst⟩, hd2⟩, -⟩, ha⟩, hu⟩ := h
  obtain ⟨fa, fb, fc⟩ := uses_fits hu (.inr (src_fits hv ha)) (.inl (by decide)) (.inl (by decide))
  exact ⟨guard_lt hg, dstNone_num hdst, d2None_lt hd2, fa, fb, fc⟩

theorem ldv_fits {w : Width} (h : (Instr.ldv o w).wf c = true) : o.Fits := by
  simp only [Instr.wf, Bool.and_eq_true] at h
  obtain ⟨⟨⟨⟨⟨⟨hg, hdst⟩, hd2⟩, -⟩, ha⟩, hb⟩, hc⟩ := h
  exact ⟨guard_lt hg, loadDst_num hv hdst, d2P_lt hd2, src_fits hv ha, src_fits hv hb, src_fits hv hc⟩

theorem cbget_fits (h : (Instr.cbget o).wf c = true) : o.Fits := by
  simp only [Instr.wf, Bool.and_eq_true, decide_eq_true_eq] at h
  obtain ⟨⟨hp, hd2⟩, -⟩ := h
  exact plain_fits hv (dstV_num hv) (fun _ => hd2.trans_le hv) hp

end

end WF
end Sys2Proof
end

section
/-! SUPPORT. What the fields of an instruction read as (06 R156, R167, R174). -/

namespace Sys2Proof

/-! ### The opcode map (06 R174) -/

/-- R174: the instruction that an opcode, its modifiers and its extension name, with the common fields `o`. -/
def Raw.named (r : Raw) (o : Op) : Option Instr :=
  if r.op < 0x080 then r.control o
  else if r.op < 0x100 then r.integer o
  else if r.op < 0x1C0 then r.floating o
  else if r.op < 0x280 then r.memory o
  else r.system o

theorem Raw.toInstr_of_ty {r : Raw} {t : Ty} (h : r.ty = t.code) : r.toInstr = r.named (r.toOp t) := by
  rw [Raw.toInstr, h, Ty.ofCode_code]
  rfl

/-- R156: the fields of an instruction lie within a slot and read as that instruction. -/
def Instr.Encodes (i : Instr) : Prop := ∀ r, i.toRaw = some r → r.Fits ∧ r.toInstr = some i

theorem Instr.encodes_of_toRaw {i : Instr} {r : Raw} (hr : i.toRaw = some r) (hfits : r.Fits) (hread : r.toInstr = some i) : i.Encodes := by
  intro q hq
  rw [hr, Option.some.injEq] at hq
  exact hq ▸ ⟨hfits, hread⟩

/-! ### Operations (06 R156) -/

theorem opRaw_fits {op md ext : Nat} {o : Op} (h : o.Fits) (hop : op < 2 ^ 10) (hmd : md < 2 ^ 16) (hext : ext < 2 ^ 8) : (opRaw op md ext o).Fits where
  op := hop
  guard := h.guard
  gneg := o.guard.neg.toNat_lt
  dst := h.dst
  dclass := o.dst.cls_lt
  wide := o.wide.toNat_lt
  s0 := Src.code_lt h.a
  s1 := Src.code_lt h.b
  s2 := Src.code_lt h.c
  ty := o.ty.code_lt
  mod := hmd
  d2 := h.d2
  ext := hext

theorem toOp_opRaw {op md ext : Nat} {o : Op} (h : o.Fits) : (opRaw op md ext o).toOp o.ty = o := by
  simp only [opRaw, Raw.toOp, Raw.toGuard, toNat_beq_one, Dst.ofCode_cls_num, Src.ofCode_code h.a, Src.ofCode_code h.b, Src.ofCode_code h.c]

theorem Op.Fits.encodes {o : Op} (h : o.Fits) {op md ext : Nat} {i : Instr} (hr : i.toRaw = some (opRaw op md ext o))
    (hi : (opRaw op md ext o).named o = some i) (hop : op < 2 ^ 10 := by decide) (hmd : md < 2 ^ 16 := by decide)
    (hext : ext < 2 ^ 8 := by decide) : i.Encodes := by
  refine Instr.encodes_of_toRaw hr (opRaw_fits h hop hmd hext) ?_
  rw [Raw.toInstr_of_ty rfl, toOp_opRaw h, hi]

theorem bitAt_toNat (b : Bool) : bitAt b.toNat 0 = b := by cases b <;> rfl

/-- An operation whose modifiers are a flag and a choice made by their higher bits. -/
theorem Op.Fits.encodes_flag {o : Op} (h : o.Fits) (mk : Bool → Instr) {op : Nat} (b : Bool) (hr : (mk b).toRaw = some (opRaw op b.toNat 0 o))
    (hi : ∀ md, (opRaw op md 0 o).named o = some (mk (bitAt md 0))) (hop : op < 2 ^ 10 := by decide) : (mk b).Encodes :=
  h.encodes hr ((hi _).trans (by rw [bitAt_toNat])) hop (b.toNat_lt.trans (by decide))

/-! ### Guards and targets (06 R157, R167, 07 R185) -/

theorem toGuard_guardRaw (op md ext : Nat) (g : Guard) : (guardRaw op md ext g).toGuard = g := by
  simp only [Raw.toGuard, guardRaw, toNat_beq_one]

theorem guardRaw_fits {op md ext : Nat} {g : Guard} (hg : WF.guard g = true) (hop : op < 2 ^ 10) (hmd : md < 2 ^ 16) (hext : ext < 2 ^ 8) :
    (guardRaw op md ext g).Fits where
  op := hop
  guard := WF.guard_lt hg
  gneg := g.neg.toNat_lt
  dst := Nat.two_pow_pos 8
  dclass := Nat.lt_succ_self 3
  wide := Nat.zero_lt_two
  s0 := Nat.two_pow_pos 10
  s1 := Nat.two_pow_pos 10
  s2 := Nat.two_pow_pos 10
  ty := Nat.two_pow_pos 4
  mod := hmd
  d2 := Nat.two_pow_pos 8
  ext := hext

theorem encodes_of_guard (mk : Guard → Instr) {op md ext : Nat} {g : Guard} (hg : WF.guard g = true) (hr : (mk g).toRaw = some (guardRaw op md ext g))
    (hi : ∀ o, (guardRaw op md ext g).named o = some (mk (guardRaw op md ext g).toGuard)) (hop : op < 2 ^ 10 := by decide)
    (hmd : md < 2 ^ 16 := by decide) (hext : ext < 2 ^ 8 := by decide) : (mk g).Encodes := by
  refine Instr.encodes_of_toRaw hr (guardRaw_fits hg hop hmd hext) ?_
  rw [Raw.toInstr_of_ty (t := .b32) rfl, hi, toGuard_guardRaw]

theorem target_targetRaw {op md d2 : Nat} {g : Guard} {t : Target} (ht : t.slot < 2 ^ 3) : (targetRaw op md d2 g t).target = t := by
  have hcode : t.code % 2 ^ 10 + 2 ^ 10 * (t.code / 2 ^ 10 % 2 ^ 10 + 2 ^ 10 * (t.code / 2 ^ 20)) = t.code := by omega
  simp only [Raw.target, targetRaw, hcode, Target.ofCode_code ht]

theorem targetRaw_fits {op md d2 : Nat} {g : Guard} {t : Target} (hg : WF.guard g = true) (ht : t.slot < 2 ^ 3) (hop : op < 2 ^ 10) (hmd : md < 2 ^ 16)
    (hd2 : d2 < 2 ^ 8) : (targetRaw op md d2 g t).Fits where
  op := hop
  guard := WF.guard_lt hg
  gneg := g.neg.toNat_lt
  dst := Nat.two_pow_pos 8
  dclass := Nat.lt_succ_self 3
  wide := Nat.zero_lt_two
  s0 := Nat.mod_lt _ (by decide)
  s1 := Nat.mod_lt _ (by decide)
  s2 := Nat.div_lt_of_lt_mul (Target.code_lt ht)
  ty := Nat.two_pow_pos 4
  mod := hmd
  d2 := hd2
  ext := Nat.two_pow_pos 8

theorem encodes_of_target (mk : Guard → Target → Instr) {op md d2 : Nat} {g : Guard} {t : Target} (hg : WF.guard g = true) (ht : WF.target t = true)
    (hr : (mk g t).toRaw = some (targetRaw op md d2 g t))
    (hi : ∀ o, (targetRaw op md d2 g t).named o = some (mk (targetRaw op md d2 g t).toGuard (targetRaw op md d2 g t).target))
    (hop : op < 2 ^ 10 := by decide) (hmd : md < 2 ^ 16 := by decide) (hd2 : d2 < 2 ^ 8 := by decide) : (mk g t).Encodes := by
  have ht' : t.slot < 2 ^ 3 := (Nat.lt_succ_of_le (of_decide_eq_true ht)).trans (by decide)
  refine Instr.encodes_of_toRaw hr (targetRaw_fits hg ht' hop hmd hd2) ?_
  rw [Raw.toInstr_of_ty (t := .b32) rfl, hi, target_targetRaw ht']
  exact congrArg (fun g => some (mk g t)) (toGuard_guardRaw 0 0 0 g)

/-- 07 R189: the member mask of a `brp` in its modifiers, below the bit that tells `any` from `all`. -/
theorem brpMask_bits {m : Src} (h : m.Fits) (b : Bool) :
    bits (m.code + 2 ^ 10 * b.toNat) 10 10 = b.toNat ∧ Src.ofCode (bits (m.code + 2 ^ 10 * b.toNat) 9 0) = m ∧
      m.code + 2 ^ 10 * b.toNat < 2 ^ 16 := by
  refine ⟨?_, ?_, ?_⟩
  · rw [bits_above (Src.code_lt h) (by decide) (by decide)]
    exact bits_whole (hi := 0) b.toNat_lt
  · rw [bits_low 9 _ (Src.code_lt h) (by decide), Src.ofCode_code h]
  · exact (add_mul_lt 10 1 (Src.code_lt h) b.toNat_lt).trans (by decide)

/-- 07 R194: the code of a `trap` is an immediate. -/
theorem encodes_trap {g : Guard} {k : Nat} (hg : WF.guard g = true) (hk : k < 256) : (Instr.trap g k).Encodes := by
  have hs0 : 768 + k < 2 ^ 10 := Nat.add_lt_add_left hk 768
  have hcode : bits (768 + k) 7 0 = k := by
    simp only [bits]
    omega
  refine Instr.encodes_of_toRaw rfl { guardRaw_fits (op := 0x343) (md := 0) (ext := 0) hg (by decide) (by decide) (by decide) with s0 := hs0 } ?_
  rw [Raw.toInstr_of_ty (t := .b32) rfl]
  show some (Instr.trap (guardRaw 0x343 0 0 g).toGuard (bits (768 + k) 7 0)) = _
  rw [toGuard_guardRaw, hcode]

/-! ### Every legal instruction of the full format -/

/-- 13 R352: the number of a CSR below the code that tells the accesses apart. -/
theorem csr_bits {n k x : Nat} (h : n < 2 ^ 12) (hk : k < 2 ^ 2) (hx : x = n + k * 2 ^ 12) : bits x 11 0 = n ∧ bits x 13 12 = k ∧ x < 2 ^ 16 := by
  rw [hx, Nat.mul_comm]
  refine ⟨bits_low 11 k h (by decide), ?_, (add_mul_lt 12 2 h hk).trans (by decide)⟩
  rw [bits_above h (by decide) (by decide)]
  exact bits_whole hk

/-- R174: every legal full-format instruction lies within a slot and reads as itself. -/
theorem Instr.encodes_of_wf {c : Ctx} (hv : c.vregs ≤ 256) {i : Instr} (h : i.wf c = true) : i.Encodes := by
  cases i with
  | nop => exact encodes_of_toRaw rfl (by constructor <;> decide) rfl
  | br g t | call g t | meet g t =>
    simp only [Instr.wf, Bool.and_eq_true] at h
    exact encodes_of_target _ h.1 h.2 rfl fun _ => rfl
  | brpAny g p m t =>
    simp only [Instr.wf, Bool.and_eq_true, decide_eq_true_eq] at h
    obtain ⟨⟨⟨hg, ht⟩, hp⟩, hm⟩ := h
    obtain ⟨hbit, hmask, hlt⟩ := brpMask_bits (WF.mask_fits hv hm) false
    exact encodes_of_target (fun g t => .brpAny g p m t) hg ht rfl
      (fun _ => (if_pos hbit).trans (congrArg (fun x => some (Instr.brpAny _ p x _)) hmask)) (hmd := hlt) (hd2 := by omega)
  | brpAll g p m t =>
    simp only [Instr.wf, Bool.and_eq_true, decide_eq_true_eq] at h
    obtain ⟨⟨⟨hg, ht⟩, hp⟩, hm⟩ := h
    obtain ⟨hbit, hmask, hlt⟩ := brpMask_bits (WF.mask_fits hv hm) true
    have hall : bits (m.code + 2 ^ 10 * true.toNat) 10 10 ≠ 0 := by rw [hbit]; decide
    exact encodes_of_target (fun g t => .brpAll g p m t) hg ht rfl
      (fun _ => (if_neg hall).trans (congrArg (fun x => some (Instr.brpAll _ p x _)) hmask)) (hmd := hlt) (hd2 := by omega)
  | ret g | exit g | meetClr g | yield g | ofence g => exact encodes_of_guard _ h rfl fun _ => rfl
  | iret g | tlbsdAll g => exact encodes_of_guard _ h rfl fun _ => if_neg (by decide : ¬ bitAt 0 0 = true)
  | iretKill g => exact encodes_of_guard _ h rfl fun _ => if_pos (by decide : bitAt 1 0 = true)
  | trap g k =>
    simp only [Instr.wf, Bool.and_eq_true, decide_eq_true_eq] at h
    exact encodes_trap h.1 h.2
  | fence g od sc =>
    simp only [Instr.wf, Bool.and_eq_true] at h
    refine encodes_of_guard (fun g => .fence g od sc) h.1 rfl (fun _ => ?_) (hext := ordScope_lt od sc)
    simp [Raw.named, Raw.memory, guardRaw, Order.ofCode_bits, Scope.ofCode_bits]
  | pand o | por o | pxor o | pandn o => exact (WF.plogic_fits (.inr rfl) h).encodes rfl rfl
  | pnot o | pmov o => exact (WF.plogic_fits (.inl rfl) h).encodes rfl rfl
  | ppack o => exact (WF.ppack_fits hv h).encodes rfl rfl
  | punpack o => exact (WF.punpack_fits hv h).encodes rfl rfl
  | pcnt o => exact (WF.pcnt_fits hv h).encodes rfl rfl
  | sreg o => exact (WF.sreg_fits hv h).encodes rfl rfl
  | add o m => exact (WF.addSub_fits hv h).encodes rfl (congrArg (fun m => some (Instr.add o m)) m.ofCode_code) (hmd := m.code_lt)
  | sub o m => exact (WF.addSub_fits hv h).encodes rfl (congrArg (fun m => some (Instr.sub o m)) m.ofCode_code) (hmd := m.code_lt)
  | mul o | mulh o | madh o | min o | max o | and o | or o | xor o | andn o | not o | popc o | clz o | brev o | mov o | fmin o | fmax o
  | fminnum o | fmaxnum o | fabs o | fneg o | rsq o | exp2 o | log2 o | sin o | cos o => exact (WF.arith_fits hv h).encodes rfl rfl
  | mad o b | abs o b | neg o b | bsel o b => exact (WF.arith_fits hv h).encodes_flag _ b rfl fun _ => rfl
  | fshR o b | fshL o b =>
    refine (WF.arith_fits hv h).encodes rfl ?_ (hmd := by cases b <;> decide)
    cases b <;> simp [Raw.named, Raw.integer, opRaw, bitAt]
  | shl o | shr o | rol o | ror o | fxt o => exact (WF.shift_fits hv h).encodes rfl rfl
  | fadd o r | fsub o r | fmul o r | ffma o r | rcp o r | sqrt o r =>
    exact (WF.arith_fits hv h).encodes rfl (congrArg (Option.map _) r.ofCode_bits) (hmd := r.code_lt.trans (by decide))
  | fins o => exact (WF.fins_fits hv h).encodes rfl rfl
  | sel o => exact (WF.sel_fits hv h).encodes rfl rfl
  | lea o k =>
    obtain ⟨hfits, hk⟩ := WF.lea_fits hv h
    exact hfits.encodes rfl (congrArg (fun k => some (Instr.lea o k)) (bits_whole hk)) (hmd := hk.trans (by decide))
  | gmov o => exact (WF.gmov_fits hv h).encodes rfl rfl
  | gld o sp => exact (WF.gld_fits hv h).encodes rfl (congrArg (Option.map _) sp.ofCode_bits) (hext := sp.ext_lt)
  | cmp o k m =>
    obtain ⟨hk, hm, hlt⟩ := Cond.ofCode_bits k m
    exact (WF.cmp_fits hv h).encodes rfl (by simp [Raw.named, Raw.integer, opRaw, hk, hm, -Nat.reducePow]) (hmd := hlt)
  | fcmp o k m =>
    obtain ⟨hk, hm, hlt⟩ := FCond.ofCode_bits k m
    exact (WF.fcmp_fits hv h).encodes rfl (by simp [Raw.named, Raw.floating, opRaw, hk, hm, -Nat.reducePow]) (hmd := hlt)
  | fclassV o =>
    have hcls : (opRaw 0x10B 0 0 o).dclass ≠ 1 := WF.cls_ne_of_arith h
    exact (WF.arith_fits hv h).encodes rfl (if_neg hcls)
  | fclassP o =>
    obtain ⟨hfits, hcls⟩ := WF.fclassP_fits hv h
    exact hfits.encodes rfl (if_pos hcls)
  | cvt o m =>
    obtain ⟨hfits, hsel⟩ := WF.cvt_fits hv h
    exact hfits.encodes rfl (congrArg (Option.map _) (CvtMods.ofCode_code hsel)) (hmd := CvtMods.code_lt hsel)
  | xperm o =>
    simp only [Instr.wf, Bool.and_eq_true] at h
    exact (WF.cross_fits hv h.1 (WF.src_fits hv h.2)).encodes rfl rfl
  | xbc o => exact (WF.xbc_fits hv h).encodes rfl (if_neg (by decide : ¬ bitAt 0 0 = true))
  | xbcFirst o =>
    simp only [Instr.wf, Bool.and_eq_true] at h
    exact (WF.cross_fits hv h.1 (WF.unused_fits h.2)).encodes rfl (if_pos (by decide : bitAt 1 0 = true))
  | xred o x =>
    simp only [Instr.wf, Bool.and_eq_true] at h
    exact (WF.cross_fits hv h.1 (WF.unused_fits h.2)).encodes rfl (congrArg (Option.map _) (x.ofCode_bits 0)) (hmd := x.code_lt.trans (by decide))
  | xscan o x e =>
    simp only [Instr.wf, Bool.and_eq_true] at h
    have he : bitAt (x.code + 2 ^ 4 * e.toNat) 4 = e := by
      rw [bitAt_eq_bits, bits_above x.code_lt (by decide) (by decide), bits_whole (hi := 0) e.toNat_lt, toNat_beq_one]
    refine (WF.cross_fits hv h.1 (WF.unused_fits h.2)).encodes rfl ?_ (hmd := (add_mul_lt 4 1 x.code_lt e.toNat_lt).trans (by decide))
    exact (congrArg (Option.map _) (x.ofCode_bits e.toNat)).trans (congrArg (fun e => some (Instr.xscan o x e)) he)
  | xvoteAny o | xvoteAll o => exact (WF.vote_fits hv WF.dstP_num h).encodes rfl (by simp [Raw.named, Raw.floating, opRaw, bits])
  | xvoteBallot o => exact (WF.vote_fits hv (WF.dstV_num hv) h).encodes rfl (by simp [Raw.named, Raw.floating, opRaw, bits])
  | xmatch o => exact (WF.xmatch_fits hv h).encodes rfl rfl
  | rngNext o => exact (WF.rngNext_fits hv h).encodes rfl rfl
  | rngJump o => exact (WF.rngJump_fits hv h).encodes rfl rfl
  | ldg o w | ldh o w | ldl o w | ldn o w =>
    exact (WF.load_fits hv h).encodes rfl (congrArg (Option.map _) w.ofCode_bits) (hmd := w.code_lt.trans (by decide))
  | ldv o w => exact (WF.ldv_fits hv h).encodes rfl (congrArg (Option.map _) w.ofCode_bits) (hmd := w.code_lt.trans (by decide))
  | stg o w | sth o w | stl o w | stn o w =>
    exact (WF.store_fits hv h).encodes rfl (congrArg (Option.map _) w.ofCode_bits) (hmd := w.code_lt.trans (by decide))
  | atg o m | atl o m | atn o m | ath o m =>
    exact (WF.atomic_fits hv h).encodes rfl (congrArg (Option.map _) m.ofCode_code) (hmd := m.modCode_lt) (hext := ordScope_lt _ _)
  | mcas o od =>
    exact (WF.plain_fits hv (WF.dstV_num hv) WF.d2P_lt h).encodes rfl (congrArg (Option.map _) (od.ofCode_bits .pkg)) (hext := ordScope_lt _ _)
  | phi o sp => exact (WF.phase_fits hv WF.dstNone_num WF.d2None_lt h).encodes rfl (congrArg (Option.map _) sp.ofCode_bits) (hext := sp.ext_lt)
  | arv o sp | arvb o sp =>
    exact (WF.phase_fits hv (WF.dstV_num hv) WF.d2None_lt h).encodes rfl (congrArg (Option.map _) sp.ofCode_bits) (hext := sp.ext_lt)
  | wph o sp =>
    refine (WF.phase_fits hv WF.dstNone_num WF.d2None_lt h).encodes rfl ?_ (hext := sp.ext_lt)
    exact (congrArg (Option.map _) sp.ofCode_bits).trans (congrArg some (if_neg (by decide : ¬ bitAt 0 0 = true)))
  | wphTry o sp =>
    refine (WF.phase_fits hv WF.dstNone_num WF.d2P_lt h).encodes rfl ?_ (hext := sp.ext_lt)
    exact (congrArg (Option.map _) sp.ofCode_bits).trans (congrArg some (if_pos (by decide : bitAt 1 0 = true)))
  | cbget o => exact (WF.cbget_fits hv h).encodes rfl rfl
  | cbput o | publish o | gcp o | gst o | gpl o | mma o | drain o | cxBind o | cxSend o | cxRed o | mhint o | cxArm o | rqWr o =>
    exact (WF.plain_fits hv WF.dstNone_num WF.d2None_lt h).encodes rfl rfl
  | vpub o | rqRd o | hmRd o => exact (WF.plain_fits hv (WF.dstV_num hv) WF.d2None_lt h).encodes rfl rfl
  | cxCtrGet o | keepQryUse o | keepQryRec o =>
    exact (WF.plain_fits hv (WF.dstV_num hv) WF.d2None_lt h).encodes rfl (by simp [Raw.named, Raw.system, opRaw, bits])
  | cxCtrSet o | cxCtrLink o | cxCtrUnlink o =>
    exact (WF.plain_fits hv WF.dstNone_num WF.d2None_lt h).encodes rfl (by simp [Raw.named, Raw.system, opRaw, bits])
  | keepDeclMust o | keepDeclBest o => exact (WF.plain_fits hv (WF.dstV_num hv) WF.d2P_lt h).encodes rfl (by simp [Raw.named, Raw.system, opRaw, bits])
  | keepDeclDrop o | keepQryLd o | sealMeas o | sealImg o | sealRst o =>
    exact (WF.plain_fits hv WF.dstNone_num WF.d2P_lt h).encodes rfl (by simp [Raw.named, Raw.system, opRaw, bits])
  | fork o => exact (WF.plain_fits hv WF.dstNone_num WF.d2P_lt h).encodes rfl rfl
  | stepAdv o sp =>
    simp only [Instr.wf, Bool.and_eq_true] at h
    exact (WF.plain_fits hv (WF.dstV_num hv) WF.d2None_lt h.2).encodes rfl (congrArg (Option.map _) sp.ofCode_bits) (hext := sp.ext_lt)
  | stepGet o => exact (WF.plain_fits hv (WF.dstV_num hv) WF.d2None_lt h).encodes rfl (if_neg (by decide : ¬ bitAt 0 0 = true))
  | stepGetLim o => exact (WF.plain_fits hv (WF.dstV_num hv) WF.d2None_lt h).encodes rfl (if_pos (by decide : bitAt 1 0 = true))
  | tlbsdVa o => exact (WF.plain_fits hv WF.dstNone_num WF.d2None_lt h).encodes rfl (if_pos (by decide : bitAt 1 0 = true))
  | csrr o n =>
    obtain ⟨hfits, hn⟩ := WF.csrOp_fits hv h
    obtain ⟨hnum, -, hlt⟩ := csr_bits hn (k := 0) (x := n) (by decide) (by omega)
    exact hfits.encodes rfl (congrArg (fun n => some (Instr.csrr o n)) hnum) (hmd := hlt)
  | csrw o n =>
    obtain ⟨hfits, hn⟩ := WF.csrOp_fits hv h
    obtain ⟨hnum, hkind, hlt⟩ := csr_bits hn (k := 0) (x := n) (by decide) (by omega)
    exact hfits.encodes rfl (by simp [Raw.named, Raw.system, opRaw, hnum, hkind]) (hmd := hlt)
  | csrwSet o n =>
    obtain ⟨hfits, hn⟩ := WF.csrOp_fits hv h
    obtain ⟨hnum, hkind, hlt⟩ := csr_bits hn (k := 1) (x := n + 2 ^ 12) (by decide) (by omega)
    exact hfits.encodes rfl (by simp [Raw.named, Raw.system, opRaw, hnum, hkind, -Nat.reducePow]) (hmd := hlt)
  | csrwClr o n =>
    obtain ⟨hfits, hn⟩ := WF.csrOp_fits hv h
    obtain ⟨hnum, hkind, hlt⟩ := csr_bits hn (k := 2) (x := n + 2 * 2 ^ 12) (by decide) rfl
    exact hfits.encodes rfl (by simp [Raw.named, Raw.system, opRaw, hnum, hkind, -Nat.reducePow, -Nat.reduceMul]) (hmd := hlt)
  | _ => exact fun _ hr => nomatch hr

/-! ### The decoder of a slot (06 R155, R176) -/

/-- R155: what the full-format decoder accepts: the instruction that the fields name, where it encodes to the word and is legal. -/
theorem decodeFull_eq_ok_iff {c : Ctx} {w : Nat} {i : Instr} :
    decodeFull c w = .ok i ↔ (Raw.unpack w).toInstr = some i ∧ i.toRaw.map Raw.pack = some w ∧ i.wf c = true := by
  unfold decodeFull
  cases (Raw.unpack w).toInstr with
  | none => simp
  | some j =>
    dsimp only
    split_ifs <;> grind

theorem encode_of_toRaw {i : Instr} {r : Raw} (h : i.toRaw = some r) : encode i = some r.pack := by rw [encode, h]

/-- Settles O7: a legal instruction's fields lie within the slot and name it (`Instr.encodes_of_wf`), and `Raw.unpack` undoes `Raw.pack` on such fields. -/
theorem fullFormatRoundTrip : Obligations.FullFormatRoundTrip := by
  intro c i r hv hr hwf
  obtain ⟨hfits, hread⟩ := Instr.encodes_of_wf hv hwf r hr
  refine ⟨encode_of_toRaw hr, Raw.pack_lt hfits, decodeFull_eq_ok_iff.2 ⟨?_, ?_, hwf⟩⟩
  · rw [Raw.unpack_pack hfits, hread]
  · rw [hr, Option.map_some]

end Sys2Proof
end

section
/-! SUPPORT. Compact halves (06 R168 to R171): fields within their bits, legal halves within their fields, and what the decoders accept. -/

namespace Sys2Proof

/-! ### The fields of a compact half (06 R168) -/

/-- R168: every field is within its bits. -/
structure CRaw.Fits (r : CRaw) : Prop where
  cop : r.cop < 2 ^ 6
  guard : r.guard < 2 ^ 7
  gneg : r.gneg < 2
  dst : r.dst < 2 ^ 8
  s0 : r.s0 < 2 ^ 10
  s1 : r.s1 < 2 ^ 10
  cty : r.cty < 2 ^ 3
  cmod : r.cmod < 2 ^ 3

theorem CRaw.pack_lt {r : CRaw} (h : r.Fits) : r.pack < 2 ^ 48 :=
  add_mul_lt 6 42 h.cop <| add_mul_lt 7 35 h.guard <| add_mul_lt 1 34 h.gneg <| add_mul_lt 8 26 h.dst <| add_mul_lt 10 16 h.s0 <|
    add_mul_lt 10 6 h.s1 <| add_mul_lt 3 3 h.cty h.cmod

theorem CRaw.unpack_pack {r : CRaw} (h : r.Fits) : CRaw.unpack r.pack = r := by
  obtain ⟨cop, guard, gneg, dst, s0, s1, cty, cmod⟩ := r
  obtain ⟨hcop, hguard, hgneg, hdst, hs0, hs1, hcty, hcmod⟩ := h
  dsimp only at hcop hguard hgneg hdst hs0 hs1 hcty hcmod
  simp only [CRaw.unpack, CRaw.mk.injEq]
  unfold CRaw.pack
  simp only [bits_above hcop, bits_above hguard, bits_above_flag hgneg, bits_above hdst, bits_above hs0, bits_above hs1, bits_above hcty,
    Nat.reduceLeDiff, Nat.reduceSub]
  exact ⟨bits_low 5 _ hcop (by decide), bits_low 6 _ hguard (by decide), bits_low_flag _ hgneg, bits_low 7 _ hdst (by decide),
    bits_low 9 _ hs0 (by decide), bits_low 9 _ hs1 (by decide), bits_low 2 _ hcty (by decide), bits_whole hcmod⟩

/-! ### Halves within their fields (06 R168, R169) -/

/-- R168, R169: every field of a half is within its bits. -/
structure COp.Fits (o : COp) : Prop where
  guard : o.guard.p < 2 ^ 7
  dst : o.dst < 2 ^ 8
  ty : o.ty.code < 2 ^ 3
  a : o.a.Fits
  b : o.b.Fits

theorem WF.half_fits {c : Ctx} (hv : c.vregs ≤ 256) {tys : List Ty} {sat : Bool} {n : Nat} {o : COp} (h : WF.half c tys sat n o = true)
    (htys : ∀ t ∈ tys, t.code < 2 ^ 3 := by decide) : o.Fits := by
  simp only [WF.half, WF.compactTys, Bool.and_eq_true, decide_eq_true_eq, List.contains_iff_mem] at h
  obtain ⟨⟨⟨⟨hg, hdst⟩, hty, -⟩, ha⟩, hb⟩ := h
  refine ⟨WF.guard_lt hg, hdst.trans_le hv, htys _ hty, WF.src_fits hv ha, ?_⟩
  split at hb
  · exact WF.unused_fits hb
  · exact WF.src_fits hv hb

theorem halfRaw_fits {cop : Nat} {o : COp} (h : o.Fits) (hcop : cop < 2 ^ 6) : (halfRaw cop o).Fits where
  cop := hcop
  guard := h.guard
  gneg := o.guard.neg.toNat_lt
  dst := h.dst
  s0 := Src.code_lt h.a
  s1 := Src.code_lt h.b
  cty := h.ty
  cmod := o.sat.toNat_lt.trans (by decide)

theorem toCOp_halfRaw {cop : Nat} {o : COp} (h : o.Fits) : (halfRaw cop o).toCOp o.ty = o := by
  obtain ⟨guard, dst, ty, a, b, sat⟩ := o
  have hsat : (sat.toNat % 2 == 1) = sat := by cases sat <;> rfl
  simp only [halfRaw, CRaw.toCOp, toNat_beq_one, Src.ofCode_code h.a, Src.ofCode_code h.b, hsat]

/-- R168: the fields of a half lie within 48 bits and read as that half. -/
def Instr.EncodesHalf (i : Instr) : Prop := ∀ r, i.toCRaw = some r → r.Fits ∧ r.toInstr = some i

theorem COp.Fits.encodesHalf {o : COp} (h : o.Fits) (mk : COp → Instr) {cop : Nat} (hr : (mk o).toCRaw = some (halfRaw cop o))
    (hi : ∀ r : CRaw, r.cop = cop → ∀ t, Ty.ofCode r.cty = some t → r.toInstr = some (mk (r.toCOp t))) (hcop : cop < 2 ^ 6 := by decide) :
    (mk o).EncodesHalf := by
  intro r hr'
  rw [hr, Option.some.injEq] at hr'
  subst hr'
  exact ⟨halfRaw_fits h hcop, (hi _ rfl _ o.ty.ofCode_code).trans (by rw [toCOp_halfRaw h])⟩

/-- R169: every legal compact half lies within 48 bits and reads as itself. -/
theorem Instr.encodesHalf_of_wf {c : Ctx} (hv : c.vregs ≤ 256) {i : Instr} (h : i.wf c = true) : i.EncodesHalf := by
  cases i with
  | nopCompact =>
    rintro r ⟨⟩
    exact ⟨by constructor <;> decide, rfl⟩
  | addCompact o | subCompact o | minCompact o | maxCompact o | mulCompact o | madCompact o | absCompact o | negCompact o | andCompact o | orCompact o
  | xorCompact o | andnCompact o | notCompact o | movCompact o | shlCompact o | shrCompact o | faddCompact o | fsubCompact o | fmulCompact o
  | ffmaCompact o | fminCompact o | fmaxCompact o | fminnumCompact o | fmaxnumCompact o | fabsCompact o | fnegCompact o =>
    exact (WF.half_fits hv h).encodesHalf _ rfl fun r hcop t ht => by simp [CRaw.toInstr, hcop, ht]
  | _ => exact fun _ hr => nomatch hr

/-! ### The decoder of a half and of a pair (06 R155, R168, R171, R176) -/

/-- R155: what the decoder of halves accepts: the half that the fields name, where it encodes to the word and is legal. -/
theorem decodeHalf_eq_ok_iff {c : Ctx} {w : Nat} {i : Instr} :
    decodeHalf c w = .ok i ↔ (CRaw.unpack w).toInstr = some i ∧ i.toCRaw.map CRaw.pack = some w ∧ i.wf c = true := by
  unfold decodeHalf
  cases (CRaw.unpack w).toInstr with
  | none => simp
  | some j =>
    dsimp only
    split_ifs <;> grind

/-- R156, R168: no instruction is both a full-format operation and a compact half. -/
theorem Instr.toRaw_or_toCRaw (i : Instr) : i.toRaw = none ∨ i.toCRaw = none := by cases i <;> simp [Instr.toRaw, Instr.toCRaw]

theorem encode_of_toCRaw {i : Instr} {r : CRaw} (h : i.toCRaw = some r) : encode i = some r.pack := by
  have hfull : i.toRaw = none := i.toRaw_or_toCRaw.resolve_right (by simp [h])
  rw [encode, hfull, h]
  rfl

theorem decodeHalf_pack {c : Ctx} (hv : c.vregs ≤ 256) {i : Instr} {r : CRaw} (hr : i.toCRaw = some r) (hwf : i.wf c = true) :
    r.pack < 2 ^ 48 ∧ decodeHalf c r.pack = .ok i := by
  obtain ⟨hfits, hread⟩ := Instr.encodesHalf_of_wf hv hwf r hr
  refine ⟨CRaw.pack_lt hfits, decodeHalf_eq_ok_iff.2 ⟨?_, ?_, hwf⟩⟩
  · rw [CRaw.unpack_pack hfits, hread]
  · rw [hr, Option.map_some]

/-- Settles O8: a legal half's fields lie within 48 bits and name it (`Instr.encodesHalf_of_wf`), and the halves of a paired slot are its remainder and
quotient by 2^48. -/
theorem compactRoundTrip : Obligations.CompactRoundTrip := by
  refine ⟨fun c i r hv hr hwf => ⟨encode_of_toCRaw hr, decodeHalf_pack hv hr hwf⟩, fun c i j r q hv hr hq hi hj hpair => ?_⟩
  obtain ⟨hlt, hlo⟩ := decodeHalf_pack hv hr hi
  have hhi := (decodeHalf_pack hv hq hj).2
  have hmod : (r.pack + 2 ^ 48 * q.pack) % 2 ^ 48 = r.pack := by rw [Nat.add_mul_mod_self_left, Nat.mod_eq_of_lt hlt]
  have hdiv : (r.pack + 2 ^ 48 * q.pack) / 2 ^ 48 = q.pack := by
    rw [Nat.add_mul_div_left _ _ (Nat.two_pow_pos 48), Nat.div_eq_of_lt hlt, Nat.zero_add]
  simp only [decodeSlot, if_true, hmod, hdiv, hlo, hhi, hpair]

theorem decodeFull_legal {c : Ctx} {w : Nat} {i : Instr} (h : decodeFull c w = .ok i) : i.wf c = true ∧ encode i = some w := by
  obtain ⟨-, hpack, hwf⟩ := decodeFull_eq_ok_iff.1 h
  obtain ⟨r, hr, rfl⟩ := Option.map_eq_some_iff.1 hpack
  exact ⟨hwf, encode_of_toRaw hr⟩

theorem decodeHalf_legal {c : Ctx} {w : Nat} {i : Instr} (h : decodeHalf c w = .ok i) : i.wf c = true ∧ encode i = some w := by
  obtain ⟨-, hpack, hwf⟩ := decodeHalf_eq_ok_iff.1 h
  obtain ⟨r, hr, rfl⟩ := Option.map_eq_some_iff.1 hpack
  exact ⟨hwf, encode_of_toCRaw hr⟩

/-- Settles O9: the decoders compare the encoding of what they read with the word. -/
theorem decodedIsLegal : Obligations.DecodedIsLegal := by
  refine ⟨fun c w i => decodeFull_legal, fun c w i => decodeHalf_legal, fun c v w i hv hw => ?_⟩
  exact Option.some.inj ((decodeFull_legal hv).2.symm.trans (decodeFull_legal hw).2)

end Sys2Proof
end

section
/-! SUPPORT. Traps at decode (06 R155, R175, R176): the word that a frame carries, the handler opcodes, and the words that the spec prints. -/

namespace Sys2Proof

namespace Machine

/-! ### Slots (06 R150) -/

/-- R150: an address 12 · k bytes into its line names slot k. -/
theorem slotOf_low {pc : DWord} {k : Nat} (hk : k ≤ 4) (h : pc.toNat % 64 = 12 * k) : slotOf pc = some k := by
  simp [slotOf, h, hk]

/-- R150: an address between the halves of a slot names none. -/
theorem slotOf_high {pc : DWord} {k : Nat} (h : pc.toNat % 64 = 12 * k + 6) : slotOf pc = none := by
  have hoff : (12 * k + 6) % 12 ≠ 0 := by omega
  simp only [slotOf, h, beq_eq_false_iff_ne.2 hoff, Bool.false_and, Bool.false_eq_true, if_false]

theorem Line.wordAt_low (l : Line) {pc : DWord} {k : Nat} (hk : k ≤ 4) (h : pc.toNat % 64 = 12 * k) :
    l.wordAt pc = if l.pair k then l.slot k % 2 ^ 48 else l.slot k := by
  simp only [Line.wordAt, slotOf_low hk h]

theorem Line.wordAt_high (l : Line) {pc : DWord} {k : Nat} (hk : k ≤ 4) (h : pc.toNat % 64 = 12 * k + 6) : l.wordAt pc = l.slot k / 2 ^ 48 := by
  have hlow : (pc - 6).toNat % 64 = 12 * k := by
    have h6 : (6 : DWord).toNat = 6 := rfl
    rw [BitVec.toNat_sub, h6]
    omega
  simp only [Line.wordAt, slotOf_high h, slotOf_low hk hlow]

/-! ### Traps at decode (06 R155, R175) -/

theorem State.decodeIssue_illegal {s : State} {l : Line} (n : Nat) (h : l.fetch s.launch.ctx s.cur.pc = none) :
    s.decodeIssue l n = .done (s.trapBefore 0x01 0 (some (l.wordAt s.cur.pc))) := by
  simp only [State.decodeIssue, h]

theorem State.decodeIssue_privileged {s : State} {l : Line} {f : Fetched} (n : Nat) (h : l.fetch s.launch.ctx s.cur.pc = some f)
    (hp : f.instr.privileged = true) (hk : (s.gang s.cur.wg s.cur.gang).handler = false) :
    s.decodeIssue l n = .done (s.trapBefore 0x04 0 (some f.word)) := by
  simp [State.decodeIssue, h, hp, hk]

end Machine

/-- R174, R175: the handler opcodes are those from 0x360 to 0x367. -/
theorem Instr.privileged_iff_op {i : Instr} {r : Raw} (hr : i.toRaw = some r) : i.privileged = true ↔ 0x360 ≤ r.op ∧ r.op ≤ 0x367 := by
  cases i with
  | csrr | csrw | csrwSet | csrwClr | iret | iretKill | rqRd | rqWr | tlbsdAll | tlbsdVa | sealMeas | sealImg | sealRst | hmRd =>
    cases hr
    simp [Instr.privileged, opRaw, guardRaw]
  | _ =>
    cases hr <;> simp [Instr.privileged, opRaw, guardRaw, targetRaw]

open Machine

/-- Settles O12: `State.decodeIssue` on what the line's decoding gives, and `Line.wordAt` at either half of a slot. -/
theorem illegalAndPrivileged : Obligations.IllegalAndPrivileged := by
  refine ⟨fun s l n h => State.decodeIssue_illegal n h, fun s l n f h hp hk => State.decodeIssue_privileged n h hp hk, fun l pc k hk h => ?_,
    fun l pc k hk h => l.wordAt_high hk h, fun i r => Instr.privileged_iff_op⟩
  rw [l.wordAt_low hk h]
  exact ⟨fun hp => by simp [hp], fun hp => by simp [hp]⟩

/-- Settles O6: each word is decoded by evaluation. -/
theorem decodeWords : Obligations.DecodeWords := by
  unfold Obligations.DecodeWords
  decide

end Sys2Proof
end

section
/-! SUPPORT. Transfers of control (07 R186 to R190): threads that go to addresses, the end of a slice's run, and threads that leave. -/

namespace Sys2Proof

namespace Machine

open Safety (Moved Threads nextPlace runs endedIf Acts NoneSync)

/-! ### Meetings after meetings (01 R21) -/

theorem moved_trans {a b c : Thread} (h : Moved a b) (k : Moved b c) : Moved a c := by
  obtain ⟨h1, h2, h3, h4⟩ := h
  obtain ⟨k1, k2, k3, k4⟩ := k
  refine ⟨?_, ?_, ?_, ?_⟩
  · rw [k1, h1]
  · grind
  · grind
  · grind

theorem forall₂_and_then {α β γ : Type} {R : α → β → Prop} {Q : β → γ → Prop} {T : α → γ → Prop} (hT : ∀ a b c, R a b → Q b c → T a c) :
    ∀ {l : List α} {m : List β} {n : List γ}, List.Forall₂ R l m → List.Forall₂ Q m n → List.Forall₂ T l n
  | [], [], [], .nil, .nil => .nil
  | _ :: _, _ :: _, _ :: _, .cons h hs, .cons k ks => .cons (hT _ _ _ h k) (forall₂_and_then hT hs ks)

/-- 01 R21: a meeting moves no thread. -/
theorem threads_settle {s t : State} {write : Thread → Thread} {place : Thread → DWord × Bool} (h : Threads s write place t.threads) (w g : Nat) :
    Threads s write place (t.settle w g).threads := by
  refine forall₂_and_then ?_ h (Laws.settle_threads t w g)
  rintro a b c ⟨hab, hplace⟩ ⟨hbc, hpc, hpast, -⟩
  exact ⟨moved_trans hab hbc, by rw [hpc, hpast, hplace]⟩

theorem Thread.moved_goto (u : Thread) (pc : DWord) (past : Bool) : Moved u (u.goto pc past) := ⟨rfl, .inl rfl, .inl rfl, .inr rfl⟩

/-- 07 R186: the threads of the issue that a transfer names go where it says; the others go to the next operation. -/
theorem threads_transfer {s : State} {f : Thread → Option Thread} {write : Thread → Thread} {place : Thread → DWord × Bool}
    (hgo : ∀ u ∈ s.threads, s.inIssue u = true → ∀ v, f u = some v → Moved (write u) v ∧ (v.pc, v.past) = place u)
    (hstay : ∀ u ∈ s.threads, (s.inIssue u = true → f u = none) → write u = u ∧ place u = nextPlace s u) :
    Threads s write place (s.transfer f).threads := by
  refine threads_settle ?_ s.cur.wg s.cur.gang
  refine Laws.forall₂_map_same _ _ fun u hu => ?_
  cases hin : s.inIssue u with
  | false =>
    obtain ⟨hw, hp⟩ := hstay u hu fun h => absurd (hin.symm.trans h) Bool.false_ne_true
    rw [if_neg Bool.false_ne_true, hw, hp]
    exact ⟨Laws.Moved.refl u, by simp [nextPlace, hin]⟩
  | true =>
    rw [if_pos rfl]
    dsimp only
    split
    case h_1 v hf => exact hgo u hu hin v hf
    case h_2 hf =>
      obtain ⟨hw, hp⟩ := hstay u hu fun _ => hf
      rw [hw, hp]
      cases hr : s.cur.replay with
      | true => exact ⟨Laws.Moved.refl u, by simp [nextPlace, hr]⟩
      | false => exact ⟨u.moved_goto _ _, by simp [nextPlace, hin, hr, Thread.goto]⟩

theorem State.transfer_frame (s : State) (f : Thread → Option Thread) : s.transfer f = { s with threads := (s.transfer f).threads } := by
  unfold State.transfer
  dsimp only
  rw [Laws.settle_frame]
  rfl

/-! ### The end of a run (01 R31) -/

/-- Whether a slice is the one that another record names. -/
def Slice.sits (new x : Slice) : Bool := x.core == new.core && x.idx == new.idx

/-- The slices after an update of the one that `new` names, where its gang is `there`: `State.updSlice` on the list of slices. -/
def updSlices (there : Bool) (new : Slice) (f : Slice → Slice) (l : List Slice) : List Slice :=
  if !there then l else if (l.find? new.sits).isSome then updWhere new.sits f l else f new :: l

/-- The record of a gang's slice, before anything has issued there. -/
def State.newSlice (s : State) (w g : Nat) : Slice := { core := (s.wg w).core, idx := (s.gang w g).slice, wg := w, gang := g }

theorem State.updSlice_eq (s : State) (w g : Nat) (f : Slice → Slice) :
    s.updSlice w g f = { s with slices := updSlices (s.gangs.any fun x => x.wg == w && x.idx == g) (s.newSlice w g) f s.slices } := by
  unfold State.updSlice updSlices
  dsimp only
  split
  · rfl
  · split
    case isTrue h => exact congrArg (fun l => { s with slices := l }) (if_pos h).symm
    case isFalse h => exact congrArg (fun l => { s with slices := l }) (if_neg h).symm

/-- An update that is done again. -/
theorem updSlices_updSlices (there : Bool) (new : Slice) {f : Slice → Slice} (hf : ∀ x, f (f x) = f x)
    (hk : ∀ x, (f x).core = x.core ∧ (f x).idx = x.idx) (l : List Slice) : updSlices there new f (updSlices there new f l) = updSlices there new f l := by
  have hp : ∀ x, new.sits (f x) = new.sits x := fun x => by rw [Slice.sits, (hk x).1, (hk x).2]; rfl
  cases there with
  | false => rfl
  | true =>
    simp only [updSlices, Bool.not_true, Bool.false_eq_true, if_false]
    cases hx : l.find? new.sits with
    | some x => simp only [Option.isSome_some, if_true, find?_updWhere _ f hp, hx, Option.map_some, updWhere_updWhere hp, hf]
    | none =>
      have hnew : new.sits (f new) = true := by rw [hp, Slice.sits]; simp
      have hrest : updWhere new.sits f l = l := updWhere_of_none f fun x h => Bool.eq_false_iff.2 (List.find?_eq_none.1 hx x h)
      simp only [Option.isSome_none, Bool.false_eq_true, if_false, List.find?_cons_of_pos hnew, Option.isSome_some, if_true]
      exact congrArg₂ List.cons ((if_pos hnew).trans (hf new)) hrest

/-- A slice without the runs of an issue's lanes. -/
def Slice.endRuns (c : Issue) (x : Slice) : Slice :=
  { x with runs := x.runs.filter fun r => !(r.wg == c.wg && r.gang == c.gang && r.lanes.any fun l => c.lanes.contains l) }

theorem Slice.endRuns_endRuns (c : Issue) (x : Slice) : (x.endRuns c).endRuns c = x.endRuns c := by simp [Slice.endRuns]

/-- 01 R31: the runs of a slice end once, whatever the issue has done to threads and to the state of its workgroup. -/
theorem State.endRun_of_slices {s t : State} (hcur : t.cur = s.cur) (hgangs : t.gangs = s.gangs) (hcore : (t.wg s.cur.wg).core = (s.wg s.cur.wg).core)
    (hsl : t.slices = s.slices ∨ t.slices = s.endRun.slices) : t.endRun = { t with slices := s.endRun.slices } := by
  have heq : ∀ u : State, u.endRun = u.updSlice u.cur.wg u.cur.gang (Slice.endRuns u.cur) := fun _ => rfl
  have hnew : t.newSlice s.cur.wg s.cur.gang = s.newSlice s.cur.wg s.cur.gang := by rw [State.newSlice, hcore, State.gang, hgangs]; rfl
  rw [heq, State.updSlice_eq, hcur, hgangs, hnew]
  rcases hsl with hsl | hsl
  · rw [hsl, heq s, State.updSlice_eq s]
  · rw [hsl, heq s, State.updSlice_eq s, updSlices_updSlices _ _ (Slice.endRuns_endRuns s.cur) fun _ => ⟨rfl, rfl⟩]

end Machine
end Sys2Proof
end

section
/-! SUPPORT. `br` and `call` (07 R186, R187): the threads that take them, and the codes that the lanes of a `call` meet. -/

namespace Sys2Proof

namespace Machine

open Safety (Moved Threads nextPlace runs endedIf Acts NoneSync)

/-! ### Threads that are taken to a target (07 R186) -/

theorem runs_nil (s : State) (u : Thread) : runs s [] u = false := Bool.and_false _

theorem State.endRun_transfer (s : State) (f : Thread → Option Thread) :
    (s.transfer f).endRun = { s with threads := (s.transfer f).threads, slices := s.endRun.slices } := by
  have hframe := s.transfer_frame f
  generalize (s.transfer f).threads = th at hframe ⊢
  rw [hframe]
  exact State.endRun_of_slices rfl rfl rfl (.inl rfl)

/-- What a transfer makes of the threads whose guard is true: `pre` and then the target. -/
def State.taken (s : State) (caps : List Cap) (dest : DWord) (pre : Thread → Thread) : State :=
  if caps.isEmpty then s.advance
  else (s.transfer fun u => if (lanesOf caps).contains u.lane then some ((pre u).jump dest) else none).endRun

/-- 07 R186, R187: the threads whose guard is true stand at the target and have left their line; the others stand at the next operation. -/
theorem State.taken_eq (s : State) (caps : List Cap) (dest : DWord) (pre : Thread → Thread) :
    ∃ th, s.taken caps dest pre = { s with threads := th, slices := endedIf s caps } ∧
      Threads s (fun u => if runs s caps u then { pre u with line := none } else u) (fun u => if runs s caps u then (dest, false) else nextPlace s u) th := by
  unfold State.taken endedIf
  cases caps with
  | nil =>
    simp only [List.isEmpty_nil, if_true, runs_nil, Bool.false_eq_true, if_false]
    exact ⟨_, Laws.advance_frame s, Laws.advance_threads s⟩
  | cons c r =>
    simp only [List.isEmpty_cons, Bool.false_eq_true, if_false]
    refine ⟨_, State.endRun_transfer s _, threads_transfer (fun u _ hin v hv => ?_) fun u _ hnone => ?_⟩
    · split at hv
      case isTrue hl =>
        have hruns : runs s (c :: r) u = true := Bool.and_eq_true _ _ ▸ ⟨hin, hl⟩
        cases hv
        rw [hruns, if_pos rfl, if_pos rfl]
        exact ⟨⟨rfl, .inl rfl, .inl rfl, .inr rfl⟩, rfl⟩
      case isFalse => exact nomatch hv
    · have hruns : runs s (c :: r) u = false := by
        rw [Bool.eq_false_iff]
        intro h
        obtain ⟨hin, hl⟩ := Bool.and_eq_true _ _ ▸ h
        exact absurd (hnone hin) (by simp only [hl, if_true, reduceCtorEq, not_false_eq_true])
      rw [hruns]
      exact ⟨rfl, rfl⟩

theorem exec_br {s : State} {g : Guard} {t : Target} (hacts : Acts s (s.captureNone g))
    (h : s.captureNone g ≠ [] → s.noTarget (targetAddr s.cur.pc t) = false) :
    exec (.br g t) s = .next (s.taken (s.captureNone g) (targetAddr s.cur.pc t) id) := by
  show execBr g t s = _
  unfold execBr State.taken
  dsimp only
  rw [State.acting_pair_of_acts _ _ hacts]
  cases hc : s.captureNone g with
  | nil => rfl
  | cons c r =>
    rw [h (hc ▸ List.cons_ne_nil c r)]
    rfl

theorem exec_br_noTarget {s : State} {g : Guard} {t : Target} (hacts : Acts s (s.captureNone g)) (hne : s.captureNone g ≠ [])
    (h : s.noTarget (targetAddr s.cur.pc t) = true) :
    exec (.br g t) s = .next (s.trapIssue 0x03 (lanesOf (s.captureNone g)) (lanesOf (s.captureNone g)) (s.captureNone g) 0 0) := by
  show execBr g t s = _
  unfold execBr
  dsimp only
  rw [State.acting_pair_of_acts _ _ hacts, h, if_pos (by simp [hne])]
  rfl

/-! ### The codes of a `call` (07 R187, 15 R379) -/

/-- The lowest of the codes of some faults. -/
theorem foldl_min_code {k : Nat} : ∀ (l : List (Nat × Nat × DWord)) {a : Nat}, k ≤ a → (∀ x ∈ l, k ≤ x.2.1) → (a = k ∨ ∃ x ∈ l, x.2.1 = k) →
    l.foldl (fun a x => min a x.2.1) a = k
  | [], a, _, _, hk => hk.elim id fun ⟨_, hx, _⟩ => nomatch hx
  | x :: l, a, ha, hl, hk => by
    obtain ⟨hx, hl⟩ := List.forall_mem_cons.1 hl
    refine foldl_min_code l (le_min ha hx) hl ?_
    rcases hk with rfl | ⟨y, hy, hyk⟩
    · exact .inl (min_eq_left hx)
    · rcases List.mem_cons.1 hy with rfl | hy
      · exact .inl (hyk ▸ min_eq_right (hyk ▸ ha))
      · exact .inr ⟨y, hy, hyk⟩

/-- 15 R379: the lowest code that lanes meet is raised for the lanes that meet it. -/
theorem lowestFault_of_code {k : Nat} {fs : List (Nat × Nat × DWord)} (hle : ∀ x ∈ fs, k ≤ x.2.1) (hk : ∃ x ∈ fs, x.2.1 = k)
    (haddr : ∀ x ∈ fs, x.2.2 = 0) : lowestFault fs = some (k, (fs.filter fun x => x.2.1 == k).map (·.1), 0) := by
  cases fs with
  | nil => obtain ⟨x, hx, -⟩ := hk; exact nomatch hx
  | cons f r =>
    have hcode : r.foldl (fun a x => min a x.2.1) f.2.1 = k :=
      foldl_min_code r (hle f List.mem_cons_self) (fun x hx => hle x (List.mem_cons_of_mem f hx))
        (hk.elim fun x ⟨hx, e⟩ => (List.mem_cons.1 hx).elim (fun h => .inl (h ▸ e)) fun h => .inr ⟨x, h, e⟩)
    unfold lowestFault
    simp only [hcode]
    split
    case h_1 x hx => rw [haddr x (List.mem_filter.1 (List.mem_of_find?_eq_some hx)).1]
    case h_2 => rfl

/-- 07 R187: the codes that the lanes of a `call` meet: 0x05 those whose stack is full, 0x03 the others where the target is none. -/
def callFaults (deep : Cap → Bool) (bad : Bool) (caps : List Cap) : List (Nat × Nat × DWord) :=
  caps.filterMap fun c => if deep c then some (c.lane, 0x05, 0) else if bad then some (c.lane, 0x03, 0) else none

theorem mem_callFaults {deep : Cap → Bool} {bad : Bool} {caps : List Cap} {x : Nat × Nat × DWord} :
    x ∈ callFaults deep bad caps ↔ ∃ c ∈ caps, (deep c = true ∧ x = (c.lane, 0x05, 0)) ∨ (deep c = false ∧ bad = true ∧ x = (c.lane, 0x03, 0)) := by
  simp only [callFaults, List.mem_filterMap]
  refine exists_congr fun c => and_congr_right fun _ => ?_
  cases deep c <;> cases bad <;> simp [eq_comm]

theorem callFaults_cons (deep : Cap → Bool) (bad : Bool) (c : Cap) (r : List Cap) : callFaults deep bad (c :: r) =
    (if deep c then [(c.lane, 0x05, 0)] else if bad then [(c.lane, 0x03, 0)] else []) ++ callFaults deep bad r := by
  rw [callFaults, List.filterMap_cons]
  cases deep c <;> cases bad <;> rfl

theorem callFaults_lanes_deep (deep : Cap → Bool) (bad : Bool) (caps : List Cap) :
    ((callFaults deep bad caps).filter fun x => x.2.1 == 0x05).map (·.1) = lanesOf (caps.filter deep) := by
  induction caps with
  | nil => rfl
  | cons c r ih =>
    unfold lanesOf at ih ⊢
    rw [callFaults_cons, List.filter_append, List.map_append, ih]
    cases hd : deep c <;> cases bad <;> simp [hd]

theorem callFaults_lanes_room (deep : Cap → Bool) (caps : List Cap) :
    ((callFaults deep true caps).filter fun x => x.2.1 == 0x03).map (·.1) = lanesOf (caps.filter fun c => !deep c) := by
  induction caps with
  | nil => rfl
  | cons c r ih =>
    unfold lanesOf at ih ⊢
    rw [callFaults_cons, List.filter_append, List.map_append, ih]
    cases hd : deep c <;> simp [hd]

theorem callFaults_addr {deep : Cap → Bool} {bad : Bool} {caps : List Cap} : ∀ x ∈ callFaults deep bad caps, x.2.2 = 0 := by
  intro x hx
  obtain ⟨c, -, ⟨-, rfl⟩ | ⟨-, -, rfl⟩⟩ := mem_callFaults.1 hx <;> rfl

/-- No lane meets a fault where all have room and the target is one, or where none executes. -/
theorem callFaults_none {deep : Cap → Bool} {bad : Bool} {caps : List Cap} (hdeep : ∀ c ∈ caps, deep c = false) (hbad : caps ≠ [] → bad = false) :
    lowestFault (callFaults deep bad caps) = none := by
  have hnil : callFaults deep bad caps = [] := by
    rw [List.eq_nil_iff_forall_not_mem]
    intro x hx
    obtain ⟨c, hc, ⟨hd, -⟩ | ⟨-, hb, -⟩⟩ := mem_callFaults.1 hx
    · exact absurd hd (by simp [hdeep c hc])
    · exact absurd hb (by simp [hbad (List.ne_nil_of_mem hc)])
  rw [hnil]
  rfl

theorem callFaults_room {deep : Cap → Bool} {caps : List Cap} (h : ∃ c ∈ caps, deep c = false) :
    lowestFault (callFaults deep true caps) = some (0x03, lanesOf (caps.filter fun c => !deep c), 0) := by
  rw [← callFaults_lanes_room]
  refine lowestFault_of_code (fun x hx => ?_) ?_ callFaults_addr
  · obtain ⟨c, -, ⟨-, rfl⟩ | ⟨-, -, rfl⟩⟩ := mem_callFaults.1 hx <;> exact Nat.le_of_ble_eq_true rfl
  · obtain ⟨c, hc, hd⟩ := h
    exact ⟨_, mem_callFaults.2 ⟨c, hc, .inr ⟨hd, rfl, rfl⟩⟩, rfl⟩

theorem callFaults_deep {deep : Cap → Bool} {bad : Bool} {caps : List Cap} (hall : bad = false ∨ ∀ c ∈ caps, deep c = true)
    (h : ∃ c ∈ caps, deep c = true) : lowestFault (callFaults deep bad caps) = some (0x05, lanesOf (caps.filter deep), 0) := by
  rw [← callFaults_lanes_deep deep bad]
  refine lowestFault_of_code (fun x hx => ?_) ?_ callFaults_addr
  · obtain ⟨c, hc, ⟨-, rfl⟩ | ⟨hd, hb, -⟩⟩ := mem_callFaults.1 hx
    · exact le_refl _
    · rcases hall with h | h
      · exact absurd hb (by simp [h])
      · exact absurd (h c hc) (by simp [hd])
  · obtain ⟨c, hc, hd⟩ := h
    exact ⟨_, mem_callFaults.2 ⟨c, hc, .inl ⟨hd, rfl⟩⟩, rfl⟩

/-! ### `call` (07 R187) -/

/-- 07 R187: whether the return stack of a lane of a `call` is full. -/
def State.callDeep (s : State) (caps : List Cap) (c : Cap) : Bool :=
  (s.issued.filter fun u => (lanesOf caps).contains u.lane && 16 ≤ u.ret.length).any fun u => u.lane == c.lane

theorem State.callDeep_eq (s : State) (caps : List Cap) :
    s.callDeep caps = fun c => s.issued.any fun u => (lanesOf caps).contains u.lane && 16 ≤ u.ret.length && u.lane == c.lane :=
  funext fun _ => List.any_filter

/-- 07 R187: `call`, for lanes that meet some of its codes or none. -/
def State.calls (s : State) (caps : List Cap) (dest : DWord) : State :=
  match lowestFault (callFaults (s.callDeep caps) (s.noTarget dest) caps) with
  | some f => s.faultLanes caps f
  | none => s.taken caps dest fun u => { u with ret := (s.cur.next, s.cur.past) :: u.ret }

theorem exec_call {s : State} {g : Guard} {t : Target} (hacts : Acts s (s.captureNone g)) :
    exec (.call g t) s = .next (s.calls (s.captureNone g) (targetAddr s.cur.pc t)) :=
  congrArg Host.Outcome.next (State.acting_pair_of_acts (s.pairNone g) (fun s' => s'.calls (s.captureNone g) (targetAddr s.cur.pc t)) hacts)

theorem State.calls_of_fault {s : State} {caps : List Cap} {dest : DWord} {code : Nat} {lanes : List Nat}
    (h : lowestFault (callFaults (s.callDeep caps) (s.noTarget dest) caps) = some (code, lanes, 0)) :
    s.calls caps dest = s.trapIssue code lanes (lanesOf caps) caps 0 0 := by
  simp only [State.calls, h, State.faultLanes]

theorem State.calls_of_none {s : State} {caps : List Cap} {dest : DWord}
    (h : lowestFault (callFaults (s.callDeep caps) (s.noTarget dest) caps) = none) :
    s.calls caps dest = s.taken caps dest fun u => { u with ret := (s.cur.next, s.cur.past) :: u.ret } := by
  simp only [State.calls, h]

theorem callDeep_of_room {s : State} {caps : List Cap} (h : ∀ u ∈ s.threads, runs s caps u = true → u.ret.length < 16) (c : Cap) : s.callDeep caps c = false := by
  simp only [State.callDeep_eq, List.any_eq_false]
  intro u hu
  obtain ⟨hmem, hin⟩ := List.mem_filter.1 hu
  intro hd
  simp only [Bool.and_eq_true, decide_eq_true_eq] at hd
  obtain ⟨⟨hl, hfull⟩, -⟩ := hd
  exact absurd (h u hmem (Bool.and_eq_true _ _ ▸ ⟨hin, hl⟩)) (Nat.not_lt.2 hfull)

end Machine

open Machine

/-- Settles O23: the threads that take a transfer by `State.taken_eq`, and the codes of a `call` by `callFaults_room` and `callFaults_deep`. -/
theorem branchAndCall : Obligations.BranchAndCall := by
  refine ⟨fun g t s hacts h => ?_, fun g t s hacts h hroom => ?_, fun g t s => exec_br_noTarget, ?_⟩
  · rw [exec_br hacts h]
    obtain ⟨th, heq, hth⟩ := s.taken_eq (s.captureNone g) (targetAddr s.cur.pc t) id
    exact ⟨th, congrArg _ heq, hth⟩
  · rw [exec_call hacts, State.calls_of_none (callFaults_none (fun c _ => callDeep_of_room hroom c) h)]
    obtain ⟨th, heq, hth⟩ := s.taken_eq (s.captureNone g) (targetAddr s.cur.pc t) fun u => { u with ret := (s.cur.next, s.cur.past) :: u.ret }
    exact ⟨th, congrArg _ heq, hth⟩
  · intro g t s caps deep hacts
    have hdeep : s.callDeep caps = deep := s.callDeep_eq caps
    refine ⟨fun hbad hex => ?_, fun hall hex => ?_⟩
    · have hfault := callFaults_room hex
      rw [← hdeep, ← hbad] at hfault
      rw [exec_call hacts, State.calls_of_fault hfault, hdeep]
    · have hfault := callFaults_deep hall hex
      rw [← hdeep] at hfault
      rw [exec_call hacts, State.calls_of_fault hfault, hdeep]

end Sys2Proof
end

section
/-! SUPPORT. `ret` and `exit` (07 R188, R190): the threads that leave, what their leaving completes, and the lanes whose continuation is none. -/

namespace Sys2Proof

namespace Machine

open Safety (Moved Threads nextPlace runs endedIf Acts NoneSync)

/-! ### What leaving completes (01 R17, R21, R26, R37) -/

/-- A gang that had no Synchronising thread has none after threads have moved, if what is written to them makes none synchronise. -/
theorem noneSync_of_threads {s t : State} {write : Thread → Thread} {place : Thread → DWord × Bool} (h : Threads s write place t.threads)
    (hw : ∀ u, (write u).wg = u.wg ∧ (write u).gang = u.gang ∧ ((write u).st = u.st ∨ (write u).st = .exited)) {w g : Nat} (hs : NoneSync s w g) :
    NoneSync t w g := by
  have hall : ∀ {l m : List Thread}, List.Forall₂ (fun u u' => Moved (write u) u' ∧ (u'.pc, u'.past) = place u) l m →
      (∀ u ∈ l, u.wg = w → u.gang = g → u.st ≠ .sync) → ∀ u ∈ m, u.wg = w → u.gang = g → u.st ≠ .sync := by
    intro l m hlm
    induction hlm with
    | nil => exact fun _ u hu => nomatch hu
    | @cons a b l m hab _ ih =>
      intro hl u hu hwg hgang
      rcases List.mem_cons.1 hu with rfl | hu
      · obtain ⟨⟨hb, hst, -, -⟩, -⟩ := hab
        obtain ⟨h1, h2, h3⟩ := hw a
        have hbwg : u.wg = a.wg := by rw [hb]; exact h1
        have hbg : u.gang = a.gang := by rw [hb]; exact h2
        have ha := hl a List.mem_cons_self (hbwg ▸ hwg) (hbg ▸ hgang)
        grind
      · exact ih (fun u hu => hl u (List.mem_cons_of_mem a hu)) u hu hwg hgang
  exact hall h hs

theorem State.resolveSync_of_noneSync {s : State} {w g : Nat} (h : NoneSync s w g) : s.resolveSync w g = s := by
  unfold State.resolveSync
  split
  · rfl
  · exact State.resolveGo_of_noneSync h _

/-- 01 R37: the workgroups once a workgroup whose threads are `th` has none that is live. -/
def drainedWgs (w : Nat) (th : List Thread) (l : List Wg) : List Wg :=
  if th.any (fun u => u.wg == w && u.live) then l
  else updWhere (fun x => x.uid == w) (fun x => if x.st == .resident then { x with st := .draining } else x) l

theorem State.drainIfDone_eq (s : State) (w : Nat) : s.drainIfDone w = { s with wgs := drainedWgs w s.threads s.wgs } := by
  unfold State.drainIfDone drainedWgs
  split <;> rfl

/-- A workgroup stays on its core when it drains. -/
theorem State.core_drainedWgs (s : State) (w : Nat) (th : List Thread) (sl : List Slice) :
    (State.wg { s with threads := th, slices := sl, wgs := drainedWgs w th s.wgs } w).core = (s.wg w).core := by
  unfold drainedWgs
  split
  · rfl
  · have hp : ∀ x : Wg, ((if x.st == .resident then { x with st := .draining } else x).uid == w) = (x.uid == w) := fun x => by split <;> rfl
    unfold State.wg
    dsimp only
    rw [find?_updWhere _ _ hp]
    cases s.wgs.find? (fun x => x.uid == w) with
    | none => rfl
    | some x => show (if x.st == .resident then { x with st := .draining } else x).core = x.core; split <;> rfl

/-- What follows where threads have left: meetings at addresses, meetings of lanes, and the workgroup's draining. -/
def State.completed (s : State) : State := ((s.settle s.cur.wg s.cur.gang).resolveSync s.cur.wg s.cur.gang).drainIfDone s.cur.wg

/-- Without a Synchronising thread nothing follows but meetings at addresses and the workgroup's draining. -/
theorem State.completed_of_noneSync {s t : State} {write : Thread → Thread} {place : Thread → DWord × Bool} (hth : Threads s write place t.threads)
    (hw : ∀ u, (write u).wg = u.wg ∧ (write u).gang = u.gang ∧ ((write u).st = u.st ∨ (write u).st = .exited)) (hs : NoneSync s t.cur.wg t.cur.gang) :
    t.completed = { t with threads := (t.settle t.cur.wg t.cur.gang).threads
                           wgs := drainedWgs t.cur.wg (t.settle t.cur.wg t.cur.gang).threads t.wgs } := by
  have hsync : NoneSync (t.settle t.cur.wg t.cur.gang) t.cur.wg t.cur.gang := noneSync_of_threads (threads_settle hth _ _) hw hs
  have hframe := Laws.settle_frame t t.cur.wg t.cur.gang
  unfold State.completed
  rw [State.resolveSync_of_noneSync hsync, State.drainIfDone_eq]
  generalize (t.settle t.cur.wg t.cur.gang).threads = th at hframe ⊢
  rw [hframe]

/-! ### Threads that leave (07 R190) -/

/-- 07 R190: the threads that a `leaving` of `lanes` moves, before what that completes. -/
def State.leftThreads (s : State) (lanes : List Nat) (f : Thread → Option Thread) : List Thread :=
  (s.transfer fun t => if lanes.contains t.lane then some t.leave else f t).threads

/-- 07 R190: lanes that leave at kernel level, or none at all. -/
theorem State.leaving_eq {s : State} {lanes : List Nat} (f : Thread → Option Thread) (h : (s.gang s.cur.wg s.cur.gang).handler = false ∨ lanes = []) :
    s.leaving lanes f = State.completed { s with threads := s.leftThreads lanes f, slices := if lanes.isEmpty then s.slices else s.endRun.slices } := by
  have hgo : ((s.gang s.cur.wg s.cur.gang).handler && !lanes.isEmpty) = false := by rcases h with h | h <;> simp [h]
  unfold State.leaving State.leftThreads
  simp only [hgo, Bool.false_eq_true, if_false]
  rw [State.endRun_transfer, State.transfer_frame]
  split <;> rfl

/-- 15 R386: lanes that leave at handler level are a double fault. -/
theorem State.leaving_handler {s : State} {lanes : List Nat} (f : Thread → Option Thread) (h : (s.gang s.cur.wg s.cur.gang).handler = true)
    (hne : lanes ≠ []) : ∃ c, s.leaving lanes f = s.kernelError s.cur.wg 1 c := by
  unfold State.leaving
  exact ⟨_, if_pos (by simp [h, hne])⟩

/-! ### `exit` (07 R190) -/

theorem exec_exit {s : State} (g : Guard) (h : s.cur.mism < 2) : exec (.exit g) s = .next (s.leaving (lanesOf (s.captureNone g)) fun _ => none) :=
  congrArg Host.Outcome.next (Laws.checked_of_mism _ _ h)

theorem runs_iff {s : State} {caps : List Cap} {u : Thread} : runs s caps u = true ↔ s.inIssue u = true ∧ (lanesOf caps).contains u.lane = true :=
  Bool.and_eq_true_iff

theorem lanesOf_isEmpty (caps : List Cap) : (lanesOf caps).isEmpty = caps.isEmpty := List.isEmpty_map

/-- 07 R190: what an `exit` makes of a thread. -/
def exitLeft (s : State) (caps : List Cap) (u : Thread) : Thread := if runs s caps u then u.leave else u

/-- 07 R190: where an `exit` leaves a thread. -/
def exitStands (s : State) (caps : List Cap) (u : Thread) : DWord × Bool := if runs s caps u then (u.pc, u.past) else nextPlace s u

theorem threads_exit (s : State) (caps : List Cap) : Threads s (exitLeft s caps) (exitStands s caps) (s.leftThreads (lanesOf caps) fun _ => none) := by
  refine threads_transfer (fun u _ hin v hv => ?_) fun u _ hnone => ?_
  · split at hv
    case isTrue hl =>
      have hruns : runs s caps u = true := runs_iff.2 ⟨hin, hl⟩
      cases hv
      rw [exitLeft, exitStands, if_pos hruns, if_pos hruns]
      exact ⟨Laws.Moved.refl _, rfl⟩
    case isFalse => exact nomatch hv
  · have hruns : ¬ runs s caps u = true := fun h => by
      obtain ⟨hin, hl⟩ := runs_iff.1 h
      exact absurd (hnone hin) (by simp only [hl, if_true, reduceCtorEq, not_false_eq_true])
    rw [exitLeft, exitStands, if_neg hruns, if_neg hruns]
    exact ⟨rfl, rfl⟩

/-! ### `ret` (07 R188) -/

/-- 07 R188: the lanes that a `ret` finds with an empty stack. -/
def State.retOut (s : State) (caps : List Cap) : List Nat := (s.threads.filter fun u => runs s caps u && u.ret.isEmpty).map Thread.lane

/-- 07 R188: where a `ret` takes a thread whose stack is not empty. -/
def retTo (caps : List Cap) (u : Thread) : Option Thread :=
  match (lanesOf caps).contains u.lane, u.ret with
  | true, (a, past) :: r => some { { u with ret := r }.jump a with past := past }
  | _, _ => none

/-- 07 R188, 06 R154: whether a thread's continuation is none. -/
def State.retBad (s : State) (u : Thread) : Bool :=
  match u.ret with
  | (a, past) :: _ => !past && s.noTarget a
  | [] => false

theorem filter_issued (s : State) (caps : List Cap) (p : Thread → Bool) :
    (s.issued.filter fun u => (lanesOf caps).contains u.lane && p u) = s.threads.filter fun u => runs s caps u && p u := by
  rw [State.issued, List.filter_filter]
  refine List.filter_congr fun u _ => ?_
  unfold runs
  cases s.inIssue u <;> simp

/-- 07 R188: `ret`, for threads whose continuations are `bad` or not. -/
def State.returns (s : State) (caps : List Cap) : State :=
  let bad := s.issued.filter fun u => (lanesOf caps).contains u.lane && s.retBad u
  if !bad.isEmpty then
    (s.updIssue fun u => if (bad.map Thread.lane).contains u.lane then { u with ret := u.ret.tail } else u).faultLanes caps (0x03, bad.map Thread.lane, 0)
  else
    let out := (s.issued.filter fun u => (lanesOf caps).contains u.lane && u.ret.isEmpty).map Thread.lane
    if caps.isEmpty then s.leaving out (retTo caps) else (s.leaving out (retTo caps)).endRun

theorem exec_ret {s : State} {g : Guard} (hacts : Acts s (s.captureNone g)) : exec (.ret g) s = .next (s.returns (s.captureNone g)) :=
  congrArg Host.Outcome.next (State.acting_pair_of_acts (s.pairNone g) (fun s' => s'.returns (s.captureNone g)) hacts)

theorem State.returns_good {s : State} {caps : List Cap} (h : ∀ u ∈ s.threads, runs s caps u = true → s.retBad u = false) :
    s.returns caps = if caps.isEmpty then s.leaving (s.retOut caps) (retTo caps) else (s.leaving (s.retOut caps) (retTo caps)).endRun := by
  have hnone : s.threads.filter (fun u => runs s caps u && s.retBad u) = [] := by
    rw [List.filter_eq_nil_iff]
    intro u hu hb
    obtain ⟨hruns, hbad⟩ := Bool.and_eq_true _ _ ▸ hb
    exact absurd hbad (by simp [h u hu hruns])
  unfold State.returns
  simp only [filter_issued, hnone, List.isEmpty_nil, Bool.not_true, Bool.false_eq_true, if_false]
  rfl

theorem State.returns_bad {s : State} {caps : List Cap} {lanes : List Nat}
    (hl : (s.threads.filter fun u => runs s caps u && s.retBad u).map Thread.lane = lanes) (hne : lanes ≠ []) :
    s.returns caps = State.faultLanes { s with threads := s.threads.map fun u => if s.inIssue u && lanes.contains u.lane then { u with ret := u.ret.tail } else u }
      caps (0x03, lanes, 0) := by
  have hbad : (s.threads.filter fun u => runs s caps u && s.retBad u).isEmpty = false := by
    rw [List.isEmpty_eq_false_iff]
    rintro h
    exact hne (by rw [← hl, h]; rfl)
  have hupd : updWhere s.inIssue (fun u => if lanes.contains u.lane then { u with ret := u.ret.tail } else u) s.threads =
      s.threads.map fun u => if s.inIssue u && lanes.contains u.lane then { u with ret := u.ret.tail } else u := by
    refine List.map_congr_left fun u _ => ?_
    cases s.inIssue u <;> simp
  unfold State.returns State.updIssue State.updThreads
  simp only [filter_issued, hbad, Bool.not_false, if_true, hl, hupd]

/-- 07 R188: whether a thread leaves at a `ret`. -/
def retGone (s : State) (caps : List Cap) (u : Thread) : Bool := runs s caps u && (s.retOut caps).contains u.lane

/-- 07 R188: what a `ret` makes of a thread. -/
def retLeft (s : State) (caps : List Cap) (u : Thread) : Thread :=
  if retGone s caps u then u.leave else if runs s caps u then { u with ret := u.ret.tail, line := none } else u

/-- 07 R188: where a `ret` leaves a thread. -/
def retStands (s : State) (caps : List Cap) (u : Thread) : DWord × Bool :=
  if retGone s caps u then (u.pc, u.past) else if runs s caps u then u.ret.headD (u.pc, u.past) else nextPlace s u

theorem mem_retOut {s : State} {caps : List Cap} {lane : Nat} :
    lane ∈ s.retOut caps ↔ ∃ u ∈ s.threads, runs s caps u = true ∧ u.ret = [] ∧ u.lane = lane := by
  simp [State.retOut, and_assoc]

theorem retTo_eq_some {caps : List Cap} {u v : Thread} (h : retTo caps u = some v) :
    (lanesOf caps).contains u.lane = true ∧ ∃ a past r, u.ret = (a, past) :: r ∧ v = { { u with ret := r }.jump a with past := past } := by
  unfold retTo at h
  split at h
  case h_1 hl hret => exact ⟨hl, _, _, _, hret, (Option.some.inj h).symm⟩
  case h_2 => exact nomatch h

theorem retTo_of_nil {caps : List Cap} {u : Thread} (hl : (lanesOf caps).contains u.lane = true) (h : retTo caps u = none) : u.ret = [] := by
  unfold retTo at h
  split at h
  case h_1 => exact nomatch h
  case h_2 hno =>
    cases hret : u.ret with
    | nil => rfl
    | cons a r => exact absurd hret (hno a.1 a.2 r hl)

theorem threads_ret (s : State) (caps : List Cap) : Threads s (retLeft s caps) (retStands s caps) (s.leftThreads (s.retOut caps) (retTo caps)) := by
  refine threads_transfer (fun u _ hin v hv => ?_) fun u hu hnone => ?_
  · split at hv
    case isTrue hout =>
      obtain ⟨w, -, hw, -, hlane⟩ := mem_retOut.1 (List.contains_iff_mem.1 hout)
      have hgone : retGone s caps u = true := Bool.and_eq_true_iff.2 ⟨runs_iff.2 ⟨hin, hlane ▸ (runs_iff.1 hw).2⟩, hout⟩
      cases hv
      rw [retLeft, retStands, if_pos hgone, if_pos hgone]
      exact ⟨Laws.Moved.refl _, rfl⟩
    case isFalse hout =>
      obtain ⟨hl, a, past, r, hret, rfl⟩ := retTo_eq_some hv
      have hruns : runs s caps u = true := runs_iff.2 ⟨hin, hl⟩
      have hgone : ¬ retGone s caps u = true := fun h => hout (Bool.and_eq_true_iff.1 h).2
      rw [retLeft, retStands, if_neg hgone, if_neg hgone, if_pos hruns, if_pos hruns, hret]
      exact ⟨⟨rfl, .inl rfl, .inl rfl, .inr rfl⟩, rfl⟩
  · have hruns : ¬ runs s caps u = true := fun h => by
      obtain ⟨hin, hl⟩ := runs_iff.1 h
      have hstay := hnone hin
      split at hstay
      case isTrue => exact nomatch hstay
      case isFalse hout => exact hout (List.contains_iff_mem.2 (mem_retOut.2 ⟨u, hu, h, retTo_of_nil hl hstay, rfl⟩))
    have hgone : ¬ retGone s caps u = true := fun h => hruns (Bool.and_eq_true_iff.1 h).1
    rw [retLeft, retStands, if_neg hgone, if_neg hgone, if_neg hruns, if_neg hruns]
    exact ⟨rfl, rfl⟩

/-- A lane leaves at a `ret` where some thread does. -/
theorem any_retGone (s : State) (caps : List Cap) : s.threads.any (retGone s caps) = !(s.retOut caps).isEmpty := by
  rw [Bool.eq_iff_iff, List.any_eq_true, Bool.not_eq_true', List.isEmpty_eq_false_iff_exists_mem]
  constructor
  · rintro ⟨u, -, h⟩
    exact ⟨u.lane, List.contains_iff_mem.1 (Bool.and_eq_true_iff.1 h).2⟩
  · rintro ⟨lane, h⟩
    obtain ⟨u, hu, hruns, -, rfl⟩ := mem_retOut.1 h
    exact ⟨u, hu, Bool.and_eq_true_iff.2 ⟨hruns, List.contains_iff_mem.2 h⟩⟩

theorem retOut_nil (s : State) : s.retOut [] = [] := by simp [State.retOut, runs_nil]

theorem leave_keeps (u : Thread) : u.leave.wg = u.wg ∧ u.leave.gang = u.gang ∧ (u.leave.st = u.st ∨ u.leave.st = .exited) := ⟨rfl, rfl, .inr rfl⟩

theorem retLeft_keeps (s : State) (caps : List Cap) (u : Thread) :
    (retLeft s caps u).wg = u.wg ∧ (retLeft s caps u).gang = u.gang ∧ ((retLeft s caps u).st = u.st ∨ (retLeft s caps u).st = .exited) := by
  unfold retLeft
  split
  · exact leave_keeps u
  · split <;> exact ⟨rfl, rfl, .inl rfl⟩

theorem exitLeft_keeps (s : State) (caps : List Cap) (u : Thread) :
    (exitLeft s caps u).wg = u.wg ∧ (exitLeft s caps u).gang = u.gang ∧ ((exitLeft s caps u).st = u.st ∨ (exitLeft s caps u).st = .exited) := by
  unfold exitLeft
  split
  · exact leave_keeps u
  · exact ⟨rfl, rfl, .inl rfl⟩

/-- 07 R188: the state of a `ret` before what the leaving of its threads completes. -/
def State.returned (s : State) (caps : List Cap) (th : List Thread) : State :=
  { s with threads := th, slices := if s.threads.any (retGone s caps) then s.endRun.slices else s.slices }

/-- 07 R188: a `ret` whose continuations are slots, of which no thread leaves at handler level. -/
theorem State.returns_eq {s : State} {caps : List Cap} (hgood : ∀ u ∈ s.threads, runs s caps u = true → s.retBad u = false)
    (hlv : (s.gang s.cur.wg s.cur.gang).handler = false ∨ ∀ u ∈ s.threads, retGone s caps u = false) :
    ∃ th, Threads s (retLeft s caps) (retStands s caps) th ∧
      s.returns caps = if caps.isEmpty then (s.returned caps th).completed else (s.returned caps th).completed.endRun := by
  have hout : (s.gang s.cur.wg s.cur.gang).handler = false ∨ s.retOut caps = [] := by
    refine hlv.imp_right fun h => ?_
    have hany := any_retGone s caps
    rw [List.any_eq_false.2 fun u hu => by simp [h u hu]] at hany
    simpa using hany.symm
  have hslices : (if (s.retOut caps).isEmpty then s.slices else s.endRun.slices) = if s.threads.any (retGone s caps) then s.endRun.slices else s.slices := by
    rw [any_retGone]
    cases (s.retOut caps).isEmpty <;> rfl
  refine ⟨_, threads_ret s caps, ?_⟩
  rw [State.returns_good hgood, State.leaving_eq _ hout, hslices]
  rfl

/-- 07 R188: the same of a gang with no Synchronising thread, whole. -/
theorem State.returned_noneSync {s : State} {caps : List Cap} {th : List Thread} (hth : Threads s (retLeft s caps) (retStands s caps) th)
    (hs : NoneSync s s.cur.wg s.cur.gang) :
    ∃ th', (if caps.isEmpty then (s.returned caps th).completed else (s.returned caps th).completed.endRun) =
        { s with threads := th', slices := endedIf s caps, wgs := drainedWgs s.cur.wg th' s.wgs } ∧ Threads s (retLeft s caps) (retStands s caps) th' := by
  obtain ⟨th', hth', hcomp⟩ : ∃ th', Threads s (retLeft s caps) (retStands s caps) th' ∧
      (s.returned caps th).completed = { s.returned caps th with threads := th', wgs := drainedWgs s.cur.wg th' s.wgs } :=
    ⟨_, threads_settle (t := s.returned caps th) hth s.cur.wg s.cur.gang, State.completed_of_noneSync hth (retLeft_keeps s caps) hs⟩
  refine ⟨th', ?_, hth'⟩
  rw [hcomp]
  cases caps with
  | nil =>
    have hnone : s.threads.any (retGone s []) = false := by rw [any_retGone, retOut_nil]; rfl
    simp only [State.returned, hnone]
    rfl
  | cons c r =>
    refine State.endRun_of_slices (s := s) rfl rfl (s.core_drainedWgs _ _ _) ?_
    unfold State.returned
    dsimp only
    split
    · exact .inr rfl
    · exact .inl rfl

end Machine

open Machine Safety

/-- Settles O24: a `ret` is `State.returns_eq` or `State.returns_bad`, an `exit` is `State.leaving_eq`, at handler level both are `State.leaving_handler`, and
without a Synchronising thread what the leaving completes is `State.completed_of_noneSync`. -/
theorem returnAndExit : Obligations.ReturnAndExit := by
  refine ⟨?_, ?_, ?_, ?_, ?_⟩
  · intro g s caps out gone left stands hacts htgt hlv
    have hgood : ∀ u ∈ s.threads, runs s caps u = true → s.retBad u = false := by
      intro u hu hruns
      unfold State.retBad
      split
      case h_1 a past r hret => rcases htgt u hu hruns a past r hret with h | h <;> simp [h]
      case h_2 => rfl
    obtain ⟨th, hth, heq⟩ := State.returns_eq hgood hlv
    rw [exec_ret hacts, heq]
    refine ⟨fun hs => ?_, th, hth, rfl⟩
    obtain ⟨th', heq', hth'⟩ := State.returned_noneSync hth hs
    exact ⟨th', congrArg _ heq', hth'⟩
  · intro g s caps left stands hm hk
    obtain ⟨th, hth, heq⟩ : ∃ th, Threads s left stands th ∧ exec (.exit g) s = .next (State.completed { s with threads := th, slices := endedIf s caps }) := by
      refine ⟨_, threads_exit s caps, ?_⟩
      rw [exec_exit g hm, State.leaving_eq _ (.inl hk), lanesOf_isEmpty]
      rfl
    rw [heq]
    refine ⟨fun hs => ?_, th, hth, rfl⟩
    exact ⟨_, congrArg _ (State.completed_of_noneSync (t := { s with threads := th, slices := endedIf s caps }) hth (exitLeft_keeps s caps) hs),
      threads_settle (t := { s with threads := th, slices := endedIf s caps }) hth s.cur.wg s.cur.gang⟩
  · intro g s hm hk hne
    obtain ⟨c, hc⟩ := State.leaving_handler (s := s) (fun _ => none) hk (lanes := lanesOf (s.captureNone g)) (by simpa [lanesOf] using hne)
    exact ⟨c, by rw [exec_exit g hm, hc]⟩
  · rintro g s hacts hk ⟨u, hu, hruns⟩ hempty
    have hgood : ∀ u ∈ s.threads, runs s (s.captureNone g) u = true → s.retBad u = false := fun u hu hr => by rw [State.retBad, hempty u hu hr]
    have hout : s.retOut (s.captureNone g) ≠ [] := List.ne_nil_of_mem (mem_retOut.2 ⟨u, hu, hruns, hempty u hu hruns, rfl⟩)
    have hcaps : ¬ (s.captureNone g).isEmpty = true := fun h => by
      rw [List.isEmpty_iff.1 h, runs_nil] at hruns
      exact Bool.false_ne_true hruns
    obtain ⟨c, hc⟩ := State.leaving_handler (s := s) (retTo (s.captureNone g)) hk hout
    exact ⟨c, by rw [exec_ret hacts, State.returns_good hgood, if_neg hcaps, hc]⟩
  · intro g s caps bad lanes hacts hne
    rw [exec_ret hacts, State.returns_bad (lanes := lanes) rfl hne]
    rfl

end Sys2Proof
end

section
/-! SUPPORT. The instructions that go from registers to registers (07 R195 to R209, R221, R222, R352, R384, R426, R434): each is one of the shared shapes
`State.aluBy`, `State.alu` and `State.alu3` of its own function, and each shape computes, writes, pushes and advances. -/

namespace Sys2Proof

open Machine Safety

namespace Machine

/-! ### The shapes -/

/-- An instruction whose meaning is `aluBy` computes from what it captures (06 R157 to R159, 01 R30). -/
theorem computes_of_aluBy {i : Instr} {o : Op} {src : State → Thread → Cap} {push : Bool} {f : Nat → Nat → Nat → Nat × Bool}
    {write : Thread → Nat → Bool → Thread} (hw : Laws.Keeps write) (h : ∀ s, exec i s = .next (s.aluBy o (src s) push f write)) :
    Computes i o (fun s => s.captureBy o.guard (src s)) (fun c => f c.a c.b c.c) write push := by
  intro s hm
  obtain ⟨th, heq, hth⟩ := Laws.aluBy_next s o (src s) push f write hw hm
  exact ⟨th, (h s).trans (congrArg _ heq), hth⟩

/-- An instruction whose meaning is `alu3` computes on operands of its type and pushes. -/
theorem computes3_of_alu3 {i : Instr} {o : Op} {f : Nat → Nat → Nat → Nat} (h : ∀ s, exec i s = .next (s.alu3 o f)) : Computes3 i o f :=
  Laws.computesOp_of_alu _ _ _ _ _ h

/-- An instruction whose meaning is an `alu` of a value read from the machine, without a push, writes that value and leaves the slices alone. -/
theorem reads_of_alu {i : Instr} {o : Op} {k : Kinds} {f : State → Nat → Nat → Nat} (h : ∀ s, exec i s = .next (s.alu o k false fun a b _ => (f s a b, false))) :
    Reads i o k f := by
  intro s hm
  obtain ⟨th, heq, hth⟩ := Laws.aluBy_next s o (s.sources k o.a o.b o.c) false (fun a b _ => (f s a b, false)) (writeBoth o) (Laws.keeps_writeBoth o) hm
  exact ⟨th, (h s).trans (congrArg _ heq), hth⟩

/-! ### What the writes of single instructions keep -/

/-- 07 R196: the write of `punpack` keeps whose a thread is and where it stands. -/
theorem keeps_setPreds (n k : Nat) : Laws.Keeps fun t x _ => t.setPreds n x k := fun t x _ => Laws.samePlace_setPreds k t n x

/-- 07 R221: so does the write of `rng.next`. -/
theorem keeps_rngNext (o : Op) : Laws.Keeps fun t _ _ => { t.writeDst o 1 ((rngStep t.rng).toNat / 2 ^ 32) with rng := rngStep t.rng } :=
  fun t _ _ => (Laws.samePlace_writeDst t o 1 _).trans ⟨rfl, rfl, rfl, rfl, rfl⟩

/-- 07 R222: so does the write of `rng.jump`. -/
theorem keeps_rngJump : Laws.Keeps fun t x _ => { t with rng := rngJump t.rng (BitVec.ofNat 64 x) } := fun _ _ _ => ⟨rfl, rfl, rfl, rfl, rfl⟩

/-! ### Integer arithmetic (07 R197 to R199) -/

/-- An instruction whose meaning is `addSub` gives its exact result element by element, with its carry as second result. -/
theorem computesOp_of_addSub {i : Instr} {o : Op} {m : AddMods} {f : Int → Int → Int → Int} (h : ∀ s, exec i s = .next (s.addSub o m f)) :
    ComputesOp i o { a := .ty o.ty, b := .ty o.ty, c := if m.cr then .pred else .unused } true fun a b c =>
      (intOp o.ty m.sat (fun x y _ => f x y (c : Int)) a b 0,
       m.cw && carryOut o.ty.bits (f (elemVal false o.ty.bits a) (elemVal false o.ty.bits b) (c : Int))) :=
  Laws.computesOp_of_alu _ _ _ _ _ h

/-- An instruction whose meaning is `intAlu` gives its exact result element by element. -/
theorem computes3_of_intAlu {i : Instr} {o : Op} {sat : Bool} {f : Int → Int → Int → Int} (h : ∀ s, exec i s = .next (s.intAlu o sat f)) :
    Computes3 i o (intOp o.ty sat f) :=
  computes3_of_alu3 h

/-- 07 R197 to R199: `add` and `sub`, with carry in and carry out. -/
theorem addSub_compute (o : Op) (m : AddMods) :
    ComputesOp (.add o m) o { a := .ty o.ty, b := .ty o.ty, c := if m.cr then .pred else .unused } true (fun a b c =>
      (intOp o.ty m.sat (fun x y _ => x + y + (c : Int)) a b 0,
       m.cw && carryOut o.ty.bits (elemVal false o.ty.bits a + elemVal false o.ty.bits b + (c : Int)))) ∧
    ComputesOp (.sub o m) o { a := .ty o.ty, b := .ty o.ty, c := if m.cr then .pred else .unused } true (fun a b c =>
      (intOp o.ty m.sat (fun x y _ => x - y - (c : Int)) a b 0,
       m.cw && carryOut o.ty.bits (elemVal false o.ty.bits a - elemVal false o.ty.bits b - (c : Int)))) :=
  ⟨computesOp_of_addSub (f := addExact) fun _ => rfl, computesOp_of_addSub (f := subExact) fun _ => rfl⟩

end Machine

/-! ### The obligations -/

/-- Settles O1: the logic of predicates is `alu` on predicate sources; `ppack`, `punpack` and `pcnt` are `aluBy` with captures or a write of their own. -/
theorem predicateInstructions : Obligations.PredicateInstructions := by
  intro o
  refine ⟨?pand, ?por, ?pxor, ?pandn, ?pnot, ?pmov, ?ppack, ?punpack, ?pcnt⟩
  case pand | por | pxor | pandn | pnot | pmov => exact Laws.computesOp_of_alu _ _ _ _ _ fun _ => rfl
  case ppack => exact computes_of_aluBy (f := fun a _ _ => (a, false)) (Laws.keeps_writeBoth o) fun _ => rfl
  case punpack => exact computes_of_aluBy (f := fun a _ _ => (a, false)) (keeps_setPreds (dstNum o.dst) 32) fun _ => rfl
  case pcnt => exact computes_of_aluBy (f := fun a _ _ => (countOnes a 32, false)) (Laws.keeps_writeBoth o) fun _ => rfl

/-- Settles O2: arithmetic is `addSub` or `intAlu` of the exact result (07 R197), logic and counts are `alu3` (07 R200, R203, R205), shifts, rotates, funnels and
fields are `alu` with a count read as n32 (07 R201, R202, R204); a compact form is the same shape of the operation it stands for (06 R169). -/
theorem integerAndLogicInstructions : Obligations.IntegerAndLogicInstructions := by
  refine ⟨⟨?addSub, ?arith, ?arithCompact⟩, ?logic, ?flagged, ?logicCompact⟩
  case addSub => exact addSub_compute
  case arith =>
    intro o sat
    refine ⟨?mul, ?mulh, ?mad, ?madh, ?min, ?max, ?abs, ?neg⟩
    case mul | mulh | mad | madh | min | max | abs | neg => exact computes3_of_intAlu fun _ => rfl
  case arithCompact =>
    intro o
    refine ⟨?add, ?sub, ?mul, ?mad, ?min, ?max, ?abs, ?neg⟩
    case add | sub | mul | mad | min | max | abs | neg => exact computes3_of_intAlu fun _ => rfl
  case logic =>
    intro o
    refine ⟨?and, ?or, ?xor, ?andn, ?not, ?shl, ?shr, ?rol, ?ror, ?popc, ?clz, ?brev, ?fxt, ?fins⟩
    case shl | shr | rol | ror | fxt | fins => exact Laws.computesOp_of_alu _ _ _ _ _ fun _ => rfl
    case and | or | xor | andn | not | popc | clz | brev => exact computes3_of_alu3 fun _ => rfl
  case flagged =>
    intro o flag
    refine ⟨?fshR, ?fshL, ?bsel⟩
    case fshR | fshL => exact Laws.computesOp_of_alu _ _ _ _ _ fun _ => rfl
    case bsel => exact computes3_of_alu3 fun _ => rfl
  case logicCompact =>
    intro o
    refine ⟨?and, ?or, ?xor, ?andn, ?not, ?shl, ?shr⟩
    case shl | shr => exact Laws.computesOp_of_alu _ _ _ _ _ fun _ => rfl
    case and | or | xor | andn | not => exact computes3_of_alu3 fun _ => rfl

/-- Settles O3: `cmp`, `sel` and `lea` are `alu` with their own kinds of sources, both forms of `mov` are `alu3`, and `sreg` is `aluBy` on the value read at issue. -/
theorem selectMoveInstructions : Obligations.SelectMoveInstructions := by
  refine ⟨?cmp, ?typed, ?lea, ?movCompact⟩
  case cmp => exact fun o cond comb => Laws.computesOp_of_alu _ _ _ _ _ fun _ => rfl
  case typed =>
    intro o
    refine ⟨?sel, ?mov, ?sreg⟩
    case sel => exact Laws.computesOp_of_alu _ _ _ _ _ fun _ => rfl
    case mov => exact computes3_of_alu3 fun _ => rfl
    case sreg => exact computes_of_aluBy (f := fun a _ _ => (a, false)) (Laws.keeps_writeBoth o) fun _ => rfl
  case lea => exact fun o k => Laws.computesOp_of_alu _ _ _ _ _ fun _ => rfl
  case movCompact => exact fun o => computes3_of_alu3 fun _ => rfl

/-- Settles O5: the generator instructions are `aluBy` with their own writes, `csrr` captures what it reads, and the queries are `alu` of a value of the machine. -/
theorem randomAndQueryInstructions : Obligations.RandomAndQueryInstructions := by
  intro o
  refine ⟨?rngNext, ?rngJump, ?csrr, ?rqRd, ?hmRd, ?keepQryUse, ?keepQryRec⟩
  case rngNext => exact computes_of_aluBy (f := fun _ _ _ => (0, false)) (keeps_rngNext o) fun _ => rfl
  case rngJump => exact computes_of_aluBy (f := fun a _ _ => (a, false)) keeps_rngJump fun _ => rfl
  case csrr => exact fun n => computes_of_aluBy (f := fun a _ _ => (a, false)) (Laws.keeps_writeBoth o) fun _ => rfl
  case rqRd | hmRd | keepQryUse | keepQryRec => exact reads_of_alu fun _ => rfl

end Sys2Proof
end

section
/-! SUPPORT. The jump of the generator (07 R222): its loop squares an affine map, so that after `n` doublings it has composed the draws that the count's bits name. -/

namespace Sys2Proof

/-- Affine maps that are `i` and `j` draws compose to the affine map of both. -/
theorem affine_draws_comp {i j : Nat} {A C m k : DWord} (hA : ∀ x, A * x + C = rngStep^[i] x) (hm : ∀ x, m * x + k = rngStep^[j] x) (x : DWord) :
    A * m * x + (C * m + k) = rngStep^[j + i] x := by
  rw [Function.iterate_add_apply, ← hA x, ← hm]
  ring

/-- If A·x + C is `i` draws and m·x + k is `j` draws, the loop of R222 on a count ends in the affine map of `i` + count · `j` draws. -/
theorem rngJumpGo_draws (n : Nat) {cnt i j : Nat} {A C m k : DWord} (hcnt : cnt < 2 ^ n) (hA : ∀ x, A * x + C = rngStep^[i] x)
    (hm : ∀ x, m * x + k = rngStep^[j] x) (x : DWord) :
    (rngJumpGo n cnt A C m k).1 * x + (rngJumpGo n cnt A C m k).2 = rngStep^[i + cnt * j] x := by
  induction n generalizing cnt i j A C m k with
  | zero =>
    obtain rfl : cnt = 0 := by omega
    simpa [rngJumpGo] using hA x
  | succ n ih =>
    have hhalf : cnt / 2 < 2 ^ n := by omega
    have hdouble : ∀ y, m * m * y + (m * k + k) = rngStep^[j + j] y := fun y => by
      rw [mul_comm m k]
      exact affine_draws_comp hm hm y
    rw [rngJumpGo]
    by_cases hodd : cnt % 2 = 1
    · have hbit : bitAt cnt 0 = true := by simp [bitAt, hodd]
      have hcount : i + cnt * j = j + i + cnt / 2 * (j + j) := by
        conv_lhs => rw [← Nat.div_add_mod cnt 2, hodd]
        ring
      simp only [hbit, if_true]
      rw [hcount]
      exact ih hhalf (affine_draws_comp hA hm) hdouble
    · have hbit : bitAt cnt 0 = false := by simpa [bitAt] using hodd
      have hcount : i + cnt * j = i + cnt / 2 * (j + j) := by
        conv_lhs => rw [← Nat.div_add_mod cnt 2, (Nat.mod_two_eq_zero_or_one cnt).resolve_right hodd]
        ring
      simp only [hbit, Bool.false_eq_true, if_false]
      rw [hcount]
      exact ih hhalf hA hdouble

/-- 07 R222: the jump by a count is as many draws. -/
theorem rngJump_eq_iterate (x n : DWord) : rngJump x n = rngStep^[n.toNat] x := by
  have h := rngJumpGo_draws 64 (i := 0) (j := 1) (A := 1) (C := 0) (m := rngMul) (k := 1) n.isLt (by simp) (fun _ => rfl) x
  rwa [Nat.zero_add, Nat.mul_one] at h

/-- Settles O21: the loop of the jump composes draws (`rngJump_eq_iterate`), and the words of R221's example are computed. -/
theorem randomJump : Obligations.RandomJump := by
  have htwo : rngStep (rngStep 0) = 0x9E3779B97F4A7C16 := by decide
  refine ⟨rngJump_eq_iterate, fun x => ?_, by decide, htwo, ?_⟩
  · rw [rngJump_eq_iterate]
    rfl
  · rw [htwo]
    rfl

end Sys2Proof
end

section
/-! SUPPORT. The floating-point and conversion instructions (08 R227 to R241; compact forms 06 R169): arithmetic is the shape `State.floatAlu` of a function of
the element format, the special functions are the shape `State.special`, and `fcmp`, the predicate form of `fclass` and `cvt` are `State.alu` of their own kinds. -/

namespace Sys2Proof

open Machine Safety

namespace Machine

/-! ### The shapes -/

/-- 08 R225: an instruction whose meaning is `floatAlu` gives its function of each element, in the format of its type, and pushes. -/
theorem computes3_of_floatAlu {i : Instr} {o : Op} {f : Fmt → Nat → Nat → Nat → Nat} (h : ∀ s, exec i s = .next (s.floatAlu o f)) :
    Computes3 i o (floatOp o.ty f) :=
  computes3_of_alu3 h

/-- 08 R226: an instruction whose meaning is `special` gives its function of an f32 and pushes nothing. -/
theorem computesOp_of_special {i : Instr} {o : Op} {f : Nat → Nat} (h : ∀ s, exec i s = .next (s.special o f)) :
    ComputesOp i o { a := .ty .f32 } false fun a _ _ => (f a, false) :=
  Laws.computesOp_of_alu _ _ _ _ _ h

/-! ### Predicate results and conversion -/

/-- 08 R231: `fcmp` gives its test, combined with its third predicate, and the inverse. -/
theorem fcmp_computes (o : Op) (cond : FCond) (comb : Comb) :
    ComputesOp (.fcmp o cond comb) o { a := .ty .f32, b := .ty .f32, c := if comb == .none then .unused else .pred } true fun a b c =>
      ((fcmpBits cond comb a b (c == 1)).toNat, !fcmpBits cond comb a b (c == 1)) :=
  Laws.computesOp_of_alu _ _ _ _ _ fun _ => rfl

/-- 08 R232: the predicate form of `fclass` tests the class word against its mask and gives the inverse too. -/
theorem fclassP_computes (o : Op) :
    ComputesOp (.fclassP o) o { a := .ty .f32, b := .ty .b32 } true fun a m _ =>
      ((Fmt.f32.classify a &&& m != 0).toNat, !(Fmt.f32.classify a &&& m != 0)) :=
  Laws.computesOp_of_alu _ _ _ _ _ fun _ => rfl

/-- 08 R235 to R241: `cvt` gives its converted value, with the invalid indication as second result. -/
theorem cvt_computes (o : Op) (m : CvtMods) :
    ComputesOp (.cvt o m) o { a := cvtKind m.src, b := if m.pk then cvtKind m.src else .unused } true fun a b _ =>
      ((cvtAll m a b).d, (cvtAll m a b).invalid) :=
  Laws.computesOp_of_alu _ _ _ _ _ fun _ => rfl

end Machine

/-! ### The obligation -/

/-- Settles O4: arithmetic, extrema and the vector form of `fclass` are `floatAlu` of their function (08 R225 to R230, R232), a compact form is the same shape of
the operation it stands for, rounded to nearest even (06 R169), and the special functions are `special` of theirs (08 R233, R234). -/
theorem floatInstructions : Obligations.FloatInstructions := by
  refine ⟨⟨?rounded, ?exact, ?compact⟩, fcmp_computes, fclassP_computes, ?specialRounded, ?special, cvt_computes⟩
  case rounded =>
    intro o r
    refine ⟨?fadd, ?fsub, ?fmul, ?ffma⟩
    case fadd | fsub | fmul | ffma => exact computes3_of_floatAlu fun _ => rfl
  case exact =>
    intro o
    refine ⟨?fmin, ?fmax, ?fminnum, ?fmaxnum, ?fabs, ?fneg, ?fclassV⟩
    case fmin | fmax | fminnum | fmaxnum | fabs | fneg | fclassV => exact computes3_of_floatAlu fun _ => rfl
  case compact =>
    intro o
    refine ⟨?fadd, ?fsub, ?fmul, ?ffma, ?fmin, ?fmax, ?fminnum, ?fmaxnum, ?fabs, ?fneg⟩
    case fadd | fsub | fmul | ffma | fmin | fmax | fminnum | fmaxnum | fabs | fneg => exact computes3_of_floatAlu fun _ => rfl
  case specialRounded =>
    intro o r
    refine ⟨?rcp, ?sqrt⟩
    case rcp | sqrt => exact computesOp_of_special fun _ => rfl
  case special =>
    intro o
    refine ⟨?rsq, ?exp2, ?log2, ?sin, ?cos⟩
    case rsq | exp2 | log2 | sin | cos => exact computesOp_of_special fun _ => rfl

end Sys2Proof
end

section
/-! SUPPORT. Sums of floating-point numbers (02 R49, R66 to R70, R81): what encodings are worth, and how an exact sum is rounded. -/

namespace Sys2Proof

open Safety

/-! ### What magnitude codes are worth (02 R49) -/

/-- What a magnitude code of a format with `f` fraction bits is worth, in units of the smallest subnormal. -/
def codeUnits (f c : Nat) : Nat := if c / 2 ^ f = 0 then c else (2 ^ f + c % 2 ^ f) * 2 ^ (c / 2 ^ f - 1)

theorem scaled_eq (F : Fmt) (x : Nat) :
    scaled F x = if bitAt x (F.e + F.f) then -(codeUnits F.f (magnitude F x) : Int) else (codeUnits F.f (magnitude F x) : Int) := rfl

theorem codeUnits_of_lt {f c : Nat} (h : c < 2 ^ f) : codeUnits f c = c := if_pos (Nat.div_eq_of_lt h)

/-- A code is worth less than the first of the binade after its own. -/
theorem codeUnits_lt (f c : Nat) : codeUnits f c < 2 ^ (f + c / 2 ^ f) := by
  unfold codeUnits
  split
  case isTrue h => simpa [h] using (Nat.div_eq_zero_iff.1 h).resolve_left (by positivity)
  case isFalse h =>
    have hfrac : c % 2 ^ f < 2 ^ f := Nat.mod_lt _ (by positivity)
    obtain ⟨b, hb⟩ := Nat.exists_eq_succ_of_ne_zero h
    calc (2 ^ f + c % 2 ^ f) * 2 ^ (c / 2 ^ f - 1) < (2 ^ f + 2 ^ f) * 2 ^ (c / 2 ^ f - 1) := Nat.mul_lt_mul_of_pos_right (by omega) (by positivity)
      _ = 2 ^ (f + c / 2 ^ f) := by rw [hb, Nat.succ_sub_one, ← two_mul, ← pow_succ', ← pow_add]; congr 1; omega

/-- The code of `n` units of `2 ^ k`, in the binade of these units or at its end. -/
theorem codeUnits_compose {f k n : Nat} (hlo : k = 0 ∨ 2 ^ f ≤ n) (hhi : n ≤ 2 ^ (f + 1)) : codeUnits f (k * 2 ^ f + n) = n * 2 ^ k := by
  have hpos : 0 < 2 ^ f := by positivity
  rw [pow_succ] at hhi
  rcases Nat.lt_or_ge n (2 ^ f) with hsub | hnorm
  · obtain rfl : k = 0 := by omega
    rw [Nat.zero_mul, Nat.zero_add, codeUnits_of_lt hsub, pow_zero, Nat.mul_one]
  rcases Nat.lt_or_ge n (2 ^ f * 2) with hlt | hge
  · have hn : k * 2 ^ f + n = (n - 2 ^ f) + (k + 1) * 2 ^ f := by rw [Nat.succ_mul]; omega
    have hfrac : n - 2 ^ f < 2 ^ f := by omega
    rw [codeUnits, hn, Nat.add_mul_div_right _ _ hpos, Nat.div_eq_of_lt hfrac, Nat.add_mul_mod_self_right, Nat.mod_eq_of_lt hfrac, if_neg (by omega)]
    congr 1
    · omega
    · congr 1; omega
  · have hn : k * 2 ^ f + n = (k + 2) * 2 ^ f := by rw [Nat.add_mul]; omega
    rw [codeUnits, hn, Nat.mul_div_cancel _ hpos, Nat.mul_mod_left, if_neg (by omega), show n = 2 ^ f * 2 by omega, Nat.add_zero, mul_assoc, ← pow_succ']
    congr 2

/-- From `2 ^ f` units of `2 ^ k` on, no code is worth something between two multiples of these units. -/
theorem codeUnits_le_or_ge {f k n : Nat} (h : k = 0 ∨ 2 ^ f ≤ n) (c : Nat) : codeUnits f c ≤ n * 2 ^ k ∨ (n + 1) * 2 ^ k ≤ codeUnits f c := by
  rcases h with rfl | h
  · omega
  rcases Nat.lt_or_ge k (c / 2 ^ f) with hk | hk
  · have hval : codeUnits f c = (2 ^ f + c % 2 ^ f) * 2 ^ (c / 2 ^ f - 1 - k) * 2 ^ k := by
      rw [codeUnits, if_neg (by omega), mul_assoc, ← pow_add]
      congr 2
      omega
    rw [hval]
    rcases Nat.lt_or_ge n ((2 ^ f + c % 2 ^ f) * 2 ^ (c / 2 ^ f - 1 - k)) with hlt | hge
    · exact .inr (Nat.mul_le_mul_right _ hlt)
    · exact .inl (Nat.mul_le_mul_right _ hge)
  · left
    calc codeUnits f c ≤ 2 ^ (f + c / 2 ^ f) := (codeUnits_lt f c).le
      _ ≤ 2 ^ (f + k) := Nat.pow_le_pow_right (by omega) (by omega)
      _ ≤ n * 2 ^ k := by rw [pow_add]; exact Nat.mul_le_mul_right _ h

/-! ### Rounding to nearest even (02 R66) -/

/-- Whether `V` is nearer to the multiple of `2 ^ k` above it than to the one below, or as near to both and the one above is even. -/
def goesUp (V k : Nat) : Bool := 2 ^ (k - 1) < V % 2 ^ k || (V % 2 ^ k == 2 ^ (k - 1) && V / 2 ^ k % 2 == 1)

/-- `V` in units of `2 ^ k`, rounded to nearest even. -/
def nearestUnits (V k : Nat) : Nat := V / 2 ^ k + (goesUp V k).toNat

theorem nearestUnits_zero (V : Nat) : nearestUnits V 0 = V := by simp [nearestUnits, goesUp, Nat.mod_one]

/-- Of two multiples around `V`, the rounded one is the nearer, and the even one where both are as near. -/
theorem nearestUnits_cases (V k : Nat) :
    (nearestUnits V k = V / 2 ^ k ∧ V - V / 2 ^ k * 2 ^ k ≤ (V / 2 ^ k + 1) * 2 ^ k - V ∧
      (V - V / 2 ^ k * 2 ^ k = (V / 2 ^ k + 1) * 2 ^ k - V → nearestUnits V k % 2 = 0)) ∨
    (nearestUnits V k = V / 2 ^ k + 1 ∧ (V / 2 ^ k + 1) * 2 ^ k - V ≤ V - V / 2 ^ k * 2 ^ k ∧
      (V - V / 2 ^ k * 2 ^ k = (V / 2 ^ k + 1) * 2 ^ k - V → nearestUnits V k % 2 = 0)) := by
  cases k with
  | zero => left; simp [nearestUnits_zero]
  | succ k =>
    have hmod := Nat.mod_add_div V (2 ^ (k + 1))
    have hlt : V % 2 ^ (k + 1) < 2 ^ (k + 1) := Nat.mod_lt _ (by positivity)
    rw [Nat.mul_comm] at hmod
    rw [Nat.succ_mul]
    simp only [nearestUnits, goesUp, Nat.add_sub_cancel]
    have hpow : 2 ^ (k + 1) = 2 * 2 ^ k := pow_succ' 2 k
    generalize V / 2 ^ (k + 1) * 2 ^ (k + 1) = M at *
    generalize V / 2 ^ (k + 1) = n at *
    generalize V % 2 ^ (k + 1) = r at *
    rcases Nat.lt_trichotomy r (2 ^ k) with hr | hr | hr
    · left
      simp [hr.not_gt, hr.ne]
      omega
    · rcases Nat.mod_two_eq_zero_or_one n with hn | hn
      · left
        simp [hr, hn]
        omega
      · right
        simp [hr, hn]
        omega
    · right
      simp [hr]
      omega

/-- The magnitude code to which `V` units of the smallest subnormal are rounded, were there codes without end. -/
def roundedCode (f V : Nat) : Nat := (Nat.log2 V - f) * 2 ^ f + nearestUnits V (Nat.log2 V - f)

section
variable {f V : Nat}

theorem units_le (f : Nat) (hV : V ≠ 0) : Nat.log2 V - f = 0 ∨ 2 ^ f ≤ V / 2 ^ (Nat.log2 V - f) := by
  rcases Nat.eq_zero_or_pos (Nat.log2 V - f) with h | h
  · exact .inl h
  · refine .inr ((Nat.le_div_iff_mul_le (by positivity)).2 ?_)
    rw [← pow_add, show f + (Nat.log2 V - f) = Nat.log2 V by omega]
    exact Nat.log2_self_le hV

theorem units_lt (f V : Nat) : V / 2 ^ (Nat.log2 V - f) < 2 ^ (f + 1) := by
  refine (Nat.div_lt_iff_lt_mul (by positivity)).2 ?_
  calc V < 2 ^ (Nat.log2 V + 1) := Nat.lt_log2_self
    _ ≤ 2 ^ (f + 1 + (Nat.log2 V - f)) := Nat.pow_le_pow_right (by omega) (by omega)
    _ = 2 ^ (f + 1) * 2 ^ (Nat.log2 V - f) := pow_add 2 _ _

theorem nearestUnits_le (V k : Nat) : nearestUnits V k ≤ V / 2 ^ k + 1 := Nat.add_le_add_left (Bool.toNat_le _) _

theorem le_nearestUnits (V k : Nat) : V / 2 ^ k ≤ nearestUnits V k := Nat.le_add_right _ _

theorem codeUnits_roundedCode (hV : V ≠ 0) : codeUnits f (roundedCode f V) = nearestUnits V (Nat.log2 V - f) * 2 ^ (Nat.log2 V - f) :=
  codeUnits_compose ((units_le f hV).imp_right fun h => h.trans (le_nearestUnits _ _)) ((nearestUnits_le _ _).trans (units_lt f V))

theorem roundedCode_mod_two (hf : 1 ≤ f) : roundedCode f V % 2 = nearestUnits V (Nat.log2 V - f) % 2 := by
  obtain ⟨b, rfl⟩ := Nat.exists_eq_add_of_le' hf
  rw [roundedCode, pow_succ, ← mul_assoc, Nat.mul_add_mod_self_right]

theorem natAbs_sub_cast {a b : Nat} (h : a ≤ b) : ((b : Int) - a).natAbs = b - a := by rw [← Nat.cast_sub h, Int.natAbs_natCast]

/-- Nothing outside two bounds is nearer to what lies between them than the nearer bound. -/
theorem dist_le_of_outside {V lo hi d : Nat} {z : Int} (hlo : d ≤ V - lo) (hhi : d ≤ hi - V) (hz : z.natAbs ≤ lo ∨ hi ≤ z.natAbs) : d ≤ ((V : Int) - z).natAbs := by
  have hdown : (V : Int) - z ≤ ((V : Int) - z).natAbs := Int.le_natAbs
  have hup : z - V ≤ ((V : Int) - z).natAbs := by rw [← Int.natAbs_neg, neg_sub]; exact Int.le_natAbs
  generalize ((V : Int) - z).natAbs = x at *
  rcases hz with hz | hz
  · clear hup hhi
    omega
  · clear hlo
    omega

/-- What lies outside two bounds, and is no farther from what lies between them than the nearer bound, is a bound. -/
theorem eq_bound_of_dist_le {V lo hi d : Nat} {z : Int} (hV : lo ≤ V) (hV' : V ≤ hi) (hlt : lo < hi) (hlo : d ≤ V - lo) (hhi : d ≤ hi - V)
    (hz : z.natAbs ≤ lo ∨ hi ≤ z.natAbs) (hd : ((V : Int) - z).natAbs = d) : (z = lo ∧ d = V - lo) ∨ (z = hi ∧ d = hi - V) := by
  have hdown : (V : Int) - z ≤ d := hd ▸ Int.le_natAbs
  have hup : z - V ≤ d := by rw [← hd, ← Int.natAbs_neg, neg_sub]; exact Int.le_natAbs
  clear hd
  rcases hz with hz | hz
  · have hz' : z ≤ lo := Int.le_natAbs.trans (Int.ofNat_le.2 hz)
    clear hz hup hhi
    exact .inl (by omega)
  · rcases Int.natAbs_eq z with h | h
    · clear hdown hlo
      exact .inr (by omega)
    · exact absurd hdown (by clear hup; omega)

/-- Nothing that a code is worth, with either sign, is nearer to `V`; and where something else is as near, the code is even. -/
theorem roundedCode_nearest (hV : V ≠ 0) (hf : 1 ≤ f) {z : Int} {c : Nat} (hz : z.natAbs = codeUnits f c) :
    ((V : Int) - codeUnits f (roundedCode f V)).natAbs ≤ ((V : Int) - z).natAbs ∧
    (z ≠ codeUnits f (roundedCode f V) → ((V : Int) - z).natAbs = ((V : Int) - codeUnits f (roundedCode f V)).natAbs → roundedCode f V % 2 = 0) := by
  rw [codeUnits_roundedCode hV, roundedCode_mod_two hf]
  have hbetween := codeUnits_le_or_ge (units_le f hV) c
  rw [← hz] at hbetween
  have hlo : V / 2 ^ (Nat.log2 V - f) * 2 ^ (Nat.log2 V - f) ≤ V := Nat.div_mul_le_self _ _
  have hhi : V < (V / 2 ^ (Nat.log2 V - f) + 1) * 2 ^ (Nat.log2 V - f) := Nat.lt_mul_of_div_lt (Nat.lt_succ_self _) (by positivity)
  rcases nearestUnits_cases V (Nat.log2 V - f) with ⟨hn, hle, heven⟩ | ⟨hn, hle, heven⟩
  all_goals
    rw [hn] at heven ⊢
    generalize V / 2 ^ (Nat.log2 V - f) * 2 ^ (Nat.log2 V - f) = lo at *
    generalize (V / 2 ^ (Nat.log2 V - f) + 1) * 2 ^ (Nat.log2 V - f) = hi at *
  · rw [natAbs_sub_cast hlo]
    refine ⟨dist_le_of_outside le_rfl hle hbetween, fun hne hd => ?_⟩
    rcases eq_bound_of_dist_le hlo hhi.le (hlo.trans_lt hhi) le_rfl hle hbetween hd with ⟨hz, -⟩ | ⟨-, hd⟩
    · exact absurd hz hne
    · exact heven hd
  · rw [← Int.natAbs_neg, neg_sub, natAbs_sub_cast hhi.le]
    refine ⟨dist_le_of_outside hle le_rfl hbetween, fun hne hd => ?_⟩
    rcases eq_bound_of_dist_le hlo hhi.le (hlo.trans_lt hhi) hle le_rfl hbetween hd with ⟨-, hd⟩ | ⟨hz, -⟩
    · exact heven hd.symm
    · exact absurd hz hne

/-- 02 R67: the code is that of a finite number exactly below half a unit beyond the largest one. -/
theorem roundedCode_lt_iff (hV : V ≠ 0) {e : Nat} (he : 2 ≤ e) :
    roundedCode f V < (2 ^ e - 1) * 2 ^ f ↔ V < (2 ^ (f + 2) - 1) * 2 ^ (2 ^ e - 4) := by
  have hK : 4 ≤ 2 ^ e := Nat.pow_le_pow_right (n := 2) (by omega) he
  obtain ⟨K, hK⟩ := Nat.exists_eq_add_of_le' hK
  rw [show 2 ^ e - 1 = K + 3 by omega, show 2 ^ e - 4 = K by omega, roundedCode]
  have hlo := units_le f hV
  have hhi := units_lt f V
  have hdiv := Nat.div_add_mod V (2 ^ (Nat.log2 V - f))
  have hrem : V % 2 ^ (Nat.log2 V - f) < 2 ^ (Nat.log2 V - f) := Nat.mod_lt _ (by positivity)
  have hup := nearestUnits_le V (Nat.log2 V - f)
  have hdown := le_nearestUnits V (Nat.log2 V - f)
  have hpos : 0 < 2 ^ f := by positivity
  have htwo : 2 ^ (f + 1) = 2 * 2 ^ f := pow_succ' 2 f
  have hfour : 2 ^ (f + 2) = 4 * 2 ^ f := by rw [pow_add]; omega
  rcases Nat.lt_trichotomy (Nat.log2 V - f) (K + 1) with hk | hk | hk
  · have hsmall : V < 2 ^ (f + 1) * 2 ^ K :=
      calc V < 2 ^ (f + 1) * 2 ^ (Nat.log2 V - f) := (Nat.div_lt_iff_lt_mul (by positivity)).1 hhi
        _ ≤ 2 ^ (f + 1) * 2 ^ K := Nat.mul_le_mul_left _ (Nat.pow_le_pow_right (by omega) (by omega))
    have hcode : (Nat.log2 V - f) * 2 ^ f ≤ K * 2 ^ f := Nat.mul_le_mul_right _ (by omega)
    refine iff_of_true ?_ (hsmall.trans_le (Nat.mul_le_mul_right _ (by omega)))
    rw [Nat.add_mul]
    omega
  · have hP : 2 ^ (K + 1) = 2 * 2 ^ K := pow_succ' 2 K
    rw [hk] at hhi hdiv hrem hup hdown ⊢
    have htop : (2 ^ (f + 2) - 1) * 2 ^ K = (2 * 2 ^ f - 1) * 2 ^ (K + 1) + 2 ^ K := by
      rw [hP, ← mul_assoc, ← Nat.succ_mul, hfour]
      congr 1
      omega
    have hcode : (K + 1) * 2 ^ f + nearestUnits V (K + 1) < (K + 3) * 2 ^ f ↔ nearestUnits V (K + 1) < 2 * 2 ^ f := by
      rw [Nat.add_mul, Nat.add_mul K 3]
      omega
    rw [hcode, htop]
    rcases Nat.lt_or_ge (V / 2 ^ (K + 1) + 1) (2 * 2 ^ f) with hn | hn
    · have hmul : (V / 2 ^ (K + 1) + 1) * 2 ^ (K + 1) ≤ (2 * 2 ^ f - 1) * 2 ^ (K + 1) := Nat.mul_le_mul_right _ (by omega)
      rw [Nat.succ_mul] at hmul
      exact iff_of_true (by omega) (by rw [← hdiv, Nat.mul_comm]; omega)
    · have hlast : V / 2 ^ (K + 1) = 2 * 2 ^ f - 1 := by omega
      have hodd : (2 * 2 ^ f - 1) % 2 = 1 := by omega
      have hVtop : V < (2 * 2 ^ f - 1) * 2 ^ (K + 1) + 2 ^ K ↔ V % 2 ^ (K + 1) < 2 ^ K := by
        rw [hlast, Nat.mul_comm] at hdiv
        omega
      rw [hVtop, nearestUnits, goesUp, hlast, hodd, Nat.add_sub_cancel]
      rcases Nat.lt_trichotomy (V % 2 ^ (K + 1)) (2 ^ K) with hr | hr | hr
      · simp only [hr.not_gt, beq_eq_false_iff_ne.2 hr.ne, hr, decide_false, Bool.false_and, Bool.or_false, Bool.toNat_false, iff_true]
        omega
      · simp [hr]
        omega
      · simp [hr, hr.not_gt]
        omega
  · have hlarge : 2 ^ f * 2 ^ (K + 2) ≤ V :=
      calc 2 ^ f * 2 ^ (K + 2) ≤ 2 ^ f * 2 ^ (Nat.log2 V - f) := Nat.mul_le_mul_left _ (Nat.pow_le_pow_right (by omega) (by omega))
        _ ≤ V / 2 ^ (Nat.log2 V - f) * 2 ^ (Nat.log2 V - f) := Nat.mul_le_mul_right _ (by omega)
        _ ≤ V := Nat.div_mul_le_self _ _
    have hcode : (K + 2) * 2 ^ f ≤ (Nat.log2 V - f) * 2 ^ f := Nat.mul_le_mul_right _ (by omega)
    refine iff_of_false ?_ (Nat.not_lt.2 (le_trans ?_ hlarge))
    · rw [Nat.add_mul] at hcode ⊢
      omega
    · rw [pow_add 2 K 2, mul_comm (2 ^ K), ← mul_assoc]
      exact Nat.mul_le_mul_right _ (by omega)

end

/-! ### The model's rounding (02 R66, R67) -/

section
variable {F : Fmt}

/-- Rounding in units of the smallest subnormal rounds in any units. -/
theorem roundUnits_rn (neg : Bool) (m d : Nat) {e q qmin : Int} (he : e = qmin + d) {k : Nat} (hq : q = qmin + k) :
    roundUnits .rn neg m e q false = nearestUnits (m * 2 ^ d) k := by
  subst he hq
  unfold roundUnits nearestUnits goesUp
  split
  case isTrue h =>
    obtain ⟨c, rfl⟩ : ∃ c, d = c + k := ⟨d - k, by omega⟩
    have hc : (qmin + ((c + k : Nat) : Int) - (qmin + k)).toNat = c := by omega
    have hpos : 0 < 2 ^ k := by positivity
    have hhalf : 0 < 2 ^ (k - 1) := by positivity
    rw [hc, pow_add, ← mul_assoc, Nat.mul_div_cancel _ hpos, Nat.mul_mod_left]
    simp [hhalf.ne]
  case isFalse h =>
    obtain ⟨c, rfl⟩ : ∃ c, k = (c + 1) + d := ⟨k - d - 1, by omega⟩
    have hc : (qmin + ((c + 1 + d : Nat) : Int) - (qmin + d)).toNat = c + 1 := by omega
    have hpos : 0 < 2 ^ d := by positivity
    have hhalf : c + 1 + d - 1 = c + d := by omega
    simp only [hc, roundUp, pow_add 2 (c + 1) d, Nat.mul_div_mul_right _ _ hpos, Nat.mul_mod_mul_right, hhalf, pow_add 2 c d, Nat.add_sub_cancel, Bool.false_or,
      Nat.mul_lt_mul_right hpos, beq_eq_decide, Nat.mul_left_inj hpos.ne']

theorem max_add_sub (q : Int) (d l f : Nat) : max (q + d + l - f) q = q + ((l + d - f : Nat) : Int) := by omega

/-- 02 R66, R67: the rounded encoding of a number that is not zero and has no bit below the smallest subnormal. -/
theorem Fmt.round_rn_bits (hF : F.kind = .ieee) (hinf : 0 < F.infCode) (neg : Bool) {m d : Nat} (hm : m ≠ 0) {e : Int} (he : e = F.qmin + d) :
    (F.round .rn neg m e).bits = F.signBit neg + if roundedCode F.f (m * 2 ^ d) < F.infCode then roundedCode F.f (m * 2 ^ d) else F.infCode := by
  have hlog : Nat.log2 (m * 2 ^ d) = Nat.log2 m + d := by
    refine (Nat.log2_eq_iff (by positivity)).2 ⟨?_, ?_⟩
    · rw [pow_add]
      exact Nat.mul_le_mul_right _ (Nat.log2_self_le hm)
    · rw [Nat.add_right_comm, pow_add]
      exact Nat.mul_lt_mul_of_pos_right Nat.lt_log2_self (by positivity)
  have hV : m * 2 ^ d ≠ 0 := by positivity
  have hq : max (e + (Nat.log2 m : Int) - F.f) F.qmin = F.qmin + ((Nat.log2 (m * 2 ^ d) - F.f : Nat) : Int) := by rw [he, hlog]; exact max_add_sub _ _ _ _
  have hn : nearestUnits (m * 2 ^ d) (Nat.log2 (m * 2 ^ d) - F.f) ≠ 0 := by
    have hle := le_nearestUnits (m * 2 ^ d) (Nat.log2 (m * 2 ^ d) - F.f)
    rcases units_le F.f hV with h | h
    · rw [h, nearestUnits_zero]
      exact hV
    · have : 0 < 2 ^ F.f := by positivity
      omega
  have hmax : F.maxCode = F.infCode - 1 := by rw [Fmt.maxCode, hF]
  have hk : (F.qmin + ((Nat.log2 (m * 2 ^ d) - F.f : Nat) : Int) - F.qmin).toNat = Nat.log2 (m * 2 ^ d) - F.f := by rw [add_sub_cancel_left, Int.toNat_natCast]
  unfold Fmt.round
  simp only [hq, roundUnits_rn neg m d he rfl, beq_eq_false_iff_ne.2 hn, Bool.false_eq_true, if_false, hk, hmax, hF]
  rw [← roundedCode]
  by_cases hc : roundedCode F.f (m * 2 ^ d) < F.infCode
  · rw [if_pos hc, if_pos (by omega)]
  · rw [if_neg hc, if_neg (by omega)]
    rfl

end

/-! ### Sums (02 R69, R70, R81) -/

section
variable {F : Fmt}

theorem Fmt.infCode_lt (F : Fmt) : F.infCode < 2 ^ (F.e + F.f) := by
  rw [Fmt.infCode, pow_add]
  exact Nat.mul_lt_mul_of_pos_right (Nat.sub_lt (by positivity) Nat.one_pos) (by positivity)

theorem Fmt.infCode_pos (he : 2 ≤ F.e) : 0 < F.infCode := by
  have h4 : 4 ≤ 2 ^ F.e := Nat.pow_le_pow_right (n := 2) (by omega) he
  exact Nat.mul_pos (by omega) (by positivity)

theorem Fmt.signBit_eq (F : Fmt) (neg : Bool) : F.signBit neg = if neg then 2 ^ (F.e + F.f) else 0 := by cases neg <;> simp [Fmt.signBit]

theorem magnitude_signBit_add (neg : Bool) {c : Nat} (hc : c < 2 ^ (F.e + F.f)) : magnitude F (F.signBit neg + c) = c := by
  rw [magnitude, Fmt.signBit, Nat.add_comm, Nat.add_mul_mod_self_right, Nat.mod_eq_of_lt hc]

theorem bitAt_signBit_add (neg : Bool) {c : Nat} (hc : c < 2 ^ (F.e + F.f)) : bitAt (F.signBit neg + c) (F.e + F.f) = neg := by
  rw [bitAt, Fmt.signBit, Nat.add_comm, Nat.add_mul_div_right _ _ (by positivity), Nat.div_eq_of_lt hc]
  cases neg <;> rfl

theorem scaled_signBit_add (neg : Bool) {c : Nat} (hc : c < 2 ^ (F.e + F.f)) :
    scaled F (F.signBit neg + c) = if neg then -(codeUnits F.f c : Int) else (codeUnits F.f c : Int) := by
  rw [scaled_eq, magnitude_signBit_add neg hc, bitAt_signBit_add neg hc]

theorem natAbs_scaled (F : Fmt) (x : Nat) : (scaled F x).natAbs = codeUnits F.f (magnitude F x) := by
  rw [scaled_eq]
  split <;> simp

/-- The encoding to which an exact value other than zero is rounded, in units of the smallest subnormal. -/
def Fmt.nearest (F : Fmt) (v : Int) : Nat :=
  F.signBit (decide (v < 0)) + if roundedCode F.f v.natAbs < F.infCode then roundedCode F.f v.natAbs else F.infCode

theorem nearestEven_nearest (he : 2 ≤ F.e) (hf : 1 ≤ F.f) {v : Int} (hv : v ≠ 0) : NearestEven F v (F.nearest v) := by
  have hV : v.natAbs ≠ 0 := Int.natAbs_ne_zero.2 hv
  have hfinite : roundedCode F.f v.natAbs < F.infCode ↔ v.natAbs < (2 ^ (F.f + 2) - 1) * 2 ^ (2 ^ F.e - 4) := roundedCode_lt_iff hV he
  refine ⟨fun htop => ?_, fun htop => ?_⟩
  · rw [Fmt.nearest, if_neg (fun h => absurd (hfinite.1 h) htop.not_gt), Fmt.signBit_eq]
    simp
  have hc := hfinite.2 htop
  have hc' : roundedCode F.f v.natAbs < 2 ^ (F.e + F.f) := hc.trans F.infCode_lt
  rw [Fmt.nearest, if_pos hc, magnitude_signBit_add _ hc', scaled_signBit_add _ hc']
  refine ⟨?_, hc, fun w _ => ?_⟩
  · have hsign : F.signBit (decide (v < 0)) ≤ 2 ^ (F.e + F.f) := by rw [Fmt.signBit_eq]; split <;> omega
    have hwidth : 2 ^ F.width = 2 * 2 ^ (F.e + F.f) := by rw [Fmt.width, Nat.add_assoc, pow_add, pow_one]
    omega
  have heven : (F.signBit (decide (v < 0)) + roundedCode F.f v.natAbs) % 2 = roundedCode F.f v.natAbs % 2 := by
    obtain ⟨b, hb⟩ := Nat.exists_eq_add_of_le' (hf.trans (Nat.le_add_left F.f F.e))
    rw [Fmt.signBit, hb, pow_succ, ← mul_assoc, Nat.mul_add_mod_self_right]
  rw [heven]
  rcases Int.lt_or_gt_of_ne hv with hneg | hpos
  · obtain ⟨hnear, htie⟩ := roundedCode_nearest hV hf (z := -scaled F w) (c := magnitude F w) (by rw [Int.natAbs_neg, natAbs_scaled])
    have hflip : ∀ z : Int, (-v - z).natAbs = (v - -z).natAbs := fun z => by rw [← Int.natAbs_neg, neg_sub, sub_neg_eq_add, add_comm, sub_neg_eq_add]
    rw [Int.ofNat_natAbs_of_nonpos hneg.le, hflip, hflip, neg_neg] at hnear htie
    simp only [hneg, decide_true, if_true]
    exact ⟨hnear, fun hne => htie (mt neg_eq_iff_eq_neg.1 hne)⟩
  · obtain ⟨hnear, htie⟩ := roundedCode_nearest hV hf (natAbs_scaled F w)
    rw [Int.natAbs_of_nonneg hpos.le] at hnear htie
    simp only [hpos.not_gt, decide_false, Bool.false_eq_true, if_false]
    exact ⟨hnear, htie⟩

/-! ### Decoding (02 R49) -/

theorem Fmt.decode_nan (hF : F.kind = .ieee) {x : Nat} (h : F.infCode < magnitude F x) : F.decode x = .nan := by
  have h' : F.infCode < x % 2 ^ (F.e + F.f) := h
  simp [Fmt.decode, hF, h']

theorem Fmt.decode_inf (hF : F.kind = .ieee) {x : Nat} (h : magnitude F x = F.infCode) : F.decode x = .inf (bitAt x (F.e + F.f)) := by
  have h' : x % 2 ^ (F.e + F.f) = F.infCode := h
  simp [Fmt.decode, hF, h']

/-- A finite encoding is its units of the smallest subnormal. -/
theorem Fmt.decode_fin (hF : F.kind = .ieee) {x : Nat} (h : magnitude F x < F.infCode) :
    ∃ m d : Nat, F.decode x = .fin (bitAt x (F.e + F.f)) m (F.qmin + d) ∧ codeUnits F.f (magnitude F x) = m * 2 ^ d := by
  have hkind : (FKind.ieee == FKind.nanOnly) = false := rfl
  have hnan : decide (F.infCode < magnitude F x) = false := decide_eq_false h.not_gt
  have hinf : (magnitude F x == F.infCode) = false := beq_eq_false_iff_ne.2 h.ne
  unfold Fmt.decode
  rw [← magnitude]
  simp only [hF, hkind, hnan, hinf, Bool.and_false, Bool.false_and, Bool.false_eq_true, if_false]
  unfold codeUnits
  by_cases hE : magnitude F x / 2 ^ F.f = 0
  · refine ⟨magnitude F x, 0, ?_, ?_⟩
    · have hfrac : magnitude F x % 2 ^ F.f = magnitude F x := Nat.mod_eq_of_lt ((Nat.div_eq_zero_iff.1 hE).resolve_left (by positivity))
      simp [hE, hfrac]
    · rw [if_pos hE, pow_zero, Nat.mul_one]
  · refine ⟨2 ^ F.f + magnitude F x % 2 ^ F.f, magnitude F x / 2 ^ F.f - 1, ?_, if_neg hE⟩
    rw [if_neg (by simpa using hE), Nat.cast_pred (Nat.pos_of_ne_zero hE)]

/-! ### The model's sum (08 R227) -/

theorem units_qmin (neg : Bool) (m d a : Nat) (q : Int) (h : a ≤ d) :
    units neg m (q + d) (q + a) * 2 ^ a = if neg then -((m * 2 ^ d : Nat) : Int) else ((m * 2 ^ d : Nat) : Int) := by
  have hd : (q + (d : Int) - (q + a)).toNat = d - a := by rw [add_sub_add_left_eq_sub, ← Nat.cast_sub h, Int.toNat_natCast]
  have hpow : (2 : Int) ^ d = 2 ^ (d - a) * 2 ^ a := by rw [← pow_add, Nat.sub_add_cancel h]
  unfold units
  rw [hd]
  push_cast
  rw [hpow]
  split <;> ring

/-- The exact sum of two finite numbers, rounded once. -/
theorem Fmt.add_rn_of_fin (hF : F.kind = .ieee) (hinf : 0 < F.infCode) {x y : Nat} (hx : magnitude F x < F.infCode) (hy : magnitude F y < F.infCode) :
    F.add .rn x y = if scaled F x + scaled F y = 0 then F.signBit (bitAt x (F.e + F.f) && bitAt y (F.e + F.f)) else F.nearest (scaled F x + scaled F y) := by
  obtain ⟨m, d, hdx, hmx⟩ := F.decode_fin hF hx
  obtain ⟨n, b, hdy, hmy⟩ := F.decode_fin hF hy
  obtain ⟨a, ha⟩ : ∃ a, a = min d b := ⟨_, rfl⟩
  have hq : min (F.qmin + (d : Int)) (F.qmin + b) = F.qmin + a := by rw [ha, Nat.cast_min, min_add_add_left]
  have hsx : scaled F x = units (bitAt x (F.e + F.f)) m (F.qmin + d) (F.qmin + a) * 2 ^ a := by rw [units_qmin _ _ _ _ _ (ha ▸ min_le_left d b), scaled_eq, hmx]
  have hsy : scaled F y = units (bitAt y (F.e + F.f)) n (F.qmin + b) (F.qmin + a) * 2 ^ a := by rw [units_qmin _ _ _ _ _ (ha ▸ min_le_right d b), scaled_eq, hmy]
  have hpos : (0 : Int) < 2 ^ a := by positivity
  rw [Fmt.add, hdx, hdy, Fmt.addVal, hq, hsx, hsy, ← add_mul]
  generalize units (bitAt x (F.e + F.f)) m (F.qmin + d) (F.qmin + a) + units (bitAt y (F.e + F.f)) n (F.qmin + b) (F.qmin + a) = S
  rw [Fmt.ofSum]
  by_cases hS : S = 0
  · subst hS
    simp only [beq_self_eq_true, if_true, zero_mul]
    congr 1
    cases bitAt x (F.e + F.f) <;> cases bitAt y (F.e + F.f) <;> rfl
  · have hneg : decide (S * 2 ^ a < 0) = decide (S < 0) := decide_eq_decide.2 (by rw [← not_le, ← not_le, mul_nonneg_iff_of_pos_right hpos])
    have habs : (S * 2 ^ a).natAbs = S.natAbs * 2 ^ a := by rw [Int.natAbs_mul, Int.natAbs_pow]; rfl
    rw [if_neg (by simpa using hS), if_neg (mul_ne_zero hS hpos.ne'), F.round_rn_bits hF hinf _ (Int.natAbs_ne_zero.2 hS) rfl, Fmt.nearest, hneg, habs]

/-- 02 R69, R70, R81: the model's sum is the sum. -/
theorem Fmt.sumOf_add (hF : F.kind = .ieee) (he : 2 ≤ F.e) (hf : 1 ≤ F.f) (x y : Nat) : SumOf F x y (F.add .rn x y) := by
  have hnan : F.nan = F.infCode + 2 ^ (F.f - 1) := by rw [Fmt.nan, hF]
  refine ⟨fun h => ?_, fun hx hy => ?_, fun hx hy => ?_, fun hx hy => ?_, fun hx hy => ⟨fun h0 => ?_, fun h0 => ?_⟩⟩
  · rcases h with h | h
    · rw [Fmt.add, F.decode_nan hF h, ← hnan]
      rfl
    · rw [Fmt.add, F.decode_nan hF h, ← hnan]
      cases F.decode x <;> rfl
  · rw [Fmt.add, F.decode_inf hF hx, F.decode_inf hF hy, Fmt.addVal, hnan, Fmt.signBit_eq]
    simp
  · obtain ⟨m, d, hdy, -⟩ := F.decode_fin hF hy
    rw [Fmt.add, F.decode_inf hF hx, hdy, Fmt.addVal, Fmt.signBit_eq]
  · obtain ⟨m, d, hdx, -⟩ := F.decode_fin hF hx
    rw [Fmt.add, F.decode_inf hF hy, hdx, Fmt.addVal, Fmt.signBit_eq]
  · rw [F.add_rn_of_fin hF (F.infCode_pos he) hx hy, if_pos h0, Fmt.signBit_eq]
  · rw [F.add_rn_of_fin hF (F.infCode_pos he) hx hy, if_neg h0]
    exact nearestEven_nearest he hf h0

end

theorem Safety.SumOf.lt_two_pow {F : Fmt} (hf : 1 ≤ F.f) {x y r : Nat} (h : SumOf F x y r) : r < 2 ^ F.width := by
  obtain ⟨hnan, hinf, hxinf, hyinf, hfin⟩ := h
  have hcode := F.infCode_lt
  have hhalf : 2 ^ (F.f - 1) < 2 ^ F.f := Nat.pow_lt_pow_right (by omega) (by omega)
  have hquiet : F.infCode + 2 ^ F.f ≤ 2 ^ (F.e + F.f) := by
    rw [Fmt.infCode, ← Nat.succ_mul, pow_add, Nat.succ_eq_add_one, Nat.sub_add_cancel Nat.one_le_two_pow]
  have hwidth : 2 ^ F.width = 2 * 2 ^ (F.e + F.f) := by rw [Fmt.width, Nat.add_assoc, pow_add, pow_one]
  rw [hwidth]
  rcases Nat.lt_trichotomy (magnitude F x) F.infCode with hx | hx | hx
  · rcases Nat.lt_trichotomy (magnitude F y) F.infCode with hy | hy | hy
    · obtain ⟨hzero, hsum⟩ := hfin hx hy
      by_cases h0 : scaled F x + scaled F y = 0
      · rw [hzero h0]
        split <;> omega
      · obtain ⟨htop, hbelow⟩ := hsum h0
        rcases Nat.lt_or_ge (scaled F x + scaled F y).natAbs ((2 ^ (F.f + 2) - 1) * 2 ^ (2 ^ F.e - 4)) with hlt | hge
        · exact hwidth ▸ (hbelow hlt).1
        · rw [htop hge]
          split <;> omega
    · rw [hyinf hx hy]
      split <;> omega
    · rw [hnan (.inr hy)]
      omega
  · rcases Nat.lt_trichotomy (magnitude F y) F.infCode with hy | hy | hy
    · rw [hxinf hx hy]
      split <;> omega
    · rw [hinf hx hy]
      split
      · split <;> omega
      · omega
    · rw [hnan (.inr hy)]
      omega
  · rw [hnan (.inl hx)]
    omega

/-! ### The operators on integers (09 R251) -/

/-- The number that the bits of a type's only element stand for (07 R183). -/
def Ty.number (t : Ty) (x : BitVec t.bits) : Int := if t.signed then x.toInt else x.toNat

theorem Ty.ofInt_number (t : Ty) (x : BitVec t.bits) : BitVec.ofInt t.bits (t.number x) = x := by
  unfold Ty.number
  split <;> simp

/-- The order of a type's numbers, on their bits. -/
def Ty.less (t : Ty) (x y : BitVec t.bits) : Bool := if t.signed then x.slt y else x.ult y

theorem Ty.less_iff (t : Ty) {x y : BitVec t.bits} : t.less x y = true ↔ t.number x < t.number y := by
  unfold Ty.less Ty.number
  split
  · exact BitVec.slt_iff_toInt_lt
  · rw [BitVec.ult_iff_toNat_lt, Int.ofNat_lt]

section
variable {t : Ty} (ht : t.elemBits = t.bits) (h1 : t.elems = 1) (x y : BitVec t.bits)
include ht h1

/-- A wrapped result of a type of one element. -/
theorem intOp_single (f : Int → Int → Int) : intOp t false (fun a b _ => f a b) x.toNat y.toNat 0 = (BitVec.ofInt t.bits (f (t.number x) (t.number y))).toNat := by
  have hval (z : BitVec t.bits) : elemVal t.signed t.bits z.toNat = t.number z := by
    rw [elemVal_eq, BitVec.ofNat_toNat, BitVec.setWidth_eq]
    rfl
  rw [intOp, ht, h1, mapElems_one, Nat.mod_eq_of_lt (zext_lt _ _), hval, hval, ← zext_eq_toNat]
  rfl

theorem intOp_add : intOp t false (fun a b _ => a + b) x.toNat y.toNat 0 = (x + y).toNat := by
  rw [intOp_single ht h1, BitVec.ofInt_add, t.ofInt_number, t.ofInt_number]

theorem intOp_sub : intOp t false (fun a b _ => a - b) x.toNat y.toNat 0 = (x - y).toNat := by
  rw [intOp_single ht h1, sub_eq_add_neg, BitVec.ofInt_add, BitVec.ofInt_neg, t.ofInt_number, t.ofInt_number, BitVec.sub_eq_add_neg]

theorem intOp_min : intOp t false (fun a b _ => min a b) x.toNat y.toNat 0 = (if t.less x y then x else y).toNat := by
  rw [intOp_single ht h1]
  split
  case isTrue h => rw [min_eq_left (t.less_iff.1 h).le, t.ofInt_number]
  case isFalse h => rw [min_eq_right (not_lt.1 (mt t.less_iff.2 h)), t.ofInt_number]

theorem intOp_max : intOp t false (fun a b _ => max a b) x.toNat y.toNat 0 = (if t.less x y then y else x).toNat := by
  rw [intOp_single ht h1]
  split
  case isTrue h => rw [max_eq_right (t.less_iff.1 h).le, t.ofInt_number]
  case isFalse h => rw [max_eq_left (not_lt.1 (mt t.less_iff.2 h)), t.ofInt_number]

end

open Machine

theorem atNew_cas {w : Nat} (t : Ty) (x y z : BitVec w) : atNew .cas t x.toNat y.toNat z.toNat = (if x = y then z else x).toNat := by
  simp only [atNew, beq_iff_eq, BitVec.toNat_inj]
  split <;> rfl

theorem atNew_add_bf16x2 (a b c : Nat) : atNew .add .bf16x2 a b c = mapElems 16 (fun x y _ => Fmt.bf16.add .rn (x % 2 ^ 16) (y % 2 ^ 16)) 2 a b 0 := rfl

/-- 09 R251: each half of a bf16x2 sum is the sum of the halves. -/
theorem atNew_add_bf16x2_half (a b c : Nat) {k : Nat} (hk : k < 2) :
    atNew .add .bf16x2 a b c / 2 ^ (16 * k) % 2 ^ 16 = Fmt.bf16.add .rn (a / 2 ^ (16 * k) % 2 ^ 16) (b / 2 ^ (16 * k) % 2 ^ 16) := by
  have hlt : Fmt.bf16.add .rn (a / 2 ^ (16 * k) % 2 ^ 16) (b / 2 ^ (16 * k) % 2 ^ 16) < 2 ^ 16 :=
    (Fmt.sumOf_add (F := .bf16) rfl (by decide) (by decide) _ _).lt_two_pow (by decide)
  rw [atNew_add_bf16x2, mapElems_elem 16 _ hk, Nat.mod_eq_of_lt hlt]

/-- Settles O35: integers by `intOp_single`, a sum of floating-point numbers by `Fmt.sumOf_add`, for any format with infinities. -/
theorem atomicOperators : Obligations.AtomicOperators := by
  have hsum {F : Fmt} (hF : F.kind = .ieee ∧ 2 ≤ F.e ∧ 1 ≤ F.f) (a b : Nat) : SumOf F a b (F.add .rn a b) := Fmt.sumOf_add hF.1 hF.2.1 hF.2.2 a b
  refine ⟨fun x y z => ?_, fun p q r => ?_, atNew_cas .b64, fun x y _ => hsum (F := .f32) (by decide) x.toNat y.toNat, fun x y z k hk => ?_, fun x y z => ?_⟩
  · exact ⟨intOp_add (t := .n32) rfl rfl x y, intOp_add (t := .s32) rfl rfl x y, intOp_sub (t := .n32) rfl rfl x y, intOp_sub (t := .s32) rfl rfl x y,
      intOp_min (t := .n32) rfl rfl x y, intOp_max (t := .n32) rfl rfl x y, intOp_min (t := .s32) rfl rfl x y, intOp_max (t := .s32) rfl rfl x y,
      (BitVec.toNat_and x y).symm, (BitVec.toNat_or x y).symm, (BitVec.toNat_xor x y).symm, rfl, atNew_cas .b32 x y z⟩
  · exact ⟨intOp_add (t := .n64) rfl rfl p q, intOp_add (t := .s64) rfl rfl p q, intOp_sub (t := .n64) rfl rfl p q, intOp_sub (t := .s64) rfl rfl p q,
      intOp_min (t := .n64) rfl rfl p q, intOp_max (t := .n64) rfl rfl p q, intOp_min (t := .s64) rfl rfl p q, intOp_max (t := .s64) rfl rfl p q,
      (BitVec.toNat_and p q).symm, (BitVec.toNat_or p q).symm, (BitVec.toNat_xor p q).symm, rfl, atNew_cas .b64 p q r⟩
  · rw [atNew_add_bf16x2_half _ _ _ hk]
    exact hsum (by decide) _ _
  · rw [atNew_add_bf16x2]
    exact mapElems_lt 16 _ 2 _ _ _

end Sys2Proof
end

section
/-! SUPPORT. An event on a versioned page beside a held word of the page table (03 R103, 16 R400, R417). -/

namespace Sys2Proof

namespace Machine

/-- 15 R380: a trap that a handler takes gives no held word back. -/
theorem State.takeTrap_hot {s : State} {w g : Nat} (hkernel : (s.gang w g).handler = false) (hok : s.handlerOk (unitCore (s.wg w).core) (s.partOf w) = true)
    (t : TrapInfo) : (s.takeTrap w g t).hot = s.hot := by
  have henter : s.takeTrap w g t = s.enterHandler w g t := by simp [State.takeTrap, hkernel, hok]
  rw [henter, State.enterHandler, State.dropLatches, updSlice_eq]
  rfl

end Machine

open Machine Safety Tests

/-- The handler of partition 0 stands at 0x10000, its page table at 0x20000, and the ingress atomic unit holds the word of the table's first entry. -/
def heldTable : State :=
  { at0 with
    parts := updWhere (fun q => q.idx == 0) (fun q => { q with csr := [(0x008, 0x10000), (0x200, 0x20001)] }) at0.parts
    hot := [0x20000 / 8] }

/-- A `phi` on the versioned page at 0. -/
def versionedPhi : Op := { a := .v 2 }

/-- The walk to the page gives the held word back before the lane traps (16 R417). -/
theorem heldTable_phi : (run (.phi versionedPhi .ver) heldTable).hot = [] := by decide +kernel

/-- Whatever the lanes trap with, the trap itself keeps the word held. -/
theorem heldTable_fault (caps : List Cap) (f : Nat × List Nat × DWord) : (heldTable.faultLanes caps f).hot = [0x4000] := by
  rw [State.faultLanes, State.trapIssue, if_neg (by decide +kernel), State.takeTrap_hot (by decide +kernel) (by decide +kernel)]
  rfl

/-- Refutes O38, in its clause on `phi` of a versioned page: the trap is not taken of the machine as it stands, for the walks to the lanes' pages first give back the held
words of the lines of the page table that they read. -/
theorem not_phaseInstructionsComplete : ¬ Obligations.PhaseInstructionsComplete := by
  unfold Obligations.PhaseInstructionsComplete
  rintro ⟨-, -, -, -, -, -, hphi, -⟩
  obtain ⟨f, hexec, -⟩ := hphi versionedPhi heldTable ⟨by decide +kernel, by decide +kernel⟩ (by decide +kernel)
  have hrun : run (.phi versionedPhi .ver) heldTable = heldTable.faultLanes (heldTable.captureOp (phaseKinds .ver) versionedPhi) f := by
    rw [run, hexec]
  have hhot := congrArg State.hot hrun
  rw [heldTable_phi, heldTable_fault] at hhot
  exact absurd hhot (by decide)

end Sys2Proof
end

section
/-! SUPPORT. Loads (09 R243 to R249): what each lane reads inside the package, and what its threads then hold. -/

namespace Sys2Proof

namespace Machine

open Safety

/-! ### One lane's load notes, and changes nothing -/

section
variable (s : State) (tl : List Tlb) (h : List Nat) (vs : List SyncView)

@[simp] theorem State.refused_noting (sp : Space) (r : LaneRef) : (s.noting tl h vs).refused sp r = s.refused sp r := rfl
@[simp] theorem State.staleTag_noting (sp : Space) (r : LaneRef) : (s.noting tl h vs).staleTag sp r = s.staleTag sp r := rfl
@[simp] theorem State.loadVal_noting (sp : Space) (w : Width) (r : LaneRef) : (s.noting tl h vs).loadVal sp w r = s.loadVal sp w r := rfl

end

/-- 04 R119, R132: an `ldv` that returns data only observes releases. -/
theorem State.observeStep_noting (s : State) (sp : Space) (r : LaneRef) : ∃ vs, s.observeStep sp r = s.noting s.tlb s.hot vs := by
  unfold State.observeStep
  split
  · rw [Hb.observe_eq]
    exact ⟨_, rfl⟩
  · exact ⟨_, rfl⟩

/-- 09 R244, R246: one lane's load adds what the lane reads to the results. -/
theorem State.loadLane_noting (sp : Space) (w : Width) (s : State) (tl : List Tlb) (h : List Nat) (vs : List SyncView) (got : List (Nat × Option Nat)) (r : LaneRef) :
    ∃ h' vs', State.loadLane sp w (s.noting tl h vs, got) r = (s.noting tl h' vs', got ++ [(r.cap.lane, s.loadVal sp w r)]) := by
  obtain ⟨h1, hrecall⟩ : ∃ h1, (s.noting tl h vs).recallAt r.place (WF.widthBytes w) = s.noting tl h1 vs :=
    (s.noting tl h vs).recallAt_noting r.place (WF.widthBytes w)
  unfold State.loadLane
  dsimp only
  rw [hrecall, State.loadVal_noting]
  cases s.loadVal sp w r with
  | none => exact ⟨_, _, rfl⟩
  | some v =>
    obtain ⟨vs1, hload⟩ := (s.noting tl h1 vs).loadSync_noting r.cap.lane r.place (WF.widthBytes w)
    obtain ⟨vs2, hobserve⟩ := (s.noting tl h1 vs1).observeStep_noting sp r
    refine ⟨h1, vs2, ?_⟩
    dsimp only
    rw [hload]
    exact Prod.ext hobserve rfl

theorem foldl_loadLane (sp : Space) (w : Width) (s : State) : ∀ (refs : List LaneRef) (tl : List Tlb) (h : List Nat) (vs : List SyncView) (got : List (Nat × Option Nat)),
    ∃ h' vs', refs.foldl (State.loadLane sp w) (s.noting tl h vs, got) = (s.noting tl h' vs', got ++ refs.map fun r => (r.cap.lane, s.loadVal sp w r)) := by
  intro refs
  induction refs with
  | nil => exact fun tl h vs got => ⟨h, vs, by simp⟩
  | cons r refs ih =>
    intro tl h vs got
    obtain ⟨h1, vs1, hstep⟩ := State.loadLane_noting sp w s tl h vs got r
    obtain ⟨h2, vs2, hrest⟩ := ih tl h1 vs1 (got ++ [(r.cap.lane, s.loadVal sp w r)])
    exact ⟨h2, vs2, by rw [List.foldl_cons, hstep, hrest, List.map_cons, List.append_assoc, List.singleton_append]⟩

/-! ### A load whose lanes all read inside the package -/

/-- 03 R101: where nothing has to be asked for, no line is stale either. -/
theorem State.staleTag_of_noneAsks {s : State} {sp : Space} {place : Cap → Except Nat Place} {n : Nat} {caps : List Cap} (h : NoneAsks s sp place n caps) {r : LaneRef}
    (hr : r ∈ placed place caps) : s.leaves s.cur.wg r.place n = false ∧ s.staleTag sp r = false := by
  obtain ⟨hc, hp⟩ := mem_placed.1 hr
  obtain ⟨hleaves, hver⟩ := h r.cap hc r.place hp
  refine ⟨hleaves, ?_⟩
  unfold State.staleTag
  split
  case h_2 => rfl
  case h_1 k v hplace =>
    cases hpeer : isPeer k with
    | false => rfl
    | true =>
      obtain ⟨hfull, hserved⟩ := hver rfl k v hplace hpeer
      have hr' : s.refused .ver r = false := hserved
      simp [hfull, hr']

/-- 09 R243 to R249: a load that passes its checks and asks for nothing writes what its lanes read. -/
theorem State.loadOp_of_passes {s : State} {sp : Space} {o : Op} {w : Width} {caps : List Cap} {place : Cap → Except Nat Place} (i : Instr)
    (hcaps : caps = s.captureOp (loadKinds sp (if sp == .ver then .n32 else .unused)) o)
    (hplace : place = fun c => s.place sp .read s.cur.wg (effAddr (wideSpace sp) c) (WF.widthBytes w)) (hm : s.cur.mism < 2) (hpass : Passes place caps)
    (hpois : NonePoisoned s place (WF.widthBytes w) caps) (hasks : NoneAsks s sp place (WF.widthBytes w) caps) :
    ∃ tl h vs, s.loadOp i sp o w = (s.noting tl h vs).loadDone o w ((placed place caps).map fun r => (r.cap.lane, s.loadVal sp w r)) := by
  obtain ⟨tl, hot, hcache⟩ := s.cacheLanes_noting sp (effAddr (wideSpace sp)) caps
  obtain ⟨h, vs, hfold⟩ := foldl_loadLane sp w s (placed place caps) tl hot s.hb.views []
  have hpois' : NonePoisoned (s.noting tl hot s.hb.views) place (WF.widthBytes w) caps := hpois
  have hin : ∀ r ∈ placed place caps, (s.leaves s.cur.wg r.place (WF.widthBytes w) || s.staleTag sp r) = false := fun r hr => by
    rw [(State.staleTag_of_noneAsks hasks hr).1, (State.staleTag_of_noneAsks hasks hr).2]
    rfl
  have hnone : (placed place caps).any (fun r => s.leaves s.cur.wg r.place (WF.widthBytes w) || s.staleTag sp r) = false :=
    List.any_eq_false.2 fun r hr => by simpa using hin r hr
  have hall : (placed place caps).filter (fun r => !(s.leaves s.cur.wg r.place (WF.widthBytes w) || s.staleTag sp r)) = placed place caps :=
    List.filter_eq_self.2 fun r hr => by rw [hin r hr]; rfl
  refine ⟨tl, h, vs, ?_⟩
  rw [State.loadOp, ← hcaps, Laws.checked_of_mism _ _ hm, Laws.withPlaces_of_passes _ (hplace ▸ hpass), ← hplace, hcache, Laws.unpoisoned_of_none _ hpois']
  simp only [State.leaves_noting, State.staleTag_noting, State.noting_cur, hnone, hall, hfold, Bool.false_eq_true, if_false, List.nil_append]

/-! ### What the threads then hold -/

/-- What the lanes of some places give a lane is what its first capture's place gives it. -/
theorem laneVal_placed {α : Type} (f : Cap → Except Nat Place) (g : LaneRef → α) (lane : Nat) : ∀ {caps : List Cap}, Passes f caps →
    laneVal ((placed f caps).map fun r => (r.cap.lane, g r)) lane = (caps.find? fun c => c.lane == lane).bind fun c => match f c with
      | .ok p => some (g { cap := c, place := p })
      | .error _ => none
  | [], _ => rfl
  | c :: caps, h => by
    obtain ⟨p, hp⟩ := h c (List.mem_cons_self ..)
    have ih := laneVal_placed f g lane fun d hd => h d (List.mem_cons_of_mem _ hd)
    have hcons : placed f (c :: caps) = { cap := c, place := p } :: placed f caps := by simp [placed, hp]
    rw [hcons, List.map_cons, laneVal, List.find?_cons]
    by_cases hl : c.lane = lane
    · simp [hl, hp]
    · simp [hl, beq_eq_false_iff_ne.2 hl, ih]

/-- A load's write to the registers of a thread: nothing, the cleared predicate of a refused `ldv`, or the value and the set predicate (09 R244, R249). -/
def Thread.takeLoad (t : Thread) (o : Op) (w : Width) : Option (Option Nat) → Thread
  | none => t
  | some none => t.setPred o.d2 false
  | some (some v) => (t.writeDst o (widthWords w) v).setPred o.d2 true

theorem samePlace_takeLoad (t : Thread) (o : Op) (w : Width) (x : Option (Option Nat)) : Laws.SamePlace t (t.takeLoad o w x) := by
  match x with
  | none => exact .refl t
  | some none => exact Laws.samePlace_setPred _ _ _
  | some (some v) => exact (Laws.samePlace_writeDst _ _ _ _).trans (Laws.samePlace_setPred _ _ _)

theorem State.loadDone_eq (s : State) (o : Op) (w : Width) (got : List (Nat × Option Nat)) :
    s.loadDone o w got = (s.updIssue fun t => t.takeLoad o w (laneVal got t.lane)).advance := rfl

/-- A load whose lanes all read inside the package completes. -/
theorem loads_of_loadOp {i : Instr} {sp : Space} {o : Op} {w : Width} (hexec : ∀ s, exec i s = .next (s.loadOp i sp o w)) : Loads i sp o w := by
  intro s caps n place hm hpass hpois hasks
  obtain ⟨got, hgot⟩ : ∃ got, got = (placed place caps).map fun r => (r.cap.lane, s.loadVal sp w r) := ⟨_, rfl⟩
  obtain ⟨tl, h, vs, hload⟩ : ∃ tl h vs, s.loadOp i sp o w = (s.noting tl h vs).loadDone o w got := hgot ▸ State.loadOp_of_passes i rfl rfl hm hpass hpois hasks
  refine ⟨((s.noting tl h vs).updIssue fun t => t.takeLoad o w (laneVal got t.lane)).advance.threads, tl, h, s.rdc, vs, ?_, ?_⟩
  · rw [hexec, hload, State.loadDone_eq, Laws.advance_frame]
    rfl
  · have hthreads := Laws.written_advance s ((s.noting tl h vs).updIssue fun t => t.takeLoad o w (laneVal got t.lane)) _ rfl rfl fun u => samePlace_takeLoad u o w _
    refine hthreads.imp fun u u' ⟨hmoved, hplace⟩ => ⟨?_, hplace⟩
    unfold written
    rw [hgot, laneVal_placed _ _ _ hpass] at hmoved
    by_cases hu : s.inIssue u = true
    · rw [if_pos hu] at hmoved ⊢
      cases hfind : caps.find? fun c => c.lane == u.lane with
      | none =>
        rw [hfind] at hmoved
        exact hmoved
      | some c =>
        obtain ⟨p, hp⟩ := hpass c (List.mem_of_find?_eq_some hfind)
        have hp' : place c = .ok p := hp
        simp only [hfind, Option.bind_some, hp] at hmoved
        simp only [hp']
        unfold State.loadVal at hmoved
        cases href : s.refused sp { cap := c, place := p } with
        | true =>
          rw [href] at hmoved
          exact hmoved
        | false =>
          rw [href] at hmoved
          exact hmoved
    · rw [if_neg hu] at hmoved ⊢
      exact hmoved

end Machine

open Machine

/-- Settles O29: every load is `State.loadOp`, which inside the package is `State.loadDone` of what each lane reads. -/
theorem loadsComplete : Obligations.LoadsComplete := fun _ _ =>
  ⟨loads_of_loadOp fun _ => rfl, loads_of_loadOp fun _ => rfl, loads_of_loadOp fun _ => rfl, loads_of_loadOp fun _ => rfl, loads_of_loadOp fun _ => rfl⟩

end Sys2Proof
end

section
/-! SUPPORT. Shootdowns, the answers of requests, and what a peer or the host does to memory (16 R404, R405, R409, R414 to R417). -/

namespace Sys2Proof

open Machine Safety

/-! ### Shootdowns recorded (16 R404) -/

namespace Machine

/-- A capture read now, not put back by a trap, is that of a lane of the issue. -/
theorem State.lane_mem_of_mem_capture {s : State} {g : Guard} {k : Kinds} {a b c : Src} {x : Cap} (hr : s.cur.replay = false) (h : x ∈ s.capture g k a b c) :
    x.lane ∈ s.cur.lanes := by
  simp only [State.capture, State.captureBy, hr, Bool.false_eq_true, if_false, List.mem_map, List.mem_filter, State.issued] at h
  obtain ⟨t, ⟨⟨-, hin⟩, -⟩, rfl⟩ := h
  exact List.contains_iff_mem.1 (Bool.and_eq_true_iff.1 hin).2

/-- 16 R404: the shootdown that a lane's capture makes, the `k`-th of its issue. -/
def State.shot (s : State) (range : Cap → Nat × Nat) (x : Cap × Nat) : Shootdown :=
  { id := s.uid + x.2, wg := s.cur.wg, gang := s.cur.gang, lane := x.1.lane, part := s.curPart, lo := (range x.1).1, hi := (range x.1).2 }

/-- 16 R405: a thread of the issue's gang whose lane has made a shootdown waits for it. -/
def State.shotBlock (s : State) (caps : List Cap) (t : Thread) : Thread :=
  if (t.wg == s.cur.wg && t.gang == s.cur.gang) && (lanesOf caps).contains t.lane then { t with block := .shoot (s.uid + caps.findIdx fun c => c.lane == t.lane) } else t

/-- 16 R404: one lane's shootdown recorded, its thread kept. -/
def State.shootOne (range : Cap → Nat × Nat) (s : State) (c : Cap) : State :=
  { s with
    uid := s.uid + 1
    shoots := s.shoots ++ [s.shot range (c, 0)]
    threads := updWhere (fun t => t.wg == s.cur.wg && t.gang == s.cur.gang && t.lane == c.lane) (fun t => { t with block := .shoot s.uid }) s.threads }

theorem lanesOf_cons (c : Cap) (caps : List Cap) : lanesOf (c :: caps) = c.lane :: lanesOf caps := rfl

/-- Of lanes that make one shootdown each, the first and the others. -/
theorem State.shotBlock_cons {s : State} {range : Cap → Nat × Nat} {c : Cap} {caps : List Cap} (h : c.lane ∉ lanesOf caps) (t : Thread) :
    (s.shootOne range c).shotBlock caps (if t.wg == s.cur.wg && t.gang == s.cur.gang && t.lane == c.lane then { t with block := .shoot s.uid } else t) =
      s.shotBlock (c :: caps) t := by
  cases hm : (t.wg == s.cur.wg && t.gang == s.cur.gang) with
  | false => simp only [State.shotBlock, State.shootOne, hm, Bool.false_and, Bool.false_eq_true, if_false]
  | true =>
    by_cases hl : c.lane = t.lane
    · have hout : t.lane ∉ lanesOf caps := hl ▸ h
      simp [State.shotBlock, State.shootOne, hm, hl, hout, List.findIdx_cons, lanesOf_cons]
    · have hne : (c.lane == t.lane) = false := beq_eq_false_iff_ne.2 hl
      simp [State.shotBlock, State.shootOne, hm, hne, Ne.symm hl, List.findIdx_cons, lanesOf_cons, Nat.add_right_comm s.uid 1, Nat.add_assoc]

theorem State.foldl_shootOne (range : Cap → Nat × Nat) (caps : List Cap) (s : State) (hd : (lanesOf caps).Nodup) :
    caps.foldl (State.shootOne range) s = { s with uid := s.uid + caps.length, shoots := s.shoots ++ caps.zipIdx.map (s.shot range), threads := s.threads.map (s.shotBlock caps) } := by
  induction caps generalizing s with
  | nil =>
    have h : s.shotBlock [] = id := funext fun t => by simp [State.shotBlock, lanesOf]
    simp [h]
  | cons c caps ih =>
    obtain ⟨hc, hd⟩ := List.nodup_cons.1 hd
    have hshots : caps.zipIdx.map ((s.shootOne range c).shot range) = (caps.zipIdx 1).map (s.shot range) := by
      rw [List.zipIdx_succ, List.map_map]
      refine List.map_congr_left fun x _ => ?_
      simp only [State.shot, State.shootOne, Function.comp, Nat.add_right_comm s.uid 1, Nat.add_assoc]
      rfl
    have hblocks : (s.shootOne range c).threads.map ((s.shootOne range c).shotBlock caps) = s.threads.map (s.shotBlock (c :: caps)) := by
      rw [State.shootOne, updWhere, List.map_map]
      exact List.map_congr_left fun t _ => State.shotBlock_cons hc t
    rw [List.foldl_cons, ih _ hd, hshots, hblocks]
    simp [State.shootOne, Nat.add_comm, Nat.add_left_comm]

/-- 16 R405: the threads that an issue leaves at its shootdowns, and those that it lets go on. -/
theorem State.threads_shot {s : State} {caps : List Cap} (hl : ∀ c ∈ caps, c.lane ∈ s.cur.lanes) (hr : s.cur.replay = false) {t : State}
    (ht : t.threads = s.threads.map (s.shotBlock caps)) (hc : t.cur = s.cur) :
    Threads s (fun u => if runs s caps u then { u with block := .shoot (s.uid + caps.findIdx fun c => c.lane == u.lane) } else u)
      (fun u => if runs s caps u then (u.pc, u.past) else nextPlace s u)
      ((t.updIssue fun u => if (lanesOf caps).contains u.lane then u else u.goto s.cur.next s.cur.past).settle s.cur.wg s.cur.gang).threads := by
  have h := Laws.updThreads_settle t t.inIssue (fun u => if (lanesOf caps).contains u.lane then u else u.goto s.cur.next s.cur.past) s.cur.wg s.cur.gang
  rw [ht] at h
  refine (List.forall₂_map_left_iff.1 h).imp fun u u' hu => ?_
  have hshot : s.shotBlock caps u = if runs s caps u then { u with block := .shoot (s.uid + caps.findIdx fun c => c.lane == u.lane) } else u := by
    cases hlane : (lanesOf caps).contains u.lane with
    | false => simp only [State.shotBlock, runs, hlane, Bool.and_false, Bool.false_eq_true, if_false]
    | true =>
      obtain ⟨c, hcap, hcl⟩ := List.mem_map.1 (List.contains_iff_mem.1 hlane)
      have hcur : s.cur.lanes.contains u.lane = true := List.contains_iff_mem.2 (hcl ▸ hl c hcap)
      simp only [State.shotBlock, runs, State.inIssue, hlane, hcur, Bool.and_true]
  have hin : t.inIssue (s.shotBlock caps u) = s.inIssue u := by
    rw [hshot]; unfold State.inIssue; rw [hc]; split <;> rfl
  rw [hin, hshot] at hu
  cases hruns : runs s caps u with
  | true =>
    obtain ⟨hi, hlane⟩ := runs_iff.1 hruns
    simp only [hruns, hi, hlane, if_true] at hu ⊢
    obtain ⟨hmoved, hpc, hpast, -⟩ := hu
    exact ⟨hmoved, by rw [hpc, hpast]⟩
  | false =>
    cases hi : s.inIssue u with
    | false =>
      simp only [hruns, hi, Bool.false_eq_true, if_false] at hu ⊢
      obtain ⟨hmoved, hpc, hpast, -⟩ := hu
      exact ⟨hmoved, by rw [hpc, hpast, nextPlace, hi]; rfl⟩
    | true =>
      have hlane : (lanesOf caps).contains u.lane = false := by simpa [runs, hi] using hruns
      simp only [hruns, hi, hlane, Bool.false_eq_true, if_false, if_true] at hu ⊢
      obtain ⟨hmoved, hpc, hpast, -⟩ := hu
      exact ⟨Laws.Moved.goto hmoved, by rw [hpc, hpast, nextPlace, hi, hr]; rfl⟩

/-- 16 R404, R405: the shootdowns of an issue whose release side goes through. -/
theorem State.shootdown_of_commits {s : State} {caps : List Cap} (range : Cap → Nat × Nat) (hm : s.cur.mism < 2) (hr : s.cur.replay = false)
    (hl : ∀ c ∈ caps, c.lane ∈ s.cur.lanes) (hne : caps ≠ []) (hd : (lanesOf caps).Nodup) (hc : Commits s .rel .pkg (lanesOf caps)) :
    let r := Safety.released s .rel .pkg (lanesOf caps)
    ∃ th, s.shootdown caps range = { r with uid := r.uid + caps.length, shoots := r.shoots ++ caps.zipIdx.map (r.shot range), threads := th } ∧
      Threads r (fun u => if runs r caps u then { u with block := .shoot (r.uid + caps.findIdx fun c => c.lane == u.lane) } else u)
        (fun u => if runs r caps u then (u.pc, u.past) else nextPlace r u) th := by
  intro r
  have hcur : r.cur = s.cur := (Stands.released (s := s) (th := s.threads) ⟨rfl, rfl⟩).2
  have hth := State.threads_shot (s := r) (caps := caps) (t := caps.foldl (State.shootOne range) r) (hcur ▸ hl) (hcur ▸ hr)
    (by rw [State.foldl_shootOne range caps r hd]) (by rw [State.foldl_shootOne range caps r hd])
  refine ⟨_, ?_, hth⟩
  have hshot : s.shootdown caps range = (((caps.foldl (State.shootOne range) r).updIssue fun u =>
      if (lanesOf caps).contains u.lane then u else u.goto r.cur.next r.cur.past).settle r.cur.wg r.cur.gang) := by
    unfold State.shootdown
    rw [Laws.checked_of_mism _ _ hm]
    refine (Laws.releasing_of_commits _ hc).trans ?_
    rw [if_neg (by simpa using hne)]
    rfl
  rw [hshot, Laws.settle_frame]
  rw [State.foldl_shootOne range caps r hd]
  rfl

/-! ### Shootdowns that complete (16 R405) -/

/-- 16 R405: where the thread of a completed shootdown goes on: after its instruction, of twelve bytes. -/
def Thread.afterShot (t : Thread) : Thread :=
  let p := nextAddr t.pc 12 (t.line.any fun l => l.last)
  { t with pc := p.1, past := p.2, skipBkpt := false, block := .none }

/-- 16 R405: a shootdown as its completion is tried. -/
theorem exec_shootdownComplete {s : State} {id : Nat} {r : Shootdown} (h : s.shoots.find? (fun r => r.id == id) = some r) :
    exec (.shootdownComplete id) s = .next (
      let s1 := s.shootStores r
      let s2 := { s1 with
        shoots := s1.shoots.filter fun q => q.id != id
        tlb := s1.tlb.filter fun e => !(e.part == r.part && overlap e.va e.span r.lo (r.hi - r.lo)) }
      if s.shoots.any fun q => q.wg == r.wg && q.gang == r.gang && q.id < r.id then s
      else if !s1.shootDrained r then s1
      else ((s2.updThreads (fun t => t.block == .shoot id) Thread.afterShot).settle r.wg r.gang).afterIssue r.wg r.gang) := by
  have hgo : (fun t : Thread =>
      let last := match t.line with
        | some l => l.last
        | none => false
      let (pc, past) := nextAddr t.pc 12 last
      { t.goto pc past with block := .none }) = Thread.afterShot := funext fun t => by
    unfold Thread.afterShot Thread.goto
    cases t.line with
    | none => dsimp only [Option.any]
    | some l => dsimp only [Option.any]
  show execShootdownComplete id s = _
  unfold execShootdownComplete
  rw [h, ← hgo]
  rfl

/-! ### Answers from outside (16 R414 to R416) -/

/-- 16 R414, R416: an answer with an error, for a lane that waits. -/
theorem exec_loadReturn_error {s : State} {id lane : Nat} {r : IoReq} {p : Place} {a : Answer} (hr : s.io.find? (fun r => r.id == id) = some r)
    (hw : laneVal r.waits lane = some p) (ha : a = .error ∨ s.noAnswer p = true) :
    exec (.loadReturn ⟨id, lane⟩ a) s = .next ({ s with cur := r.issue }.ioNext (r.fail lane 0x15)) := by
  have hbad : (a == Answer.error || s.noAnswer p) = true := by
    rcases ha with rfl | ha
    · rfl
    · rw [ha, Bool.or_true]
  show execLoadReturn ⟨id, lane⟩ a s = _
  simp only [execLoadReturn, hr, hw, hbad, if_true]

section
variable {s : State} {id lane : Nat} {r : IoReq} {p : Place}

/-- 16 R414: an answer to no waiting lane changes nothing. -/
theorem exec_loadReturn_idle {a : Answer} (hr : s.io.find? (fun r => r.id == id) = some r) (hw : laneVal r.waits lane = none) :
    exec (.loadReturn ⟨id, lane⟩ a) s = .next s := by
  show execLoadReturn ⟨id, lane⟩ a s = _
  simp only [execLoadReturn, hr, hw]

/-- `exec_loadReturn_ok`, of the request that a number finds. -/
theorem exec_loadReturn_answered (hr : s.io.find? (fun r => r.id == id) = some r) (hw : laneVal r.waits lane = some p) (ha : s.noAnswer p = false) :
    exec (.loadReturn ⟨id, lane⟩ .ok) s = .next (s.answered r (r.ref lane p)) := by
  have hid : r.id = id := by simpa using List.find?_some hr
  subst hid
  exact exec_loadReturn_ok hr hw ha

theorem exec_pcieCompletionTimeout_idle (hr : s.io.find? (fun r => r.id == id) = some r) (hw : laneVal r.waits lane = none) :
    exec (.pcieCompletionTimeout ⟨id, lane⟩) s = .next s := by
  show execPcieCompletionTimeout ⟨id, lane⟩ s = _
  simp only [execPcieCompletionTimeout, hr, hw]

/-- 16 R414: a completion timeout, which only a request on the host link has. -/
theorem exec_pcieCompletionTimeout (hr : s.io.find? (fun r => r.id == id) = some r) (hw : laneVal r.waits lane = some p) :
    exec (.pcieCompletionTimeout ⟨id, lane⟩) s = .next (if p.isHost then { s with cur := r.issue }.ioNext (r.fail lane 0x15) else s) := by
  show execPcieCompletionTimeout ⟨id, lane⟩ s = _
  simp only [execPcieCompletionTimeout, hr, hw]

end

section
variable {s : State} {r : IoReq} {x : LaneRef} {i off host seen old fails : Nat} (o : Op) (m : AtMods) (hx : x.place = .win i off host)
  (hs : seen = s.numAt (.win i (off / 8 * 8) host) 8)

include hx hs

/-- 16 R415: the first request of a CAS loop reads the container. -/
theorem State.casLoop_first (h : laneVal r.tries x.cap.lane = none) : s.casLoop r o m x = s.ioNext { r with tries := (x.cap.lane, seen, 0) :: r.tries } := by
  unfold State.casLoop
  rw [hx]
  simp only [← hs, h]

/-- 16 R415: every other one is a compare-and-swap, of which the last of 64 that fail is the lane's failure. -/
theorem State.casLoop_again (h : laneVal r.tries x.cap.lane = some (old, fails)) :
    s.casLoop r o m x =
      if seen = old then s.remoteAtomic r o m x
      else if fails = 63 then s.ioNext (r.fail x.cap.lane 0x1E)
      else s.ioNext { r with tries := (x.cap.lane, seen, fails + 1) :: r.tries.filter fun t => t.1 != x.cap.lane } := by
  unfold State.casLoop
  rw [hx]
  simp only [← hs, h, Config.casRetries, beq_iff_eq, Nat.reduceEqDiff]

end

/-- Faults that all have one code have it as their lowest. -/
theorem lowestFault_same {fs : List (Nat × Nat × DWord)} {code : Nat} (hne : fs ≠ []) (h : ∀ x ∈ fs, x.2.1 = code) : ∃ f, lowestFault fs = some f ∧ f.1 = code := by
  cases fs with
  | nil => exact absurd rfl hne
  | cons f r =>
    obtain ⟨hf, hr⟩ := List.forall_mem_cons.1 h
    refine ⟨_, rfl, ?_⟩
    show r.foldl (fun a x => min a x.2.1) f.2.1 = code
    rw [hf]
    exact List.foldlRecOn (motive := fun a => a = code) r _ rfl fun a ha x hx => by rw [ha, hr x hx, Nat.min_self]

/-- The faults of the lanes of a request that have failed. -/
def ioFaults (r : IoReq) (l : List Cap) : List (Nat × Nat × DWord) :=
  l.filterMap fun c => (laneVal r.bad c.lane).map fun k => (c.lane, k, BitVec.ofNat 64 (ioAddr r c))

/-- Lanes that fail with one code raise it. -/
theorem lowestFault_ioFaults {r : IoReq} {l : List Cap} {code : Nat} (hsome : ∃ c ∈ l, (laneVal r.bad c.lane).isSome = true)
    (h : ∀ c ∈ l, ∀ k, laneVal r.bad c.lane = some k → k = code) : ∃ f, lowestFault (ioFaults r l) = some f ∧ f.1 = code := by
  refine lowestFault_same ?_ fun x hx => ?_
  · obtain ⟨c, hc, hk⟩ := hsome
    obtain ⟨k, hk⟩ := Option.isSome_iff_exists.1 hk
    exact List.ne_nil_of_mem (List.mem_filterMap.2 ⟨c, hc, by rw [hk]; rfl⟩)
  · obtain ⟨c, hc, hx⟩ := List.mem_filterMap.1 hx
    obtain ⟨k, hk, rfl⟩ := Option.map_eq_some_iff.1 hx
    exact h c hc k hk

theorem mem_of_laneVal {α : Type} {lane : Nat} {v : α} : ∀ {l : List (Nat × α)}, laneVal l lane = some v → (lane, v) ∈ l
  | (k, x) :: l, h => by
    unfold laneVal at h
    split at h
    case isTrue hk => exact List.mem_cons.2 (.inl (by rw [← hk, ← Option.some.inj h]))
    case isFalse => exact List.mem_cons_of_mem _ (mem_of_laneVal h)

/-- 16 R414 to R416: a request other than an atomic, lanes of which have failed with one code. -/
theorem State.ioFailed_of_code {s : State} {r : IoReq} {code : Nat} (hi : ∀ o m, r.instr ≠ .atg o m ∧ r.instr ≠ .ath o m)
    (hsome : ∃ c ∈ r.caps, (laneVal r.bad c.lane).isSome = true) (h : ∀ c ∈ r.caps, ∀ k, laneVal r.bad c.lane = some k → k = code) :
    ∃ f, s.ioFailed r = s.faultLanes r.caps f ∧ f.1 = code := by
  obtain ⟨f, hf, hcode⟩ := lowestFault_ioFaults hsome h
  refine ⟨f, ?_, hcode⟩
  unfold ioFaults at hf
  unfold State.ioFailed
  split
  case h_1 o m heq => exact absurd heq (hi o m).1
  case h_2 o m heq => exact absurd heq (hi o m).2
  case h_3 => simp only [hf]

section
variable {s : State} {r : IoReq} {o : Op} {m : AtMods} {code : Nat}

/-- The lanes of a request that have failed. -/
def IoReq.failed (r : IoReq) : List Cap := r.caps.filter fun c => (laneVal r.bad c.lane).isSome

/-- 16 R414, R416: an atomic of which lanes have failed: its `.nr` lanes answered with an error raise 0x20 late, the others trap. -/
theorem State.ioFailed_atomic (hi : r.instr = .atg o m ∨ r.instr = .ath o m) :
    s.ioFailed r =
      let late := r.failed.filter fun c => m.nr && laneVal r.bad c.lane == some 0x15
      let now := r.failed.filter fun c => !late.contains c
      let s1 := (s.atomicReturn o m r.caps r.got).ioLate r late
      match lowestFault (ioFaults r now) with
      | some f => s1.faultLanes now f
      | none => s1.advance := by
  unfold State.ioFailed
  rcases hi with hi | hi <;> rw [hi] <;> rfl

/-- The lanes that have failed trap where no `.nr` lane was answered with an error. -/
theorem State.ioFailed_atomic_now (hi : r.instr = .atg o m ∨ r.instr = .ath o m) (hne : r.failed ≠ [])
    (hcode : ∀ c ∈ r.failed, laneVal r.bad c.lane = some code) (h : m.nr = false ∨ code ≠ 0x15) :
    ∃ f, s.ioFailed r = (s.atomicReturn o m r.caps r.got).faultLanes r.failed f ∧ f.1 = code := by
  have hlate : (r.failed.filter fun c => m.nr && laneVal r.bad c.lane == some 0x15) = [] := by
    refine List.filter_eq_nil_iff.2 fun c hc => ?_
    rw [hcode c hc]
    rcases h with h | h <;> simp [h]
  obtain ⟨c, hc⟩ := List.exists_mem_of_ne_nil _ hne
  obtain ⟨f, hf, hfc⟩ := lowestFault_ioFaults (r := r) ⟨c, hc, by rw [hcode c hc]; rfl⟩ fun c hc k hk => Option.some.inj (hk.symm.trans (hcode c hc))
  refine ⟨f, ?_, hfc⟩
  rw [State.ioFailed_atomic hi]
  simp only [hlate, List.contains_nil, Bool.not_false, List.filter_true, hf]
  rfl

/-- A `.nr` atomic all of whose failed lanes were answered with an error goes on, and raises 0x20. -/
theorem State.ioFailed_atomic_late (hi : r.instr = .atg o m ∨ r.instr = .ath o m) (hcode : ∀ c ∈ r.failed, laneVal r.bad c.lane = some 0x15) (hnr : m.nr = true) :
    s.ioFailed r = ((s.atomicReturn o m r.caps r.got).ioLate r r.failed).advance := by
  have hlate : (r.failed.filter fun c => m.nr && laneVal r.bad c.lane == some 0x15) = r.failed :=
    List.filter_eq_self.2 fun c hc => by simp [hcode c hc, hnr]
  have hnow : (r.failed.filter fun c => !r.failed.contains c) = [] :=
    List.filter_eq_nil_iff.2 fun c hc => by simp [hc]
  rw [State.ioFailed_atomic hi]
  simp only [hlate, hnow]
  rfl

/-- 16 R414: the trap of lanes that failed late. -/
theorem State.ioLate_addPending {l : List Cap} (h : l ≠ []) :
    ∃ p, s.ioLate r l = s.addPending r.issue.wg r.issue.gang p ∧ p.cause = 0x20 ∧ p.pc = r.issue.pc ∧ p.mask = lanesOf l :=
  ⟨_, if_neg (by simpa using h), rfl, rfl, rfl⟩

/-- With the last answer a request of which a lane has failed, and one of which none has. -/
theorem State.ioNext_of_answered (hw : r.waits = []) :
    s.ioNext r = (if r.bad.isEmpty then (s.unblock r).ioDone r else (s.unblock r).ioFailed r).afterIssue r.issue.wg r.issue.gang := by
  simp [State.ioNext, hw]

end

/-! ### Memory that the host or a peer writes -/

section
variable {s : State} {who : Agent} {k n : Nat} {bs : List Byte}

/-- An access from outside that is recorded changes the record and its numbers. -/
theorem State.noteItem_eq (s : State) (who : Agent) (x : HbWhat) : ∃ u h, (s.noteItem who x).1 = { s with uid := u, hb := h } := by
  unfold State.noteItem
  cases s.nodes.isEmpty with
  | true => exact ⟨_, _, rfl⟩
  | false => exact ⟨_, _, rfl⟩

/-- An object that lies in package memory is written as undefined bytes there. -/
theorem State.wildObj_eq_of_mem {o : PhaseRef} (s : State) (h : ∃ j, o.sync = some (.mem j)) : ∃ wl, s.wildObj o = { s with wild := wl } := by
  obtain ⟨j, hj⟩ := h
  exact ⟨addRange s.wild j 16, by rw [State.wildObj, hj]; rfl⟩

/-- The recorded objects in a range of package memory lie in package memory. -/
theorem sync_of_mem_objsIn {h : Hb} {o : PhaseRef} (ho : o ∈ h.objsIn (.mem k) n) : ∃ j, o.sync = some (.mem j) := by
  simp only [Hb.objsIn, List.mem_eraseDups, List.mem_filterMap] at ho
  obtain ⟨u, -, ho⟩ := ho
  split at ho
  case h_2 => exact nomatch ho
  case h_1 p _ =>
    split at ho
    case h_2 => exact nomatch ho
    case h_1 b hb =>
      split at ho
      case isFalse => exact nomatch ho
      case isTrue hmeets =>
        cases ho
        cases b with
        | loc w off => simp [SyncAt.meets, SyncAt.space] at hmeets
        | mem j => exact ⟨j, hb⟩
        | host a => simp [SyncAt.meets, SyncAt.space] at hmeets

/-- What the host or a peer stores leaves no more than bytes of package memory undefined. -/
theorem State.wildObjs_mem (s : State) (known : List Nat) : ∃ wl, s.wildObjs known (.mem k) n = { s with wild := wl } := by
  unfold State.wildObjs
  refine List.foldlRecOn (motive := fun t : State => ∃ wl, t = { s with wild := wl }) _ _ ⟨s.wild, rfl⟩ ?_
  rintro t ⟨wl, rfl⟩ o ho
  split
  · exact State.wildObj_eq_of_mem _ (sync_of_mem_objsIn ho)
  · exact ⟨wl, rfl⟩

theorem State.outerWrite_frame (s : State) (who : Agent) (k : Nat) (bs : List Byte) :
    (s.outerWrite who k bs).mem = setBytes s.mem k bs ∧ (s.outerWrite who k bs).hostMem = s.hostMem ∧ (s.outerWrite who k bs).wgs = s.wgs ∧
      (s.outerWrite who k bs).threads = s.threads ∧ (s.outerWrite who k bs).outbox = s.outbox := by
  obtain ⟨u, h, hnote⟩ := s.noteItem_eq who .outer
  unfold State.outerWrite
  generalize s.noteItem who .outer = note at hnote
  obtain ⟨s1, item⟩ := note
  subst hnote
  obtain ⟨wl, hwild⟩ := State.wildObjs_mem (k := k) (n := bs.length) (({ s with uid := u, hb := h }.recall k bs.length).writeMem k bs item) (s.hb.known who)
  dsimp only
  rw [hwild]
  simp [State.spoilReads]

theorem State.peerRmw_frame (s : State) (a n x : Nat) : (s.peerRmw a n x).mem = setBytes s.mem a (toBytesLE x n) ∧ (s.peerRmw a n x).outbox = s.outbox := by
  obtain ⟨u, h, hnote⟩ := s.noteItem_eq .peer .rmw
  unfold State.peerRmw State.spoilReads
  simp only [hnote]
  simp

/-- 16 R416: a peer's read, or its write when it brings bytes. -/
theorem exec_fabricRequest (s : State) (req : FabricReq) :
    exec (.fabricRequest req) s = .next (
      let n := if req.bytes.isEmpty then req.len else req.bytes.length
      let t := s.outerWrite .peer req.pa req.bytes
      if !s.fabricOk req.part req.pa n then { s with outbox := s.outbox ++ [Msg.fabricAnswer req.dev false []] }
      else if req.bytes.isEmpty then
        { s.recall req.pa n with outbox := s.outbox ++ [Msg.fabricAnswer req.dev true ((List.range n).map fun i => s.homeByte (req.pa + i))] }
      else { t with outbox := t.outbox ++ [Msg.fabricAnswer req.dev true []] }) := rfl

/-- 16 R416, R417: what a peer's atomic is refused for. -/
theorem peerRefused_iff {n pa : Nat} {ok : Bool} : (n == 0 || pa % n != 0 || !ok) = true ↔ n = 0 ∨ pa % n ≠ 0 ∨ ok = false := by
  simp [or_assoc]

/-- 16 R416, R417: a peer's atomic. -/
theorem exec_peerAtomic (s : State) (req : PeerAtomicReq) :
    exec (.peerAtomic req) s = .next (
      let n := req.ty.bits / 8
      let s1 := s.useHot (req.pa / 8)
      let old := ofBytesLE ((List.range n).map fun i => s.homeByte (req.pa + i))
      let b := req.b.toNat % 2 ^ (8 * n)
      let t := if req.op == .cas && old != b then s1 else s1.peerRmw req.pa n (atNew req.op req.ty old b (req.c.toNat % 2 ^ (8 * n)))
      if n == 0 || req.pa % n != 0 || !s.fabricOk req.part req.pa n then { s with outbox := s.outbox ++ [Msg.atomicAnswer req.dev false (BitVec.ofNat 64 0)] }
      else { t with outbox := t.outbox ++ [Msg.atomicAnswer req.dev true (BitVec.ofNat 64 old)] }) := rfl

theorem exec_apertureWrite {vf p : Nat} {admin : Bool} (h : s.vfPart vf = some (p, admin)) (off : Nat) (bs : List Byte) :
    exec (.apertureWrite vf off bs) s = .next (match s.aperture p off bs.length admin with
      | some a => s.outerWrite .host a bs
      | none => s.updPart p fun q => q.setCsr 0x206 (q.csrWord 0x206 ||| 2)) := by
  show execApertureWrite vf off bs s = _
  simp only [execApertureWrite, h]
  rfl

theorem exec_apertureRead {vf p : Nat} {admin : Bool} (h : s.vfPart vf = some (p, admin)) (off len : Nat) :
    exec (.apertureRead vf off len) s = .next (match s.aperture p off len admin with
      | some a => { s.recall a len with outbox := s.outbox ++ [Msg.apertureAnswer vf (some ((List.range len).map fun i => s.homeByte (a + i)))] }
      | none => { s.updPart p (fun q => q.setCsr 0x206 (q.csrWord 0x206 ||| 2)) with outbox := s.outbox ++ [Msg.apertureAnswer vf none] }) := by
  show execApertureRead vf off len s = _
  simp only [execApertureRead, h]
  rfl

end

/-- 16 R404: `tlbsd.va` removes the 64 KiB spans that its operands name, `tlbsd.all` every address. -/
theorem exec_tlbsd (s : State) (g : Guard) (o : Op) (va : Bool) :
    exec (if va then .tlbsdVa o else .tlbsdAll g) s = .next (s.shootdown (if va then s.captureOp { a := .n64, b := .n32 } o else s.captureNone g) fun c =>
      (if va then c.a / 65536 * 65536 else 0, if va then min (2 ^ 52) (c.a / 65536 * 65536 + 65536 * c.b) else 2 ^ 52)) := by
  cases va with
  | true =>
    simp only [if_true]
    rfl
  | false =>
    simp only [Bool.false_eq_true, if_false]
    rfl

end Machine

/-- Settles O54: clause by clause, from what the shared operations do: `State.shootdown_of_commits`, `exec_shootdownComplete`, the outcomes of `State.ioNext` and
`State.ioFailed`, and the frames of `State.outerWrite` and `State.peerRmw`. -/
theorem shootdownsAndRequests : Obligations.ShootdownsAndRequests := by
  refine ⟨?tlbsd, ?complete, ?answer, ?cas, ?atomic, ?next, ?failed, ?fabric, ?peer, ?outer, ?aperture⟩
  case tlbsd =>
    intro s g o va hm hr caps lo hi r hne hd hc
    have hl : ∀ c ∈ caps, c.lane ∈ s.cur.lanes := fun c h => by
      cases va with
      | true => exact State.lane_mem_of_mem_capture hr h
      | false => exact State.lane_mem_of_mem_capture hr h
    obtain ⟨th, hth, hthreads⟩ := State.shootdown_of_commits (fun c => (lo c, hi c)) hm hr hl hne hd hc
    exact ⟨_, th, (exec_tlbsd s g o va).trans (congrArg _ hth), Laws.forall₂_map_same _ _ fun _ _ => rfl, hthreads⟩
  case complete =>
    intro s id r hr s1 s2 after_
    rw [exec_shootdownComplete hr]
    have hid : r.id = id := by simpa using List.find?_some hr
    refine ⟨fun h => ?_, fun h => ?_⟩
    · have hany : (s.shoots.any fun q => q.wg == r.wg && q.gang == r.gang && q.id < r.id) = true := by simpa [hid, and_assoc] using h
      simp only [hany, if_true]
    · have hany : (s.shoots.any fun q => q.wg == r.wg && q.gang == r.gang && q.id < r.id) = false := by simpa [hid] using h
      refine ⟨fun hdr => ?_, fun hdr => ?_⟩
      · change (s.shootStores r).shootDrained r = false at hdr
        simp only [hany, hdr]
        rfl
      · change (s.shootStores r).shootDrained r = true at hdr
        simp only [hany, hdr]
        rfl
  case answer =>
    intro s id lane r hr s0
    refine ⟨fun hw a => ⟨exec_loadReturn_idle hr hw, exec_pcieCompletionTimeout_idle hr hw⟩, fun p hw => ⟨exec_loadReturn_error hr hw (.inl rfl), ?_, ?_, ?_, ?_, ?_⟩⟩
    · rintro k v rfl hk
      exact exec_loadReturn_error hr hw (.inr hk)
    · rintro ⟨i, off, host, rfl⟩
      exact exec_pcieCompletionTimeout hr hw
    · intro hp
      rw [exec_pcieCompletionTimeout hr hw]
      cases p with
      | win i off host => exact absurd rfl (hp i off host)
      | mem => rfl
      | loc => rfl
    · rintro o w k v hi rfl hk x
      rw [exec_loadReturn_answered hr hw hk, State.answered, hi]
      show Host.Outcome.next (x.1.ioNext (r.gain (r.ref lane (.mem k v)).cap.lane x.2)) = _
      rw [IoReq.ref_lane]
    · rintro o m i off host hi rfl
      rw [exec_loadReturn_answered hr hw rfl, State.answered, hi]
  case cas =>
    intro s r o m x i off host hx seen l
    refine ⟨fun h => State.casLoop_first o m hx rfl h, fun old fails h => ?_⟩
    rw [State.casLoop_again o m hx rfl h]
    exact ⟨fun hs => if_pos hs, fun hs hf => (if_neg hs).trans (if_pos hf), fun hs hf => (if_neg hs).trans (if_neg hf)⟩
  case atomic =>
    intro s r o m code hi failed t hne hcode
    refine ⟨fun h => State.ioFailed_atomic_now hi hne hcode h, fun hnr h15 => ?_⟩
    subst h15
    exact ⟨State.ioFailed_atomic_late hi hcode hnr, State.ioLate_addPending hne⟩
  case next =>
    refine fun s r => ⟨fun h => s.ioNext_of_waits h, fun hw hb => ?_, fun hw hb => ?_⟩
    · rw [State.ioNext_of_answered hw, if_neg (by simpa using hb)]
    · rw [State.ioNext_of_answered hw, if_pos (by simpa using hb)]
  case failed =>
    rintro s r code hi hcode ⟨c, hc, x, hx, hxc⟩
    obtain ⟨v, hv, -⟩ := exists_laneVal (List.mem_map.2 ⟨x, hx, hxc⟩)
    exact State.ioFailed_of_code hi ⟨c, hc, by rw [hv]; rfl⟩ fun c _ k hk => hcode _ (mem_of_laneVal hk)
  case fabric =>
    intro s req hwf n
    refine ⟨fun h => ?_, fun h hb => ?_, fun h hb => ?_⟩ <;> rw [exec_fabricRequest]
    · exact congrArg _ (if_pos (by rw [h]; rfl))
    · exact congrArg _ ((if_neg (by rw [h]; decide)).trans (if_pos (by rw [hb]; rfl)))
    · obtain ⟨hmem, -, -, -, hout⟩ := s.outerWrite_frame .peer req.pa req.bytes
      refine ⟨_, congrArg _ ((if_neg (by rw [h]; decide)).trans (if_neg (by simpa using hb))), ?_, fun a => ?_⟩
      · exact congrArg (· ++ _) hout
      · exact (congrArg (getByte · a) hmem).trans (Memory.getByte_setBytes a hwf)
  case peer =>
    intro s req n old b c answer
    refine ⟨fun h => ?_, fun hn hal hok hop hne => ?_, fun hn hal hok h => ?_⟩
    · exact congrArg _ (if_pos (peerRefused_iff.2 h))
    · have hgo := mt (peerRefused_iff (n := n) (pa := req.pa) (ok := s.fabricOk req.part req.pa n)).1 (by simp [hn, hal, hok])
      have hcas : (req.op == .cas && old != b) = true := by simp [hop, hne]
      refine congrArg _ ((if_neg hgo).trans ?_)
      exact congrArg (fun t : State => { t with outbox := t.outbox ++ [Msg.atomicAnswer req.dev true (BitVec.ofNat 64 old)] }) (if_pos hcas)
    · intro t
      have hgo := mt (peerRefused_iff (n := n) (pa := req.pa) (ok := s.fabricOk req.part req.pa n)).1 (by simp [hn, hal, hok])
      obtain ⟨hmem, hout⟩ := (s.useHot (req.pa / 8)).peerRmw_frame req.pa n (atNew req.op req.ty old b c)
      have hcas : ¬ (req.op == .cas && old != b) = true := by simpa [imp_iff_not_or] using h
      refine ⟨congrArg _ ((if_neg hgo).trans ?_), fun hwf a => ?_⟩
      · refine (congrArg (fun t : State => { t with outbox := t.outbox ++ [Msg.atomicAnswer req.dev true (BitVec.ofNat 64 old)] }) (if_neg hcas)).trans ?_
        exact congrArg (fun l => { t with outbox := l ++ [Msg.atomicAnswer req.dev true (BitVec.ofNat 64 old)] }) hout
      · exact (congrArg (getByte · a) hmem).trans ((Memory.getByte_setBytes a hwf).trans (by rw [length_toBytesLE]))
  case outer =>
    intro s who k bs hwf
    obtain ⟨hmem, hhost, hwgs, hthreads, -⟩ := s.outerWrite_frame who k bs
    exact ⟨fun a => by rw [hmem, Memory.getByte_setBytes a hwf], hhost, hwgs, hthreads⟩
  case aperture =>
    intro s vf off p admin bs len hvf
    refine ⟨fun a ha => ?_, fun ha => ?_, fun a ha => ?_, fun ha => ?_⟩
    · rw [exec_apertureWrite hvf, ha]
    · rw [exec_apertureWrite hvf, ha]
    · rw [exec_apertureRead hvf, ha]
    · rw [exec_apertureRead hvf, ha]

end Sys2Proof
end

section
/-! SUPPORT. One lane's atomic on a local store (09 R251, R252, 04 R124): what its write records and spoils, and what it leaves in the local store. -/

namespace Sys2Proof

open Machine Safety

namespace Machine

/-! ### Ranges -/

theorem inRanges_cons (r : Nat × Nat) (l : List (Nat × Nat)) (x : Nat) : inRanges (r :: l) x = ((decide (r.1 ≤ x) && decide (x < r.1 + r.2)) || inRanges l x) := rfl

theorem inRanges_append (l m : List (Nat × Nat)) (x : Nat) : inRanges (l ++ m) x = (inRanges l x || inRanges m x) := List.any_append

/-- What is left of one range is it without the numbers that are cut. -/
theorem inRanges_cutOne (r : Nat × Nat) (a n x : Nat) :
    inRanges ([(r.1, min (a - r.1) r.2), (max r.1 (a + n), r.1 + r.2 - max r.1 (a + n))].filter fun q => q.2 != 0) x =
      ((decide (r.1 ≤ x) && decide (x < r.1 + r.2)) && !(decide (a ≤ x) && decide (x < a + n))) := by
  rw [Bool.eq_iff_iff]
  simp only [inRanges, List.any_eq_true, List.mem_filter, List.mem_cons, List.not_mem_nil, or_false, bne_iff_ne, Bool.and_eq_true, decide_eq_true_eq,
    Bool.not_eq_true', Bool.and_eq_false_iff, decide_eq_false_iff_not]
  constructor
  · rintro ⟨q, ⟨rfl | rfl, -⟩, hq⟩ <;> dsimp only at hq <;> omega
  · intro h
    by_cases ha : a ≤ x
    · exact ⟨_, ⟨.inr rfl, by dsimp only; omega⟩, by dsimp only; omega⟩
    · exact ⟨_, ⟨.inl rfl, by dsimp only; omega⟩, by dsimp only; omega⟩

/-- Cut ranges are the ranges without the numbers that are cut. -/
theorem inRanges_cutRange (l : List (Nat × Nat)) (a n x : Nat) : inRanges (cutRange l a n) x = (inRanges l x && !(decide (a ≤ x) && decide (x < a + n))) := by
  unfold cutRange
  by_cases hn : n = 0
  · subst hn
    have hout : (decide (a ≤ x) && decide (x < a + 0)) = false := by simp
    rw [hout]
    exact (Bool.and_true _).symm
  · simp only [beq_iff_eq, hn, if_false]
    induction l with
    | nil => rfl
    | cons r l ih => rw [List.flatMap_cons, inRanges_append, ih, inRanges_cutOne, inRanges_cons, Bool.and_or_distrib_right]

/-! ### Races (04 R127) -/

/-- A byte that races lies in a range that does. -/
theorem SyncAt.meets_of_meets_shift {r a : SyncAt} {k n i : Nat} (hi : i < n) (h : r.meets k (a.shift i) 1 = true) : r.meets k a n = true := by
  have hs : (a.shift i).space = (a.space.1, a.space.2 + i) := by cases a <;> rfl
  simp only [SyncAt.meets, hs, overlap, Bool.and_eq_true, beq_iff_eq, decide_eq_true_eq] at h ⊢
  obtain ⟨hsp, hover⟩ := h
  exact ⟨hsp, by omega⟩

theorem Hb.touches_eq_false {h : Hb} {who : Agent} {a : SyncAt} {n i : Nat} (hr : h.racing who a n = false) (hi : i < n) : h.touches who (a.shift i) 1 = false := by
  unfold Hb.touches
  rw [List.any_eq_false]
  intro u hu htouch
  have hrace := List.any_eq_false.1 hr u hu
  split at htouch
  case h_2 => exact Bool.false_ne_true htouch
  case h_1 bytes tiles heq =>
    rw [heq] at hrace
    obtain ⟨hmeets, hbefore⟩ := Bool.and_eq_true_iff.1 htouch
    obtain ⟨r, hr, hm⟩ := List.any_eq_true.1 hmeets
    exact hrace (Bool.and_eq_true_iff.2 ⟨List.any_eq_true.2 ⟨r, hr, SyncAt.meets_of_meets_shift hi hm⟩, hbefore⟩)

/-! ### What a thread's write does to the operations in flight (04 R127, 09 R260, 10 R277) -/

/-- 09 R260: a gang whose waiting `mcas` are spoiled by a write of bytes. -/
def Gang.spoilMcas (g : Gang) (a : SyncAt) (n : Nat) : Gang :=
  { g with mcas := g.mcas.map fun (x : McasWait) =>
      { x with lanes := x.lanes.map fun m => { m with spoiled := m.spoiled || a.hits n [(.loc g.wg m.off, 16 + 24 * m.blk.count)] } } }

theorem spoiledGang_spoilMcas {g k : Gang} (h : SpoiledGang g k) (a : SyncAt) (n : Nat) : SpoiledGang g (k.spoilMcas a n) := by
  obtain ⟨hk, hmcas, hrest⟩ := h
  refine ⟨by unfold Gang.spoilMcas; rw [hk], forall₂_map_of_imp ?_ hmcas, hrest⟩
  rintro x y ⟨hy, hlanes⟩
  exact ⟨by rw [hy], forall₂_map_of_imp (fun m k hk => by rw [hk]) hlanes⟩

/-- Bytes that become undefined are package memory's or local stores', and nothing else changes. -/
theorem State.wildAt_eq (s : State) (a : SyncAt) (n : Nat) : ∃ wl ws, s.wildAt a n = { s with wild := wl, wgs := ws } ∧
    List.Forall₂ (fun u v => v = { u with undef := v.undef }) s.wgs ws := by
  cases a with
  | loc w off =>
    refine ⟨s.wild, _, rfl, Laws.forall₂_map_same _ _ fun u _ => ?_⟩
    split
    · rfl
    · rfl
  | mem k => exact ⟨_, s.wgs, rfl, List.forall₂_same.2 fun _ _ => rfl⟩
  | host k => exact ⟨s.wild, s.wgs, rfl, List.forall₂_same.2 fun _ _ => rfl⟩

theorem State.wildAll_eq (l : List (SyncAt × Nat)) : ∀ s : State, ∃ wl ws, s.wildAll l = { s with wild := wl, wgs := ws } ∧
    List.Forall₂ (fun u v => v = { u with undef := v.undef }) s.wgs ws := by
  induction l with
  | nil => exact fun s => ⟨s.wild, s.wgs, rfl, List.forall₂_same.2 fun _ _ => rfl⟩
  | cons r l ih =>
    intro s
    obtain ⟨wl, ws, hat, hws⟩ := s.wildAt_eq r.1 r.2
    obtain ⟨wl', ws', hall, hws'⟩ := ih (s.wildAt r.1 r.2)
    refine ⟨wl', ws', hall.trans (by rw [hat]), ?_⟩
    rw [hat] at hws'
    exact forall₂_and_then (fun u v x hu hv => by rw [hv, hu]) hws hws'

/-- The bytes that a write makes undefined: what the operations that it meets write. -/
def State.spoiledDests (s : State) (a : SyncAt) (n item : Nat) : List (SyncAt × Nat) :=
  (s.eops.filter fun o => a.hits n o.span && !o.pubs.contains item).flatMap fun o => o.dest

/-- 04 R127, 09 R260, 10 R277: the marks that a write leaves on operations in flight and commands, as `State.spoil` makes them. -/
def State.spoilMarks (s : State) (a : SyncAt) (n item : Nat) : State :=
  { s with
    eops := (s.eops.map fun o => { o with undef := o.undef || (a.hits n o.span && !o.pubs.contains item) }).map fun o =>
      { o with spoiled := o.spoiled || (some o.uid != none && o.holds a n) }
    sends := (s.sends.map fun x => { x with undef := x.undef || (!x.read && a.hits n x.span && !x.pubs.contains item) }).map fun x =>
      { x with spoiled := x.spoiled || (some x.uid != none && a.inBlock n x.by_.wg x.send.blk) }
    contribs := (s.contribs.map fun x => { x with undef := x.undef || (!x.sent && a.hits n x.span && !x.pubs.contains item) }).map fun x =>
      { x with spoiled := x.spoiled || (some x.uid != none && a.inBlock n x.by_.wg x.blk) }
    seals := s.seals.map fun x => { x with spoiled := x.spoiled || (some x.uid != none && a.hits n [(.loc x.by_.wg x.blk, 128)]) }
    parts := s.parts.map fun q => { q with
      armed := q.armed.map fun x => { x with spoiled := x.spoiled || (some x.uid != none && a.inBlock n x.by_.wg x.send.blk) } }
    gangs := (s.gangs.map fun g => g.spoilEntries a n).map fun g => g.spoilMcas a n }

/-- A write makes what the operations that it meets write undefined, and leaves marks. -/
theorem State.spoil_eq (s : State) (a : SyncAt) (n item : Nat) : ∃ wl ws, s.spoil a n item = { s.spoilMarks a n item with wild := wl, wgs := ws } ∧
    List.Forall₂ (fun u v => v = { u with undef := v.undef } ∧ (s.eops = [] → v = u)) s.wgs ws ∧ (s.eops = [] → wl = s.wild) := by
  let l := (s.eops.filter fun o => a.hits n o.span && !o.pubs.contains item).flatMap fun o => o.dest
  obtain ⟨wl, ws, hall, hws⟩ := State.wildAll_eq l s
  have hcalm : s.eops = [] → wl = s.wild ∧ ws = s.wgs := fun h => by
    have hl : l = [] := by simp only [l, h]; rfl
    rw [hl] at hall
    exact ⟨(congrArg State.wild hall).symm, (congrArg State.wgs hall).symm⟩
  refine ⟨wl, ws, ?_, ?_, fun h => (hcalm h).1⟩
  · have hspoil : s.spoil a n item = State.spoilMcas (({ s.wildAll l with
        eops := s.eops.map fun o => { o with undef := o.undef || (a.hits n o.span && !o.pubs.contains item) } } : State).spoilReads a n item |>.spoilBlocks a n none) a n := rfl
    rw [hspoil, hall]
    rfl
  · by_cases h : s.eops = []
    · rw [(hcalm h).2]
      exact List.forall₂_same.2 fun _ _ => ⟨rfl, fun _ => rfl⟩
    · exact hws.imp fun u v hv => ⟨hv, fun h' => absurd h' h⟩

/-- The marks of a write. -/
theorem State.marked_spoilMarks (s : State) (a : SyncAt) (n item : Nat) :
    let t := s.spoilMarks a n item
    List.Forall₂ (fun a b => b = { a with undef := b.undef, spoiled := b.spoiled }) s.eops t.eops ∧ Marked s t.sends t.contribs t.seals t.parts t.gangs := by
  intro t
  refine ⟨?_, ?_, ?_, ?_, ?_, ?_⟩
  · exact forall₂_map_of_imp (fun _ _ h => by rw [h]) (Laws.forall₂_map_same _ _ fun _ _ => rfl)
  · exact forall₂_map_of_imp (fun _ _ h => by rw [h]) (Laws.forall₂_map_same _ _ fun _ _ => rfl)
  · exact forall₂_map_of_imp (fun _ _ h => by rw [h]) (Laws.forall₂_map_same _ _ fun _ _ => rfl)
  · exact Laws.forall₂_map_same _ _ fun _ _ => rfl
  · exact Laws.forall₂_map_same _ _ fun _ _ => ⟨rfl, Laws.forall₂_map_same _ _ fun _ _ => rfl⟩
  · exact forall₂_map_of_imp (fun _ _ h => spoiledGang_spoilMcas h a n) (Laws.forall₂_map_same _ _ fun g _ => spoiledGang_spoilEntries (spoiledGang_refl g) a n)

/-! ### The event of a lane on a local store (09 R252) -/

/-- A local store with bytes written: they are defined, and words written whole are readable. -/
def Wg.stored (x : Wg) (off : Nat) (bs : List Byte) : Wg :=
  { x with
    ls := setBytes x.ls off bs
    undef := cutRange x.undef off bs.length
    poison := x.poison.filter fun k => !(off ≤ 8 * k && 8 * k + 8 ≤ off + bs.length) }

section
variable {s : State} {m : AtMods} {c : Cap} {w off n : Nat}

/-- A write at a workgroup's port changes its local store and what is recorded. -/
theorem State.lsWrite_eq (s : State) (w off : Nat) (bs : List Byte) (item : Option Nat) :
    ∃ h, s.lsWrite w off bs item = { s with hb := h, wgs := updWhere (fun x => x.uid == w) (fun x => x.stored off bs) s.wgs } := by
  unfold State.lsWrite State.noteOld
  cases s.nodes.isEmpty with
  | true => exact ⟨_, rfl⟩
  | false => exact ⟨_, rfl⟩

/-- 04 R119: a relaxed read only observes releases. -/
theorem State.readSync_rlx (s : State) (tags : List SyncTag) (scope : Scope) (lane : Nat) (p : Place) :
    ∃ vs, s.readSync tags .rlx scope lane p n = { s with hb := { s.hb with views := vs } } := by
  have hfold : ∃ vs, (s.copies lane).foldl (fun h l => (if sideRank (isAcquire .rlx) scope == 0 then h else h.acquire (s.me l) (sideRank (isAcquire .rlx) scope)
      (readTags tags (s.placeSync p) n)).observe (s.me l) 1 (readTags tags (s.placeSync p) n)) s.hb = { s.hb with views := vs } := by
    refine List.foldlRecOn (motive := fun h : Hb => ∃ vs, h = { s.hb with views := vs }) _ _ ⟨s.hb.views, rfl⟩ ?_
    rintro h ⟨vs, rfl⟩ l -
    exact ⟨_, Hb.observe_eq _ _ _ _⟩
  obtain ⟨vs, hvs⟩ := hfold
  exact ⟨vs, congrArg (fun h : Hb => { s with hb := h }) hvs⟩

/-- 04 R127: a lane's write to bytes of a local store that no operation races with. -/
theorem State.putRmw_loc (order : Order) (scope : Scope) (lane x : Nat) (hr : s.hb.racing (s.me lane) (.loc w off) n = false) :
    ∃ h, s.putRmw order scope lane (.loc w off) n x =
      State.spoil { s with uid := s.uid + 1, hb := h, wgs := updWhere (fun y => y.uid == w) (fun y => y.stored off (toBytesLE x n)) s.wgs } (.loc w off) n s.uid := by
  obtain ⟨h, hput⟩ := (s.hbAdd s.cur.wg s.cur.gang [lane] .rmw).lsWrite_eq w off (toBytesLE x n) (some s.uid)
  have hfold : ∀ s1 : State, (List.range n).foldl (fun (t : State) i =>
      if s.hb.touches (s.me lane) (SyncAt.shift (.loc w off) i) 1 then t.wildAt (SyncAt.shift (.loc w off) i) 1 else t) s1 = s1 := fun s1 =>
    List.foldlRecOn (motive := fun t => t = s1) _ _ rfl fun t ht i hi => by rw [Hb.touches_eq_false hr (List.mem_range.1 hi)]; exact ht
  refine ⟨(h.chain s.hb (.loc w off) n).tag (.loc w off) n (s.pubsOf order scope lane), ?_⟩
  unfold State.putRmw
  dsimp only [State.placeSync, State.putAt]
  rw [hfold, hput]
  rfl

/-- A relaxed atomic event of one lane on bytes of a local store that no operation races with. -/
theorem State.atomicEvents_loc (s : State) (o : Op) (m : AtMods) (c : Cap) (hr : s.hb.racing (s.me c.lane) (.loc w off) (atBytes o m) = false) :
    let old := s.lsNum w off (atBytes o m)
    let s1 := s.readSync s.hb.tags m.order m.scope c.lane (.loc w off) (atBytes o m)
    s.atomicEvents o m [{ cap := c, place := .loc w off }] =
      (if m.op != .cas || old == c.b then s1.putRmw m.order m.scope c.lane (.loc w off) (atBytes o m) (atNew m.op o.ty old c.b c.c) else s1, [(c.lane, some old)]) := by
  have hnum : s.numBy c.lane (.loc w off) (atBytes o m) = s.lsNum w off (atBytes o m) := if_neg (by rw [Bool.not_eq_true]; exact hr)
  intro old s1
  have hone : s.atomicEvents o m [{ cap := c, place := .loc w off }] = State.atomicLane o m (s, []) { cap := c, place := .loc w off } := rfl
  rw [hone]
  unfold State.atomicLane
  dsimp only [State.ownDirty, State.recallAt, State.copyPeer]
  rw [hnum]
  rfl

end

/-! ### What the event leaves -/

/-- What an atomic of one lane on a local store leaves of the workgroups: the new value where it writes, and every other byte. -/
def AtomicStored (s : State) (write : Bool) (w off n new : Nat) (ws : List Wg) : Prop :=
  List.Forall₂ (fun u v => SameButLocal u v ∧
    (write = true → u.uid = w → getNum v.ls off n = new % 256 ^ n) ∧
    (∀ a, (write = false ∨ u.uid ≠ w ∨ a < off ∨ off + n ≤ a) → getByte v.ls a = getByte u.ls a) ∧
    (Quiet s → ∀ a, inRanges v.undef a = (inRanges u.undef a && !(write && u.uid == w && off ≤ a && a < off + n)))) s.wgs ws

/-- A state after the event of a lane on a local store, before the lane has what it returns. -/
def AtomicLeft (s : State) (write : Bool) (w off n new : Nat) (t : State) : Prop :=
  OnlyWrites s t ∧ t.tlb = s.tlb ∧ t.hot = s.hot ∧ t.threads = s.threads ∧ AtomicStored s write w off n new t.wgs

section
variable {s t : State} {m : AtMods} {c : Cap} {w off n new : Nat}

/-- Without a write the workgroups stay. -/
theorem AtomicStored.refl (s : State) (w off n new : Nat) : AtomicStored s false w off n new s.wgs :=
  List.forall₂_same.2 fun u _ => ⟨rfl, fun h => (Bool.false_ne_true h).elim, fun _ _ => rfl, fun _ a => by simp⟩

theorem onlyWritesIf_refl (calm : Prop) (s : State) : OnlyWritesIf calm s s :=
  ⟨rfl, Nat.le_refl _, List.forall₂_same.2 fun _ _ => rfl, ⟨List.forall₂_same.2 fun _ _ => rfl, List.forall₂_same.2 fun _ _ => rfl, List.forall₂_same.2 fun _ _ => rfl,
    List.forall₂_same.2 fun _ _ => ⟨rfl, List.forall₂_same.2 fun _ _ => rfl⟩, List.forall₂_same.2 fun g _ => spoiledGang_refl g⟩, fun _ => rfl⟩

/-- Records and threads are what the writes of threads may change. -/
theorem onlyWritesIf_update {calm : Prop} (h : OnlyWritesIf calm s t) (hb : Hb) (th : List Thread) : OnlyWritesIf calm s { t with hb := hb, threads := th } := by
  obtain ⟨ht, hrest⟩ := h
  exact ⟨congrArg (fun t : State => { t with hb := hb, threads := th }) ht, hrest⟩

/-- A relaxed event that does not write. -/
theorem atomicLeft_read (w off n new : Nat) (vs : List SyncView) : AtomicLeft s false w off n new { s with hb := { s.hb with views := vs } } :=
  ⟨onlyWritesIf_update (onlyWritesIf_refl _ s) _ s.threads, rfl, rfl, rfl, .refl s w off n new⟩

/-- The workgroups after the bytes have been written, and what the write races with has become undefined. -/
theorem atomicStored_stored {ws : List Wg} (hwf : ∀ u ∈ s.wgs, Memory.wf u.ls = true)
    (h : List.Forall₂ (fun u v => v = { u with undef := v.undef } ∧ (s.eops = [] → v = u)) (updWhere (fun y => y.uid == w) (fun y => y.stored off (toBytesLE new n)) s.wgs) ws) :
    AtomicStored s true w off n new ws := by
  have hstored := Laws.forall₂_map_same (R := fun u v => u ∈ s.wgs ∧ v = if u.uid == w then u.stored off (toBytesLE new n) else u)
    (fun u : Wg => if u.uid == w then u.stored off (toBytesLE new n) else u) s.wgs fun u hu => ⟨hu, rfl⟩
  refine forall₂_and_then ?_ hstored h
  rintro u v x ⟨hu, rfl⟩ ⟨hx, hcalm⟩
  have hlen := length_toBytesLE new n
  by_cases huw : u.uid = w
  · have hif : (if u.uid == w then u.stored off (toBytesLE new n) else u) = u.stored off (toBytesLE new n) := if_pos (beq_iff_eq.2 huw)
    rw [hif] at hx hcalm
    have hls : x.ls = setNum u.ls off n new := congrArg Wg.ls hx
    refine ⟨?_, fun _ _ => by rw [hls, Memory.getNum_setNum (hwf u hu)], fun a ha => ?_, fun hq a => ?_⟩
    · rw [hx]; rfl
    · have hout : a < off ∨ off + n ≤ a := by simpa [huw] using ha
      rw [hls]
      exact Memory.getByte_setBytes_outside (hwf u hu) (by rw [hlen]; exact hout)
    · have hundef : x.undef = cutRange u.undef off (toBytesLE new n).length := congrArg Wg.undef (hcalm hq.1)
      rw [hundef, hlen, inRanges_cutRange]
      simp [huw]
  · have hif : (if u.uid == w then u.stored off (toBytesLE new n) else u) = u := if_neg (by simpa using huw)
    rw [hif] at hx hcalm
    refine ⟨by rw [hx]; rfl, fun _ h => absurd h huw, fun a _ => by rw [hx], fun hq a => ?_⟩
    rw [hcalm hq.1]
    simp [huw]

/-- A relaxed event that writes. -/
theorem atomicLeft_spoil (hwf : ∀ u ∈ s.wgs, Memory.wf u.ls = true) (hb : Hb) :
    AtomicLeft s true w off n new
      (State.spoil { s with uid := s.uid + 1, hb := hb, wgs := updWhere (fun y => y.uid == w) (fun y => y.stored off (toBytesLE new n)) s.wgs } (.loc w off) n s.uid) := by
  let s1 : State := { s with uid := s.uid + 1, hb := hb, wgs := updWhere (fun y => y.uid == w) (fun y => y.stored off (toBytesLE new n)) s.wgs }
  obtain ⟨wl, ws, hspoil, hws, hcalm⟩ := s1.spoil_eq (.loc w off) n s.uid
  obtain ⟨hops, hmarks⟩ := s1.marked_spoilMarks (.loc w off) n s.uid
  show AtomicLeft s true w off n new (s1.spoil (.loc w off) n s.uid)
  rw [hspoil]
  refine ⟨⟨rfl, Nat.le_succ _, hops, hmarks, fun hq => hcalm hq.1⟩, rfl, rfl, rfl, atomicStored_stored hwf hws⟩

/-- 09 R252: a relaxed event of one lane on bytes of a local store that no operation races with: its old value, and what it leaves. -/
theorem atomicLeft_atomicEvents (o : Op) (ho : m.order = .rlx) (hwf : ∀ u ∈ s.wgs, Memory.wf u.ls = true)
    (hr : s.hb.racing (s.me c.lane) (.loc w off) (atBytes o m) = false) :
    let old := s.lsNum w off (atBytes o m)
    let x := s.atomicEvents o m [{ cap := c, place := .loc w off }]
    x.2 = [(c.lane, some old)] ∧ AtomicLeft s (m.op != .cas || old == c.b) w off (atBytes o m) (atNew m.op o.ty old c.b c.c) x.1 := by
  intro old x
  have hx : x = _ := s.atomicEvents_loc o m c hr
  obtain ⟨vs, hread⟩ := s.readSync_rlx (n := atBytes o m) s.hb.tags m.scope c.lane (.loc w off)
  rw [hx, ho, hread]
  refine ⟨rfl, ?_⟩
  cases hwrite : (m.op != .cas || old == c.b) with
  | false => exact atomicLeft_read w off _ _ vs
  | true =>
    obtain ⟨h, hput⟩ := State.putRmw_loc (s := { s with hb := { s.hb with views := vs } }) .rlx m.scope c.lane (atNew m.op o.ty old c.b c.c) hr
    exact hput ▸ atomicLeft_spoil hwf h

/-! ### What the lane gets (09 R252) -/

theorem sameButLocal_ids {u v : Wg} (h : SameButLocal u v) : v.uid = u.uid ∧ v.cluster = u.cluster := by
  unfold SameButLocal at h
  rw [h]
  exact ⟨rfl, rfl⟩

/-- The workgroup of a number in lists that differ in local stores alone. -/
theorem sameButLocal_find (k : Nat) {l m : List Wg} (h : List.Forall₂ SameButLocal l m) :
    SameButLocal ((l.find? fun x => x.uid == k).getD default) ((m.find? fun x => x.uid == k).getD default) := by
  induction h with
  | nil => rfl
  | cons h _ ih =>
    rw [List.find?_cons, List.find?_cons, (sameButLocal_ids h).1]
    split
    · exact h
    · exact ih

/-- A launch does not depend on what is in local stores. -/
theorem launch_of_onlyWrites {calm : Prop} (h : OnlyWritesIf calm s t) (hws : List.Forall₂ SameButLocal s.wgs t.wgs) : t.launch = s.launch := by
  obtain ⟨ht, -⟩ := h
  have hcur : t.cur = s.cur := (congrArg State.cur ht).trans rfl
  have hnodes : t.nodes = s.nodes := (congrArg State.nodes ht).trans rfl
  have hclusters : t.clusters = s.clusters := (congrArg State.clusters ht).trans rfl
  have hwg : (t.wg s.cur.wg).cluster = (s.wg s.cur.wg).cluster := (sameButLocal_ids (sameButLocal_find s.cur.wg hws)).2
  unfold State.launch State.launchOf State.nodeOf State.node State.cluster
  rw [hcur, hnodes, hclusters, hwg]

/-- What a lane's thread gets of an atomic that found `old`. -/
def atomicGot (o : Op) (m : AtMods) (c : Cap) (old : Nat) (u : Thread) : Thread :=
  if u.lane == c.lane then
    let v := if m.nr then u else u.writeDst o (if m.b128 then 4 else o.words) old
    if m.op == .cas then v.setPred o.d2 (old == c.b) else v
  else u

theorem samePlace_atomicGot (o : Op) (m : AtMods) (c : Cap) (old : Nat) (u : Thread) : Laws.SamePlace u (atomicGot o m c old u) := by
  have hv : Laws.SamePlace u (if m.nr then u else u.writeDst o (if m.b128 then 4 else o.words) old) := by
    split
    · exact .refl u
    · exact Laws.samePlace_writeDst _ _ _ _
  unfold atomicGot
  split
  · dsimp only
    split
    · exact hv.trans (Laws.samePlace_setPred _ _ _)
    · exact hv
  · exact .refl u

/-- A relaxed atomic of one lane returns what it found to that lane. -/
theorem State.atomicReturn_one (o : Op) (old : Nat) (ho : m.order = .rlx) (hs : t.launch.shadow = false) :
    t.atomicReturn o m [c] [(c.lane, some old)] = t.updIssue (atomicGot o m c old) := by
  have hcopies : t.copies c.lane = [c.lane] := if_neg (by rw [hs]; exact Bool.false_ne_true)
  have hacq : t.acquiring m.order m.scope [c.lane] = t := by rw [ho]; rfl
  unfold State.atomicReturn
  rw [show t.acquiring m.order m.scope ([(c.lane, some old)].map fun x => x.1) = t from hacq]
  refine congrArg t.updIssue (funext fun u => ?_)
  unfold atomicGot
  by_cases hl : u.lane = c.lane
  · simp [hl, hcopies, Bool.beq_comm (a := c.b)]
  · simp [hl, hcopies]

/-- After what it gets, the lane's threads go on. -/
theorem threads_atomicGot (o : Op) (old : Nat) (hth : t.threads = s.threads) (hcur : t.cur = s.cur) :
    Threads s (fun u => if s.inIssue u && u.lane == c.lane then
          let v := if m.nr then u else u.writeDst o (if m.b128 then 4 else o.words) old
          if m.op == .cas then v.setPred o.d2 (old == c.b) else v
        else u) (nextPlace s) (t.updIssue (atomicGot o m c old)).advance.threads := by
  have hin : t.inIssue = s.inIssue := by unfold State.inIssue; rw [hcur]
  have hupd : (t.updIssue (atomicGot o m c old)).threads = updWhere s.inIssue (atomicGot o m c old) s.threads := by
    unfold State.updIssue
    rw [hin, ← hth]
    rfl
  refine (Laws.written_advance s _ _ hupd hcur (samePlace_atomicGot o m c old)).imp fun u u' ⟨hmoved, hplace⟩ => ⟨?_, hplace⟩
  unfold atomicGot at hmoved
  cases hi : s.inIssue u with
  | false => simpa [hi] using hmoved
  | true => simpa [hi] using hmoved

end

end Machine

/-- Settles O34: the event by `atomicLeft_atomicEvents`, what its lane gets by `State.atomicReturn_one`, and where the threads stand by `threads_atomicGot`. -/
theorem atomicOneLane : Obligations.AtomicOneLane := by
  intro s o m c w off ho hshadow hwf n hr old write x t
  obtain ⟨hgot, hwrites, htlb, hhot, hth, hws⟩ := atomicLeft_atomicEvents o ho hwf hr
  have hlaunch : x.1.launch.shadow = false := by rw [launch_of_onlyWrites hwrites (hws.imp fun _ _ h => h.1)]; exact hshadow
  have hcur : x.1.cur = s.cur := (congrArg State.cur hwrites.1).trans rfl
  have ht : t = (x.1.updIssue (atomicGot o m c old)).advance := by
    show (x.1.atomicReturn o m [c] x.2).advance = _
    rw [show x.2 = [(c.lane, some old)] from hgot, State.atomicReturn_one o old ho hlaunch]
  have hframe : t = { x.1 with threads := t.threads } := by rw [ht]; exact Laws.advance_frame _
  refine ⟨hgot, ?_, ?_, ?_, ht ▸ threads_atomicGot o old hth hcur, ?_⟩
  · rw [hframe]
    exact onlyWritesIf_update hwrites x.1.hb t.threads
  · exact (congrArg State.tlb hframe).trans htlb
  · exact (congrArg State.hot hframe).trans hhot
  · rw [congrArg State.wgs hframe]
    exact hws

end Sys2Proof
end
